-- ==== Sys2Proof/Word.lean ====
section
/-! DEFINITION. The word types of the Porade Z2 (spec R4, R91) and their plainest conversions.
Bit-field helpers that a rule of the spec could show wrong stand in Machine/Bits.lean. -/

namespace Sys2Proof

abbrev Byte := BitVec 8
/-- An instruction word and a v register (R91, R93). -/
abbrev Word := BitVec 32
abbrev DWord := BitVec 64
abbrev QWord := BitVec 128
/-- One 128-byte line (R251), byte i at bits [8i+7:8i] (R4). -/
abbrev Line := BitVec 1024

end Sys2Proof
end

