-- ==== Sys2Proof/Syntax.lean ====
section
/-! DEFINITION. Instr: one constructor per row of the opcode table. The first 222 are instruction words, with the
fields the table gives them; the others are the part's events (spec/95), with the objects each one happens to. -/

namespace Sys2Proof

/-- What a peer device answers to an access of this package (R243): the data it returned, or that its port
refused the access. For an access that goes to no peer the reply is not looked at. -/
inductive PeerReply where
  | data (d : QWord)
  | refused
  deriving DecidableEq, Repr

/-- A host access through a partition's CXL.mem window (R455). -/
inductive HostAccess where
  | read (bytes : Nat)
  | write (data : List Byte)
  deriving DecidableEq, Repr

/-- What a peer's request asks of this package (R243, R464). -/
inductive PeerOp where
  | load (bytes : Nat)
  | store (data : List Byte)
  /-- an atomic of R272 by its opcode, 0x92 to 0x9B, and its operand -/
  | atomic (op : Byte) (x : DWord)
  deriving DecidableEq, Repr

/-- A peer's request as it reaches the receiving port (R243): the domain, the peer's device number, the partition it
names, the declaration words of its slot and the offset. -/
structure PeerRequest where
  domain : Nat
  device : Nat
  part : Nat
  decl : List Word
  offset : Nat
  op : PeerOp
  deriving DecidableEq, Repr

/-- Where a check finds an error (R470). Places that carry data name it, so that the owner is known. -/
inductive EccError where
  /-- register file, scratchpad or operand buffer of a panel's launch -/
  | coreStore (panel : Nat) (correctable : Bool)
  /-- a clean L1 line: refetched -/
  | l1Clean (core line : Nat)
  /-- a dirty L1 line -/
  | l1Dirty (core line : Nat) (correctable : Bool)
  /-- L2, remote-data cache or last-level cache -/
  | cache (line : Nat) (correctable : Bool)
  /-- a network flit: retried -/
  | flit
  /-- the HBM4 row of a stack-local address, as a scan or an ordinary read meets it -/
  | dram (stack bank row : Nat) (correctable : Bool)
  deriving DecidableEq, Repr

/-- What power-on reset finds (R473): whether the firmware's signature is good, the fuses, the stacks that fail
training, and the rows that are not in the 128 ms class: stack, bank, row, class in ms. -/
structure BringUp where
  firmwareGood : Bool
  fuses : List Word
  failedStacks : List Nat
  rowClasses : List (Nat × Nat × Nat × Nat)
  deriving DecidableEq, Repr

/-- A signer of a partition's signer set (R68 step 6). -/
structure Signer where
  ident : List Byte
  key : List Byte
  nativeTrusted : Bool
  deriving DecidableEq, Repr

/-- A range of a stack: stack, first stack-local address, bytes. -/
structure StackRange where
  stack : Nat
  base : Nat
  bytes : Nat
  deriving DecidableEq, Repr

/-- The arguments of `CREATE` (R459, R460, R476). l2p pairs a logical core with a die and a physical core. bootAddr
and bootCount name the bootstrap list; writes are the bytes the host has put in its own memory before. -/
structure CreateArgs where
  part : Nat
  l2p : List (Nat × Nat × Nat)
  stackMask : BitVec 16
  keyBase : Nat
  keyCount : Nat
  rootStack : Nat
  rootLocal : Nat
  codeStore : List StackRange
  contextStore : List StackRange
  signers : List Signer
  deadline : Bool
  heldQuota : Nat
  objectQuota : Nat
  mapQuota : Nat
  superRecord : Nat
  bootAddr : Nat
  bootCount : Nat
  writes : List Host.Cell
  deriving DecidableEq, Repr

/-- One peer of a `DOMAIN` command (R459): device number, link mask, partition there. -/
structure DomainPeer where
  device : Nat
  links : BitVec 18
  part : Nat
  deriving DecidableEq, Repr

/-- The rows of the opcode table. -/
inductive Instr where
  /-- `ADD` (R197). -/
  | add (d : BitVec 8) (a : BitVec 8) (b : BitVec 8)
  /-- `ADDI` (R197). -/
  | addi (d : BitVec 8) (a : BitVec 8) (i : BitVec 8)
  /-- `SUB` (R197). -/
  | sub (d : BitVec 8) (a : BitVec 8) (b : BitVec 8)
  /-- `ADD64` (R198). -/
  | add64 (d : BitVec 8) (a : BitVec 8) (b : BitVec 8)
  /-- `SUB64` (R198). -/
  | sub64 (d : BitVec 8) (a : BitVec 8) (b : BitVec 8)
  /-- `MUL` (R199). -/
  | mul (d : BitVec 8) (a : BitVec 8) (b : BitVec 8)
  /-- `MULHS` (R199). -/
  | mulhs (d : BitVec 8) (a : BitVec 8) (b : BitVec 8)
  /-- `MULHN` (R199). -/
  | mulhn (d : BitVec 8) (a : BitVec 8) (b : BitVec 8)
  /-- `MAC` (R200). -/
  | mac (d : BitVec 8) (a : BitVec 8) (b : BitVec 8)
  /-- `MULW` (R199). -/
  | mulw (d : BitVec 8) (a : BitVec 8) (b : BitVec 8)
  /-- `MINS` (R201). -/
  | mins (d : BitVec 8) (a : BitVec 8) (b : BitVec 8)
  /-- `MAXS` (R201). -/
  | maxs (d : BitVec 8) (a : BitVec 8) (b : BitVec 8)
  /-- `MINN` (R201). -/
  | minn (d : BitVec 8) (a : BitVec 8) (b : BitVec 8)
  /-- `MAXN` (R201). -/
  | maxn (d : BitVec 8) (a : BitVec 8) (b : BitVec 8)
  /-- `ABSD` (R201). -/
  | absd (d : BitVec 8) (a : BitVec 8) (b : BitVec 8)
  /-- `SEL` (R202). -/
  | sel (d : BitVec 8) (a : BitVec 8) (b : BitVec 8)
  /-- `AND` (R203). -/
  | and (d : BitVec 8) (a : BitVec 8) (b : BitVec 8)
  /-- `OR` (R203). -/
  | or (d : BitVec 8) (a : BitVec 8) (b : BitVec 8)
  /-- `XOR` (R203). -/
  | xor (d : BitVec 8) (a : BitVec 8) (b : BitVec 8)
  /-- `ANDN` (R203). -/
  | andn (d : BitVec 8) (a : BitVec 8) (b : BitVec 8)
  /-- `ORN` (R203). -/
  | orn (d : BitVec 8) (a : BitVec 8) (b : BitVec 8)
  /-- `XNOR` (R203). -/
  | xnor (d : BitVec 8) (a : BitVec 8) (b : BitVec 8)
  /-- `ANDI` (R203). -/
  | andi (d : BitVec 8) (a : BitVec 8) (i : BitVec 8)
  /-- `ORI` (R203). -/
  | ori (d : BitVec 8) (a : BitVec 8) (i : BitVec 8)
  /-- `XORI` (R203). -/
  | xori (d : BitVec 8) (a : BitVec 8) (i : BitVec 8)
  /-- `SHL` (R204). -/
  | shl (d : BitVec 8) (a : BitVec 8) (b : BitVec 8)
  /-- `SHR` (R204). -/
  | shr (d : BitVec 8) (a : BitVec 8) (b : BitVec 8)
  /-- `SRA` (R204). -/
  | sra (d : BitVec 8) (a : BitVec 8) (b : BitVec 8)
  /-- `ROL` (R204). -/
  | rol (d : BitVec 8) (a : BitVec 8) (b : BitVec 8)
  /-- `SHLI` (R205). -/
  | shli (d : BitVec 8) (a : BitVec 8) (i : BitVec 8)
  /-- `SHRI` (R205). -/
  | shri (d : BitVec 8) (a : BitVec 8) (i : BitVec 8)
  /-- `SRAI` (R205). -/
  | srai (d : BitVec 8) (a : BitVec 8) (i : BitVec 8)
  /-- `POPC` (R206). -/
  | popc (d : BitVec 8) (a : BitVec 8)
  /-- `CLZ` (R206). -/
  | clz (d : BitVec 8) (a : BitVec 8)
  /-- `CTZ` (R206). -/
  | ctz (d : BitVec 8) (a : BitVec 8)
  /-- `BREV` (R206). -/
  | brev (d : BitVec 8) (a : BitVec 8)
  /-- `BSWAP` (R206). -/
  | bswap (d : BitVec 8) (a : BitVec 8)
  /-- `BFX` (R207). -/
  | bfx (d : BitVec 8) (a : BitVec 8) (b : BitVec 8)
  /-- `BFXS` (R207). -/
  | bfxs (d : BitVec 8) (a : BitVec 8) (b : BitVec 8)
  /-- `BFI` (R207). -/
  | bfi (d : BitVec 8) (a : BitVec 8) (b : BitVec 8)
  /-- `PRMT` (R208). -/
  | prmt (d : BitVec 8) (a : BitVec 8) (b : BitVec 8)
  /-- `MOVI` (R209). -/
  | movi (d : BitVec 8) (i : BitVec 16)
  /-- `MOVHI` (R209). -/
  | movhi (d : BitVec 8) (i : BitVec 16)
  /-- `MOV` (R209). -/
  | mov (d : BitVec 8) (a : BitVec 8)
  /-- `ICMPS` (R210). -/
  | icmps (c : BitVec 3) (m : BitVec 2) (p : BitVec 3) (a : BitVec 8) (b : BitVec 8)
  /-- `ICMPN` (R210). -/
  | icmpn (c : BitVec 3) (m : BitVec 2) (p : BitVec 3) (a : BitVec 8) (b : BitVec 8)
  /-- `ICMPI` (R210). -/
  | icmpi (c : BitVec 3) (m : BitVec 2) (p : BitVec 3) (a : BitVec 8) (i : BitVec 8)
  /-- `PLUT` (R211). -/
  | plut (c : BitVec 3) (d : BitVec 3) (l : BitVec 8) (b : BitVec 3) (a : BitVec 3)
  /-- `P2V` (R212). -/
  | p2v (d : BitVec 8)
  /-- `V2P` (R212). -/
  | v2p (a : BitVec 8) (m : BitVec 8)
  /-- `IDOT4S` (R213). -/
  | idot4s (d : BitVec 8) (a : BitVec 8) (b : BitVec 8)
  /-- `IDOT4N` (R213). -/
  | idot4n (d : BitVec 8) (a : BitVec 8) (b : BitVec 8)
  /-- `FADD_F32` (R216). -/
  | faddF32 (d : BitVec 8) (a : BitVec 8) (b : BitVec 8)
  /-- `FSUB_F32` (R216). -/
  | fsubF32 (d : BitVec 8) (a : BitVec 8) (b : BitVec 8)
  /-- `FMUL_F32` (R216). -/
  | fmulF32 (d : BitVec 8) (a : BitVec 8) (b : BitVec 8)
  /-- `FMAC_F32` (R216). -/
  | fmacF32 (d : BitVec 8) (a : BitVec 8) (b : BitVec 8)
  /-- `FMA_F32` (R216). -/
  | fmaF32 (d : BitVec 8) (a : BitVec 8) (b : BitVec 8)
  /-- `FMIN_F32` (R217). -/
  | fminF32 (d : BitVec 8) (a : BitVec 8) (b : BitVec 8)
  /-- `FMAX_F32` (R217). -/
  | fmaxF32 (d : BitVec 8) (a : BitVec 8) (b : BitVec 8)
  /-- `FCMP_F32` (R218). -/
  | fcmpF32 (c : BitVec 3) (m : BitVec 2) (p : BitVec 3) (a : BitVec 8) (b : BitVec 8)
  /-- `FADD_F64` (R216). -/
  | faddF64 (d : BitVec 8) (a : BitVec 8) (b : BitVec 8)
  /-- `FSUB_F64` (R216). -/
  | fsubF64 (d : BitVec 8) (a : BitVec 8) (b : BitVec 8)
  /-- `FMUL_F64` (R216). -/
  | fmulF64 (d : BitVec 8) (a : BitVec 8) (b : BitVec 8)
  /-- `FMAC_F64` (R216). -/
  | fmacF64 (d : BitVec 8) (a : BitVec 8) (b : BitVec 8)
  /-- `FMA_F64` (R216). -/
  | fmaF64 (d : BitVec 8) (a : BitVec 8) (b : BitVec 8)
  /-- `FMIN_F64` (R217). -/
  | fminF64 (d : BitVec 8) (a : BitVec 8) (b : BitVec 8)
  /-- `FMAX_F64` (R217). -/
  | fmaxF64 (d : BitVec 8) (a : BitVec 8) (b : BitVec 8)
  /-- `FCMP_F64` (R218). -/
  | fcmpF64 (c : BitVec 3) (m : BitVec 2) (p : BitVec 3) (a : BitVec 8) (b : BitVec 8)
  /-- `PADD_H16X2` (R219). -/
  | paddH16x2 (d : BitVec 8) (a : BitVec 8) (b : BitVec 8)
  /-- `PMUL_H16X2` (R219). -/
  | pmulH16x2 (d : BitVec 8) (a : BitVec 8) (b : BitVec 8)
  /-- `PMAC_H16X2` (R219). -/
  | pmacH16x2 (d : BitVec 8) (a : BitVec 8) (b : BitVec 8)
  /-- `PADD_BF16X2` (R219). -/
  | paddBf16x2 (d : BitVec 8) (a : BitVec 8) (b : BitVec 8)
  /-- `PMUL_BF16X2` (R219). -/
  | pmulBf16x2 (d : BitVec 8) (a : BitVec 8) (b : BitVec 8)
  /-- `PMAC_BF16X2` (R219). -/
  | pmacBf16x2 (d : BitVec 8) (a : BitVec 8) (b : BitVec 8)
  /-- `DOT2_H16` (R220). -/
  | dot2H16 (d : BitVec 8) (a : BitVec 8) (b : BitVec 8)
  /-- `DOT2_BF16` (R220). -/
  | dot2Bf16 (d : BitVec 8) (a : BitVec 8) (b : BitVec 8)
  /-- `DOT4_E4M3` (R220). -/
  | dot4E4m3 (d : BitVec 8) (a : BitVec 8) (b : BitVec 8)
  /-- `DOT8_E2M1` (R220). -/
  | dot8E2m1 (d : BitVec 8) (a : BitVec 8) (b : BitVec 8)
  /-- `FCLASS` (R221). -/
  | fclass (d : BitVec 8) (a : BitVec 8) (t : BitVec 8)
  /-- `FRCP` (R222). -/
  | frcp (d : BitVec 8) (a : BitVec 8)
  /-- `FRSQ` (R222). -/
  | frsq (d : BitVec 8) (a : BitVec 8)
  /-- `FSQRT` (R222). -/
  | fsqrt (d : BitVec 8) (a : BitVec 8)
  /-- `FEX2` (R222). -/
  | fex2 (d : BitVec 8) (a : BitVec 8)
  /-- `FLG2` (R222). -/
  | flg2 (d : BitVec 8) (a : BitVec 8)
  /-- `FSIN` (R222). -/
  | fsin (d : BitVec 8) (a : BitVec 8)
  /-- `FCOS` (R222). -/
  | fcos (d : BitVec 8) (a : BitVec 8)
  /-- `FRCPS_F64` (R222). -/
  | frcpsF64 (d : BitVec 8) (a : BitVec 8)
  /-- `CVT` (R224). -/
  | cvt (d : BitVec 8) (a : BitVec 8) (t : BitVec 4) (f : BitVec 4)
  /-- `CVTI` (R224). -/
  | cvti (d : BitVec 8) (a : BitVec 8) (t : BitVec 4) (f : BitVec 4)
  /-- `CVTF` (R224). -/
  | cvtf (d : BitVec 8) (a : BitVec 8) (t : BitVec 4) (f : BitVec 4)
  /-- `PACK` (R225). -/
  | pack (d : BitVec 8) (a : BitVec 8) (b : BitVec 8)
  /-- `UNPK` (R226). -/
  | unpk (d : BitVec 8) (a : BitVec 8)
  /-- `SCALE` (R227). -/
  | scale (d : BitVec 8) (a : BitVec 8) (b : BitVec 8)
  /-- `LOGC` (R229). -/
  | logc (d : BitVec 8) (a : BitVec 8) (b : BitVec 8)
  /-- `FRND` (R228). -/
  | frnd (d : BitVec 8) (a : BitVec 8)
  /-- `SHFL` (R232). -/
  | shfl (d : BitVec 8) (a : BitVec 8) (m : BitVec 8)
  /-- `SHFLX` (R232). -/
  | shflx (d : BitVec 8) (a : BitVec 8) (m : BitVec 8)
  /-- `BCST` (R232). -/
  | bcst (d : BitVec 8) (a : BitVec 8) (m : BitVec 8)
  /-- `VOTE` (R233). -/
  | vote (d : BitVec 8) (a : BitVec 8) (m : BitVec 8)
  /-- `BALLOT` (R233). -/
  | ballot (d : BitVec 8) (a : BitVec 8) (m : BitVec 8)
  /-- `RADD_S32` (R234). -/
  | raddS32 (d : BitVec 8) (a : BitVec 8) (m : BitVec 8)
  /-- `RADD_F32` (R190). -/
  | raddF32 (d : BitVec 8) (a : BitVec 8) (m : BitVec 8)
  /-- `RMIN_N32` (R234). -/
  | rminN32 (d : BitVec 8) (a : BitVec 8) (m : BitVec 8)
  /-- `RMAX_N32` (R234). -/
  | rmaxN32 (d : BitVec 8) (a : BitVec 8) (m : BitVec 8)
  /-- `RMIN_F32` (R191). -/
  | rminF32 (d : BitVec 8) (a : BitVec 8) (m : BitVec 8)
  /-- `RMAX_F32` (R191). -/
  | rmaxF32 (d : BitVec 8) (a : BitVec 8) (m : BitVec 8)
  /-- `RMINX_N32` (R235). -/
  | rminxN32 (d : BitVec 8) (a : BitVec 8) (m : BitVec 8)
  /-- `SCAN_S32` (R236). -/
  | scanS32 (d : BitVec 8) (a : BitVec 8) (m : BitVec 8)
  /-- `MATCH` (R237). -/
  | matchLanes (d : BitVec 8) (a : BitVec 8) (m : BitVec 8)
  /-- `LANEID` (R238). -/
  | laneid (d : BitVec 8) (m : BitVec 8)
  /-- `LD_B8` (R269). -/
  | ldB8 (d : BitVec 8) (h : BitVec 8) (o : BitVec 8)
  /-- `LD_S8` (R269). -/
  | ldS8 (d : BitVec 8) (h : BitVec 8) (o : BitVec 8)
  /-- `LD_B16` (R269). -/
  | ldB16 (d : BitVec 8) (h : BitVec 8) (o : BitVec 8)
  /-- `LD_S16` (R269). -/
  | ldS16 (d : BitVec 8) (h : BitVec 8) (o : BitVec 8)
  /-- `LD_B32` (R269). -/
  | ldB32 (d : BitVec 8) (h : BitVec 8) (o : BitVec 8)
  /-- `LD_B64` (R269). -/
  | ldB64 (d : BitVec 8) (h : BitVec 8) (o : BitVec 8)
  /-- `LD_B128` (R269). -/
  | ldB128 (d : BitVec 8) (h : BitVec 8) (o : BitVec 8)
  /-- `ST_B8` (R270). -/
  | stB8 (d : BitVec 8) (h : BitVec 8) (o : BitVec 8)
  /-- `ST_B16` (R270). -/
  | stB16 (d : BitVec 8) (h : BitVec 8) (o : BitVec 8)
  /-- `ST_B32` (R270). -/
  | stB32 (d : BitVec 8) (h : BitVec 8) (o : BitVec 8)
  /-- `ST_B64` (R270). -/
  | stB64 (d : BitVec 8) (h : BitVec 8) (o : BitVec 8)
  /-- `ST_B128` (R270). -/
  | stB128 (d : BitVec 8) (h : BitVec 8) (o : BitVec 8)
  /-- `LDS_B32` (R271). -/
  | ldsB32 (d : BitVec 8) (h : BitVec 8) (o : BitVec 8)
  /-- `LDS_B64` (R271). -/
  | ldsB64 (d : BitVec 8) (h : BitVec 8) (o : BitVec 8)
  /-- `LDS_B128` (R271). -/
  | ldsB128 (d : BitVec 8) (h : BitVec 8) (o : BitVec 8)
  /-- `STS_B32` (R271). -/
  | stsB32 (d : BitVec 8) (h : BitVec 8) (o : BitVec 8)
  /-- `STS_B64` (R271). -/
  | stsB64 (d : BitVec 8) (h : BitVec 8) (o : BitVec 8)
  /-- `STS_B128` (R271). -/
  | stsB128 (d : BitVec 8) (h : BitVec 8) (o : BitVec 8)
  /-- `ATOM_ADD` (R272). -/
  | atomAdd (d : BitVec 8) (h : BitVec 8) (o : BitVec 8)
  /-- `ATOM_MINS` (R272). -/
  | atomMins (d : BitVec 8) (h : BitVec 8) (o : BitVec 8)
  /-- `ATOM_MAXS` (R272). -/
  | atomMaxs (d : BitVec 8) (h : BitVec 8) (o : BitVec 8)
  /-- `ATOM_AND` (R272). -/
  | atomAnd (d : BitVec 8) (h : BitVec 8) (o : BitVec 8)
  /-- `ATOM_OR` (R272). -/
  | atomOr (d : BitVec 8) (h : BitVec 8) (o : BitVec 8)
  /-- `ATOM_XOR` (R272). -/
  | atomXor (d : BitVec 8) (h : BitVec 8) (o : BitVec 8)
  /-- `ATOM_XCHG` (R272). -/
  | atomXchg (d : BitVec 8) (h : BitVec 8) (o : BitVec 8)
  /-- `ATOM_CAS` (R272). -/
  | atomCas (d : BitVec 8) (h : BitVec 8) (o : BitVec 8)
  /-- `ATOM_FADD` (R272). -/
  | atomFadd (d : BitVec 8) (h : BitVec 8) (o : BitVec 8)
  /-- `ATOM_ADD64` (R272). -/
  | atomAdd64 (d : BitVec 8) (h : BitVec 8) (o : BitVec 8)
  /-- `HMK` (R273). -/
  | hmk (d : BitVec 8) (a : BitVec 8) (b : BitVec 8)
  /-- `HADD` (R274). -/
  | hadd (d : BitVec 8) (a : BitVec 8) (b : BitVec 8)
  /-- `HQRY` (R275). -/
  | hqry (d : BitVec 8) (a : BitVec 8) (s : BitVec 8)
  /-- `PREF` (R276). -/
  | pref (l : BitVec 8) (h : BitVec 8) (o : BitVec 8)
  /-- `BRA` (R144). -/
  | bra (p : BitVec 8) (o : BitVec 16)
  /-- `CALL` (R145). -/
  | call (p : BitVec 8) (o : BitVec 16)
  /-- `RET` (R146). -/
  | ret
  /-- `BRI` (R147). -/
  | bri (p : BitVec 8) (a : BitVec 8)
  /-- `EXIT` (R148). -/
  | exit
  /-- `YIELD` (R149). -/
  | yield (p : BitVec 8)
  /-- `LOOP` (R150). -/
  | loop (p : BitVec 8) (o : BitVec 16)
  /-- `WAITF` (R151). -/
  | waitf (f : BitVec 12)
  /-- `BRC` (R144). -/
  | brc (n : BitVec 3) (p : BitVec 8) (o : BitVec 16)
  /-- `BRN` (R144). -/
  | brn (n : BitVec 3) (p : BitVec 8) (o : BitVec 16)
  /-- `ENROL` (R152). -/
  | enrol (j : BitVec 4)
  /-- `PARK` (R153). -/
  | park (p : BitVec 8) (j : BitVec 4)
  /-- `STRIKE` (R154). -/
  | strike (j : BitVec 4)
  /-- `JQRY` (R155). -/
  | jqry (d : BitVec 8) (s : BitVec 1) (j : BitVec 4)
  /-- `NOP` (R156). -/
  | nop
  /-- `RESV` (R326). -/
  | resv (n : BitVec 6) (a : BitVec 8)
  /-- `FREE` (R327). -/
  | free (n : BitVec 6)
  /-- `TSET` (R326). -/
  | tset (n : BitVec 6) (a : BitVec 8)
  /-- `TLD` (R328). -/
  | tld (x : BitVec 6) (r : BitVec 6) (c : BitVec 6) (n : BitVec 3)
  /-- `TST` (R329). -/
  | tst (x : BitVec 6) (r : BitVec 6) (c : BitVec 6) (n : BitVec 3)
  /-- `TZERO` (R330). -/
  | tzero (x : BitVec 6)
  /-- `MMA` (R331). -/
  | mma (x : BitVec 6) (y : BitVec 6) (z : BitVec 6) (p : BitVec 3) (c : BitVec 1)
  /-- `MMAG` (R332). -/
  | mmag (x : BitVec 6) (y : BitVec 6) (z : BitVec 6) (p : BitVec 3) (c : BitVec 1)
  /-- `RAST` (R322). -/
  | rast (x : BitVec 6) (y : BitVec 6) (z : BitVec 6) (t : BitVec 1) (e : BitVec 1)
  /-- `MPOST` (R335). -/
  | mpost (s : BitVec 3) (a : BitVec 8)
  /-- `MPRE` (R335). -/
  | mpre (s : BitVec 3) (a : BitVec 8)
  /-- `TCVT` (R334). -/
  | tcvt (x : BitVec 6) (y : BitVec 6) (q : BitVec 3)
  /-- `MQRY` (R336). -/
  | mqry (d : BitVec 8) (x : BitVec 6) (s : BitVec 8)
  /-- `CPY` (R300). -/
  | cpy (c : BitVec 3) (a : BitVec 8) (h : BitVec 1)
  /-- `CPYM` (R285). -/
  | cpym (c : BitVec 3) (a : BitVec 8) (h : BitVec 1)
  /-- `CPYS` (R300). -/
  | cpys (c : BitVec 3) (a : BitVec 8) (h : BitVec 1)
  /-- `BINC` (R301). -/
  | binc (t : BitVec 8) (a : BitVec 8) (b : BitVec 8)
  /-- `BINP` (R302). -/
  | binp (t : BitVec 8) (m : BitVec 8)
  /-- `HREL` (R303). -/
  | hrel (m : BitVec 8)
  /-- `LAUNCH` (R298). -/
  | launch (a : BitVec 8)
  /-- `TKINIT` (R305). -/
  | tkinit (s : BitVec 1) (a : BitVec 8) (b : BitVec 8)
  /-- `TKEXP` (R305). -/
  | tkexp (s : BitVec 1) (a : BitVec 8) (b : BitVec 8)
  /-- `TKARR` (R305). -/
  | tkarr (s : BitVec 1) (a : BitVec 8) (o : BitVec 6)
  /-- `TKWAIT` (R306). -/
  | tkwait (d : BitVec 8) (a : BitVec 8) (s : BitVec 1) (p : BitVec 1)
  /-- `TKKILL` (R305). -/
  | tkkill (s : BitVec 1) (a : BitVec 8)
  /-- `BBINIT` (R307). -/
  | bbinit (a : BitVec 8) (b : BitVec 8)
  /-- `BBAWAIT` (R307). -/
  | bbawait (d : BitVec 8) (a : BitVec 8)
  /-- `BBREL` (R307). -/
  | bbrel (a : BitVec 8)
  /-- `SHCFG` (R308). -/
  | shcfg (e : BitVec 1) (n : BitVec 3) (p : BitVec 2) (c : BitVec 2)
  /-- `AQP` (R417). -/
  | aqp (a : BitVec 8)
  /-- `KVAP` (R418). -/
  | kvap (d : BitVec 8) (a : BitVec 8) (b : BitVec 8)
  /-- `AQST` (R419). -/
  | aqst (d : BitVec 8) (a : BitVec 8) (s : BitVec 4)
  /-- `TRQ` (R420). -/
  | trq (a : BitVec 8)
  /-- `PSEND` (R391). -/
  | psend (h : BitVec 8) (a : BitVec 8) (b : BitVec 8)
  /-- `TRAVEL` (R390). -/
  | travel (p : BitVec 8) (a : BitVec 8)
  /-- `PQRY` (R392). -/
  | pqry (d : BitVec 8) (s : BitVec 8)
  /-- `FENCE` (R363). -/
  | fence (r : BitVec 2) (o : BitVec 6)
  /-- `BIND` (R364). -/
  | bind (d : BitVec 8) (a : BitVec 8) (b : BitVec 8)
  /-- `UNBIND` (R365). -/
  | unbind (a : BitVec 8)
  /-- `ACQ` (R366). -/
  | acq (d : BitVec 8) (a : BitVec 8) (b : BitVec 8)
  /-- `REL` (R367). -/
  | rel (a : BitVec 8) (o : BitVec 6)
  /-- `ACQR` (R368). -/
  | acqr (d : BitVec 8) (h : BitVec 8) (o : BitVec 8)
  /-- `RELW` (R369). -/
  | relw (d : BitVec 8) (h : BitVec 8) (o : BitVec 8)
  /-- `TRAP` (R447). -/
  | trap (n : BitVec 16)
  /-- `SVC` (R447). -/
  | svc (n : BitVec 16)
  /-- `RFT` (R448). -/
  | rft
  /-- `RFT_RESUME` (R448). -/
  | rftResume (a : BitVec 8)
  /-- `RFT_KILL` (R448). -/
  | rftKill (a : BitVec 8)
  /-- `BRK` (R449). -/
  | brk (i : BitVec 8)
  /-- `BRK_SET` (R449). -/
  | brkSet (k : BitVec 2) (a : BitVec 8)
  /-- `BRK_CLR` (R449). -/
  | brkClr (k : BitVec 2)
  /-- `CSRR` (R450). -/
  | csrr (d : BitVec 8) (s : BitVec 16)
  /-- `CSRR_CYC` (R111). -/
  | csrrCyc (d : BitVec 8)
  /-- `CSRW` (R450). -/
  | csrw (d : BitVec 8) (s : BitVec 16)
  /-- `CSRW_ILDOM` (R253). -/
  | csrwIldom (d : BitVec 8) (n : BitVec 4)
  /-- `CSRW_OFLAG` (R112). -/
  | csrwOflag (d : BitVec 8)
  /-- `INVAL_TRANSLATION` (R451). -/
  | invalTranslation (a : BitVec 8)
  /-- `INVAL_WRITEBACK` (R451). -/
  | invalWriteback (a : BitVec 8)
  /-- `INVAL_KEY` (R451). -/
  | invalKey (a : BitVec 8)
  /-- `WAIT` (R452). -/
  | wait (d : BitVec 8) (a : BitVec 8) (b : BitVec 8)
  /-- `HIMM` (R106). -/
  | himm (i : BitVec 24)
  /-- `REP` (R107). -/
  | rep (c : BitVec 6) (d : BitVec 2) (a : BitVec 2) (b : BitVec 2)
  /-- `HMOD` (R108). -/
  | hmod (e : BitVec 1) (n : BitVec 3) (s : BitVec 1) (t : BitVec 1) (r : BitVec 3) (f : BitVec 1) (h : BitVec 1) (b : BitVec 1) (o : BitVec 4)
  /-- `HOPD` (R110). -/
  | hopd (c : BitVec 8) (m : BitVec 16)
  /-- `CLAUSE_HEADER` (R99). -/
  | clauseHeader (w : BitVec 12) (a : BitVec 4) (b : BitVec 4) (l : BitVec 4) (y : BitVec 1)
  /-- `RUN_AHEAD_END` (R432). -/
  | runAheadEnd (panel : Nat)
  /-- `INTERLEAVE_SWITCH_END` (R253). -/
  | interleaveSwitchEnd (panel tid : Nat)
  /-- `HOST_QUEUE_DOORBELL` (R457). -/
  | hostQueueDoorbell (queue : Nat) (tail : Word) (writes : List Host.Cell)
  /-- `LAUNCH_ARRIVAL` (R39). -/
  | launchArrival
  /-- `SIGNATURE_CHECK` (R68). -/
  | signatureCheck (launch : Nat)
  /-- `EXTENT_WALK` (R41). -/
  | extentWalk (launch : Nat)
  /-- `GORLUX_TRANSLATION` (R76). -/
  | gorluxTranslation (object : Nat) (text : List Word) (map : List Nat)
  /-- `YOKE_PLACEMENT` (R59). -/
  | yokePlacement (part : Nat)
  /-- `PANEL_START` (R42). -/
  | panelStart (panel : Nat)
  /-- `PANEL_SWITCH_OUT` (R436). -/
  | panelSwitchOut (panel : Nat)
  /-- `PANEL_RESUME` (R436). -/
  | panelResume (panel : Nat)
  /-- `MEMORY_OP_COMPLETE` (R267). -/
  | memoryOpComplete (panel tid op : Nat) (reply : PeerReply)
  /-- `LATE_REPORT` (R475). -/
  | lateReport (panel tid : Nat)
  /-- `PAGE_WALK_COMPLETE` (R249). -/
  | pageWalkComplete (walk : Nat)
  /-- `BINNING_APPEND` (R340). -/
  | binningAppend (panel tid op : Nat)
  /-- `DEFERRED_APPEND_REPLAY` (R342). -/
  | deferredAppendReplay (launch : Nat)
  /-- `COPY_COMMAND_START` (R277). -/
  | copyCommandStart (cmd : Nat)
  /-- `BOBBIN_SLOT_CLAIM` (R295). -/
  | bobbinSlotClaim (cmd : Nat)
  /-- `COPY_CHUNK_DELIVERY` (R280). -/
  | copyChunkDelivery (cmd : Nat)
  /-- `SCOUT_FAULT` (R286). -/
  | scoutFault (cmd : Nat)
  /-- `COPY_COMMAND_COMPLETE` (R292). -/
  | copyCommandComplete (cmd : Nat)
  /-- `TKWAIT_COMPLETE` (R306). -/
  | tkwaitComplete (panel tid op : Nat)
  /-- `BBAWAIT_COMPLETE` (R307). -/
  | bbawaitComplete (panel tid op : Nat)
  /-- `ACQ_SATISFIED` (R366). -/
  | acqSatisfied (panel tid : Nat)
  /-- `WAIT_DONE` (R452). -/
  | waitDone (panel tid : Nat)
  /-- `MATRIX_GRANT` (R319). -/
  | matrixGrant (req : Nat)
  /-- `MATRIX_REQUEST_COMPLETE` (R318). -/
  | matrixRequestComplete (req : Nat)
  /-- `FREE_RECORD_CLEAR` (R327). -/
  | freeRecordClear (panel tid : Nat)
  /-- `TRAVEL_DEPARTURE` (R372). -/
  | travelDeparture (panel tid : Nat)
  /-- `PARCEL_ARRIVAL` (R380). -/
  | parcelArrival (parcel : Nat)
  /-- `SPOOL_PARCEL_TO_THREAD` (R371). -/
  | spoolParcelToThread (core : Nat)
  /-- `OVERFLOW_READBACK` (R380). -/
  | overflowReadback (core : Nat)
  /-- `OCCUPANCY_REPORT` (R377). -/
  | occupancyReport (core : Nat)
  /-- `PARCEL_SEND_ON_PIN` (R378). -/
  | parcelSendOnPin (launch : Nat)
  /-- `MESSAGE_ARRIVAL` (R387). -/
  | messageArrival (parcel : Nat)
  /-- `HANDLER_PANEL_START` (R388). -/
  | handlerPanelStart (core : Nat)
  /-- `QUERY_POST` (R415). -/
  | queryPost (query stack : Nat)
  /-- `STACK_RESULT_WRITE` (R402). -/
  | stackResultWrite (query stack : Nat)
  /-- `SWEEP_RESULT_WRITE` (R414). -/
  | sweepResultWrite (query : Nat)
  /-- `ROW_REFRESH` (R407). -/
  | rowRefresh (stack bank row : Nat)
  /-- `REFRESH_SLACK_EXPIRY` (R408). -/
  | refreshSlackExpiry (stack bank row : Nat)
  /-- `SCRUB_ROW` (R409). -/
  | scrubRow (stack bank row : Nat)
  /-- `STACK_THROTTLE` (R410). -/
  | stackThrottle (stack : Nat) (lower : Bool)
  /-- `FAULT_RECORD_POST` (R429). -/
  | faultRecordPost (part : Nat)
  /-- `CORE_RESET` (R438). -/
  | coreReset (core : Nat)
  /-- `PANEL_RETIRE` (R466). -/
  | panelRetire (panel : Nat)
  /-- `LAUNCH_RETIRE` (R467). -/
  | launchRetire (launch : Nat)
  /-- `HOST_MEM_ACCESS` (R455). -/
  | hostMemAccess (part va : Nat) (access : HostAccess)
  /-- `PEER_REQUEST` (R243). -/
  | peerRequest (request : PeerRequest)
  /-- `FLIT_CRC_RETRY` (R464). -/
  | flitCrcRetry (link : Nat)
  /-- `BRIDGE_RETRAIN_TIMEOUT` (R345). -/
  | bridgeRetrainTimeout
  /-- `ZIDOR_LINK_DOWN_TIMEOUT` (R464). -/
  | zidorLinkDownTimeout (link : Nat)
  /-- `ECC_ERROR` (R470). -/
  | eccError (error : EccError)
  /-- `THERMAL_THROTTLE` (R472). -/
  | thermalThrottle
  /-- `THERMAL_SHUTDOWN` (R472). -/
  | thermalShutdown
  /-- `POWER_ON_RESET` (R473). -/
  | powerOnReset (bringUp : BringUp)
  /-- `CREATE` (R460). -/
  | create (fn : Nat) (args : CreateArgs)
  /-- `DESTROY` (R461). -/
  | destroy (fn part : Nat)
  /-- `SUPER` (R430). -/
  | super (fn part record : Nat)
  /-- `QSET` (R457). -/
  | qset (fn queue part base j : Nat)
  /-- `CANCEL` (R462). -/
  | cancel (fn part id : Nat)
  /-- `EVICT` (R70). -/
  | evict (fn part code : Nat)
  /-- `DOMAIN` (R13). -/
  | domain (fn domain : Nat) (peers : List DomainPeer)
  /-- `VLOG` (R69). -/
  | vlog (fn part index : Nat)
  /-- `ATTEST` (R463). -/
  | attest (fn part : Nat) (nonce : List Word)
  /-- `RESYNC` (R465). -/
  | resync (fn buffer : Nat)
  /-- `UNASSIGNED_OPCODE` (R114). -/
  | unassignedOpcode
  /-- `RELEASE_COMPLETE` (R353). -/
  | releaseComplete (panel tid : Nat)
  /-- `INVAL_COMPLETE` (R451). -/
  | invalComplete (panel tid : Nat)
  /-- `BRIDGE_RETRAIN_START` (R344). -/
  | bridgeRetrainStart
  /-- `BRIDGE_RETRAIN_END` (R345). -/
  | bridgeRetrainEnd
  /-- `ZIDOR_LINK_DOWN` (R464). -/
  | zidorLinkDown (link : Nat)
  /-- `ZIDOR_LINK_TRAINED` (R464). -/
  | zidorLinkTrained (link peer : Nat)
  /-- `THERMAL_THROTTLE_END` (R472). -/
  | thermalThrottleEnd
  deriving DecidableEq, Repr

end Sys2Proof
end

