-- ==== Sys2Proof/WellFormed.lean ====
section
/-! DEFINITION. WellFormed: which terms of `Instr` are instructions. A `CSRR` of `%cyc` and a `CSRW` of `%oflag` or of an
interleave domain have constructors of their own (R111), so the general ones do not name those registers; an event
names objects that can exist. -/

namespace Sys2Proof

/-- The first 222 rows: instruction words. The others are events. -/
def isWord : Instr → Bool

  | .add _ _ _ => true
  | .addi _ _ _ => true
  | .sub _ _ _ => true
  | .add64 _ _ _ => true
  | .sub64 _ _ _ => true
  | .mul _ _ _ => true
  | .mulhs _ _ _ => true
  | .mulhn _ _ _ => true
  | .mac _ _ _ => true
  | .mulw _ _ _ => true
  | .mins _ _ _ => true
  | .maxs _ _ _ => true
  | .minn _ _ _ => true
  | .maxn _ _ _ => true
  | .absd _ _ _ => true
  | .sel _ _ _ => true
  | .and _ _ _ => true
  | .or _ _ _ => true
  | .xor _ _ _ => true
  | .andn _ _ _ => true
  | .orn _ _ _ => true
  | .xnor _ _ _ => true
  | .andi _ _ _ => true
  | .ori _ _ _ => true
  | .xori _ _ _ => true
  | .shl _ _ _ => true
  | .shr _ _ _ => true
  | .sra _ _ _ => true
  | .rol _ _ _ => true
  | .shli _ _ _ => true
  | .shri _ _ _ => true
  | .srai _ _ _ => true
  | .popc _ _ => true
  | .clz _ _ => true
  | .ctz _ _ => true
  | .brev _ _ => true
  | .bswap _ _ => true
  | .bfx _ _ _ => true
  | .bfxs _ _ _ => true
  | .bfi _ _ _ => true
  | .prmt _ _ _ => true
  | .movi _ _ => true
  | .movhi _ _ => true
  | .mov _ _ => true
  | .icmps _ _ _ _ _ => true
  | .icmpn _ _ _ _ _ => true
  | .icmpi _ _ _ _ _ => true
  | .plut _ _ _ _ _ => true
  | .p2v _ => true
  | .v2p _ _ => true
  | .idot4s _ _ _ => true
  | .idot4n _ _ _ => true
  | .faddF32 _ _ _ => true
  | .fsubF32 _ _ _ => true
  | .fmulF32 _ _ _ => true
  | .fmacF32 _ _ _ => true
  | .fmaF32 _ _ _ => true
  | .fminF32 _ _ _ => true
  | .fmaxF32 _ _ _ => true
  | .fcmpF32 _ _ _ _ _ => true
  | .faddF64 _ _ _ => true
  | .fsubF64 _ _ _ => true
  | .fmulF64 _ _ _ => true
  | .fmacF64 _ _ _ => true
  | .fmaF64 _ _ _ => true
  | .fminF64 _ _ _ => true
  | .fmaxF64 _ _ _ => true
  | .fcmpF64 _ _ _ _ _ => true
  | .paddH16x2 _ _ _ => true
  | .pmulH16x2 _ _ _ => true
  | .pmacH16x2 _ _ _ => true
  | .paddBf16x2 _ _ _ => true
  | .pmulBf16x2 _ _ _ => true
  | .pmacBf16x2 _ _ _ => true
  | .dot2H16 _ _ _ => true
  | .dot2Bf16 _ _ _ => true
  | .dot4E4m3 _ _ _ => true
  | .dot8E2m1 _ _ _ => true
  | .fclass _ _ _ => true
  | .frcp _ _ => true
  | .frsq _ _ => true
  | .fsqrt _ _ => true
  | .fex2 _ _ => true
  | .flg2 _ _ => true
  | .fsin _ _ => true
  | .fcos _ _ => true
  | .frcpsF64 _ _ => true
  | .cvt _ _ _ _ => true
  | .cvti _ _ _ _ => true
  | .cvtf _ _ _ _ => true
  | .pack _ _ _ => true
  | .unpk _ _ => true
  | .scale _ _ _ => true
  | .logc _ _ _ => true
  | .frnd _ _ => true
  | .shfl _ _ _ => true
  | .shflx _ _ _ => true
  | .bcst _ _ _ => true
  | .vote _ _ _ => true
  | .ballot _ _ _ => true
  | .raddS32 _ _ _ => true
  | .raddF32 _ _ _ => true
  | .rminN32 _ _ _ => true
  | .rmaxN32 _ _ _ => true
  | .rminF32 _ _ _ => true
  | .rmaxF32 _ _ _ => true
  | .rminxN32 _ _ _ => true
  | .scanS32 _ _ _ => true
  | .matchLanes _ _ _ => true
  | .laneid _ _ => true
  | .ldB8 _ _ _ => true
  | .ldS8 _ _ _ => true
  | .ldB16 _ _ _ => true
  | .ldS16 _ _ _ => true
  | .ldB32 _ _ _ => true
  | .ldB64 _ _ _ => true
  | .ldB128 _ _ _ => true
  | .stB8 _ _ _ => true
  | .stB16 _ _ _ => true
  | .stB32 _ _ _ => true
  | .stB64 _ _ _ => true
  | .stB128 _ _ _ => true
  | .ldsB32 _ _ _ => true
  | .ldsB64 _ _ _ => true
  | .ldsB128 _ _ _ => true
  | .stsB32 _ _ _ => true
  | .stsB64 _ _ _ => true
  | .stsB128 _ _ _ => true
  | .atomAdd _ _ _ => true
  | .atomMins _ _ _ => true
  | .atomMaxs _ _ _ => true
  | .atomAnd _ _ _ => true
  | .atomOr _ _ _ => true
  | .atomXor _ _ _ => true
  | .atomXchg _ _ _ => true
  | .atomCas _ _ _ => true
  | .atomFadd _ _ _ => true
  | .atomAdd64 _ _ _ => true
  | .hmk _ _ _ => true
  | .hadd _ _ _ => true
  | .hqry _ _ _ => true
  | .pref _ _ _ => true
  | .bra _ _ => true
  | .call _ _ => true
  | .ret => true
  | .bri _ _ => true
  | .exit => true
  | .yield _ => true
  | .loop _ _ => true
  | .waitf _ => true
  | .brc _ _ _ => true
  | .brn _ _ _ => true
  | .enrol _ => true
  | .park _ _ => true
  | .strike _ => true
  | .jqry _ _ _ => true
  | .nop => true
  | .resv _ _ => true
  | .free _ => true
  | .tset _ _ => true
  | .tld _ _ _ _ => true
  | .tst _ _ _ _ => true
  | .tzero _ => true
  | .mma _ _ _ _ _ => true
  | .mmag _ _ _ _ _ => true
  | .rast _ _ _ _ _ => true
  | .mpost _ _ => true
  | .mpre _ _ => true
  | .tcvt _ _ _ => true
  | .mqry _ _ _ => true
  | .cpy _ _ _ => true
  | .cpym _ _ _ => true
  | .cpys _ _ _ => true
  | .binc _ _ _ => true
  | .binp _ _ => true
  | .hrel _ => true
  | .launch _ => true
  | .tkinit _ _ _ => true
  | .tkexp _ _ _ => true
  | .tkarr _ _ _ => true
  | .tkwait _ _ _ _ => true
  | .tkkill _ _ => true
  | .bbinit _ _ => true
  | .bbawait _ _ => true
  | .bbrel _ => true
  | .shcfg _ _ _ _ => true
  | .aqp _ => true
  | .kvap _ _ _ => true
  | .aqst _ _ _ => true
  | .trq _ => true
  | .psend _ _ _ => true
  | .travel _ _ => true
  | .pqry _ _ => true
  | .fence _ _ => true
  | .bind _ _ _ => true
  | .unbind _ => true
  | .acq _ _ _ => true
  | .rel _ _ => true
  | .acqr _ _ _ => true
  | .relw _ _ _ => true
  | .trap _ => true
  | .svc _ => true
  | .rft => true
  | .rftResume _ => true
  | .rftKill _ => true
  | .brk _ => true
  | .brkSet _ _ => true
  | .brkClr _ => true
  | .csrr _ _ => true
  | .csrrCyc _ => true
  | .csrw _ _ => true
  | .csrwIldom _ _ => true
  | .csrwOflag _ => true
  | .invalTranslation _ => true
  | .invalWriteback _ => true
  | .invalKey _ => true
  | .wait _ _ _ => true
  | .himm _ => true
  | .rep _ _ _ _ => true
  | .hmod _ _ _ _ _ _ _ _ _ => true
  | .hopd _ _ => true
  | .clauseHeader _ _ _ _ _ => true
  | .runAheadEnd _ => false
  | .interleaveSwitchEnd _ _ => false
  | .hostQueueDoorbell _ _ _ => false
  | .launchArrival => false
  | .signatureCheck _ => false
  | .extentWalk _ => false
  | .gorluxTranslation _ _ _ => false
  | .yokePlacement _ => false
  | .panelStart _ => false
  | .panelSwitchOut _ => false
  | .panelResume _ => false
  | .memoryOpComplete _ _ _ _ => false
  | .lateReport _ _ => false
  | .pageWalkComplete _ => false
  | .binningAppend _ _ _ => false
  | .deferredAppendReplay _ => false
  | .copyCommandStart _ => false
  | .bobbinSlotClaim _ => false
  | .copyChunkDelivery _ => false
  | .scoutFault _ => false
  | .copyCommandComplete _ => false
  | .tkwaitComplete _ _ _ => false
  | .bbawaitComplete _ _ _ => false
  | .acqSatisfied _ _ => false
  | .waitDone _ _ => false
  | .matrixGrant _ => false
  | .matrixRequestComplete _ => false
  | .freeRecordClear _ _ => false
  | .travelDeparture _ _ => false
  | .parcelArrival _ => false
  | .spoolParcelToThread _ => false
  | .overflowReadback _ => false
  | .occupancyReport _ => false
  | .parcelSendOnPin _ => false
  | .messageArrival _ => false
  | .handlerPanelStart _ => false
  | .queryPost _ _ => false
  | .stackResultWrite _ _ => false
  | .sweepResultWrite _ => false
  | .rowRefresh _ _ _ => false
  | .refreshSlackExpiry _ _ _ => false
  | .scrubRow _ _ _ => false
  | .stackThrottle _ _ => false
  | .faultRecordPost _ => false
  | .coreReset _ => false
  | .panelRetire _ => false
  | .launchRetire _ => false
  | .hostMemAccess _ _ _ => false
  | .peerRequest _ => false
  | .flitCrcRetry _ => false
  | .bridgeRetrainTimeout => false
  | .zidorLinkDownTimeout _ => false
  | .eccError _ => false
  | .thermalThrottle => false
  | .thermalShutdown => false
  | .powerOnReset _ => false
  | .create _ _ => false
  | .destroy _ _ => false
  | .super _ _ _ => false
  | .qset _ _ _ _ _ => false
  | .cancel _ _ _ => false
  | .evict _ _ _ => false
  | .domain _ _ _ => false
  | .vlog _ _ _ => false
  | .attest _ _ _ => false
  | .resync _ _ => false
  | .unassignedOpcode => false
  | .releaseComplete _ _ => false
  | .invalComplete _ _ => false
  | .bridgeRetrainStart => false
  | .bridgeRetrainEnd => false
  | .zidorLinkDown _ => false
  | .zidorLinkTrained _ _ => false
  | .thermalThrottleEnd => false
/-- Operands that name a thing that exists: a core of the package, a stack, a bank row, a link, a queue. -/
def wellFormed : Instr → Bool
  | .csrr _ s => s != 0x008
  | .csrw _ s => s != 0x103 && s.toNat / 16 != 0xC1
  | .spoolParcelToThread core => core < 288
  | .overflowReadback core => core < 288
  | .occupancyReport core => core < 288
  | .handlerPanelStart core => core < 288
  | .coreReset core => core < 288
  | .queryPost _ stack => stack < 16
  | .stackResultWrite _ stack => stack < 16
  | .rowRefresh stack bank row => stack < 16 && bank < 1024 && row < 49152
  | .refreshSlackExpiry stack bank row => stack < 16 && bank < 1024 && row < 49152
  | .scrubRow stack bank row => stack < 16 && bank < 1024 && row < 49152
  | .stackThrottle stack _ => stack < 16
  | .flitCrcRetry link => link < 18
  | .zidorLinkDownTimeout link => link < 18
  | .zidorLinkDown link => link < 18
  | .zidorLinkTrained link peer => link < 18 && peer < 256
  | .hostQueueDoorbell queue _ _ => queue < 4096
  | .yokePlacement part => part < 8
  | .faultRecordPost part => part < 8
  | .domain fn domain _ => fn < 9 && 1 ≤ domain && domain < 256
  | .create fn _ => fn < 9
  | .destroy fn _ => fn < 9
  | .super fn _ _ => fn < 9
  | .qset fn _ _ _ _ => fn < 9
  | .cancel fn _ _ => fn < 9
  | .evict fn _ _ => fn < 9
  | .vlog fn _ _ => fn < 9
  | .attest fn _ nonce => fn < 9 && nonce.length == 8
  | .resync fn _ => fn < 9
  | _ => true

end Sys2Proof
end

