-- ==== Sys2Proof/Decode.lean ====
section
/-! DEFINITION. Decode: an instruction word to an instruction (R91 to R114), rejecting by name what no row of the
opcode map gives; and the encoder, from the same map. Register fields, tile fields and hints are checked when the
instruction runs, in the order of R115. -/

namespace Sys2Proof

/-- Why a word is no instruction. -/
inductive DecodeError where
  /-- an unassigned opcode (R114) -/
  | unassigned (op : BitVec 8)
  /-- a nonzero reserved field, or a mode that does not exist (R92) -/
  | reserved (mnemonic : String)
  deriving DecidableEq, Repr

/-- Bits [lo + w - 1 : lo] of a word. -/
def bits (n lo w : Nat) : Nat := n / 2 ^ lo % 2 ^ w

/-- The same bits as a field. -/
def fld (n lo w : Nat) : BitVec w := BitVec.ofNat w (n / 2 ^ lo)

/-- Opcodes 0x00 to 0x0F (R113). -/
def decode0 (n : Nat) : Except DecodeError Instr :=
  match bits n 24 4 with
  | 0x0 => .ok (.add (fld n 16 8) (fld n 8 8) (fld n 0 8))
  | 0x1 => .ok (.addi (fld n 16 8) (fld n 8 8) (fld n 0 8))
  | 0x2 => .ok (.sub (fld n 16 8) (fld n 8 8) (fld n 0 8))
  | 0x3 => .ok (.add64 (fld n 16 8) (fld n 8 8) (fld n 0 8))
  | 0x4 => .ok (.sub64 (fld n 16 8) (fld n 8 8) (fld n 0 8))
  | 0x5 => .ok (.mul (fld n 16 8) (fld n 8 8) (fld n 0 8))
  | 0x6 => .ok (.mulhs (fld n 16 8) (fld n 8 8) (fld n 0 8))
  | 0x7 => .ok (.mulhn (fld n 16 8) (fld n 8 8) (fld n 0 8))
  | 0x8 => .ok (.mac (fld n 16 8) (fld n 8 8) (fld n 0 8))
  | 0x9 => .ok (.mulw (fld n 16 8) (fld n 8 8) (fld n 0 8))
  | 0xA => .ok (.mins (fld n 16 8) (fld n 8 8) (fld n 0 8))
  | 0xB => .ok (.maxs (fld n 16 8) (fld n 8 8) (fld n 0 8))
  | 0xC => .ok (.minn (fld n 16 8) (fld n 8 8) (fld n 0 8))
  | 0xD => .ok (.maxn (fld n 16 8) (fld n 8 8) (fld n 0 8))
  | 0xE => .ok (.absd (fld n 16 8) (fld n 8 8) (fld n 0 8))
  | _ => .ok (.sel (fld n 16 8) (fld n 8 8) (fld n 0 8))

/-- Opcodes 0x10 to 0x1F (R113). -/
def decode1 (n : Nat) : Except DecodeError Instr :=
  match bits n 24 4 with
  | 0x0 => .ok (.and (fld n 16 8) (fld n 8 8) (fld n 0 8))
  | 0x1 => .ok (.or (fld n 16 8) (fld n 8 8) (fld n 0 8))
  | 0x2 => .ok (.xor (fld n 16 8) (fld n 8 8) (fld n 0 8))
  | 0x3 => .ok (.andn (fld n 16 8) (fld n 8 8) (fld n 0 8))
  | 0x4 => .ok (.orn (fld n 16 8) (fld n 8 8) (fld n 0 8))
  | 0x5 => .ok (.xnor (fld n 16 8) (fld n 8 8) (fld n 0 8))
  | 0x6 => .ok (.andi (fld n 16 8) (fld n 8 8) (fld n 0 8))
  | 0x7 => .ok (.ori (fld n 16 8) (fld n 8 8) (fld n 0 8))
  | 0x8 => .ok (.xori (fld n 16 8) (fld n 8 8) (fld n 0 8))
  | 0x9 => .ok (.shl (fld n 16 8) (fld n 8 8) (fld n 0 8))
  | 0xA => .ok (.shr (fld n 16 8) (fld n 8 8) (fld n 0 8))
  | 0xB => .ok (.sra (fld n 16 8) (fld n 8 8) (fld n 0 8))
  | 0xC => .ok (.rol (fld n 16 8) (fld n 8 8) (fld n 0 8))
  | 0xD => .ok (.shli (fld n 16 8) (fld n 8 8) (fld n 0 8))
  | 0xE => .ok (.shri (fld n 16 8) (fld n 8 8) (fld n 0 8))
  | _ => .ok (.srai (fld n 16 8) (fld n 8 8) (fld n 0 8))

/-- Opcodes 0x20 to 0x2F (R113). -/
def decode2 (n : Nat) : Except DecodeError Instr :=
  match bits n 24 4 with
  | 0x0 => if bits n 0 8 = 0 then .ok (.popc (fld n 16 8) (fld n 8 8)) else .error (.reserved "POPC")
  | 0x1 => if bits n 0 8 = 0 then .ok (.clz (fld n 16 8) (fld n 8 8)) else .error (.reserved "CLZ")
  | 0x2 => if bits n 0 8 = 0 then .ok (.ctz (fld n 16 8) (fld n 8 8)) else .error (.reserved "CTZ")
  | 0x3 => if bits n 0 8 = 0 then .ok (.brev (fld n 16 8) (fld n 8 8)) else .error (.reserved "BREV")
  | 0x4 => if bits n 0 8 = 0 then .ok (.bswap (fld n 16 8) (fld n 8 8)) else .error (.reserved "BSWAP")
  | 0x5 => .ok (.bfx (fld n 16 8) (fld n 8 8) (fld n 0 8))
  | 0x6 => .ok (.bfxs (fld n 16 8) (fld n 8 8) (fld n 0 8))
  | 0x7 => .ok (.bfi (fld n 16 8) (fld n 8 8) (fld n 0 8))
  | 0x8 => .ok (.prmt (fld n 16 8) (fld n 8 8) (fld n 0 8))
  | 0x9 => .ok (.movi (fld n 16 8) (fld n 0 16))
  | 0xA => .ok (.movhi (fld n 16 8) (fld n 0 16))
  | 0xB => if bits n 0 8 = 0 then .ok (.mov (fld n 16 8) (fld n 8 8)) else .error (.reserved "MOV")
  | 0xC => .ok (.icmps (fld n 21 3) (fld n 19 2) (fld n 16 3) (fld n 8 8) (fld n 0 8))
  | 0xD => .ok (.icmpn (fld n 21 3) (fld n 19 2) (fld n 16 3) (fld n 8 8) (fld n 0 8))
  | 0xE => .ok (.icmpi (fld n 21 3) (fld n 19 2) (fld n 16 3) (fld n 8 8) (fld n 0 8))
  | _ => if bits n 3 1 = 0 ∧ bits n 7 1 = 0 ∧ bits n 19 1 = 0 ∧ bits n 23 1 = 0 then .ok (.plut (fld n 20 3) (fld n 16 3) (fld n 8 8) (fld n 4 3) (fld n 0 3)) else .error (.reserved "PLUT")

/-- Opcodes 0x30 to 0x3F (R113). -/
def decode3 (n : Nat) : Except DecodeError Instr :=
  match bits n 24 4 with
  | 0x0 => if bits n 0 16 = 0 then .ok (.p2v (fld n 16 8)) else .error (.reserved "P2V")
  | 0x1 => if bits n 16 8 = 0 then .ok (.v2p (fld n 8 8) (fld n 0 8)) else .error (.reserved "V2P")
  | 0x2 => .ok (.idot4s (fld n 16 8) (fld n 8 8) (fld n 0 8))
  | 0x3 => .ok (.idot4n (fld n 16 8) (fld n 8 8) (fld n 0 8))
  | _ => .error (.unassigned (fld n 24 8))

/-- Opcodes 0x40 to 0x4F (R113). -/
def decode4 (n : Nat) : Except DecodeError Instr :=
  match bits n 24 4 with
  | 0x0 => .ok (.faddF32 (fld n 16 8) (fld n 8 8) (fld n 0 8))
  | 0x1 => .ok (.fsubF32 (fld n 16 8) (fld n 8 8) (fld n 0 8))
  | 0x2 => .ok (.fmulF32 (fld n 16 8) (fld n 8 8) (fld n 0 8))
  | 0x3 => .ok (.fmacF32 (fld n 16 8) (fld n 8 8) (fld n 0 8))
  | 0x4 => .ok (.fmaF32 (fld n 16 8) (fld n 8 8) (fld n 0 8))
  | 0x5 => .ok (.fminF32 (fld n 16 8) (fld n 8 8) (fld n 0 8))
  | 0x6 => .ok (.fmaxF32 (fld n 16 8) (fld n 8 8) (fld n 0 8))
  | 0x7 => .ok (.fcmpF32 (fld n 21 3) (fld n 19 2) (fld n 16 3) (fld n 8 8) (fld n 0 8))
  | 0x8 => .ok (.faddF64 (fld n 16 8) (fld n 8 8) (fld n 0 8))
  | 0x9 => .ok (.fsubF64 (fld n 16 8) (fld n 8 8) (fld n 0 8))
  | 0xA => .ok (.fmulF64 (fld n 16 8) (fld n 8 8) (fld n 0 8))
  | 0xB => .ok (.fmacF64 (fld n 16 8) (fld n 8 8) (fld n 0 8))
  | 0xC => .ok (.fmaF64 (fld n 16 8) (fld n 8 8) (fld n 0 8))
  | 0xD => .ok (.fminF64 (fld n 16 8) (fld n 8 8) (fld n 0 8))
  | 0xE => .ok (.fmaxF64 (fld n 16 8) (fld n 8 8) (fld n 0 8))
  | _ => .ok (.fcmpF64 (fld n 21 3) (fld n 19 2) (fld n 16 3) (fld n 8 8) (fld n 0 8))

/-- Opcodes 0x50 to 0x5F (R113). -/
def decode5 (n : Nat) : Except DecodeError Instr :=
  match bits n 24 4 with
  | 0x0 => .ok (.paddH16x2 (fld n 16 8) (fld n 8 8) (fld n 0 8))
  | 0x1 => .ok (.pmulH16x2 (fld n 16 8) (fld n 8 8) (fld n 0 8))
  | 0x2 => .ok (.pmacH16x2 (fld n 16 8) (fld n 8 8) (fld n 0 8))
  | 0x3 => .ok (.paddBf16x2 (fld n 16 8) (fld n 8 8) (fld n 0 8))
  | 0x4 => .ok (.pmulBf16x2 (fld n 16 8) (fld n 8 8) (fld n 0 8))
  | 0x5 => .ok (.pmacBf16x2 (fld n 16 8) (fld n 8 8) (fld n 0 8))
  | 0x6 => .ok (.dot2H16 (fld n 16 8) (fld n 8 8) (fld n 0 8))
  | 0x7 => .ok (.dot2Bf16 (fld n 16 8) (fld n 8 8) (fld n 0 8))
  | 0x8 => .ok (.dot4E4m3 (fld n 16 8) (fld n 8 8) (fld n 0 8))
  | 0x9 => .ok (.dot8E2m1 (fld n 16 8) (fld n 8 8) (fld n 0 8))
  | 0xA => .ok (.fclass (fld n 16 8) (fld n 8 8) (fld n 0 8))
  | _ => .error (.unassigned (fld n 24 8))

/-- Opcodes 0x60 to 0x6F (R113). -/
def decode6 (n : Nat) : Except DecodeError Instr :=
  match bits n 24 4 with
  | 0x0 => if bits n 0 8 = 0 then .ok (.frcp (fld n 16 8) (fld n 8 8)) else .error (.reserved "FRCP")
  | 0x1 => if bits n 0 8 = 0 then .ok (.frsq (fld n 16 8) (fld n 8 8)) else .error (.reserved "FRSQ")
  | 0x2 => if bits n 0 8 = 0 then .ok (.fsqrt (fld n 16 8) (fld n 8 8)) else .error (.reserved "FSQRT")
  | 0x3 => if bits n 0 8 = 0 then .ok (.fex2 (fld n 16 8) (fld n 8 8)) else .error (.reserved "FEX2")
  | 0x4 => if bits n 0 8 = 0 then .ok (.flg2 (fld n 16 8) (fld n 8 8)) else .error (.reserved "FLG2")
  | 0x5 => if bits n 0 8 = 0 then .ok (.fsin (fld n 16 8) (fld n 8 8)) else .error (.reserved "FSIN")
  | 0x6 => if bits n 0 8 = 0 then .ok (.fcos (fld n 16 8) (fld n 8 8)) else .error (.reserved "FCOS")
  | 0x7 => if bits n 0 8 = 0 then .ok (.frcpsF64 (fld n 16 8) (fld n 8 8)) else .error (.reserved "FRCPS_F64")
  | 0x8 => .ok (.cvt (fld n 16 8) (fld n 8 8) (fld n 4 4) (fld n 0 4))
  | 0x9 => .ok (.cvti (fld n 16 8) (fld n 8 8) (fld n 4 4) (fld n 0 4))
  | 0xA => .ok (.cvtf (fld n 16 8) (fld n 8 8) (fld n 4 4) (fld n 0 4))
  | 0xB => .ok (.pack (fld n 16 8) (fld n 8 8) (fld n 0 8))
  | 0xC => if bits n 0 8 = 0 then .ok (.unpk (fld n 16 8) (fld n 8 8)) else .error (.reserved "UNPK")
  | 0xD => .ok (.scale (fld n 16 8) (fld n 8 8) (fld n 0 8))
  | 0xE => .ok (.logc (fld n 16 8) (fld n 8 8) (fld n 0 8))
  | _ => if bits n 0 8 = 0 then .ok (.frnd (fld n 16 8) (fld n 8 8)) else .error (.reserved "FRND")

/-- Opcodes 0x70 to 0x7F (R113). -/
def decode7 (n : Nat) : Except DecodeError Instr :=
  match bits n 24 4 with
  | 0x0 => .ok (.shfl (fld n 16 8) (fld n 8 8) (fld n 0 8))
  | 0x1 => .ok (.shflx (fld n 16 8) (fld n 8 8) (fld n 0 8))
  | 0x2 => .ok (.bcst (fld n 16 8) (fld n 8 8) (fld n 0 8))
  | 0x3 => .ok (.vote (fld n 16 8) (fld n 8 8) (fld n 0 8))
  | 0x4 => .ok (.ballot (fld n 16 8) (fld n 8 8) (fld n 0 8))
  | 0x5 => .ok (.raddS32 (fld n 16 8) (fld n 8 8) (fld n 0 8))
  | 0x6 => .ok (.raddF32 (fld n 16 8) (fld n 8 8) (fld n 0 8))
  | 0x7 => .ok (.rminN32 (fld n 16 8) (fld n 8 8) (fld n 0 8))
  | 0x8 => .ok (.rmaxN32 (fld n 16 8) (fld n 8 8) (fld n 0 8))
  | 0x9 => .ok (.rminF32 (fld n 16 8) (fld n 8 8) (fld n 0 8))
  | 0xA => .ok (.rmaxF32 (fld n 16 8) (fld n 8 8) (fld n 0 8))
  | 0xB => .ok (.rminxN32 (fld n 16 8) (fld n 8 8) (fld n 0 8))
  | 0xC => .ok (.scanS32 (fld n 16 8) (fld n 8 8) (fld n 0 8))
  | 0xD => .ok (.matchLanes (fld n 16 8) (fld n 8 8) (fld n 0 8))
  | 0xE => if bits n 8 8 = 0 then .ok (.laneid (fld n 16 8) (fld n 0 8)) else .error (.reserved "LANEID")
  | _ => .error (.unassigned (fld n 24 8))

/-- Opcodes 0x80 to 0x8F (R113). -/
def decode8 (n : Nat) : Except DecodeError Instr :=
  match bits n 24 4 with
  | 0x0 => .ok (.ldB8 (fld n 16 8) (fld n 8 8) (fld n 0 8))
  | 0x1 => .ok (.ldS8 (fld n 16 8) (fld n 8 8) (fld n 0 8))
  | 0x2 => .ok (.ldB16 (fld n 16 8) (fld n 8 8) (fld n 0 8))
  | 0x3 => .ok (.ldS16 (fld n 16 8) (fld n 8 8) (fld n 0 8))
  | 0x4 => .ok (.ldB32 (fld n 16 8) (fld n 8 8) (fld n 0 8))
  | 0x5 => .ok (.ldB64 (fld n 16 8) (fld n 8 8) (fld n 0 8))
  | 0x6 => .ok (.ldB128 (fld n 16 8) (fld n 8 8) (fld n 0 8))
  | 0x7 => .ok (.stB8 (fld n 16 8) (fld n 8 8) (fld n 0 8))
  | 0x8 => .ok (.stB16 (fld n 16 8) (fld n 8 8) (fld n 0 8))
  | 0x9 => .ok (.stB32 (fld n 16 8) (fld n 8 8) (fld n 0 8))
  | 0xA => .ok (.stB64 (fld n 16 8) (fld n 8 8) (fld n 0 8))
  | 0xB => .ok (.stB128 (fld n 16 8) (fld n 8 8) (fld n 0 8))
  | 0xC => .ok (.ldsB32 (fld n 16 8) (fld n 8 8) (fld n 0 8))
  | 0xD => .ok (.ldsB64 (fld n 16 8) (fld n 8 8) (fld n 0 8))
  | 0xE => .ok (.ldsB128 (fld n 16 8) (fld n 8 8) (fld n 0 8))
  | _ => .ok (.stsB32 (fld n 16 8) (fld n 8 8) (fld n 0 8))

/-- Opcodes 0x90 to 0x9F (R113). -/
def decode9 (n : Nat) : Except DecodeError Instr :=
  match bits n 24 4 with
  | 0x0 => .ok (.stsB64 (fld n 16 8) (fld n 8 8) (fld n 0 8))
  | 0x1 => .ok (.stsB128 (fld n 16 8) (fld n 8 8) (fld n 0 8))
  | 0x2 => .ok (.atomAdd (fld n 16 8) (fld n 8 8) (fld n 0 8))
  | 0x3 => .ok (.atomMins (fld n 16 8) (fld n 8 8) (fld n 0 8))
  | 0x4 => .ok (.atomMaxs (fld n 16 8) (fld n 8 8) (fld n 0 8))
  | 0x5 => .ok (.atomAnd (fld n 16 8) (fld n 8 8) (fld n 0 8))
  | 0x6 => .ok (.atomOr (fld n 16 8) (fld n 8 8) (fld n 0 8))
  | 0x7 => .ok (.atomXor (fld n 16 8) (fld n 8 8) (fld n 0 8))
  | 0x8 => .ok (.atomXchg (fld n 16 8) (fld n 8 8) (fld n 0 8))
  | 0x9 => .ok (.atomCas (fld n 16 8) (fld n 8 8) (fld n 0 8))
  | 0xA => .ok (.atomFadd (fld n 16 8) (fld n 8 8) (fld n 0 8))
  | 0xB => .ok (.atomAdd64 (fld n 16 8) (fld n 8 8) (fld n 0 8))
  | 0xC => .ok (.hmk (fld n 16 8) (fld n 8 8) (fld n 0 8))
  | 0xD => .ok (.hadd (fld n 16 8) (fld n 8 8) (fld n 0 8))
  | 0xE => .ok (.hqry (fld n 16 8) (fld n 8 8) (fld n 0 8))
  | _ => .ok (.pref (fld n 16 8) (fld n 8 8) (fld n 0 8))

/-- Opcodes 0xA0 to 0xAF (R113). -/
def decodeA (n : Nat) : Except DecodeError Instr :=
  match bits n 24 4 with
  | 0x0 => .ok (.bra (fld n 16 8) (fld n 0 16))
  | 0x1 => .ok (.call (fld n 16 8) (fld n 0 16))
  | 0x2 => if bits n 0 24 = 0 then .ok .ret else .error (.reserved "RET")
  | 0x3 => if bits n 0 8 = 0 then .ok (.bri (fld n 16 8) (fld n 8 8)) else .error (.reserved "BRI")
  | 0x4 => if bits n 0 24 = 0 then .ok .exit else .error (.reserved "EXIT")
  | 0x5 => if bits n 0 16 = 0 then .ok (.yield (fld n 16 8)) else .error (.reserved "YIELD")
  | 0x6 => .ok (.loop (fld n 16 8) (fld n 0 16))
  | 0x7 => if bits n 12 12 = 0 then .ok (.waitf (fld n 0 12)) else .error (.reserved "WAITF")
  | 0x8 => .ok (.brc (fld n 24 3) (fld n 16 8) (fld n 0 16))
  | 0x9 => .ok (.brc (fld n 24 3) (fld n 16 8) (fld n 0 16))
  | 0xA => .ok (.brc (fld n 24 3) (fld n 16 8) (fld n 0 16))
  | 0xB => .ok (.brc (fld n 24 3) (fld n 16 8) (fld n 0 16))
  | 0xC => .ok (.brc (fld n 24 3) (fld n 16 8) (fld n 0 16))
  | 0xD => .ok (.brc (fld n 24 3) (fld n 16 8) (fld n 0 16))
  | 0xE => .ok (.brc (fld n 24 3) (fld n 16 8) (fld n 0 16))
  | _ => .ok (.brc (fld n 24 3) (fld n 16 8) (fld n 0 16))

/-- Opcodes 0xB0 to 0xBF (R113). -/
def decodeB (n : Nat) : Except DecodeError Instr :=
  match bits n 24 4 with
  | 0x0 => .ok (.brn (fld n 24 3) (fld n 16 8) (fld n 0 16))
  | 0x1 => .ok (.brn (fld n 24 3) (fld n 16 8) (fld n 0 16))
  | 0x2 => .ok (.brn (fld n 24 3) (fld n 16 8) (fld n 0 16))
  | 0x3 => .ok (.brn (fld n 24 3) (fld n 16 8) (fld n 0 16))
  | 0x4 => .ok (.brn (fld n 24 3) (fld n 16 8) (fld n 0 16))
  | 0x5 => .ok (.brn (fld n 24 3) (fld n 16 8) (fld n 0 16))
  | 0x6 => .ok (.brn (fld n 24 3) (fld n 16 8) (fld n 0 16))
  | 0x7 => .ok (.brn (fld n 24 3) (fld n 16 8) (fld n 0 16))
  | 0x8 => if bits n 4 20 = 0 then .ok (.enrol (fld n 0 4)) else .error (.reserved "ENROL")
  | 0x9 => if bits n 4 12 = 0 then .ok (.park (fld n 16 8) (fld n 0 4)) else .error (.reserved "PARK")
  | 0xA => if bits n 4 20 = 0 then .ok (.strike (fld n 0 4)) else .error (.reserved "STRIKE")
  | 0xB => if bits n 4 4 = 0 ∧ bits n 9 7 = 0 then .ok (.jqry (fld n 16 8) (fld n 8 1) (fld n 0 4)) else .error (.reserved "JQRY")
  | 0xC => if bits n 0 24 = 0 then .ok .nop else .error (.reserved "NOP")
  | _ => .error (.unassigned (fld n 24 8))

/-- Opcodes 0xC0 to 0xCF (R113). -/
def decodeC (n : Nat) : Except DecodeError Instr :=
  match bits n 24 4 with
  | 0x0 => if bits n 0 8 = 0 ∧ bits n 22 2 = 0 then .ok (.resv (fld n 16 6) (fld n 8 8)) else .error (.reserved "RESV")
  | 0x1 => if bits n 0 16 = 0 ∧ bits n 22 2 = 0 then .ok (.free (fld n 16 6)) else .error (.reserved "FREE")
  | 0x2 => if bits n 0 8 = 0 ∧ bits n 22 2 = 0 then .ok (.tset (fld n 16 6) (fld n 8 8)) else .error (.reserved "TSET")
  | 0x3 => if bits n 0 3 = 0 then .ok (.tld (fld n 18 6) (fld n 12 6) (fld n 6 6) (fld n 3 3)) else .error (.reserved "TLD")
  | 0x4 => if bits n 0 3 = 0 then .ok (.tst (fld n 18 6) (fld n 12 6) (fld n 6 6) (fld n 3 3)) else .error (.reserved "TST")
  | 0x5 => if bits n 0 18 = 0 then .ok (.tzero (fld n 18 6)) else .error (.reserved "TZERO")
  | 0x6 => if bits n 4 2 = 0 then .ok (.mma (fld n 18 6) (fld n 12 6) (fld n 6 6) (fld n 1 3) (fld n 0 1)) else .error (.reserved "MMA")
  | 0x7 => if bits n 4 2 = 0 then .ok (.mmag (fld n 18 6) (fld n 12 6) (fld n 6 6) (fld n 1 3) (fld n 0 1)) else .error (.reserved "MMAG")
  | 0x8 => if bits n 2 4 = 0 then .ok (.rast (fld n 18 6) (fld n 12 6) (fld n 6 6) (fld n 1 1) (fld n 0 1)) else .error (.reserved "RAST")
  | 0x9 => if bits n 0 8 = 0 ∧ bits n 19 5 = 0 then .ok (.mpost (fld n 16 3) (fld n 8 8)) else .error (.reserved "MPOST")
  | 0xA => if bits n 0 8 = 0 ∧ bits n 19 5 = 0 then .ok (.mpre (fld n 16 3) (fld n 8 8)) else .error (.reserved "MPRE")
  | 0xB => if bits n 3 9 = 0 then .ok (.tcvt (fld n 18 6) (fld n 12 6) (fld n 0 3)) else .error (.reserved "TCVT")
  | 0xC => if bits n 14 2 = 0 then .ok (.mqry (fld n 16 8) (fld n 8 6) (fld n 0 8)) else .error (.reserved "MQRY")
  | _ => .error (.unassigned (fld n 24 8))

/-- Opcodes 0xD0 to 0xDF (R113). -/
def decodeD (n : Nat) : Except DecodeError Instr :=
  match bits n 24 4 with
  | 0x0 => if bits n 1 7 = 0 ∧ bits n 19 5 = 0 then .ok (.cpy (fld n 16 3) (fld n 8 8) (fld n 0 1)) else .error (.reserved "CPY")
  | 0x1 => if bits n 1 7 = 0 ∧ bits n 19 5 = 0 then .ok (.cpym (fld n 16 3) (fld n 8 8) (fld n 0 1)) else .error (.reserved "CPYM")
  | 0x2 => if bits n 1 7 = 0 ∧ bits n 19 5 = 0 then .ok (.cpys (fld n 16 3) (fld n 8 8) (fld n 0 1)) else .error (.reserved "CPYS")
  | 0x3 => .ok (.binc (fld n 16 8) (fld n 8 8) (fld n 0 8))
  | 0x4 => if bits n 16 8 = 0 then .ok (.binp (fld n 8 8) (fld n 0 8)) else .error (.reserved "BINP")
  | 0x5 => if bits n 8 16 = 0 then .ok (.hrel (fld n 0 8)) else .error (.reserved "HREL")
  | 0x6 => if bits n 0 8 = 0 ∧ bits n 16 8 = 0 then .ok (.launch (fld n 8 8)) else .error (.reserved "LAUNCH")
  | 0x7 => if bits n 17 7 = 0 then .ok (.tkinit (fld n 16 1) (fld n 8 8) (fld n 0 8)) else .error (.reserved "TKINIT")
  | 0x8 => if bits n 17 7 = 0 then .ok (.tkexp (fld n 16 1) (fld n 8 8) (fld n 0 8)) else .error (.reserved "TKEXP")
  | 0x9 => if bits n 6 2 = 0 ∧ bits n 17 7 = 0 then .ok (.tkarr (fld n 16 1) (fld n 8 8) (fld n 0 6)) else .error (.reserved "TKARR")
  | 0xA => if bits n 0 6 = 0 then .ok (.tkwait (fld n 16 8) (fld n 8 8) (fld n 7 1) (fld n 6 1)) else .error (.reserved "TKWAIT")
  | 0xB => if bits n 0 8 = 0 ∧ bits n 17 7 = 0 then .ok (.tkkill (fld n 16 1) (fld n 8 8)) else .error (.reserved "TKKILL")
  | 0xC => if bits n 16 8 = 0 then .ok (.bbinit (fld n 8 8) (fld n 0 8)) else .error (.reserved "BBINIT")
  | 0xD => if bits n 0 8 = 0 then .ok (.bbawait (fld n 16 8) (fld n 8 8)) else .error (.reserved "BBAWAIT")
  | 0xE => if bits n 0 8 = 0 ∧ bits n 16 8 = 0 then .ok (.bbrel (fld n 8 8)) else .error (.reserved "BBREL")
  | _ => if bits n 2 6 = 0 ∧ bits n 10 6 = 0 ∧ bits n 19 4 = 0 then .ok (.shcfg (fld n 23 1) (fld n 16 3) (fld n 8 2) (fld n 0 2)) else .error (.reserved "SHCFG")

/-- Opcodes 0xE0 to 0xEF (R113). -/
def decodeE (n : Nat) : Except DecodeError Instr :=
  match bits n 24 4 with
  | 0x0 => if bits n 0 8 = 0 ∧ bits n 16 8 = 0 then .ok (.aqp (fld n 8 8)) else .error (.reserved "AQP")
  | 0x1 => .ok (.kvap (fld n 16 8) (fld n 8 8) (fld n 0 8))
  | 0x2 => if bits n 4 4 = 0 then .ok (.aqst (fld n 16 8) (fld n 8 8) (fld n 0 4)) else .error (.reserved "AQST")
  | 0x3 => if bits n 0 8 = 0 ∧ bits n 16 8 = 0 then .ok (.trq (fld n 8 8)) else .error (.reserved "TRQ")
  | 0x4 => .ok (.psend (fld n 16 8) (fld n 8 8) (fld n 0 8))
  | 0x5 => if bits n 0 8 = 0 then .ok (.travel (fld n 16 8) (fld n 8 8)) else .error (.reserved "TRAVEL")
  | 0x6 => if bits n 8 8 = 0 then .ok (.pqry (fld n 16 8) (fld n 0 8)) else .error (.reserved "PQRY")
  | 0x8 => if bits n 8 16 = 0 then .ok (.fence (fld n 6 2) (fld n 0 6)) else .error (.reserved "FENCE")
  | 0x9 => .ok (.bind (fld n 16 8) (fld n 8 8) (fld n 0 8))
  | 0xA => if bits n 0 8 = 0 ∧ bits n 16 8 = 0 then .ok (.unbind (fld n 8 8)) else .error (.reserved "UNBIND")
  | 0xB => .ok (.acq (fld n 16 8) (fld n 8 8) (fld n 0 8))
  | 0xC => if bits n 6 2 = 0 ∧ bits n 16 8 = 0 then .ok (.rel (fld n 8 8) (fld n 0 6)) else .error (.reserved "REL")
  | 0xD => .ok (.acqr (fld n 16 8) (fld n 8 8) (fld n 0 8))
  | 0xE => .ok (.relw (fld n 16 8) (fld n 8 8) (fld n 0 8))
  | _ => .error (.unassigned (fld n 24 8))

/-- Opcodes 0xF0 to 0xFF (R113). -/
def decodeF (n : Nat) : Except DecodeError Instr :=
  match bits n 24 4 with
  | 0x0 => if bits n 16 8 = 0 then .ok (.trap (fld n 0 16)) else .error (.reserved "TRAP")
  | 0x1 => if bits n 16 8 = 0 then .ok (.svc (fld n 0 16)) else .error (.reserved "SVC")
  | 0x2 => if bits n 0 24 = 0 then .ok .rft
      else if bits n 0 8 = 1 ∧ bits n 16 8 = 0 then .ok (.rftResume (fld n 8 8))
      else if bits n 0 8 = 2 ∧ bits n 16 8 = 0 then .ok (.rftKill (fld n 8 8))
      else .error (.reserved "RFT")
  | 0x3 => if bits n 8 16 = 0 then .ok (.brk (fld n 0 8))
      else if bits n 0 8 = 0 ∧ bits n 16 4 = 0 ∧ bits n 22 2 = 1 then .ok (.brkSet (fld n 20 2) (fld n 8 8))
      else if bits n 0 20 = 0 ∧ bits n 22 2 = 2 then .ok (.brkClr (fld n 20 2))
      else .error (.reserved "BRK")
  | 0x4 => if bits n 0 16 = 8 then .ok (.csrrCyc (fld n 16 8))
      else .ok (.csrr (fld n 16 8) (fld n 0 16))
  | 0x5 => if bits n 0 16 = 0x103 then .ok (.csrwOflag (fld n 16 8))
      else if bits n 4 12 = 0xC1 then .ok (.csrwIldom (fld n 16 8) (fld n 0 4))
      else .ok (.csrw (fld n 16 8) (fld n 0 16))
  | 0x6 => if bits n 0 8 = 0 ∧ bits n 16 8 = 0 then .ok (.invalTranslation (fld n 8 8))
      else if bits n 0 8 = 1 ∧ bits n 16 8 = 0 then .ok (.invalWriteback (fld n 8 8))
      else if bits n 0 8 = 2 ∧ bits n 16 8 = 0 then .ok (.invalKey (fld n 8 8))
      else .error (.reserved "INVAL_TRANSLATION")
  | 0x7 => .ok (.wait (fld n 16 8) (fld n 8 8) (fld n 0 8))
  | 0x8 => .ok (.himm (fld n 0 24))
  | 0x9 => if bits n 0 12 = 0 then .ok (.rep (fld n 18 6) (fld n 16 2) (fld n 14 2) (fld n 12 2)) else .error (.reserved "REP")
  | 0xA => if bits n 0 8 = 0 then .ok (.hmod (fld n 23 1) (fld n 20 3) (fld n 19 1) (fld n 18 1) (fld n 15 3) (fld n 14 1) (fld n 13 1) (fld n 12 1) (fld n 8 4)) else .error (.reserved "HMOD")
  | 0xB => .ok (.hopd (fld n 16 8) (fld n 0 16))
  | 0xC => if bits n 0 1 = 0 then .ok (.clauseHeader (fld n 14 12) (fld n 10 4) (fld n 6 4) (fld n 2 4) (fld n 1 1)) else .error (.reserved "CLAUSE_HEADER")
  | 0xD => if bits n 0 1 = 0 then .ok (.clauseHeader (fld n 14 12) (fld n 10 4) (fld n 6 4) (fld n 2 4) (fld n 1 1)) else .error (.reserved "CLAUSE_HEADER")
  | 0xE => if bits n 0 1 = 0 then .ok (.clauseHeader (fld n 14 12) (fld n 10 4) (fld n 6 4) (fld n 2 4) (fld n 1 1)) else .error (.reserved "CLAUSE_HEADER")
  | _ => if bits n 0 1 = 0 then .ok (.clauseHeader (fld n 14 12) (fld n 10 4) (fld n 6 4) (fld n 2 4) (fld n 1 1)) else .error (.reserved "CLAUSE_HEADER")
/-- The instruction a 32-bit word stands for (R91, R113, R114). -/
def decode (w : Word) : Except DecodeError Instr :=
  match bits w.toNat 28 4 with
  | 0x0 => decode0 w.toNat
  | 0x1 => decode1 w.toNat
  | 0x2 => decode2 w.toNat
  | 0x3 => decode3 w.toNat
  | 0x4 => decode4 w.toNat
  | 0x5 => decode5 w.toNat
  | 0x6 => decode6 w.toNat
  | 0x7 => decode7 w.toNat
  | 0x8 => decode8 w.toNat
  | 0x9 => decode9 w.toNat
  | 0xA => decodeA w.toNat
  | 0xB => decodeB w.toNat
  | 0xC => decodeC w.toNat
  | 0xD => decodeD w.toNat
  | 0xE => decodeE w.toNat
  | _ => decodeF w.toNat

/-- A word put together from its fixed bits and its fields, each with the place of its lowest bit. -/
def asm (base : Nat) (fields : List (Nat × Nat)) : Word :=
  BitVec.ofNat 32 (fields.foldl (fun n f => n + f.1 * 2 ^ f.2) base)

/-- The word of an instruction, laid out as the opcode map and the instruction references give it; an event has
none. -/
def encode : Instr → Option Word
  | .add d a b => some (asm 0x00000000 [(d.toNat, 16), (a.toNat, 8), (b.toNat, 0)])
  | .addi d a i => some (asm 0x01000000 [(d.toNat, 16), (a.toNat, 8), (i.toNat, 0)])
  | .sub d a b => some (asm 0x02000000 [(d.toNat, 16), (a.toNat, 8), (b.toNat, 0)])
  | .add64 d a b => some (asm 0x03000000 [(d.toNat, 16), (a.toNat, 8), (b.toNat, 0)])
  | .sub64 d a b => some (asm 0x04000000 [(d.toNat, 16), (a.toNat, 8), (b.toNat, 0)])
  | .mul d a b => some (asm 0x05000000 [(d.toNat, 16), (a.toNat, 8), (b.toNat, 0)])
  | .mulhs d a b => some (asm 0x06000000 [(d.toNat, 16), (a.toNat, 8), (b.toNat, 0)])
  | .mulhn d a b => some (asm 0x07000000 [(d.toNat, 16), (a.toNat, 8), (b.toNat, 0)])
  | .mac d a b => some (asm 0x08000000 [(d.toNat, 16), (a.toNat, 8), (b.toNat, 0)])
  | .mulw d a b => some (asm 0x09000000 [(d.toNat, 16), (a.toNat, 8), (b.toNat, 0)])
  | .mins d a b => some (asm 0x0A000000 [(d.toNat, 16), (a.toNat, 8), (b.toNat, 0)])
  | .maxs d a b => some (asm 0x0B000000 [(d.toNat, 16), (a.toNat, 8), (b.toNat, 0)])
  | .minn d a b => some (asm 0x0C000000 [(d.toNat, 16), (a.toNat, 8), (b.toNat, 0)])
  | .maxn d a b => some (asm 0x0D000000 [(d.toNat, 16), (a.toNat, 8), (b.toNat, 0)])
  | .absd d a b => some (asm 0x0E000000 [(d.toNat, 16), (a.toNat, 8), (b.toNat, 0)])
  | .sel d a b => some (asm 0x0F000000 [(d.toNat, 16), (a.toNat, 8), (b.toNat, 0)])
  | .and d a b => some (asm 0x10000000 [(d.toNat, 16), (a.toNat, 8), (b.toNat, 0)])
  | .or d a b => some (asm 0x11000000 [(d.toNat, 16), (a.toNat, 8), (b.toNat, 0)])
  | .xor d a b => some (asm 0x12000000 [(d.toNat, 16), (a.toNat, 8), (b.toNat, 0)])
  | .andn d a b => some (asm 0x13000000 [(d.toNat, 16), (a.toNat, 8), (b.toNat, 0)])
  | .orn d a b => some (asm 0x14000000 [(d.toNat, 16), (a.toNat, 8), (b.toNat, 0)])
  | .xnor d a b => some (asm 0x15000000 [(d.toNat, 16), (a.toNat, 8), (b.toNat, 0)])
  | .andi d a i => some (asm 0x16000000 [(d.toNat, 16), (a.toNat, 8), (i.toNat, 0)])
  | .ori d a i => some (asm 0x17000000 [(d.toNat, 16), (a.toNat, 8), (i.toNat, 0)])
  | .xori d a i => some (asm 0x18000000 [(d.toNat, 16), (a.toNat, 8), (i.toNat, 0)])
  | .shl d a b => some (asm 0x19000000 [(d.toNat, 16), (a.toNat, 8), (b.toNat, 0)])
  | .shr d a b => some (asm 0x1A000000 [(d.toNat, 16), (a.toNat, 8), (b.toNat, 0)])
  | .sra d a b => some (asm 0x1B000000 [(d.toNat, 16), (a.toNat, 8), (b.toNat, 0)])
  | .rol d a b => some (asm 0x1C000000 [(d.toNat, 16), (a.toNat, 8), (b.toNat, 0)])
  | .shli d a i => some (asm 0x1D000000 [(d.toNat, 16), (a.toNat, 8), (i.toNat, 0)])
  | .shri d a i => some (asm 0x1E000000 [(d.toNat, 16), (a.toNat, 8), (i.toNat, 0)])
  | .srai d a i => some (asm 0x1F000000 [(d.toNat, 16), (a.toNat, 8), (i.toNat, 0)])
  | .popc d a => some (asm 0x20000000 [(d.toNat, 16), (a.toNat, 8)])
  | .clz d a => some (asm 0x21000000 [(d.toNat, 16), (a.toNat, 8)])
  | .ctz d a => some (asm 0x22000000 [(d.toNat, 16), (a.toNat, 8)])
  | .brev d a => some (asm 0x23000000 [(d.toNat, 16), (a.toNat, 8)])
  | .bswap d a => some (asm 0x24000000 [(d.toNat, 16), (a.toNat, 8)])
  | .bfx d a b => some (asm 0x25000000 [(d.toNat, 16), (a.toNat, 8), (b.toNat, 0)])
  | .bfxs d a b => some (asm 0x26000000 [(d.toNat, 16), (a.toNat, 8), (b.toNat, 0)])
  | .bfi d a b => some (asm 0x27000000 [(d.toNat, 16), (a.toNat, 8), (b.toNat, 0)])
  | .prmt d a b => some (asm 0x28000000 [(d.toNat, 16), (a.toNat, 8), (b.toNat, 0)])
  | .movi d i => some (asm 0x29000000 [(d.toNat, 16), (i.toNat, 0)])
  | .movhi d i => some (asm 0x2A000000 [(d.toNat, 16), (i.toNat, 0)])
  | .mov d a => some (asm 0x2B000000 [(d.toNat, 16), (a.toNat, 8)])
  | .icmps c m p a b => some (asm 0x2C000000 [(c.toNat, 21), (m.toNat, 19), (p.toNat, 16), (a.toNat, 8), (b.toNat, 0)])
  | .icmpn c m p a b => some (asm 0x2D000000 [(c.toNat, 21), (m.toNat, 19), (p.toNat, 16), (a.toNat, 8), (b.toNat, 0)])
  | .icmpi c m p a i => some (asm 0x2E000000 [(c.toNat, 21), (m.toNat, 19), (p.toNat, 16), (a.toNat, 8), (i.toNat, 0)])
  | .plut c d l b a => some (asm 0x2F000000 [(c.toNat, 20), (d.toNat, 16), (l.toNat, 8), (b.toNat, 4), (a.toNat, 0)])
  | .p2v d => some (asm 0x30000000 [(d.toNat, 16)])
  | .v2p a m => some (asm 0x31000000 [(a.toNat, 8), (m.toNat, 0)])
  | .idot4s d a b => some (asm 0x32000000 [(d.toNat, 16), (a.toNat, 8), (b.toNat, 0)])
  | .idot4n d a b => some (asm 0x33000000 [(d.toNat, 16), (a.toNat, 8), (b.toNat, 0)])
  | .faddF32 d a b => some (asm 0x40000000 [(d.toNat, 16), (a.toNat, 8), (b.toNat, 0)])
  | .fsubF32 d a b => some (asm 0x41000000 [(d.toNat, 16), (a.toNat, 8), (b.toNat, 0)])
  | .fmulF32 d a b => some (asm 0x42000000 [(d.toNat, 16), (a.toNat, 8), (b.toNat, 0)])
  | .fmacF32 d a b => some (asm 0x43000000 [(d.toNat, 16), (a.toNat, 8), (b.toNat, 0)])
  | .fmaF32 d a b => some (asm 0x44000000 [(d.toNat, 16), (a.toNat, 8), (b.toNat, 0)])
  | .fminF32 d a b => some (asm 0x45000000 [(d.toNat, 16), (a.toNat, 8), (b.toNat, 0)])
  | .fmaxF32 d a b => some (asm 0x46000000 [(d.toNat, 16), (a.toNat, 8), (b.toNat, 0)])
  | .fcmpF32 c m p a b => some (asm 0x47000000 [(c.toNat, 21), (m.toNat, 19), (p.toNat, 16), (a.toNat, 8), (b.toNat, 0)])
  | .faddF64 d a b => some (asm 0x48000000 [(d.toNat, 16), (a.toNat, 8), (b.toNat, 0)])
  | .fsubF64 d a b => some (asm 0x49000000 [(d.toNat, 16), (a.toNat, 8), (b.toNat, 0)])
  | .fmulF64 d a b => some (asm 0x4A000000 [(d.toNat, 16), (a.toNat, 8), (b.toNat, 0)])
  | .fmacF64 d a b => some (asm 0x4B000000 [(d.toNat, 16), (a.toNat, 8), (b.toNat, 0)])
  | .fmaF64 d a b => some (asm 0x4C000000 [(d.toNat, 16), (a.toNat, 8), (b.toNat, 0)])
  | .fminF64 d a b => some (asm 0x4D000000 [(d.toNat, 16), (a.toNat, 8), (b.toNat, 0)])
  | .fmaxF64 d a b => some (asm 0x4E000000 [(d.toNat, 16), (a.toNat, 8), (b.toNat, 0)])
  | .fcmpF64 c m p a b => some (asm 0x4F000000 [(c.toNat, 21), (m.toNat, 19), (p.toNat, 16), (a.toNat, 8), (b.toNat, 0)])
  | .paddH16x2 d a b => some (asm 0x50000000 [(d.toNat, 16), (a.toNat, 8), (b.toNat, 0)])
  | .pmulH16x2 d a b => some (asm 0x51000000 [(d.toNat, 16), (a.toNat, 8), (b.toNat, 0)])
  | .pmacH16x2 d a b => some (asm 0x52000000 [(d.toNat, 16), (a.toNat, 8), (b.toNat, 0)])
  | .paddBf16x2 d a b => some (asm 0x53000000 [(d.toNat, 16), (a.toNat, 8), (b.toNat, 0)])
  | .pmulBf16x2 d a b => some (asm 0x54000000 [(d.toNat, 16), (a.toNat, 8), (b.toNat, 0)])
  | .pmacBf16x2 d a b => some (asm 0x55000000 [(d.toNat, 16), (a.toNat, 8), (b.toNat, 0)])
  | .dot2H16 d a b => some (asm 0x56000000 [(d.toNat, 16), (a.toNat, 8), (b.toNat, 0)])
  | .dot2Bf16 d a b => some (asm 0x57000000 [(d.toNat, 16), (a.toNat, 8), (b.toNat, 0)])
  | .dot4E4m3 d a b => some (asm 0x58000000 [(d.toNat, 16), (a.toNat, 8), (b.toNat, 0)])
  | .dot8E2m1 d a b => some (asm 0x59000000 [(d.toNat, 16), (a.toNat, 8), (b.toNat, 0)])
  | .fclass d a t => some (asm 0x5A000000 [(d.toNat, 16), (a.toNat, 8), (t.toNat, 0)])
  | .frcp d a => some (asm 0x60000000 [(d.toNat, 16), (a.toNat, 8)])
  | .frsq d a => some (asm 0x61000000 [(d.toNat, 16), (a.toNat, 8)])
  | .fsqrt d a => some (asm 0x62000000 [(d.toNat, 16), (a.toNat, 8)])
  | .fex2 d a => some (asm 0x63000000 [(d.toNat, 16), (a.toNat, 8)])
  | .flg2 d a => some (asm 0x64000000 [(d.toNat, 16), (a.toNat, 8)])
  | .fsin d a => some (asm 0x65000000 [(d.toNat, 16), (a.toNat, 8)])
  | .fcos d a => some (asm 0x66000000 [(d.toNat, 16), (a.toNat, 8)])
  | .frcpsF64 d a => some (asm 0x67000000 [(d.toNat, 16), (a.toNat, 8)])
  | .cvt d a t f => some (asm 0x68000000 [(d.toNat, 16), (a.toNat, 8), (t.toNat, 4), (f.toNat, 0)])
  | .cvti d a t f => some (asm 0x69000000 [(d.toNat, 16), (a.toNat, 8), (t.toNat, 4), (f.toNat, 0)])
  | .cvtf d a t f => some (asm 0x6A000000 [(d.toNat, 16), (a.toNat, 8), (t.toNat, 4), (f.toNat, 0)])
  | .pack d a b => some (asm 0x6B000000 [(d.toNat, 16), (a.toNat, 8), (b.toNat, 0)])
  | .unpk d a => some (asm 0x6C000000 [(d.toNat, 16), (a.toNat, 8)])
  | .scale d a b => some (asm 0x6D000000 [(d.toNat, 16), (a.toNat, 8), (b.toNat, 0)])
  | .logc d a b => some (asm 0x6E000000 [(d.toNat, 16), (a.toNat, 8), (b.toNat, 0)])
  | .frnd d a => some (asm 0x6F000000 [(d.toNat, 16), (a.toNat, 8)])
  | .shfl d a m => some (asm 0x70000000 [(d.toNat, 16), (a.toNat, 8), (m.toNat, 0)])
  | .shflx d a m => some (asm 0x71000000 [(d.toNat, 16), (a.toNat, 8), (m.toNat, 0)])
  | .bcst d a m => some (asm 0x72000000 [(d.toNat, 16), (a.toNat, 8), (m.toNat, 0)])
  | .vote d a m => some (asm 0x73000000 [(d.toNat, 16), (a.toNat, 8), (m.toNat, 0)])
  | .ballot d a m => some (asm 0x74000000 [(d.toNat, 16), (a.toNat, 8), (m.toNat, 0)])
  | .raddS32 d a m => some (asm 0x75000000 [(d.toNat, 16), (a.toNat, 8), (m.toNat, 0)])
  | .raddF32 d a m => some (asm 0x76000000 [(d.toNat, 16), (a.toNat, 8), (m.toNat, 0)])
  | .rminN32 d a m => some (asm 0x77000000 [(d.toNat, 16), (a.toNat, 8), (m.toNat, 0)])
  | .rmaxN32 d a m => some (asm 0x78000000 [(d.toNat, 16), (a.toNat, 8), (m.toNat, 0)])
  | .rminF32 d a m => some (asm 0x79000000 [(d.toNat, 16), (a.toNat, 8), (m.toNat, 0)])
  | .rmaxF32 d a m => some (asm 0x7A000000 [(d.toNat, 16), (a.toNat, 8), (m.toNat, 0)])
  | .rminxN32 d a m => some (asm 0x7B000000 [(d.toNat, 16), (a.toNat, 8), (m.toNat, 0)])
  | .scanS32 d a m => some (asm 0x7C000000 [(d.toNat, 16), (a.toNat, 8), (m.toNat, 0)])
  | .matchLanes d a m => some (asm 0x7D000000 [(d.toNat, 16), (a.toNat, 8), (m.toNat, 0)])
  | .laneid d m => some (asm 0x7E000000 [(d.toNat, 16), (m.toNat, 0)])
  | .ldB8 d h o => some (asm 0x80000000 [(d.toNat, 16), (h.toNat, 8), (o.toNat, 0)])
  | .ldS8 d h o => some (asm 0x81000000 [(d.toNat, 16), (h.toNat, 8), (o.toNat, 0)])
  | .ldB16 d h o => some (asm 0x82000000 [(d.toNat, 16), (h.toNat, 8), (o.toNat, 0)])
  | .ldS16 d h o => some (asm 0x83000000 [(d.toNat, 16), (h.toNat, 8), (o.toNat, 0)])
  | .ldB32 d h o => some (asm 0x84000000 [(d.toNat, 16), (h.toNat, 8), (o.toNat, 0)])
  | .ldB64 d h o => some (asm 0x85000000 [(d.toNat, 16), (h.toNat, 8), (o.toNat, 0)])
  | .ldB128 d h o => some (asm 0x86000000 [(d.toNat, 16), (h.toNat, 8), (o.toNat, 0)])
  | .stB8 d h o => some (asm 0x87000000 [(d.toNat, 16), (h.toNat, 8), (o.toNat, 0)])
  | .stB16 d h o => some (asm 0x88000000 [(d.toNat, 16), (h.toNat, 8), (o.toNat, 0)])
  | .stB32 d h o => some (asm 0x89000000 [(d.toNat, 16), (h.toNat, 8), (o.toNat, 0)])
  | .stB64 d h o => some (asm 0x8A000000 [(d.toNat, 16), (h.toNat, 8), (o.toNat, 0)])
  | .stB128 d h o => some (asm 0x8B000000 [(d.toNat, 16), (h.toNat, 8), (o.toNat, 0)])
  | .ldsB32 d h o => some (asm 0x8C000000 [(d.toNat, 16), (h.toNat, 8), (o.toNat, 0)])
  | .ldsB64 d h o => some (asm 0x8D000000 [(d.toNat, 16), (h.toNat, 8), (o.toNat, 0)])
  | .ldsB128 d h o => some (asm 0x8E000000 [(d.toNat, 16), (h.toNat, 8), (o.toNat, 0)])
  | .stsB32 d h o => some (asm 0x8F000000 [(d.toNat, 16), (h.toNat, 8), (o.toNat, 0)])
  | .stsB64 d h o => some (asm 0x90000000 [(d.toNat, 16), (h.toNat, 8), (o.toNat, 0)])
  | .stsB128 d h o => some (asm 0x91000000 [(d.toNat, 16), (h.toNat, 8), (o.toNat, 0)])
  | .atomAdd d h o => some (asm 0x92000000 [(d.toNat, 16), (h.toNat, 8), (o.toNat, 0)])
  | .atomMins d h o => some (asm 0x93000000 [(d.toNat, 16), (h.toNat, 8), (o.toNat, 0)])
  | .atomMaxs d h o => some (asm 0x94000000 [(d.toNat, 16), (h.toNat, 8), (o.toNat, 0)])
  | .atomAnd d h o => some (asm 0x95000000 [(d.toNat, 16), (h.toNat, 8), (o.toNat, 0)])
  | .atomOr d h o => some (asm 0x96000000 [(d.toNat, 16), (h.toNat, 8), (o.toNat, 0)])
  | .atomXor d h o => some (asm 0x97000000 [(d.toNat, 16), (h.toNat, 8), (o.toNat, 0)])
  | .atomXchg d h o => some (asm 0x98000000 [(d.toNat, 16), (h.toNat, 8), (o.toNat, 0)])
  | .atomCas d h o => some (asm 0x99000000 [(d.toNat, 16), (h.toNat, 8), (o.toNat, 0)])
  | .atomFadd d h o => some (asm 0x9A000000 [(d.toNat, 16), (h.toNat, 8), (o.toNat, 0)])
  | .atomAdd64 d h o => some (asm 0x9B000000 [(d.toNat, 16), (h.toNat, 8), (o.toNat, 0)])
  | .hmk d a b => some (asm 0x9C000000 [(d.toNat, 16), (a.toNat, 8), (b.toNat, 0)])
  | .hadd d a b => some (asm 0x9D000000 [(d.toNat, 16), (a.toNat, 8), (b.toNat, 0)])
  | .hqry d a s => some (asm 0x9E000000 [(d.toNat, 16), (a.toNat, 8), (s.toNat, 0)])
  | .pref l h o => some (asm 0x9F000000 [(l.toNat, 16), (h.toNat, 8), (o.toNat, 0)])
  | .bra p o => some (asm 0xA0000000 [(p.toNat, 16), (o.toNat, 0)])
  | .call p o => some (asm 0xA1000000 [(p.toNat, 16), (o.toNat, 0)])
  | .ret => some (asm 0xA2000000 [])
  | .bri p a => some (asm 0xA3000000 [(p.toNat, 16), (a.toNat, 8)])
  | .exit => some (asm 0xA4000000 [])
  | .yield p => some (asm 0xA5000000 [(p.toNat, 16)])
  | .loop p o => some (asm 0xA6000000 [(p.toNat, 16), (o.toNat, 0)])
  | .waitf f => some (asm 0xA7000000 [(f.toNat, 0)])
  | .brc n p o => some (asm 0xA8000000 [(n.toNat, 24), (p.toNat, 16), (o.toNat, 0)])
  | .brn n p o => some (asm 0xB0000000 [(n.toNat, 24), (p.toNat, 16), (o.toNat, 0)])
  | .enrol j => some (asm 0xB8000000 [(j.toNat, 0)])
  | .park p j => some (asm 0xB9000000 [(p.toNat, 16), (j.toNat, 0)])
  | .strike j => some (asm 0xBA000000 [(j.toNat, 0)])
  | .jqry d s j => some (asm 0xBB000000 [(d.toNat, 16), (s.toNat, 8), (j.toNat, 0)])
  | .nop => some (asm 0xBC000000 [])
  | .resv n a => some (asm 0xC0000000 [(n.toNat, 16), (a.toNat, 8)])
  | .free n => some (asm 0xC1000000 [(n.toNat, 16)])
  | .tset n a => some (asm 0xC2000000 [(n.toNat, 16), (a.toNat, 8)])
  | .tld x r c n => some (asm 0xC3000000 [(x.toNat, 18), (r.toNat, 12), (c.toNat, 6), (n.toNat, 3)])
  | .tst x r c n => some (asm 0xC4000000 [(x.toNat, 18), (r.toNat, 12), (c.toNat, 6), (n.toNat, 3)])
  | .tzero x => some (asm 0xC5000000 [(x.toNat, 18)])
  | .mma x y z p c => some (asm 0xC6000000 [(x.toNat, 18), (y.toNat, 12), (z.toNat, 6), (p.toNat, 1), (c.toNat, 0)])
  | .mmag x y z p c => some (asm 0xC7000000 [(x.toNat, 18), (y.toNat, 12), (z.toNat, 6), (p.toNat, 1), (c.toNat, 0)])
  | .rast x y z t e => some (asm 0xC8000000 [(x.toNat, 18), (y.toNat, 12), (z.toNat, 6), (t.toNat, 1), (e.toNat, 0)])
  | .mpost s a => some (asm 0xC9000000 [(s.toNat, 16), (a.toNat, 8)])
  | .mpre s a => some (asm 0xCA000000 [(s.toNat, 16), (a.toNat, 8)])
  | .tcvt x y q => some (asm 0xCB000000 [(x.toNat, 18), (y.toNat, 12), (q.toNat, 0)])
  | .mqry d x s => some (asm 0xCC000000 [(d.toNat, 16), (x.toNat, 8), (s.toNat, 0)])
  | .cpy c a h => some (asm 0xD0000000 [(c.toNat, 16), (a.toNat, 8), (h.toNat, 0)])
  | .cpym c a h => some (asm 0xD1000000 [(c.toNat, 16), (a.toNat, 8), (h.toNat, 0)])
  | .cpys c a h => some (asm 0xD2000000 [(c.toNat, 16), (a.toNat, 8), (h.toNat, 0)])
  | .binc t a b => some (asm 0xD3000000 [(t.toNat, 16), (a.toNat, 8), (b.toNat, 0)])
  | .binp t m => some (asm 0xD4000000 [(t.toNat, 8), (m.toNat, 0)])
  | .hrel m => some (asm 0xD5000000 [(m.toNat, 0)])
  | .launch a => some (asm 0xD6000000 [(a.toNat, 8)])
  | .tkinit s a b => some (asm 0xD7000000 [(s.toNat, 16), (a.toNat, 8), (b.toNat, 0)])
  | .tkexp s a b => some (asm 0xD8000000 [(s.toNat, 16), (a.toNat, 8), (b.toNat, 0)])
  | .tkarr s a o => some (asm 0xD9000000 [(s.toNat, 16), (a.toNat, 8), (o.toNat, 0)])
  | .tkwait d a s p => some (asm 0xDA000000 [(d.toNat, 16), (a.toNat, 8), (s.toNat, 7), (p.toNat, 6)])
  | .tkkill s a => some (asm 0xDB000000 [(s.toNat, 16), (a.toNat, 8)])
  | .bbinit a b => some (asm 0xDC000000 [(a.toNat, 8), (b.toNat, 0)])
  | .bbawait d a => some (asm 0xDD000000 [(d.toNat, 16), (a.toNat, 8)])
  | .bbrel a => some (asm 0xDE000000 [(a.toNat, 8)])
  | .shcfg e n p c => some (asm 0xDF000000 [(e.toNat, 23), (n.toNat, 16), (p.toNat, 8), (c.toNat, 0)])
  | .aqp a => some (asm 0xE0000000 [(a.toNat, 8)])
  | .kvap d a b => some (asm 0xE1000000 [(d.toNat, 16), (a.toNat, 8), (b.toNat, 0)])
  | .aqst d a s => some (asm 0xE2000000 [(d.toNat, 16), (a.toNat, 8), (s.toNat, 0)])
  | .trq a => some (asm 0xE3000000 [(a.toNat, 8)])
  | .psend h a b => some (asm 0xE4000000 [(h.toNat, 16), (a.toNat, 8), (b.toNat, 0)])
  | .travel p a => some (asm 0xE5000000 [(p.toNat, 16), (a.toNat, 8)])
  | .pqry d s => some (asm 0xE6000000 [(d.toNat, 16), (s.toNat, 0)])
  | .fence r o => some (asm 0xE8000000 [(r.toNat, 6), (o.toNat, 0)])
  | .bind d a b => some (asm 0xE9000000 [(d.toNat, 16), (a.toNat, 8), (b.toNat, 0)])
  | .unbind a => some (asm 0xEA000000 [(a.toNat, 8)])
  | .acq d a b => some (asm 0xEB000000 [(d.toNat, 16), (a.toNat, 8), (b.toNat, 0)])
  | .rel a o => some (asm 0xEC000000 [(a.toNat, 8), (o.toNat, 0)])
  | .acqr d h o => some (asm 0xED000000 [(d.toNat, 16), (h.toNat, 8), (o.toNat, 0)])
  | .relw d h o => some (asm 0xEE000000 [(d.toNat, 16), (h.toNat, 8), (o.toNat, 0)])
  | .trap n => some (asm 0xF0000000 [(n.toNat, 0)])
  | .svc n => some (asm 0xF1000000 [(n.toNat, 0)])
  | .rft => some (asm 0xF2000000 [])
  | .rftResume a => some (asm 0xF2000001 [(a.toNat, 8)])
  | .rftKill a => some (asm 0xF2000002 [(a.toNat, 8)])
  | .brk i => some (asm 0xF3000000 [(i.toNat, 0)])
  | .brkSet k a => some (asm 0xF3400000 [(k.toNat, 20), (a.toNat, 8)])
  | .brkClr k => some (asm 0xF3800000 [(k.toNat, 20)])
  | .csrr d s => some (asm 0xF4000000 [(d.toNat, 16), (s.toNat, 0)])
  | .csrrCyc d => some (asm 0xF4000008 [(d.toNat, 16)])
  | .csrw d s => some (asm 0xF5000000 [(d.toNat, 16), (s.toNat, 0)])
  | .csrwIldom d n => some (asm 0xF5000C10 [(d.toNat, 16), (n.toNat, 0)])
  | .csrwOflag d => some (asm 0xF5000103 [(d.toNat, 16)])
  | .invalTranslation a => some (asm 0xF6000000 [(a.toNat, 8)])
  | .invalWriteback a => some (asm 0xF6000001 [(a.toNat, 8)])
  | .invalKey a => some (asm 0xF6000002 [(a.toNat, 8)])
  | .wait d a b => some (asm 0xF7000000 [(d.toNat, 16), (a.toNat, 8), (b.toNat, 0)])
  | .himm i => some (asm 0xF8000000 [(i.toNat, 0)])
  | .rep c d a b => some (asm 0xF9000000 [(c.toNat, 18), (d.toNat, 16), (a.toNat, 14), (b.toNat, 12)])
  | .hmod e n s t r f h b o => some (asm 0xFA000000 [(e.toNat, 23), (n.toNat, 20), (s.toNat, 19), (t.toNat, 18), (r.toNat, 15), (f.toNat, 14), (h.toNat, 13), (b.toNat, 12), (o.toNat, 8)])
  | .hopd c m => some (asm 0xFB000000 [(c.toNat, 16), (m.toNat, 0)])
  | .clauseHeader w a b l y => some (asm 0xFC000000 [(w.toNat, 14), (a.toNat, 10), (b.toNat, 6), (l.toNat, 2), (y.toNat, 1)])
  | .runAheadEnd _ => none
  | .interleaveSwitchEnd _ _ => none
  | .hostQueueDoorbell _ _ _ => none
  | .launchArrival => none
  | .signatureCheck _ => none
  | .extentWalk _ => none
  | .gorluxTranslation _ _ _ => none
  | .yokePlacement _ => none
  | .panelStart _ => none
  | .panelSwitchOut _ => none
  | .panelResume _ => none
  | .memoryOpComplete _ _ _ _ => none
  | .lateReport _ _ => none
  | .pageWalkComplete _ => none
  | .binningAppend _ _ _ => none
  | .deferredAppendReplay _ => none
  | .copyCommandStart _ => none
  | .bobbinSlotClaim _ => none
  | .copyChunkDelivery _ => none
  | .scoutFault _ => none
  | .copyCommandComplete _ => none
  | .tkwaitComplete _ _ _ => none
  | .bbawaitComplete _ _ _ => none
  | .acqSatisfied _ _ => none
  | .waitDone _ _ => none
  | .matrixGrant _ => none
  | .matrixRequestComplete _ => none
  | .freeRecordClear _ _ => none
  | .travelDeparture _ _ => none
  | .parcelArrival _ => none
  | .spoolParcelToThread _ => none
  | .overflowReadback _ => none
  | .occupancyReport _ => none
  | .parcelSendOnPin _ => none
  | .messageArrival _ => none
  | .handlerPanelStart _ => none
  | .queryPost _ _ => none
  | .stackResultWrite _ _ => none
  | .sweepResultWrite _ => none
  | .rowRefresh _ _ _ => none
  | .refreshSlackExpiry _ _ _ => none
  | .scrubRow _ _ _ => none
  | .stackThrottle _ _ => none
  | .faultRecordPost _ => none
  | .coreReset _ => none
  | .panelRetire _ => none
  | .launchRetire _ => none
  | .hostMemAccess _ _ _ => none
  | .peerRequest _ => none
  | .flitCrcRetry _ => none
  | .bridgeRetrainTimeout => none
  | .zidorLinkDownTimeout _ => none
  | .eccError _ => none
  | .thermalThrottle => none
  | .thermalShutdown => none
  | .powerOnReset _ => none
  | .create _ _ => none
  | .destroy _ _ => none
  | .super _ _ _ => none
  | .qset _ _ _ _ _ => none
  | .cancel _ _ _ => none
  | .evict _ _ _ => none
  | .domain _ _ _ => none
  | .vlog _ _ _ => none
  | .attest _ _ _ => none
  | .resync _ _ => none
  | .unassignedOpcode => none
  | .releaseComplete _ _ => none
  | .invalComplete _ _ => none
  | .bridgeRetrainStart => none
  | .bridgeRetrainEnd => none
  | .zidorLinkDown _ => none
  | .zidorLinkTrained _ _ => none
  | .thermalThrottleEnd => none

/-- What the decoder reads from an instruction whose bits are `w`, numbered as the opcode table numbers them. Every
instruction is one 32-bit word, so `w` is that word; a number of more than 32 bits is none. -/
def decodeTableWord (nbits w : Nat) : Option Instr :=
  if nbits ≤ 32 ∧ w < 2 ^ 32 then
    match decode (BitVec.ofNat 32 w) with
    | .ok i => some i
    | .error _ => none
  else none

end Sys2Proof
end

