-- ==== Sys2Proof/Machine/Bits.lean ====
section
/-! DEFINITION. Bit-field, byte-order and counting helpers (R4). -/

namespace Sys2Proof.Machine

/-- The `k` low bytes of a number, lowest first (R4). -/
def leBytes : Nat → Nat → List Byte
  | 0, _ => []
  | k + 1, n => BitVec.ofNat 8 n :: leBytes k (n / 256)

/-- The number that bytes hold, lowest first (R4). -/
def ofLeBytes : List Byte → Nat
  | [] => 0
  | b :: bs => b.toNat + 256 * ofLeBytes bs

/-- The 32-bit words that bytes hold, lowest first. -/
def wordsOf : List Byte → List Word
  | a :: b :: c :: d :: rest => BitVec.ofNat 32 (ofLeBytes [a, b, c, d]) :: wordsOf rest
  | _ => []

/-- The bytes of 32-bit words. -/
def bytesOfWords (ws : List Word) : List Byte := ws.flatMap fun w => leBytes 4 w.toNat

/-- Word `i` of a record, as a number. -/
def wnat (ws : List Word) (i : Nat) : Nat := (ws.getD i 0).toNat

/-- Words `i` and `i + 1` of a record as a 64-bit number (R4). -/
def dnat (ws : List Word) (i : Nat) : Nat := wnat ws i + wnat ws (i + 1) * 2 ^ 32

/-- Four words as one 128-bit value. -/
def qOfWords (ws : List Word) : QWord := BitVec.ofNat 128 (ofLeBytes (bytesOfWords (ws.take 4)))

def wordsOfQ (q : QWord) : List Word := wordsOf (leBytes 16 q.toNat)

/-- One of two words of a 64-bit value. -/
def lowWord (x : Nat) : Word := BitVec.ofNat 32 x

def highWord (x : Nat) : Word := BitVec.ofNat 32 (x / 2 ^ 32)

/-- Bits set among the lowest `w`. -/
def popCount : Nat → Nat → Nat
  | 0, _ => 0
  | w + 1, n => n % 2 + popCount w (n / 2)

/-- The number of the `k`-th set bit, counting from bit 0, among the lowest `w`; `w` if there is none. -/
def nthSet : Nat → Nat → Nat → Nat
  | 0, _, _ => 0
  | w + 1, n, k =>
    if n % 2 = 1 then (match k with
      | 0 => 0
      | k + 1 => 1 + nthSet w (n / 2) k)
    else 1 + nthSet w (n / 2) k

/-- Numbers of the set bits among the lowest `w`, ascending. -/
def setBits (w n : Nat) : List Nat := (List.range w).filter fun i => n.testBit i

/-- A signed value of `w` bits as an integer. -/
def sint (w n : Nat) : Int := if n % 2 ^ w < 2 ^ (w - 1) then (n % 2 ^ w : Nat) else (n % 2 ^ w : Nat) - (2 ^ w : Nat)

/-- An integer modulo 2^w. -/
def wrap (w : Nat) (i : Int) : Nat := (i % (2 ^ w : Nat)).toNat

/-- Ceiling division. -/
def cdiv (a b : Nat) : Nat := (a + b - 1) / b

def roundUp (a b : Nat) : Nat := cdiv a b * b

/-- Bit i from a function of i. -/
def bitsOf (w : Nat) (f : Nat → Bool) : Nat := (List.range w).foldl (fun n i => n + if f i then 2 ^ i else 0) 0

/-- Replace or keep: the element of a list whose key is that of `x`. -/
def putKey {α : Type} (key : α → Nat) (x : α) (l : List α) : List α :=
  l.map fun y => if key y = key x then x else y

def findKey {α : Type} (key : α → Nat) (k : Nat) (l : List α) : Option α := l.find? fun y => key y == k

def dropKey {α : Type} (key : α → Nat) (k : Nat) (l : List α) : List α := l.filter fun y => key y != k

/-- The least element of a list by a key, the first of equals. -/
def leastBy {α : Type} (key : α → Nat) : List α → Option α
  | [] => none
  | x :: xs =>
    match leastBy key xs with
    | none => some x
    | some y => if key x ≤ key y then some x else some y

/-- Insert by rising key, after equals. -/
def insertBy {α : Type} (key : α → Nat) (x : α) : List α → List α
  | [] => [x]
  | y :: ys => if key x < key y then x :: y :: ys else y :: insertBy key x ys

def sortBy {α : Type} (key : α → Nat) (l : List α) : List α := l.foldl (fun acc x => insertBy key x acc) []

end Sys2Proof.Machine
end

