-- ==== Sys2Proof/Machine/Flags.lean ====
section
/-! DEFINITION. Every flag and predicate computation: the sticky flags of `%fflags` (R112), the comb field (R210), the
conditions of the compares (R210, R218). -/

namespace Sys2Proof.Machine

/-! ## `%fflags`, bit 4 first (R112) -/

def fNV : BitVec 5 := 0b10000
def fDZ : BitVec 5 := 0b01000
def fOF : BitVec 5 := 0b00100
def fUF : BitVec 5 := 0b00010
def fNX : BitVec 5 := 0b00001

/-- A flag where a condition holds. -/
def flagIf (c : Bool) (f : BitVec 5) : BitVec 5 := if c then f else 0

/-- Flags raised by several parts (R185). -/
def orFlags (l : List (BitVec 5)) : BitVec 5 := l.foldl (· ||| ·) 0

/-! ## Predicates -/

/-- The new value of a predicate (R210): comb 0 the test, 1 and, 2 or. -/
def comb (m : BitVec 2) (old t : Bool) : Bool :=
  if m = 0 then t else if m = 1 then old && t else old || t

/-- Signed conditions 0 to 5 of R210. -/
def condS (c : Nat) (a b : Int) : Bool :=
  match c with
  | 0 => a == b
  | 1 => a != b
  | 2 => a < b
  | 3 => a ≤ b
  | 4 => a > b
  | _ => a ≥ b

/-- Unsigned conditions 0 to 5 of R210. -/
def condN (c : Nat) (a b : Nat) : Bool := condS c a b

/-- The conditions of `ICMPI` (R210): 6 and 7 compare unsigned. -/
def condI (c : Nat) (a x : Nat) : Bool :=
  if c = 6 then a < x else if c = 7 then x ≤ a else condS c (sint 32 a) (sint 32 x)

/-- How two numbers stand, or that one is no number (R218). -/
inductive Rel where
  | lt | eq | gt | un
  deriving DecidableEq, Repr

/-- The conditions of `FCMP` (R218). -/
def condF (c : Nat) (r : Rel) : Bool :=
  match c with
  | 0 => r == .eq
  | 1 => r != .eq
  | 2 => r == .lt
  | 3 => r == .lt || r == .eq
  | 4 => r == .gt
  | 5 => r == .gt || r == .eq
  | 6 => r == .un
  | _ => r != .un

end Sys2Proof.Machine
end

