-- ==== Sys2Proof/Machine/Num.lean ====
section
/-! DEFINITION. Numbers: exact values, rounding (R176 to R178), IEEE formats (R159 to R161, R180), sums (R187, R188),
compares (R191, R217, R218). -/

namespace Sys2Proof.Machine

/-! ## Exact values -/

/-- A datum: a NaN, an infinity, or the exact value (-1)^neg * n / d with d > 0; a zero keeps its sign. -/
inductive FVal where
  | nan (signalling : Bool)
  | inf (neg : Bool)
  | fin (neg : Bool) (n d : Nat)
  deriving DecidableEq, Repr

namespace FVal

def isNan : FVal → Bool
  | nan _ => true
  | _ => false

def isSig : FVal → Bool
  | nan b => b
  | _ => false

def isInf : FVal → Bool
  | inf _ => true
  | _ => false

def isZero : FVal → Bool
  | fin _ n _ => n == 0
  | _ => false

def sign : FVal → Bool
  | nan _ => false
  | inf b => b
  | fin b _ _ => b

def negate : FVal → FVal
  | nan s => nan s
  | inf b => inf (!b)
  | fin b n d => fin (!b) n d

def abs : FVal → FVal
  | nan s => nan s
  | inf _ => inf false
  | fin _ n d => fin false n d

/-- An integer. -/
def ofInt (i : Int) : FVal := fin (decide (i < 0)) i.natAbs 1

/-- |x| < |y| for finite values. -/
def magLt : FVal → FVal → Bool
  | fin _ n d, fin _ n' d' => n * d' < n' * d
  | fin _ _ _, inf _ => true
  | _, _ => false

/-- How two values stand (R218): -0 equals +0. -/
def rel (x y : FVal) : Rel :=
  match x, y with
  | nan _, _ => .un
  | _, nan _ => .un
  | inf a, inf b => if a = b then .eq else if a then .lt else .gt
  | inf a, _ => if a then .lt else .gt
  | _, inf b => if b then .gt else .lt
  | fin a n d, fin b n' d' =>
    let l : Int := (if a then -(n * d' : Nat) else (n * d' : Nat))
    let r : Int := (if b then -(n' * d : Nat) else (n' * d : Nat))
    if l < r then .lt else if l = r then .eq else .gt

/-- Product; the second part says that it is invalid (inf * 0). -/
def mul (x y : FVal) : FVal × Bool :=
  match x, y with
  | nan _, _ => (nan false, false)
  | _, nan _ => (nan false, false)
  | fin a n d, fin b n' d' => (fin (a != b) (n * n') (d * d'), false)
  | x, y => if x.isZero || y.isZero then (nan false, true) else (inf (x.sign != y.sign), false)

/-- Two fractions over one denominator. -/
def common (n d n' d' : Nat) : Nat × Nat × Nat :=
  if d = d' then (n, n', d)
  else if d' % d = 0 then (n * (d' / d), n', d')
  else if d % d' = 0 then (n, n' * (d / d'), d)
  else (n * d', n' * d, d * d')

/-- Sum of finite values; `zneg` is the sign of an exact zero from terms that are not zeros of one sign. -/
def addFin (zneg : Bool) (a : Bool) (n d : Nat) (b : Bool) (n' d' : Nat) : FVal :=
  let c := common n d n' d'
  if a = b then fin a (c.1 + c.2.1) c.2.2
  else if c.2.1 < c.1 then fin a (c.1 - c.2.1) c.2.2
  else if c.1 < c.2.1 then fin b (c.2.1 - c.1) c.2.2
  else fin zneg 0 1

/-- Sum; the second part says that it is invalid (inf - inf). -/
def add (zneg : Bool) (x y : FVal) : FVal × Bool :=
  match x, y with
  | nan _, _ => (nan false, false)
  | _, nan _ => (nan false, false)
  | inf a, inf b => if a = b then (inf a, false) else (nan false, true)
  | inf a, _ => (inf a, false)
  | _, inf b => (inf b, false)
  | fin a n d, fin b n' d' => (addFin zneg a n d b n' d', false)

/-- x * 2^k. -/
def scale2 (x : FVal) (k : Int) : FVal :=
  match x with
  | fin s n d => if k ≥ 0 then fin s (n * 2 ^ k.toNat) d else fin s n (d * 2 ^ (-k).toNat)
  | v => v

end FVal

/-! ## Rounding (R176, R177) -/

inductive RMode where
  | rne | rtz | rup | rdn | rna
  /-- dithered, with the table value D[(i + phi) mod 32] -/
  | srd (d : Nat)
  deriving DecidableEq, Repr

/-- `%rnd`, or the rmode of `HMOD` but for SRD (R108, R176). -/
def RMode.ofCode (rnd : Nat) (rmode : Nat) : RMode :=
  match (if rmode = 0 then rnd + 1 else rmode) with
  | 1 => .rne
  | 2 => .rtz
  | 3 => .rup
  | 4 => .rdn
  | _ => .rna

/-- The dither table (R178): the 5-bit bit reversal. -/
def ditherD (i : Nat) : Nat := bitsOf 5 fun k => (i % 32).testBit (4 - k)

/-- Round away from zero? The remainder is rn / rd of one step, `odd` the last bit kept, `neg` the sign of x (R177). -/
def RMode.away (m : RMode) (neg odd : Bool) (rn rd : Nat) : Bool :=
  match m with
  | .rne => 2 * rn > rd || (2 * rn == rd && odd)
  | .rna => 2 * rn ≥ rd
  | .rtz => false
  | .rup => rn != 0 && !neg
  | .rdn => rn != 0 && neg
  | .srd d => rn * 32 / rd > d

/-- Rounds n / d to an integer: the integer, and whether it differs. -/
def roundInt (m : RMode) (neg : Bool) (n d : Nat) : Nat × Bool :=
  let t := n / d
  let r := n % d
  (if m.away neg (t % 2 == 1) r d then t + 1 else t, r != 0)

/-- floor(log2(n / d)) for n > 0. -/
def flog2 (n d : Nat) : Int :=
  let l : Int := (Nat.log2 n : Int) - (Nat.log2 d : Int)
  if l ≥ 0 then (if n < d * 2 ^ l.toNat then l - 1 else l) else (if n * 2 ^ (-l).toNat < d then l - 1 else l)

/-- n / d as a fraction of 2^q. -/
def unitsOf (n d : Nat) (q : Int) : Nat × Nat := if q ≥ 0 then (n, d * 2 ^ q.toNat) else (n * 2 ^ (-q).toNat, d)

/-- A rounded magnitude y * 2^q and whether it differs from x. -/
structure Rounded where
  y : Nat
  q : Int
  nx : Bool
  deriving DecidableEq, Repr

/-- Round n / d to `m` mantissa bits, exponents unbounded above and at least `emin` (R177). -/
def roundGrid (mode : RMode) (m : Nat) (emin : Int) (neg : Bool) (n d : Nat) : Rounded :=
  if n = 0 then ⟨0, emin - m, false⟩
  else
    let q := max (flog2 n d) emin - m
    let u := unitsOf n d q
    let r := roundInt mode neg u.1 u.2
    ⟨r.1, q, r.2⟩

/-! ## IEEE formats (R159) -/

structure FFmt where
  /-- exponent and mantissa bits -/
  e : Nat
  m : Nat
  deriving DecidableEq, Repr

def fp64 : FFmt := ⟨11, 52⟩
def fp32 : FFmt := ⟨8, 23⟩
def fp16 : FFmt := ⟨5, 10⟩
def bf16 : FFmt := ⟨8, 7⟩

namespace FFmt

def bias (f : FFmt) : Nat := 2 ^ (f.e - 1) - 1
def emin (f : FFmt) : Int := 1 - (f.bias : Int)
def width (f : FFmt) : Nat := 1 + f.e + f.m
def signBit (f : FFmt) (neg : Bool) : Nat := if neg then 2 ^ (f.e + f.m) else 0
def infBits (f : FFmt) : Nat := (2 ^ f.e - 1) * 2 ^ f.m
def maxBits (f : FFmt) : Nat := f.infBits - 1
/-- The canonical NaN (R160). -/
def nanBits (f : FFmt) : Nat := f.infBits + 2 ^ (f.m - 1)

def expOf (f : FFmt) (x : Nat) : Nat := bits x f.m f.e
def manOf (f : FFmt) (x : Nat) : Nat := x % 2 ^ f.m
def negOf (f : FFmt) (x : Nat) : Bool := x.testBit (f.e + f.m)
/-- A nonzero value below the smallest normal. -/
def subnormal (f : FFmt) (x : Nat) : Bool := f.expOf x == 0 && f.manOf x != 0

/-- The value of a code. -/
def val (f : FFmt) (x : Nat) : FVal :=
  if f.expOf x = 2 ^ f.e - 1 then
    (if f.manOf x = 0 then .inf (f.negOf x) else .nan (!(f.manOf x).testBit (f.m - 1)))
  else if f.expOf x = 0 then .fin (f.negOf x) (f.manOf x) (2 ^ (f.bias - 1 + f.m))
  else .fin (f.negOf x) ((2 ^ f.m + f.manOf x) * 2 ^ (f.expOf x - 1)) (2 ^ (f.bias - 1 + f.m))

/-- The value of an operand, flushed under ftz (R161). -/
def valFtz (f : FFmt) (ftz : Bool) (x : Nat) : FVal :=
  if ftz && f.subnormal x then .fin (f.negOf x) 0 1 else f.val x

/-- Magnitude code of y * 2^q without a bound; at or above `infBits` it has overflowed. -/
def magCode (f : FFmt) (r : Rounded) : Nat :=
  if r.y < 2 ^ f.m then r.y
  else
    let y := if r.y = 2 ^ (f.m + 1) then 2 ^ f.m else r.y
    let q := if r.y = 2 ^ (f.m + 1) then r.q + 1 else r.q
    let e := q + f.m + f.bias
    e.toNat * 2 ^ f.m + (y - 2 ^ f.m)

/-- What overflow gives: infinity, or the largest finite where the mode points inward (R180). -/
def overflowBits (f : FFmt) (mode : RMode) (neg sat : Bool) : Nat :=
  let inward : Bool := match mode with
    | .rtz => true
    | .rup => neg
    | .rdn => !neg
    | _ => false
  if sat || inward then f.maxBits else f.infBits

/-- Rounding of a value to this format (R177, R180): code and flags. -/
def round (f : FFmt) (mode : RMode) (sat ftz : Bool) (x : FVal) : Nat × BitVec 5 :=
  match x with
  | .nan sig => (f.nanBits, flagIf sig fNV)
  | .inf neg => (f.signBit neg + (if sat then f.maxBits else f.infBits), 0)
  | .fin neg n d =>
    let r := roundGrid mode f.m f.emin neg n d
    let c := f.magCode r
    if c ≥ f.infBits then (f.signBit neg + f.overflowBits mode neg sat, fOF ||| fNX)
    else
      let small := decide (c < 2 ^ f.m)
      if ftz && small && c != 0 then (f.signBit neg, fUF ||| fNX)
      else (f.signBit neg + c, flagIf r.nx fNX ||| flagIf (r.nx && small) fUF)

/-- The result of an operation whose exact value is `x`, invalid or not (R216). -/
def result (f : FFmt) (mode : RMode) (sat ftz : Bool) (ops : List FVal) (x : FVal × Bool) : Nat × BitVec 5 :=
  if ops.any FVal.isNan then (f.nanBits, flagIf (ops.any FVal.isSig) fNV)
  else if x.2 then (f.nanBits, fNV)
  else f.round mode sat ftz x.1

end FFmt

/-- Sign of an exact zero sum (R216). -/
def RMode.zneg (m : RMode) : Bool := m == .rdn

/-- A * B + C, the product exact; the second part says invalid. -/
def fmaVal (zneg : Bool) (a b c : FVal) : FVal × Bool :=
  let p := a.mul b
  let r := p.1.add zneg c
  (r.1, p.2 || r.2)

/-! ## Exact sums rounded once (R187, R188) -/

/-- The exact sum of terms, with the special cases of R187: the value, and whether NV is set. -/
def exactSum (operands : List FVal) (terms : List (FVal × Bool)) : FVal × Bool :=
  let vs := terms.map (·.1)
  let pos := vs.any (fun v => v == .inf false)
  let neg := vs.any (fun v => v == .inf true)
  let nv := terms.any (·.2) || (pos && neg)
  if nv || operands.any FVal.isNan || vs.any FVal.isNan then (.nan false, nv)
  else if pos then (.inf false, false)
  else if neg then (.inf true, false)
  else
    let s := vs.foldl (fun acc v => (acc.add false v).1) (.fin true 0 1)
    if s.isZero then (.fin (vs.all fun v => v.isZero && v.sign) 0 1, false) else (s, false)

/-- An exact sum rounded once with RNE (R187). -/
def sumRound (f : FFmt) (operands : List FVal) (terms : List (FVal × Bool)) : Nat × BitVec 5 :=
  let s := exactSum operands terms
  let r := f.round .rne false false s.1
  (r.1, r.2 ||| flagIf s.2 fNV)

/-! ## Minimum, maximum (R191, R217) -/

/-- x stands before y, with -0 below +0. -/
def FVal.before (x y : FVal) : Bool :=
  match x.rel y with
  | .lt => true
  | .eq => x.isZero && y.isZero && x.sign && !y.sign
  | _ => false

/-- minimumNumber or maximumNumber of two codes: the code, and whether NV is set. -/
def FFmt.minmax (f : FFmt) (maxi ftz : Bool) (x y : Nat) : Nat × BitVec 5 :=
  let flush (c : Nat) : Nat := if ftz && f.subnormal c then f.signBit (f.negOf c) else c
  let x := flush x
  let y := flush y
  let a := f.val x
  let b := f.val y
  let nv := flagIf (a.isSig || b.isSig) fNV
  if a.isNan && b.isNan then (f.nanBits, nv)
  else if a.isNan then (y, nv)
  else if b.isNan then (x, nv)
  else if (if maxi then b.before a else a.before b) then (x, nv) else (y, nv)

/-! ## Integer square root -/

/-- The greatest r with r^2 ≤ n, bit by bit from bit k. -/
def isqrtFrom (n : Nat) : Nat → Nat → Nat
  | 0, r => if (r + 1) * (r + 1) ≤ n then r + 1 else r
  | k + 1, r => isqrtFrom n k (if (r + 2 ^ (k + 1)) * (r + 2 ^ (k + 1)) ≤ n then r + 2 ^ (k + 1) else r)

def isqrt (n : Nat) : Nat := isqrtFrom n (Nat.log2 n / 2 + 1) 0

/-- One FP32 addition of the tree (R190). -/
def treeAdd (x y : Nat) : Nat × BitVec 5 :=
  let a := fp32.val x
  let b := fp32.val y
  fp32.result .rne false false [a, b] (a.add false b)

end Sys2Proof.Machine
end

