-- ==== Sys2Proof/Machine/Memory.lean ====
section
/-! DEFINITION. Byte stores in one canonical form: (address, byte) pairs with rising addresses and no entry equal to 0,
which an unlisted address reads as (assumption log 8). The linings' data, host memory, scratchpads and regions. -/

namespace Sys2Proof.Machine

namespace Mem

/-- Canonical from address `lo` upward. -/
def wfFrom : Nat → List Host.Cell → Bool
  | _, [] => true
  | lo, (a, b) :: t => decide (lo ≤ a ∧ b ≠ 0) && wfFrom (a + 1) t

/-- The canonical form. -/
def wf (m : List Host.Cell) : Bool := wfFrom 0 m

/-- The byte at an address. -/
def get : List Host.Cell → Nat → Byte
  | [], _ => 0
  | (a, b) :: t, x => if x < a then 0 else if x = a then b else get t x

/-- Write one byte; writing 0 removes the entry. -/
def put : List Host.Cell → Nat → Byte → List Host.Cell
  | [], x, v => if v = 0 then [] else [(x, v)]
  | (a, b) :: t, x, v =>
    if x < a then (if v = 0 then (a, b) :: t else (x, v) :: (a, b) :: t)
    else if x = a then (if v = 0 then t else (a, v) :: t)
    else (a, b) :: put t x v

/-- Bytes from an address on. -/
def getBytes (m : List Host.Cell) (a n : Nat) : List Byte := (List.range n).map fun i => get m (a + i)

/-- The little-endian number at an address (R4). -/
def getNat (m : List Host.Cell) (a n : Nat) : Nat := ofLeBytes (getBytes m a n)

/-- Write bytes from an address on. -/
def putBytes : List Host.Cell → Nat → List Byte → List Host.Cell
  | m, _, [] => m
  | m, a, b :: bs => putBytes (put m a b) (a + 1) bs

/-- Write those bytes whose mask bit is set. -/
def putMasked (m : List Host.Cell) (a : Nat) (bs : List Byte) (mask : Nat) : List Host.Cell :=
  ((List.range bs.length).filter fun i => mask.testBit i).foldl (fun m i => put m (a + i) (bs.getD i 0)) m

/-- Zero `n` bytes from an address on. -/
def zero (m : List Host.Cell) (a n : Nat) : List Host.Cell := m.filter fun c => c.1 < a || a + n ≤ c.1

theorem wfFrom_cons {lo a : Nat} {b : Byte} {t : List Host.Cell} :
    wfFrom lo ((a, b) :: t) = true ↔ (lo ≤ a ∧ b ≠ 0) ∧ wfFrom (a + 1) t = true := by
  rw [wfFrom, Bool.and_eq_true, decide_eq_true_eq]

theorem wfFrom_mono {lo lo' : Nat} (h : lo' ≤ lo) : ∀ {m : List Host.Cell}, wfFrom lo m = true → wfFrom lo' m = true
  | [], _ => rfl
  | (a, b) :: t, hm => by
    rw [wfFrom_cons] at hm ⊢
    exact ⟨⟨by omega, hm.1.2⟩, hm.2⟩

theorem wfFrom_put {x : Nat} {v : Byte} : ∀ {lo : Nat} {m : List Host.Cell}, wfFrom lo m = true → lo ≤ x →
    wfFrom lo (put m x v) = true
  | lo, [], _, hx => by
    rw [put]; split
    · rfl
    · next hv => rw [wfFrom_cons]; exact ⟨⟨hx, hv⟩, rfl⟩
  | lo, (a, b) :: t, hm, hx => by
    have hm' := hm
    rw [wfFrom_cons] at hm'
    obtain ⟨⟨ha, hb⟩, ht⟩ := hm'
    rw [put]; split
    · split
      · exact hm
      · next h1 hv => rw [wfFrom_cons, wfFrom_cons]; exact ⟨⟨hx, hv⟩, ⟨by omega, hb⟩, ht⟩
    · split
      · next h2 =>
        split
        · exact wfFrom_mono (by omega) ht
        · next hv => rw [wfFrom_cons]; exact ⟨⟨ha, hv⟩, ht⟩
      · next h1 h2 => rw [wfFrom_cons]; exact ⟨⟨ha, hb⟩, wfFrom_put ht (by omega)⟩

/-- Every write keeps the canonical form. -/
theorem wf_put {m : List Host.Cell} {x : Nat} {v : Byte} (h : wf m = true) : wf (put m x v) = true :=
  wfFrom_put h (Nat.zero_le x)

theorem wf_putBytes : ∀ {bs : List Byte} {m : List Host.Cell} {a : Nat}, wf m = true → wf (putBytes m a bs) = true
  | [], _, _, h => h
  | _ :: bs, _, _, h => wf_putBytes (bs := bs) (wf_put h)

theorem wf_foldl_put {α : Type} (f : α → Nat) (g : α → Byte) : ∀ (l : List α) {m : List Host.Cell}, wf m = true →
    wf (l.foldl (fun m i => put m (f i) (g i)) m) = true
  | [], _, h => h
  | _ :: l, _, h => wf_foldl_put f g l (wf_put h)

theorem wf_putMasked {m : List Host.Cell} {a mask : Nat} {bs : List Byte} (h : wf m = true) :
    wf (putMasked m a bs mask) = true := wf_foldl_put _ _ _ h

theorem wfFrom_filter (p : Host.Cell → Bool) : ∀ {m : List Host.Cell} {lo : Nat}, wfFrom lo m = true →
    wfFrom lo (m.filter p) = true
  | [], _, _ => rfl
  | (a, b) :: t, lo, h => by
    rw [wfFrom_cons] at h
    rw [List.filter_cons]; split
    · rw [wfFrom_cons]; exact ⟨h.1, wfFrom_filter p h.2⟩
    · exact wfFrom_mono (by omega) (wfFrom_filter p h.2)

theorem wf_zero {m : List Host.Cell} {a n : Nat} (h : wf m = true) : wf (zero m a n) = true := wfFrom_filter _ h

end Mem

end Sys2Proof.Machine
end

