-- ==== Sys2Proof/Config.lean ====
section
/-! DEFINITION. What an implementation fixes and what the spec leaves open. An opaque constant has no body:
nothing can be proved of its value, so a statement that holds, holds whatever it is. -/

namespace Sys2Proof

namespace Config

/-- A free number for the n-th open choice of a run (State.nonce); assumption log 4. -/
opaque freeNat : Nat → Nat

/-- How many cycles of a die pass at the n-th step (R9): step and die; none stands for one; assumption log 4. -/
opaque ticks : Nat → Nat → Option Nat

/-- A free yes or no for the n-th open choice of a run; assumption log 4. -/
opaque freeBool : Nat → Bool

/-- The k-th of several free choices made in one step (nonce, k); assumption log 4. -/
opaque freeAt : Nat → Nat → Nat

/-- The bits a special function gives before the bound of R222 is applied: function number, ftz, operand bits.
R223 fixes the same bits for the same inputs, and nothing more; assumption log 20. -/
opaque specialBits : Nat → Bool → Nat → Nat

/-- The plaintext that a byte written under one key ID has under another (R264): line, byte, key written, key
read; assumption log 21. -/
opaque foreignByte : Nat → Nat → Nat → Nat → Byte

/-- Whether a box that a ray misses by little survives (R413), or a ray of infinite fields meets a box: the item's and
the box's words; assumption log 24. -/
opaque nearBox : List Word → List Word → Bool

/-- SHA3-256, which the spec names (R23) and does not define: 32 bytes; assumption log 22. -/
opaque sha3 : List Byte → List Byte

/-- ML-DSA-44 verification of a signature over a digest under a public key (R23, R68); assumption log 22. -/
opaque mldsaVerify : List Byte → List Byte → List Byte → Bool

/-- A partition's signer set as the bytes that an attestation report digests (R463): identifiers with their
native-trusted bits (assumption log 22). -/
opaque signerSetBytes : List (List Byte × Bool) → List Byte

/-- ML-DSA-44 signature under the device identity key (R463): 2,420 bytes; assumption log 22. -/
opaque identitySign : List Byte → List Byte

/-- The device identity public key (R463); assumption log 22. -/
opaque identityKey : List Byte

/-- The running firmware's bytes (R463); assumption log 22. -/
opaque firmware : List Byte

/-- The portable index that a word of native text supplied in an object stands for (R74): object key, native
index. The spec does not say how the device knows it; assumption log 23. -/
opaque suppliedNativeIndex : Nat → Nat → Nat

/-- Which of a partition's stacks, counted from the lowest, a virtual address goes to that no declaration names (R25, R455):
partition, stack mask, 256-byte granule; the spec does not say; assumption log 31. -/
opaque rawStack : Nat → BitVec 16 → Nat → Nat

/-- Whether a read of host memory fails (R457, R476): choice and address; assumption log 4. -/
opaque hostReadFails : Nat → Nat → Bool

end Config

end Sys2Proof
end

