-- ==== Sys2Proof/Machine/State.lean ====
section
/-! DEFINITION. The state of the package as plain data: every piece the spec names, the three outcomes' fault and
refusal reasons, and the state after reset. INVENTORY.md lists each field with its rule and its reset value. -/

namespace Sys2Proof.Machine

/-- Why a step stops. -/
inductive Fault where
  /-- A translation, a table pointer or a device access names a stack-local address at or above 48 GiB, where the
  stack has no memory (R2: 16 x 48 GiB). Raised by the translation and the walker. Safe: the model stops. -/
  | stackHole
  deriving DecidableEq, Repr

/-- What the model does not carry out. -/
inductive Refusal where
  /-- Raised by an arm of `exec` for an instruction that has no meaning yet. Safe: the model stops. -/
  | notModelled (mnemonic : String)
  deriving DecidableEq, Repr

/-! ## Threads -/

/-- A `REP` word (R107). -/
structure RepHint where
  count : BitVec 6
  d : BitVec 2
  a : BitVec 2
  b : BitVec 2
  deriving DecidableEq, Repr

/-- An `HMOD` word (R108). -/
structure ModHint where
  pen : Bool
  pnum : BitVec 3
  psense : Bool
  sat : Bool
  rmode : BitVec 3
  ftz : Bool
  dith : Bool
  setb : Bool
  otype : BitVec 4
  deriving DecidableEq, Repr

/-- An `HOPD` word (R110). -/
structure OpdHint where
  c : BitVec 8
  mode : BitVec 16
  deriving DecidableEq, Repr

/-- The hint words read so far of the group in progress (R105); `first` is the portable index of its first word. -/
structure Hints where
  first : Option Nat
  himm : Option (BitVec 24)
  rep : Option RepHint
  hmod : Option ModHint
  hopd : Option OpdHint
  deriving DecidableEq, Repr

def Hints.empty : Hints := ⟨none, none, none, none, none⟩

/-- How a thread stands towards its frontier (R121). -/
inductive Phase where
  | ready
  /-- parked on rejoin mask `mask`, with the release pair of its `PARK` (R139) -/
  | parked (mask : Nat) (pc : Nat) (prio : Byte)
  /-- suspended until the supervisor answers (R427); it resumes at `pc` -/
  | suspended (pc : Nat)
  /-- between steps 4 and 8 of a departure (R372): target, priority there, and what the transfer writes when it takes
  effect: registers, `%rotbase`; a number that the departures of one stitch share (R374); and whether it is a return from a
  trap -/
  | departing (target : Nat) (prio : Byte) (writes : List (Nat × Word)) (rotbase group : Nat) (ret : Bool)
  /-- its parcel is in flight (R372) -/
  | flying
  | exited
  deriving DecidableEq, Repr

/-- Where an access goes after the port's checks (R240). -/
inductive Target where
  /-- this package: package address stack * 2^36 + L, key ID, slice mode and number in force (R251), and whether
  the buffer is written through to the lining (R358) -/
  | home (addr key mode num : Nat) (through : Bool)
  /-- a peer device of the launch's domain (R243) -/
  | peer (device : Nat)
  deriving DecidableEq, Repr

/-- A checked global access of `size` bytes (R240). -/
structure Access where
  slot : Nat
  offset : Nat
  size : Nat
  target : Target
  /-- the declaration is read-only (R31) -/
  ro : Bool
  /-- bin cursor of a launch with an event entry (R340) -/
  bin : Bool
  deriving DecidableEq, Repr

/-- A tack (R289) as a command names it. -/
inductive TackRef where
  /-- offset `off` of the declaration of a partition, named by a panel -/
  | mem (part panel : Nat) (decl : List Word) (off : Nat)
  /-- scratchpad address of a panel -/
  | scr (panel addr : Nat)
  /-- a virtual address of a partition: a retire tack (R25) -/
  | virt (part va : Nat)
  deriving DecidableEq, Repr

/-- The operations of the atomics (R272). -/
inductive AtomOp where
  | add | mins | maxs | band | bor | bxor | xchg | cas | fadd | add64
  deriving DecidableEq, Repr

/-- What an outstanding operation is (R100, R267). -/
inductive OpKind where
  /-- global load of 1, 2, 4, 8 or 16 bytes; sign-extended or not (R269) -/
  | load (signed : Bool)
  | store (data : QWord)
  /-- scratchpad load: the bytes read at issue (R256) -/
  | lds (data : QWord)
  /-- scratchpad store, performed at issue -/
  | sts
  /-- atomic, with or without return (R272) -/
  | atom (op : AtomOp) (x : DWord)
  | acqr
  /-- one-word release: data and mask (R369) -/
  | relw (data : Word) (mask : BitVec 6)
  /-- shelf append: key and value bytes and their accesses (R418) -/
  | kvap (chunks : List (Access × List Byte))
  | tkwait (tack : TackRef) (phase : Bool)
  | bbawait (bobbin : Access)
  /-- error-log read: stack and index (R419) -/
  | aqst (stack index : Nat)
  | pqry (sel : Nat)
  /-- a matrix request's count (R318); the request's key -/
  | tile (req : Nat)
  /-- a binning append already deferred (R340) -/
  | deferred (x : DWord)
  /-- performed in native form, with these registers and values still to be written (R102); it is an `ACQR` (R362) -/
  | landing (ws : List (Nat × Word)) (acq : Bool)
  /-- a wait whose object has been killed: it ends in this trap (R306, R307) -/
  | dead (code : Byte) (value : Word)
  deriving DecidableEq, Repr

/-- One outstanding operation of a thread: its destination registers (physical), the flag it counts on, the index
`%trappc` names, and what it does. -/
structure Op where
  id : Nat
  kind : OpKind
  acc : Option Access
  dst : List Nat
  flag : Option Nat
  pc : Nat
  /-- the shuttle and the word that its operand took from it (R97) -/
  popped : Option (Nat × Word)
  deriving DecidableEq, Repr

/-- The instruction a thread has issued and not finished, which holds its entry (R362, R122). -/
inductive Pend where
  /-- `WAITF` on these flags in native form, on every operation in portable form (R151) -/
  | waitf (mask : BitVec 12)
  /-- `FENCE` (R363) -/
  | fence (order : BitVec 2) (mask : BitVec 6)
  /-- `REL`: object and the address ranges of its bound regions (R367); its number in the order of operations -/
  | rel (obj : Access) (mask : BitVec 6) (regions : List (Nat × Nat)) (id : Nat)
  /-- `TKARR` (R305) -/
  | tkarr (tack : TackRef) (mask : BitVec 6)
  /-- `ACQ`: object, destination registers, target (R366) -/
  | acq (obj : Access) (dst : List Nat) (target : DWord)
  /-- `WAIT`: word, destination, value, cycle at which it ends (R452), shuttle and word that gave the value (R97) -/
  | wait (acc : Access) (dst : List Nat) (value : Word) (ends : Nat) (popped : Option (Nat × Word))
  /-- `INVAL` of a kind with its quad (R451); operations that are older than `before` may use what it drops -/
  | inval (kind : Nat) (quad : List Word) (before : Nat)
  /-- `FREE` of a tile (R327) -/
  | free (tile : Nat)
  /-- `LAUNCH` whose record the front end has not taken (R298) -/
  | launch (entry : Nat)
  /-- `CSRW` of an interleave domain whose switch goes on (R253): domain and the old mask -/
  | ildom (n : Nat) (old : Word)
  deriving DecidableEq, Repr

/-- Position in native text (R98 to R101): word index, words left in the clause (0: a header is due), set A, set B. -/
structure Native where
  npc : Nat
  left : Nat
  setA : BitVec 4
  setB : BitVec 4
  deriving DecidableEq, Repr

/-- A trap that a store, an atomic or a copy met after leaving its thread (R475, R287). -/
structure Late where
  code : Byte
  value : Word
  pc : Nat
  flag : Option Nat
  slot : Nat
  offset : Nat
  /-- it is taken before the thread's next instruction in either form: a copy's suppressed write (R287), or a trap of an
  operation that ended while its thread could not take it -/
  next : Bool
  /-- W or A was needed (R431) -/
  write : Bool
  deriving DecidableEq, Repr

/-- One thread. -/
structure Thread where
  panel : Nat
  tid : Nat
  phase : Phase
  /-- portable index of the next instruction (R74) -/
  pc : Nat
  prio : Byte
  /-- v0 to v(min(8n, 238) - 1) -/
  v : List Word
  /-- v238, v239 (R94) -/
  link : Word × Word
  p : BitVec 8
  /-- f0 to f11 (R100) -/
  f : List Nat
  fflags : BitVec 5
  rnd : BitVec 3
  rotbase : Nat
  rotstep : Nat
  repidx : Nat
  /-- upper half of the last `%cyc` read (R111) -/
  cych : Word
  trapc : Word
  trapv : Word
  trappc : Word
  trapprio : Word
  hints : Hints
  /-- none: portable form -/
  nat : Option Native
  ops : List Op
  pend : Option Pend
  /-- index of the instruction that `pend` is: where the thread stands again if it is cancelled (R436) -/
  pendAt : Nat
  late : List Late
  /-- cycle of the last issue in portable form (R73) -/
  lastPort : Option Nat
  /-- no comparator matches the first word issued after an `RFT` (R448) -/
  noBrk : Bool
  /-- core on which it runs, die * 144 + physical core -/
  core : Nat
  /-- travel seam and lane (R370) -/
  tseam : Option (Nat × Nat)
  travels : Nat
  /-- piece it runs in (R372) -/
  piece : Option Nat
  /-- poisoned registers and predicates of run-ahead (R432) -/
  poisonV : List Nat
  poisonP : BitVec 8
  /-- ticket that a suspended thread waits for (R427) -/
  ticket : Option Nat
  /-- it travels before its first instruction (R86) -/
  fresh : Bool
  /-- a trap has just put it at the trap entry (R426): it has not run there from the word before (R372) -/
  entered : Bool
  /-- 256-byte line of portable text that the core keeps for it beside its instruction store (R88) -/
  fline : Option Nat
  deriving DecidableEq, Repr

/-! ## Panels, yokes, launches -/

/-- One rejoin mask (R138). -/
structure Mask where
  enrolled : BitVec 128
  arrived : BitVec 128
  deriving DecidableEq, Repr

/-- One page that a pinned declaration's extents hold (R62): slot, virtual page, package-local frame address, key,
slice mode and number. -/
structure PageMap where
  slot : Nat
  vpage : Nat
  frame : Nat
  key : Nat
  mode : Nat
  num : Nat
  deriving DecidableEq, Repr

/-- A fault record that waits for the ring (R431): its sixteen words. -/
structure FaultRec where
  words : List Word
  deriving DecidableEq, Repr

/-- Run-ahead of a stitch (R432): the threads, the checkpoint, issues made, faulting pages with their records. -/
structure RunAhead where
  tids : List Nat
  saved : List Thread
  savedMasks : List Mask
  issues : Nat
  pages : List Nat
  records : List FaultRec
  /-- an end condition other than the count has come -/
  ended : Bool
  deriving DecidableEq, Repr

inductive PanelPhase where
  /-- dealt to its core, not started (R42) -/
  | placed
  | running
  /-- chosen for eviction (R436) -/
  | stopping
  /-- its context is in the context store -/
  | out
  deriving DecidableEq, Repr

structure Panel where
  key : Nat
  launch : Nat
  /-- none for a handler panel (R388) -/
  yoke : Option Nat
  pid : Nat
  phase : PanelPhase
  /-- die * 144 + physical core -/
  core : Nat
  slot : Nat
  nthr : Nat
  regs : Nat
  band : Nat
  seam : Nat
  scratchLen : Nat
  /-- scratchpad bytes; unlisted 0 (R30, R255) -/
  scratch : List Host.Cell
  /-- live 8-byte words of the scratchpad (R289) -/
  stags : List Nat
  /-- 16 masks of each seam, seam by seam (R138) -/
  masks : List Mask
  ahead : Option RunAhead
  extents : List PageMap
  /-- granted matrix requests of each seam (R320) -/
  granted : List Nat
  /-- the panel a handler panel was sent to (R388) -/
  handlerOf : Option Nat
  /-- a failed translation on resume waits for this ticket (R64) -/
  resumeTicket : Option Nat
  /-- held at a run-ahead checkpoint until this ticket is answered (R432) -/
  batch : Option Nat
  deriving DecidableEq, Repr

/-- One shuttle (R297): producer and consumer position, words oldest first. -/
structure Shuttle where
  config : Option (Nat × Nat)
  words : List Word
  deriving DecidableEq, Repr

inductive YokePhase where
  | placed
  | out
  deriving DecidableEq, Repr

structure Yoke where
  key : Nat
  launch : Nat
  yid : Nat
  phase : YokePhase
  /-- die * 36 + physical cluster -/
  cluster : Nat
  /-- order of placement (R49) -/
  order : Nat
  units : Nat
  /-- 64 tile records (R310) -/
  tiles : List QWord
  /-- bytes of the region; unlisted 0 (R309) -/
  region : List Host.Cell
  pre : List QWord
  post : List QWord
  dphase : BitVec 5
  oflag : Bool
  shuttles : List Shuttle
  granted : Nat
  overflow : Bool
  /-- evicted for its launch's own overflow yoke, which goes before it (R341) -/
  forOverflow : Bool
  deriving DecidableEq, Repr

inductive LaunchPhase where
  /-- accepted for checks: waits for the signature check (R41, R71) -/
  | checking
  | held
  | ready
  /-- at least one yoke placed -/
  | live
  deriving DecidableEq, Repr

/-- The overflow yoke of a launch (R341): pending or placed, with its threads' v8 and v9. -/
inductive Overflow where
  | none
  | pending (cursor x : Word)
  | live (cursor x : Word)
  deriving DecidableEq, Repr

structure Launch where
  key : Nat
  part : Nat
  id : Word
  /-- the record's 32 words (R25) -/
  record : List Word
  /-- declarations, eight words each (R31) -/
  decls : List (List Word)
  tiles : List QWord
  phase : LaunchPhase
  cls : Nat
  supervisor : Bool
  /-- object in the verified table -/
  object : Option Nat
  depsMet : List Bool
  /-- reasons found so far by checks that do not wait (R28) -/
  fails : List Nat
  /-- occupies an entry of the held table (R44) -/
  entry : Bool
  /-- order of acceptance (R45) -/
  order : Nat
  /-- slots whose pinned translation is done, and the pages (R62) -/
  walked : List Nat
  extents : List PageMap
  nextYoke : Nat
  retired : Nat
  lastDie : Nat
  ran : Bool
  lostMsg : Bool
  suppressed : Bool
  /-- the form of a travelling launch (R87) -/
  native : Bool
  /-- holders of each piece, die * 144 + physical core (R85) -/
  holders : List (List Nat)
  /-- it holds its marker-cache maps (R89) -/
  mapped : Bool
  /-- whole launch switched out (R90) -/
  out : Bool
  overflow : Overflow
  /-- deferred appends in order: panel, tid, op (R340) -/
  deferred : List (Nat × Nat × Nat)
  /-- host queue and count of its entry (R457) -/
  source : Option (Nat × Word)
  /-- it is being terminated with this status: its panels go to their pre-emption points (R435) -/
  ending : Option Nat
  deriving DecidableEq, Repr

/-! ## Code -/

structure Piece where
  start : Nat
  words : Nat
  rep : Nat
  nstart : Nat
  nwords : Nat
  deriving DecidableEq, Repr

/-- An entry-point record (R82): portable index, piece, predicate carry, carried registers, native index. -/
structure PieceEntry where
  index : Nat
  piece : Nat
  preds : BitVec 8
  carry : List Nat
  native : Nat
  deriving DecidableEq, Repr

structure Marker where
  pieces : List Piece
  entries : List PieceEntry
  /-- false: a check of R83 that needs no launch fails -/
  good : Bool
  deriving DecidableEq, Repr

/-- The line of text kept ready for an entry point, in the form that a thread starting there runs (R70). -/
structure EntryLine where
  /-- portable index of the entry -/
  index : Nat
  /-- for the launches that travel -/
  travel : Bool
  native : Bool
  /-- line of the text in that form -/
  line : Nat
  words : List Word
  deriving DecidableEq, Repr

/-- The tag of a 256-byte line in an instruction store; its words are always those of the code store (R79). -/
structure StoreLine where
  object : Nat
  /-- text that a launch that travels runs -/
  travel : Bool
  native : Bool
  line : Nat
  deriving DecidableEq, Repr

/-- One entry of the verified-object table (R70). -/
structure Object where
  key : Nat
  part : Nat
  code : Nat
  bytes : Nat
  /-- package addresses of its copies in the code store, one on each die of the partition, and of Gorlux's text (R68, R76) -/
  copies : List Nat
  gorlux : List Nat
  /-- where portable and supplied native text stand in a copy (R20) -/
  textOff : Nat
  nativeOff : Nat
  /-- portable index, priority, native index (R21) -/
  entries : List (Nat × Byte × Nat)
  /-- entry and regs (R22) -/
  handlers : List (Nat × Nat)
  marker : Option Marker
  text : List Word
  supplied : List Word
  trusted : Bool
  /-- native text in use and the portable index of each of its words; headers have the index of the word after -/
  native : List Word
  nmap : List Nat
  /-- the portable index of each word of the supplied native text -/
  snmap : List Nat
  /-- native text is in use (R78) -/
  nativeOn : Bool
  /-- the host asked for its removal (R459) -/
  evict : Bool
  used : Nat
  entryLines : List EntryLine
  /-- the order of its first accepted launch that does not travel (R76, R87) -/
  launched : Option Nat
  /-- Gorlux could not complete its translation (R76) -/
  gaveUp : Bool
  deriving DecidableEq, Repr

/-! ## Engines -/

/-- One copy command (R277). -/
structure Cmd where
  key : Nat
  launch : Nat
  panel : Nat
  tid : Nat
  /-- die * 36 + physical cluster -/
  cluster : Nat
  chan : Nat
  /-- 0 `CPY`, 1 `CPYM`, 2 `CPYS` -/
  op : Nat
  /-- the descriptor's sixteen words, extents patched -/
  desc : List Word
  held : Bool
  started : Bool
  registered : Bool
  delivered : Nat
  tacks : List TackRef
  /-- target yokes of a multicast (R285) -/
  yokes : List Nat
  /-- bobbin slot claimed: pointer value and cycle (R295) -/
  slot : Option (Nat × Nat)
  ticket : Option Nat
  /-- with a ticket: bytes before the chunk in which its fault lies, where it stands still (R286) -/
  halt : Nat
  /-- offset of the first suppressed word (R287) -/
  suppressed : Option Nat
  pc : Nat
  /-- a command that runs as zero-extent: refused at `HREL` or discarded (R303, R52) -/
  void : Bool
  deriving DecidableEq, Repr

inductive ReqKind where
  | tld (row col n : Nat)
  | tst (row col n : Nat) (rmode : BitVec 3) (dith : Bool)
  | tzero
  | mma (pre : QWord) (zc : Bool)
  | mmag (pre : QWord) (zc : Bool)
  | rast (tlb extract : Bool)
  | tcvt (post : QWord) (dith : Bool)
  deriving DecidableEq, Repr

/-- What one lane gave to a request at issue (R317): `%tid`, lane, source values, rounding mode, gathered row, scatter
row. -/
structure LaneData where
  tid : Nat
  lane : Nat
  vals : List Word
  rnd : BitVec 3
  row : Option (List Byte)
  scatter : Nat
  deriving DecidableEq, Repr

/-- One matrix request (R316). -/
structure Req where
  key : Nat
  launch : Nat
  yoke : Nat
  panel : Nat
  seam : Nat
  core : Nat
  kind : ReqKind
  x : QWord
  y : QWord
  z : QWord
  xn : Nat
  yn : Nat
  zn : Nat
  lanes : List LaneData
  tack : Option TackRef
  granted : Bool
  /-- held `MMAG`: channel, count index; released or not; rows to use (R332) -/
  held : Option (Nat × Nat)
  rows : Nat
  /-- commands that must complete first (R303) -/
  after : List Nat
  /-- grants of its unit made while it was eligible (R319) -/
  passed : Nat
  /-- `%dphase` as the engine read it when it started a dithered output (R179) -/
  phi : BitVec 5
  /-- withdrawn at a switch-out, and not yet posted again (R321) -/
  back : Bool
  deriving DecidableEq, Repr

/-- One attention query (R417). -/
structure Query where
  key : Nat
  launch : Nat
  panel : Nat
  tid : Nat
  part : Nat
  cluster : Nat
  desc : List Word
  q : List (BitVec 16)
  shelf : List Word
  result : List Word
  /-- stacks not yet handed the query -/
  unposted : List Nat
  /-- stacks that scan: stack and the lining's bytes when it was posted -/
  posted : List (Nat × List Host.Cell)
  /-- stacks whose records are written -/
  doneStacks : List Nat
  tack : Option TackRef
  deriving DecidableEq, Repr

/-- One box-test sweep (R420). -/
structure Sweep where
  key : Nat
  launch : Nat
  panel : Nat
  tid : Nat
  part : Nat
  cluster : Nat
  desc : List Word
  items : List (List Word)
  top : List Word
  bobbin : List Word
  posted : Bool
  start : List Host.Cell
  /-- items whose walk is not yet written -/
  left : List Nat
  /-- entries of finished items not yet in a slot: item and pointer words -/
  pendingEntries : List (Nat × DWord)
  /-- the pointer of its last slot, once written -/
  lastSlot : Option Nat
  /-- status bits so far: overflow, bad node (R414) -/
  overflow : Bool
  badNode : Bool
  tack : Option TackRef
  deriving DecidableEq, Repr

/-- One lazy walk (R249): its result is the pages it may use, or that it failed. -/
structure Walk where
  key : Nat
  part : Nat
  core : Nat
  panel : Nat
  tid : Nat
  va : Nat
  /-- the right needed: 0 Rd, 1 W, 2 A -/
  right : Nat
  /-- the declaration's slice mode is 0 (R250) -/
  mode0 : Bool
  failed : Option Bool
  /-- made for a prefetch, which no thread waits for (R276): level, slot and offset -/
  pref : Option (Nat × Nat × Nat)
  deriving DecidableEq, Repr

/-- A lazy translation held for a core (R249). -/
structure Tlb where
  core : Nat
  vpage : Nat
  leaf : DWord
  /-- D was set in the leaf (R444) -/
  dirty : Bool
  deriving DecidableEq, Repr

/-! ## Travel -/

inductive ParcelPhase where
  /-- in the network towards a core -/
  | net (core : Nat)
  | spool (core : Nat)
  /-- spilled to its overflow entry, linked at a core (R380) -/
  | spilled (core : Nat)
  /-- in the marker cache, its piece has no holder (R89) -/
  | waiting
  /-- saved with a switched-out launch: former spool's core (R384) -/
  | saved (core : Nat)
  deriving DecidableEq, Repr

/-- A travel parcel or a message (R375). -/
structure Parcel where
  key : Nat
  launch : Nat
  header : List Word
  carried : List Word
  phase : ParcelPhase
  /-- the destination panel's key of a message (R388) -/
  dest : Option Nat
  /-- the departures of one stitch share it (R374) -/
  group : Nat
  /-- panel and `%tid` of its sender (R387) -/
  src : Nat × Nat
  deriving DecidableEq, Repr

/-! ## Cores, dies, stacks, links -/

structure L1Line where
  line : Nat
  key : Nat
  data : Line
  dirty : BitVec 128
  /-- visibility record: bits 5 to 0 are C, Y, X, S, P, H (R257) -/
  vis : BitVec 6
  ro : Bool
  /-- write-through buffer (R358), slice mode and number of the access that brought it -/
  through : Bool
  mode : Nat
  num : Nat
  deriving DecidableEq, Repr

/-- What a core has issued in the present cycle (R126): slot, lead's launch, form, index, lanes used, the seams done
in order. A seam is named by its place: panel slot (or 64 + twice the launch key for travel seams, 65 + twice its key for a handler panel) and seam index. -/
structure CoreSched where
  ptr : Nat × Nat
  slot : Nat
  lead : Option (Nat × Bool × Nat)
  lanes : Nat
  done : List (Nat × Nat)
  /-- paired seams whose upper half has still to issue, with the `%tid`s of the threads that this issue serves (R127) -/
  owed : List ((Nat × Nat) × List Nat)
  /-- serial number at the start of the cycle: a request with a later one was issued in it (R319) -/
  since : Nat
  /-- the die's count in that cycle -/
  cyc : Nat
  deriving DecidableEq, Repr

structure Core where
  /-- die * 144 + physical core -/
  id : Nat
  l1 : List L1Line
  sched : CoreSched
  /-- pinned piece: launch and piece (R84); refilled from portable text for a comparator (R445) -/
  piece : Option (Nat × Nat)
  piecePortable : Bool
  /-- lines of launches; the pinned piece takes its own part of the 64 KiB beside them (R79, R87) -/
  istore : List StoreLine
  /-- spool occupancy last reported (R377) -/
  reported : Nat
  deriving DecidableEq, Repr

structure L2Line where
  line : Nat
  data : Line
  key : Nat
  domain : Option Nat
  slice : Nat
  /-- newer than the lining (R258) -/
  dirty : Bool
  deriving DecidableEq, Repr

structure RdcLine where
  line : Nat
  key : Nat
  data : Line
  epoch : Nat
  deriving DecidableEq, Repr

/-- One declaration in a die's extent cache (R65). -/
structure ExtentEntry where
  part : Nat
  gen : Nat
  decl : List Word
  pages : List PageMap
  deriving DecidableEq, Repr

structure Die where
  cyc : Nat
  rdc : List RdcLine
  epoch : Nat
  extents : List ExtentEntry
  deriving DecidableEq, Repr

/-- An HBM4 stack and its lining (R393, R403 to R410). -/
structure Stack where
  failed : Bool
  /-- error-log entries written: index and four words -/
  log : List (Nat × List Word)
  seq : Nat
  /-- rows not in the 128 ms class: bank, row, class in ms -/
  classes : List (Nat × Nat × Nat)
  limit : Nat
  /-- rows whose refresh a scan defers: bank, row, cycle -/
  deferred : List (Nat × Nat × Nat)
  /-- rows with an error present: bank, row, 64-byte chunk of the row in which it lies, correctable -/
  errors : List (Nat × Nat × Nat × Bool)
  scrub : Nat × Nat
  /-- its lines were last written with zeros under key ID 0, but for those that `lineKeys` lists (R461) -/
  wiped : Bool
  /-- key IDs whose keys stand in the lining's key table of 8,192 entries; no agent reads a key (R264) -/
  keys : List Nat
  /-- lines that its last-level cache holds (R263); their data are those of the lining -/
  llc : List Nat
  deriving DecidableEq, Repr

structure Bridge where
  training : Bool
  since : Nat
  raised : Bool
  deriving DecidableEq, Repr

structure Link where
  up : Bool
  peer : Nat
  retrains : Nat
  retries : Nat
  since : Nat
  raised : Bool
  deriving DecidableEq, Repr

/-! ## Partitions and the host -/

/-- What an unanswered ticket names (R431). -/
inductive TicketFor where
  | thread (panel tid : Nat)
  | batch (panel : Nat)
  | cmd (key : Nat)
  | panel (key : Nat)
  | launch (key : Nat)
  deriving DecidableEq, Repr

structure Ticket where
  num : Nat
  code : Byte
  names : TicketFor
  launch : Nat
  deriving DecidableEq, Repr

structure Comparator where
  launch : Word
  index : Nat
  rep : Option Nat
  deriving DecidableEq, Repr

/-- A binding-table entry (R361): region, object (each slot and offset resolved to a virtual address), launch. -/
structure Binding where
  num : Nat
  launch : Nat
  regionVa : List Word
  regionOff : Nat
  regionLen : Nat
  objVa : List Word
  objOff : Nat
  deriving DecidableEq, Repr

/-- What an image in the context store is of (R436). -/
inductive ImageOf where
  | panel (key : Nat)
  | yoke (key : Nat)
  | launch (key : Nat)
  deriving DecidableEq, Repr

/-- An image in the context store: its first byte, its bytes, and where in it the panel's scratchpad or the yoke's region begins
(R436, R437, R440, R442). -/
structure Image where
  owner : ImageOf
  addr : Nat
  bytes : Nat
  data : Nat
  deriving DecidableEq, Repr

structure Partition where
  num : Nat
  /-- logical core, die, physical core -/
  l2p : List (Nat × Nat × Nat)
  stackMask : BitVec 16
  keyBase : Nat
  keyCount : Nat
  rootStack : Nat
  rootLocal : Nat
  codeStore : List StackRange
  contextStore : List StackRange
  /-- the images that lie in the context store -/
  images : List Image
  signers : List Signer
  deadline : Bool
  heldQuota : Nat
  objectQuota : Nat
  mapQuota : Nat
  supervisor : Option Nat
  unsupervised : Bool
  tearing : Bool
  /-- the fault ring's declaration, and its write pointer's last value (R429) -/
  ring : List Word
  ptgen : Word
  l2pidx : Word
  brk : List (Option Comparator)
  bindings : List Binding
  vlog : List (Nat × Word)
  faults : List FaultRec
  tickets : List Ticket
  nextTicket : Nat
  tlb : List Tlb
  deriving DecidableEq, Repr

structure Queue where
  num : Nat
  part : Nat
  base : Nat
  j : Nat
  head : Word
  tail : Word
  deriving DecidableEq, Repr

/-- A record in the device stream (R39): its key, partition, the class cap of R46, the words read. -/
structure StreamRec where
  key : Nat
  part : Nat
  cap : Nat
  words : List Word
  /-- a supervisor's record that the mailbox gave while the partition's quota was used up (R44, R430) -/
  supervisor : Bool
  deriving DecidableEq, Repr

structure DomainReg where
  num : Nat
  peers : List DomainPeer
  deriving DecidableEq, Repr

/-- What the host is told through function 0 or a partition's MSI-X vector. -/
inductive Notice where
  | bringUpFailed (step : Nat)
  | recordDropped (queue : Nat) (count : Word)
  | supervisorFault (part : Nat) (code : Byte)
  | unsupervised (part : Nat)
  | tackClamped (where_ : TackRef)
  | tackDropped (where_ : TackRef)
  | tackLost (panel addr : Nat)
  | requestDropped (stack : Nat)
  | overheated
  /-- what a host access (R455) gave: none where it was not made -/
  | hostRead (part va : Nat) (data : Option (List Byte))
  | hostWritten (part va : Nat) (done : Bool)
  /-- the answer to a peer's request (R243) -/
  | peerAnswer (device : Nat) (data : Option (List Byte))
  deriving DecidableEq, Repr

/-- A mailbox reply (R459): function, status word, further data words. -/
structure Reply where
  fn : Nat
  status : Nat
  data : List Word
  deriving DecidableEq, Repr

/-- A panel lost in a core reset whose scratchpad tacks may still be named (R438): panel, launch, posted already. -/
structure Lost where
  panel : Nat
  launch : Nat
  posted : Bool
  deriving DecidableEq, Repr

/-- Everything but the bytes of memory. -/
structure Sys where
  agenda : List Instr
  focus : List (Nat × Nat)
  nonce : Nat
  serial : Nat
  turn : Nat
  booted : Bool
  hot : Bool
  shut : Bool
  /-- corrected errors (R470) -/
  corrected : Nat
  harv : List Word
  /-- key ID under which a line was last written (R264) -/
  lineKeys : List (Nat × Nat)
  /-- lines poisoned by an uncorrectable error (R470) -/
  poisonLines : List Nat
  /-- live 8-byte words of memory (R289) -/
  tags : List Nat
  l2 : List L2Line
  /-- the masks `%ildom0` to `%ildom15`, which both dies read (R252) -/
  ildom : List Word
  dies : List Die
  stks : List Stack
  walks : List Walk
  bridge : Bridge
  links : List Link
  domains : List DomainReg
  queues : List Queue
  stream : List StreamRec
  rr : Nat
  replies : List Reply
  /-- functions whose mailboxes hold a command that is none of the ten (R459) -/
  strays : List Nat
  notices : List Notice
  parts : List Partition
  objects : List Object
  launches : List Launch
  yokes : List Yoke
  panels : List Panel
  threads : List Thread
  cores : List Core
  cmds : List Cmd
  reqs : List Req
  queries : List Query
  sweeps : List Sweep
  parcels : List Parcel
  /-- travel parcels of a stitch that are threads again while others of it have still to choose: its number and the core (R374) -/
  sent : List (Nat × Nat)
  lost : List Lost
  deriving DecidableEq, Repr

/-- The state of the package. `mem` holds the current data of the sixteen linings, at stack * 2^36 + local address;
`hostMem` holds host physical memory. Both list (address, byte) pairs in the canonical form of Machine/Memory.lean:
rising addresses, no entry equal to 0, which an unlisted address reads as (assumption log 8). -/
structure State where
  mem : List Host.Cell
  hostMem : List Host.Cell
  sys : Sys
  deriving DecidableEq, Repr

/-- A core that has issued nothing (R126; pointer 0: assumption log 11). -/
def CoreSched.reset : CoreSched := ⟨(0, 0), 0, none, 0, [], [], 0, 0⟩

def Die.reset : Die := ⟨0, [], 0, []⟩

def Stack.reset : Stack := ⟨false, [], 0, [], 192, [], [], (0, 0), false, [], []⟩

/-- A link before any training (assumption log 10). -/
def Link.reset : Link := ⟨false, 0, 0, 0, 0, false⟩

/-- The harvest words of a package with every core working (R54, assumption log 7). -/
def harvReset : List Word :=
  [0xFFFFFFFF, 0xFFFFFFFF, 0xFFFFFFFF, 0xFFFFFFFF, 0x0000FFFF,
   0xFFFFFFFF, 0xFFFFFFFF, 0xFFFFFFFF, 0xFFFFFFFF, 0x0000FFFF]

/-- The machine at the start of power-on reset: no partition, no launch, nothing in memory; bring-up (R473) has not
run. -/
def State.reset : State where
  mem := []
  hostMem := []
  sys :=
    { agenda := [], focus := [], nonce := 0, serial := 1, turn := 0
      booted := false, hot := false, shut := false, corrected := 0, harv := harvReset
      lineKeys := [], poisonLines := [], tags := [], l2 := [], ildom := List.replicate 16 0
      dies := [Die.reset, Die.reset]
      stks := List.replicate 16 Stack.reset
      walks := [], bridge := ⟨false, 0, false⟩, links := List.replicate 18 Link.reset
      domains := [], queues := [], stream := [], rr := 0, replies := [], strays := [], notices := []
      parts := [], objects := [], launches := [], yokes := [], panels := [], threads := [], cores := []
      cmds := [], reqs := [], queries := [], sweeps := [], parcels := [], sent := [], lost := [] }

end Sys2Proof.Machine
end

