-- ==== Sys2Proof/Machine/Tx.lean ====
section
/-! DEFINITION. A step under way: the state it has reached, with the fact that it changed the bytes of memory only
through writes that keep the canonical form; and the tables of `Sys` by key. -/

namespace Sys2Proof.Machine

/-- Both byte stores of a state are in canonical form. -/
abbrev State.memOk (s : State) : Prop := Mem.wf s.mem = true ∧ Mem.wf s.hostMem = true

/-- A step that began in `s0`. -/
structure Tx (s0 : State) where
  st : State
  ok : s0.memOk → st.memOk
  halt : Option Fault

variable {s0 : State}

def Tx.start (s : State) : Tx s := ⟨s, id, none⟩

/-- Change anything but the bytes of memory. -/
def Tx.mod (tx : Tx s0) (f : Sys → Sys) : Tx s0 :=
  ⟨⟨tx.st.mem, tx.st.hostMem, f tx.st.sys⟩, tx.ok, tx.halt⟩

/-- Write bytes to the linings (R263). -/
def Tx.poke (tx : Tx s0) (a : Nat) (bs : List Byte) : Tx s0 :=
  ⟨⟨Mem.putBytes tx.st.mem a bs, tx.st.hostMem, tx.st.sys⟩,
    fun h => ⟨Mem.wf_putBytes (tx.ok h).1, (tx.ok h).2⟩, tx.halt⟩

/-- Zero a range of the linings. -/
def Tx.zero (tx : Tx s0) (a n : Nat) : Tx s0 :=
  ⟨⟨Mem.zero tx.st.mem a n, tx.st.hostMem, tx.st.sys⟩,
    fun h => ⟨Mem.wf_zero (tx.ok h).1, (tx.ok h).2⟩, tx.halt⟩

/-- Write bytes to host memory. -/
def Tx.hostPoke (tx : Tx s0) (a : Nat) (bs : List Byte) : Tx s0 :=
  ⟨⟨tx.st.mem, Mem.putBytes tx.st.hostMem a bs, tx.st.sys⟩,
    fun h => ⟨(tx.ok h).1, Mem.wf_putBytes (tx.ok h).2⟩, tx.halt⟩

/-- The step ends in a fault. -/
def Tx.stop (tx : Tx s0) (f : Fault) : Tx s0 := ⟨tx.st, tx.ok, some f⟩

/-- The outcome of a step. -/
def Tx.done (tx : Tx s0) : Host.Outcome State Fault Refusal :=
  match tx.halt with
  | some f => .fault f
  | none => .next tx.st

/-- The parts of the state but for the bytes of memory. -/
def Tx.sys (tx : Tx s0) : Sys := tx.st.sys

/-! ## Tables -/

def Sys.panel? (s : Sys) (k : Nat) : Option Panel := findKey Panel.key k s.panels
def Sys.setPanel (s : Sys) (p : Panel) : Sys := { s with panels := putKey Panel.key p s.panels }
def Sys.yoke? (s : Sys) (k : Nat) : Option Yoke := findKey Yoke.key k s.yokes
def Sys.setYoke (s : Sys) (y : Yoke) : Sys := { s with yokes := putKey Yoke.key y s.yokes }
def Sys.launch? (s : Sys) (k : Nat) : Option Launch := findKey Launch.key k s.launches
def Sys.setLaunch (s : Sys) (l : Launch) : Sys := { s with launches := putKey Launch.key l s.launches }
def Sys.object? (s : Sys) (k : Nat) : Option Object := findKey Object.key k s.objects
def Sys.setObject (s : Sys) (o : Object) : Sys := { s with objects := putKey Object.key o s.objects }
def Sys.part? (s : Sys) (n : Nat) : Option Partition := findKey Partition.num n s.parts
def Sys.setPart (s : Sys) (p : Partition) : Sys := { s with parts := putKey Partition.num p s.parts }
def Sys.cmd? (s : Sys) (k : Nat) : Option Cmd := findKey Cmd.key k s.cmds
def Sys.setCmd (s : Sys) (c : Cmd) : Sys := { s with cmds := putKey Cmd.key c s.cmds }
def Sys.req? (s : Sys) (k : Nat) : Option Req := findKey Req.key k s.reqs
def Sys.setReq (s : Sys) (r : Req) : Sys := { s with reqs := putKey Req.key r s.reqs }
def Sys.query? (s : Sys) (k : Nat) : Option Query := findKey Query.key k s.queries
def Sys.setQuery (s : Sys) (q : Query) : Sys := { s with queries := putKey Query.key q s.queries }
def Sys.sweep? (s : Sys) (k : Nat) : Option Sweep := findKey Sweep.key k s.sweeps
def Sys.setSweep (s : Sys) (q : Sweep) : Sys := { s with sweeps := putKey Sweep.key q s.sweeps }
def Sys.parcel? (s : Sys) (k : Nat) : Option Parcel := findKey Parcel.key k s.parcels
def Sys.setParcel (s : Sys) (p : Parcel) : Sys := { s with parcels := putKey Parcel.key p s.parcels }

/-- A thread by panel and `%tid`. -/
def Sys.thread? (s : Sys) (panel tid : Nat) : Option Thread :=
  s.threads.find? fun t => t.panel == panel && t.tid == tid

def Sys.setThread (s : Sys) (t : Thread) : Sys :=
  { s with threads := s.threads.map fun u => if u.panel = t.panel ∧ u.tid = t.tid then t else u }

/-- A core that holds nothing. -/
def Core.empty (id : Nat) : Core := ⟨id, [], CoreSched.reset, none, false, [], 0⟩

def Sys.core (s : Sys) (id : Nat) : Core := (findKey Core.id id s.cores).getD (Core.empty id)

def Sys.setCore (s : Sys) (c : Core) : Sys :=
  { s with cores := if (findKey Core.id c.id s.cores).isSome then putKey Core.id c s.cores else insertBy Core.id c s.cores }

def Sys.die (s : Sys) (d : Nat) : Die := s.dies.getD d Die.reset

def Sys.setDie (s : Sys) (d : Nat) (x : Die) : Sys := { s with dies := s.dies.set d x }

def Sys.stack (s : Sys) (n : Nat) : Stack := s.stks.getD n Stack.reset

def Sys.setStack (s : Sys) (n : Nat) (x : Stack) : Sys := { s with stks := s.stks.set n x }

/-- The threads of a panel, by `%tid`. -/
def Sys.threadsOf (s : Sys) (panel : Nat) : List Thread := s.threads.filter fun t => t.panel == panel

def Sys.panelsOf (s : Sys) (launch : Nat) : List Panel := s.panels.filter fun p => p.launch == launch

/-- Die of a core. -/
def dieOf (core : Nat) : Nat := core / 144

/-- Physical cluster of a core, die * 36 + cluster (R53). -/
def clusterOf (core : Nat) : Nat := core / 4

/-- A free yes or no (assumption log 4). -/
def Tx.freeBool (tx : Tx s0) : Bool := Config.freeBool tx.sys.nonce

def Tx.bump (tx : Tx s0) : Tx s0 := tx.mod fun s => { s with nonce := s.nonce + 1 }

/-- The next new key. -/
def Tx.fresh (tx : Tx s0) : Nat := tx.sys.serial

def Tx.take (tx : Tx s0) : Tx s0 := tx.mod fun s => { s with serial := s.serial + 1 }

def Tx.notice (tx : Tx s0) (n : Notice) : Tx s0 := tx.mod fun s => { s with notices := s.notices ++ [n] }

/-- The events chosen next join the agenda's head. -/
def Tx.each {α : Type} (tx : Tx s0) (l : List α) (f : Tx s0 → α → Tx s0) : Tx s0 := l.foldl f tx

end Sys2Proof.Machine
end

