-- ==== Sys2Proof/Machine/Records.lean ====
section
/-! DEFINITION. The memory objects of the spec as accessors over their words: the launch record (R25), buffer
declarations (R31), handles (R33), tile records (R310), and what follows from them for a launch and a panel. -/

namespace Sys2Proof.Machine

/-! ## Buffer declarations (R31) -/

namespace Decl

abbrev D := List Word

def base (d : D) : Nat := dnat d 0 % 2 ^ 52
def len (d : D) : Nat := dnat d 2 % 2 ^ 52
def valid (d : D) : Bool := (wnat d 4).testBit 31
def pinned (d : D) : Bool := (wnat d 4).testBit 30
def kind (d : D) : Nat := bits (wnat d 4) 28 2
def ro (d : D) : Bool := (wnat d 4).testBit 27
def hasX (d : D) : Bool := (wnat d 4).testBit 26
def hasA (d : D) : Bool := (wnat d 4).testBit 25
def hasW (d : D) : Bool := (wnat d 4).testBit 24
def hasRd (d : D) : Bool := (wnat d 4).testBit 23
def gran (d : D) : Nat := bits (wnat d 4) 19 4
def mode (d : D) : Nat := bits (wnat d 4) 17 2
def num (d : D) : Nat := bits (wnat d 4) 13 4
def key (d : D) : Nat := bits (wnat d 4) 0 13
def mask (d : D) : Nat := bits (wnat d 5) 16 16
def peer (d : D) : Nat := bits (wnat d 5) 8 8
/-- reserved fields of R31 -/
def reserved (d : D) : Bool := bits (wnat d 1) 20 12 != 0 || bits (wnat d 3) 20 12 != 0 || bits (wnat d 5) 0 8 != 0

/-- An empty slot (R34). -/
def empty : D := List.replicate 8 0

/-! ### Shelves (R395, R396) and hierarchy-tops (R397) -/

def heads (d : D) : Nat := bits (wnat d 6) 24 8 + 1
def dim (d : D) : Nat := bits (wnat d 6) 16 8 + 1
def be4 (d : D) : Bool := (wnat d 6).testBit 15
def maxTokens (d : D) : Nat := bits (wnat d 7) 0 28
def nodes (d : D) : Nat := bits (wnat d 7) 0 24

/-- Stacks of the declaration's set. -/
def stackCount (d : D) : Nat := popCount 16 (mask d)

/-- Data bytes of one record (R396). -/
def dataBytes (d : D) : Nat := if be4 d then dim d + dim d / 32 else 2 * dim d

/-- Bytes of one record. -/
def recBytes (d : D) : Nat := roundUp (dataBytes d) 64

/-- Records per bank row. -/
def perRow (d : D) : Nat := 1024 / recBytes d

/-- Bank rows per token. -/
def rowsPerToken (d : D) : Nat := cdiv (2 * heads d) (perRow d)

/-- Bytes of the shelf in each stack, P of R396. -/
def shelfBytes (d : D) : Nat :=
  let lap := cdiv (maxTokens d) (1024 * stackCount d)
  roundUp (lap * rowsPerToken d) 2 * 2 ^ 20

/-- Buffer offset of a record: token, head, key (0) or value (1) (R396). -/
def shelfOffset (d : D) (t h kv : Nat) : Nat :=
  let s := stackCount d
  let j := 2 * h + kv
  (t % s) * shelfBytes d + ((t / (1024 * s)) * rowsPerToken d + j / perRow d) * 2 ^ 20
    + (t / s % 1024) * 1024 + (j % perRow d) * recBytes d

/-- Stack and offset within it of a byte of the buffer: R241, or the placements of R396 and R397. -/
def place (d : D) (o : Nat) : Nat × Nat :=
  if kind d = 1 then (nthSet 16 (mask d) (o / shelfBytes d), o)
  else if kind d = 2 then (nthSet 16 (mask d) 0, o)
  else
    let g := 256 * 2 ^ gran d
    let k := stackCount d
    let n := o / g
    (nthSet 16 (mask d) (n % k), (n / k) * g + o % g)

/-- Bytes of the footprint (R242, R396, R397). -/
def footprint (d : D) : Nat :=
  if kind d = 1 then stackCount d * shelfBytes d
  else if kind d = 2 then roundUp (len d) 65536
  else
    let g := 256 * 2 ^ gran d
    let last := base d + cdiv (len d) (stackCount d * g) * g
    roundUp last 65536 - base d / 65536 * 65536

/-- Pages of the footprint, as virtual page numbers. -/
def pages (d : D) : List Nat :=
  let first := base d / 65536
  (List.range (cdiv (base d % 65536 + (if kind d = 1 || kind d = 2 then footprint d else
    cdiv (len d) (stackCount d * (256 * 2 ^ gran d)) * (256 * 2 ^ gran d))) 65536)).map fun i => first + i

/-- Rights as a mask: 1 Rd, 2 W, 4 A, 8 X. -/
def lacks (d : D) (rights : Nat) : Bool :=
  (rights.testBit 0 && !hasRd d) || (rights.testBit 1 && !hasW d) || (rights.testBit 2 && !hasA d)
    || (rights.testBit 3 && !hasX d)

end Decl

/-! ## Handles (R33) -/

def handleSlot (h : Nat) : Nat := bits h 52 12
def handleOff (h : Nat) : Nat := h % 2 ^ 52

/-! ## Launch records (R25) -/

namespace Launch

def w (l : Launch) (i : Nat) : Nat := wnat l.record i
def domain (l : Launch) : Nat := bits (l.w 0) 8 8
def travelling (l : Launch) : Bool := (l.w 0).testBit 7
def code (l : Launch) : Nat := dnat l.record 2
def entryIx (l : Launch) : Nat := bits (l.w 4) 24 8
def trapEntry (l : Launch) : Nat := bits (l.w 4) 16 8
def seam (l : Launch) : Nat := bits (l.w 4) 12 4
def threads (l : Launch) : Nat := bits (l.w 4) 0 12 + 1
def perYoke (l : Launch) : Nat := bits (l.w 5) 24 2 + 1
def panels (l : Launch) : Nat := bits (l.w 5) 0 24 + 1
def regs (l : Launch) : Nat := bits (l.w 6) 27 5
def band (l : Launch) : Nat := bits (l.w 6) 22 5
def scratch (l : Launch) : Nat := bits (l.w 6) 11 11 * 256
def tileCount (l : Launch) : Nat := bits (l.w 7) 24 8
def bufferCount (l : Launch) : Nat := bits (l.w 7) 11 13
def depCount (l : Launch) : Nat := bits (l.w 7) 8 3
def eventEntry (l : Launch) : Nat := bits (l.w 7) 0 8
def bufferAddr (l : Launch) : Nat := dnat l.record 8
def tileAddr (l : Launch) : Nat := dnat l.record 10
def completion (l : Launch) : Nat := dnat l.record 12
def retireTack (l : Launch) : Nat := dnat l.record 14
def dep (l : Launch) (i : Nat) : Nat := dnat l.record (16 + 2 * i)
def arg (l : Launch) (i : Nat) : Word := l.record.getD (24 + i) 0
def yokes (l : Launch) : Nat := cdiv l.panels l.perYoke

/-- The declaration of a slot; an empty one beyond the table or where valid is 0 (R34). -/
def decl (l : Launch) (slot : Nat) : List Word :=
  match l.decls[slot]? with
  | some d => if Decl.valid d then d else Decl.empty
  | none => Decl.empty

/-- The slot of the kind-3 declaration, if there is one (R339, R381). -/
def kind3 (l : Launch) : Option Nat :=
  (List.range l.decls.length).find? fun i => Decl.valid (l.decl i) && Decl.kind (l.decl i) == 3

/-- Units of a yoke's region (R309). -/
def units (l : Launch) : Nat := (l.tiles.map fun q => bits q.toNat 23 9).sum

end Launch

/-! ## Seams (R15 to R18) -/

/-- Declared width of a seam code. -/
def seamWidth (code : Nat) : Nat := if code = 0 then 64 else 2 ^ (code - 1)

/-- Effective width that `%seamw` reads (R14, R17). -/
def seamW (code : Nat) : Nat := if code = 0 then 64 else if code ≤ 3 then 8 else 2 ^ (code - 1)

/-- Lanes a seam takes of a slot (R126, R127). -/
def seamLanes (code : Nat) : Nat := min 64 (seamW code)

def Panel.width (p : Panel) : Nat := seamWidth p.seam

/-- Seam of a thread within its panel (R15). -/
def Panel.seamOf (p : Panel) (tid : Nat) : Nat := tid / p.width

def Panel.laneOf (p : Panel) (tid : Nat) : Nat := tid % p.width

def Panel.seams (p : Panel) : Nat := cdiv p.nthr p.width

def Panel.paired (p : Panel) : Bool := p.seam == 8

/-! ## Tile records (R310) -/

namespace TileRec

def size (q : QWord) : Nat := bits q.toNat 23 9
def base (q : QWord) : Nat := bits q.toNat 15 8
def format (q : QWord) : Nat := bits q.toNat 10 5
def role (q : QWord) : Nat := bits q.toNat 8 2
/-- Registers of one value (R328): two where an element or an accumulator has 64 bits. -/
def valueRegs (q : QWord) : Nat := if format q = 0 ∨ (role q = 2 ∧ format q = 25) then 2 else 1
def rows (q : QWord) : Nat := bits q.toNat 2 6 + 1
def block32 (q : QWord) : Bool := q.toNat.testBit 1
def dither (q : QWord) : Bool := q.toNat.testBit 0
def cols (q : QWord) : Nat := bits q.toNat 56 8 + 1
def scaleOff (q : QWord) : Nat := bits q.toNat 42 14 * 128
def sideOff (q : QWord) : Nat := bits q.toNat 82 14 * 128
def maskOff (q : QWord) : Nat := bits q.toNat 68 14 * 128
/-- block length of a block-scaled format -/
def blockLen (q : QWord) : Nat := if block32 q then 32 else 16
/-- A reserved tile: size nonzero, role not spare. -/
def live (q : QWord) : Bool := size q != 0 && role q != 3

end TileRec

/-- The yoke of a panel. -/
def Sys.yokeOf (s : Sys) (p : Panel) : Option Yoke := p.yoke.bind s.yoke?

/-- Position of a panel in its yoke (R297). -/
def Panel.position (p : Panel) (l : Launch) (y : Yoke) : Nat :=
  if y.overflow then p.pid - l.panels else p.pid - y.yid * l.perYoke

/-- Words of the text a launch runs (R114). -/
def Sys.textOf (s : Sys) (l : Launch) : List Word :=
  match l.object.bind s.object? with
  | some o => o.text
  | none => []

def Sys.objectOf (s : Sys) (l : Launch) : Option Object := l.object.bind s.object?

/-- The entry table's record of an entry (R21). -/
def Sys.entryOf (s : Sys) (l : Launch) (e : Nat) : Nat × Byte × Nat :=
  match s.objectOf l with
  | some o => o.entries.getD e (0, 0, 0xFFFFFF)
  | none => (0, 0, 0xFFFFFF)

/-- The launch of a panel. -/
def Sys.launchOf (s : Sys) (p : Panel) : Option Launch := s.launch? p.launch

/-- The logical core of a physical one in a partition (R53, R56). -/
def Partition.logical (p : Partition) (core : Nat) : Nat :=
  match p.l2p.find? fun e => e.2.1 * 144 + e.2.2 == core with
  | some e => e.1
  | none => 0x1FF

/-- Working cores of a partition, by logical number (R57). -/
def Partition.cores (p : Partition) : List (Nat × Nat) :=
  sortBy (·.1) (p.l2p.map fun e => (e.1, e.2.1 * 144 + e.2.2))

end Sys2Proof.Machine
end

