-- ==== Sys2Proof/Machine/Levels.lean ====
section
/-! DEFINITION. The memory levels (R257 to R264): linings, home L2, remote-data cache, L1; what a release pushes and an
acquire drops (R258, R259, R353). Addresses are package addresses, stack * 2^36 + stack-local address. -/

namespace Sys2Proof.Machine

variable {s0 : State}

/-- Bits of an observer mask (R349). -/
def obsC : BitVec 6 := 0b100000#6
def obsS : BitVec 6 := 0b000100#6
/-- Observers that read through the home L2: C, Y, X, P, H (R257). -/
def visHome : BitVec 6 := 0b111011#6
def visAll : BitVec 6 := 0b111111#6

def lineOf (addr : Nat) : Nat := addr / 128

def stackOf (addr : Nat) : Nat := addr / 2 ^ 36

/-- Home die of an address (R251). -/
def homeDie (addr : Nat) : Nat := stackOf addr / 8

/-- The plaintext that a line written under key `kw` has under `kr` (R264). -/
def foreignLine (line kw kr : Nat) : Nat := ofLeBytes ((List.range 128).map fun i => Config.foreignByte line i kw kr)

/-- Replace bytes of a line's number: those of the mask. -/
def mergeBytes (old new mask : Nat) : Nat :=
  ofLeBytes ((List.range 128).map fun i =>
    BitVec.ofNat 8 ((if mask.testBit i then new else old) / 2 ^ (8 * i)))

/-- Key ID under which a line lies in the DRAM; a line never written has none. -/
def Sys.lineKey (s : Sys) (line : Nat) : Option Nat :=
  match s.lineKeys.find? fun e => e.1 == line with
  | some e => some e.2
  | none => if (s.stack (stackOf (line * 128))).wiped then some 0 else none

/-- A line as the lining holds it, read under a key (R263, R264). -/
def State.lining (s : State) (line key : Nat) : Nat :=
  match s.sys.lineKey line with
  | some k => if k = key then Mem.getNat s.mem (line * 128) 128 else foreignLine line k key
  | none => Mem.getNat s.mem (line * 128) 128

def Sys.l2Line (s : Sys) (line : Nat) : Option L2Line := findKey L2Line.line line s.l2

/-- A line as its home L2 gives it under a key (R261, R264). -/
def State.homeLine (s : State) (line key : Nat) : Nat :=
  match s.sys.l2Line line with
  | some l => if l.key = key then l.data.toNat else if l.dirty then foreignLine line l.key key else s.lining line key
  | none => s.lining line key

/-- Bytes at the home L2, within one line. -/
def State.homeBytes (s : State) (addr n key : Nat) : List Byte :=
  leBytes n (s.homeLine (lineOf addr) key / 2 ^ (8 * (addr % 128)))

def State.homeNat (s : State) (addr n key : Nat) : Nat :=
  s.homeLine (lineOf addr) key / 2 ^ (8 * (addr % 128)) % 2 ^ (8 * n)

/-- An ordinary write of a line rewrites its two chunks, and the error that lies in one of them goes (R403). -/
def Stack.rewrite (k : Stack) (addr : Nat) : Stack :=
  { k with errors := k.errors.filter fun e =>
      !(e.1 == addr % 2 ^ 36 / 1024 % 1024 && e.2.1 == addr % 2 ^ 36 / 2 ^ 20 && e.2.2.1 / 2 == addr / 128 % 8) }

/-- Lines that a last-level cache holds: 96 MiB of them (R2). -/
def llcLines : Nat := 786432

/-- A line that is read or written at its lining is in the last-level cache from then on; of a full one another line goes, chosen
freely (R2, R263). -/
def Stack.fillLlc (k : Stack) (line nonce : Nat) : Stack :=
  if k.llc.contains line then k
  else
    let kept := if k.llc.length < llcLines then k.llc else k.llc.eraseIdx (Config.freeAt nonce k.llc.length % k.llc.length)
    { k with llc := kept ++ [line] }

def Sys.fillLlc (s : Sys) (line : Nat) : Sys :=
  s.setStack (stackOf (line * 128)) ((s.stack (stackOf (line * 128))).fillLlc line s.nonce)

/-- Write a whole line to its lining under a key. -/
def Tx.putLining (tx : Tx s0) (line key data : Nat) : Tx s0 :=
  (tx.poke (line * 128) (leBytes 128 data)).mod fun s =>
    let s := (s.setStack (stackOf (line * 128)) ((s.stack (stackOf (line * 128))).rewrite (line * 128))).fillLlc line
    { s with lineKeys := insertBy (·.1) (line, key) (s.lineKeys.filter fun e => e.1 != line) }

/-- The home L2 writes a dirty line to the lining and keeps it clean (R258). -/
def Tx.pushLine (tx : Tx s0) (line : Nat) : Tx s0 :=
  match tx.sys.l2Line line with
  | some l => if l.dirty then (tx.putLining line l.key l.data.toNat).mod fun s =>
      { s with l2 := insertBy L2Line.line { l with dirty := false } (dropKey L2Line.line line s.l2) } else tx
  | none => tx

/-- A line leaves the home L2, written to the lining if it is dirty (R261). -/
def Tx.dropL2 (tx : Tx s0) (line : Nat) : Tx s0 :=
  (tx.pushLine line).mod fun s => { s with l2 := dropKey L2Line.line line s.l2 }

/-- A line held under another key is written back and dropped before a request is served (R264). -/
def Tx.rekey (tx : Tx s0) (line key : Nat) : Tx s0 :=
  match tx.sys.l2Line line with
  | some l => if l.key = key then tx else tx.dropL2 line
  | none => tx

/-- The XOR of the eight 4-bit groups of a stack-local address (R251). -/
def sliceHash (l : Nat) : Nat := (List.range 8).foldl (fun h i => h ^^^ bits (l % 2 ^ 36) (7 + 4 * i) 4) 0

/-- The half of a domain's mask for a die (R252). -/
def domainHalf (w : Word) (die : Nat) : Nat := bits w.toNat (16 * die) 16

/-- The slice that serves an address, and the domain it is tagged with (R251). -/
def sliceOf (ildom : List Word) (addr mode num : Nat) : Nat × Option Nat :=
  let h := sliceHash (addr % 2 ^ 36)
  if mode = 2 then
    let half := domainHalf (ildom.getD num 0) (homeDie addr)
    if half = 0 then (h, some num) else (nthSet 16 half (h % popCount 16 half), some num)
  else if mode = 3 then (num, none)
  else (h, none)

/-- The new requests of an interleave domain are held on a die while its half there switches (R253). -/
def Sys.switching (s : Sys) (addr mode num : Nat) : Bool :=
  mode == 2 && s.threads.any fun t => match t.pend with
    | some (.ildom n old) => n == num && domainHalf old (homeDie addr) != domainHalf (s.ildom.getD n 0) (homeDie addr)
    | _ => false

/-- A request from a die to a home waits: its domain switches (R253), or the bridge that it crosses trains (R344). -/
def Sys.homeHeld (s : Sys) (die addr mode num : Nat) : Bool :=
  s.switching addr mode num || (homeDie addr != die && s.bridge.training)

/-- Lines that one slice of an L2 holds: 6 MiB of them (R2). -/
def l2Lines : Nat := 49152

/-- Room in a slice of a die for one more line: of a full slice one line, chosen freely, is written back (R2, R261). -/
def Tx.roomL2 (tx : Tx s0) (die slice : Nat) : Tx s0 :=
  let ls := tx.sys.l2.filter fun l => homeDie (l.line * 128) == die && l.slice == slice
  if ls.length < l2Lines then tx
  else match ls[Config.freeAt tx.sys.nonce ls.length % ls.length]? with
    | some l => tx.dropL2 l.line
    | none => tx

/-- A write at the home L2 of the bytes of `mask` of one line (R261); a write to a shelf or hierarchy-top goes through
to the lining (R358). A write of the whole line clears its poison (R470). -/
def Tx.homePut (tx : Tx s0) (line key mode num : Nat) (through : Bool) (data mask : Nat) : Tx s0 :=
  let tx := tx.rekey line key
  let new := mergeBytes (tx.st.homeLine line key) data mask
  let tx := if mask % 2 ^ 128 = 2 ^ 128 - 1 then
      tx.mod fun s => { s with poisonLines := s.poisonLines.filter (· != line) } else tx
  if through then
    (tx.mod fun s => { s with l2 := dropKey L2Line.line line s.l2 }).putLining line key new
  else
    let (slice, dom) := sliceOf tx.sys.ildom (line * 128) mode num
    let tx := if (tx.sys.l2Line line).isSome then tx else (tx.roomL2 (homeDie (line * 128)) slice).mod (·.fillLlc line)
    tx.mod fun s => { s with
      l2 := insertBy L2Line.line ⟨line, BitVec.ofNat 1024 new, key, dom, slice, true⟩ (dropKey L2Line.line line s.l2) }

/-- The home L2 holds a line: one that it does not hold under this key is read from the lining (R261, R264). -/
def Tx.fillL2 (tx : Tx s0) (line key mode num : Nat) : Tx s0 :=
  let tx := tx.rekey line key
  if (tx.sys.l2Line line).isSome then tx
  else
    let (slice, dom) := sliceOf tx.sys.ildom (line * 128) mode num
    let tx := tx.roomL2 (homeDie (line * 128)) slice
    let data := BitVec.ofNat 1024 (tx.st.lining line key)
    tx.mod fun s =>
      let s := s.fillLlc line
      { s with l2 := insertBy L2Line.line ⟨line, data, key, dom, slice, false⟩ s.l2 }

/-- Byte mask of `n` bytes at an address within its line. -/
def byteMask (addr n : Nat) : Nat := (2 ^ n - 1) * 2 ^ (addr % 128)

/-- Bytes written at the home, within one line. -/
def Tx.homeWrite (tx : Tx s0) (addr key mode num : Nat) (through : Bool) (bs : List Byte) : Tx s0 :=
  tx.homePut (lineOf addr) key mode num through (ofLeBytes bs * 2 ^ (8 * (addr % 128))) (byteMask addr bs.length)

/-! ## Remote-data cache (R262) -/

def Sys.rdcHit (s : Sys) (die line key : Nat) : Option Nat :=
  ((s.die die).rdc.find? fun r => r.line == line && r.key == key && r.epoch == (s.die die).epoch).map (·.data.toNat)

/-- A write from a die passes through and updates the copy held there; a copy under another key goes (R262, R264). -/
def Tx.rdcMerge (tx : Tx s0) (die line key data mask : Nat) : Tx s0 :=
  tx.mod fun s =>
    let d := s.die die
    s.setDie die { d with rdc := (d.rdc.filter fun r => r.line != line || r.key == key).map fun r =>
      if r.line = line then { r with data := BitVec.ofNat 1024 (mergeBytes r.data.toNat data mask) } else r }

/-- A line as an L1 of a die is given it: through the remote-data cache when its home is the other die. -/
def Tx.fetchLine (tx : Tx s0) (die line key mode num : Nat) : Nat × Tx s0 :=
  if homeDie (line * 128) = die then
    let tx := tx.fillL2 line key mode num
    (tx.st.homeLine line key, tx)
  else
    match tx.sys.rdcHit die line key with
    | some d => (d, tx)
    | none =>
      let tx := tx.fillL2 line key mode num
      let d := tx.st.homeLine line key
      (d, tx.mod fun s =>
        let x := s.die die
        s.setDie die { x with rdc := ⟨line, key, BitVec.ofNat 1024 d, x.epoch⟩ :: x.rdc.filter fun r => r.line != line })

/-- A write from a core to the home L2, with the copy of its die's remote-data cache updated (R262). -/
def Tx.writeFrom (tx : Tx s0) (core line key mode num : Nat) (through : Bool) (data mask : Nat) : Tx s0 :=
  let tx := tx.homePut line key mode num through data mask
  if homeDie (line * 128) = dieOf core then tx else tx.rdcMerge (dieOf core) line key data mask

/-! ## L1 (R257) -/

def Core.l1Line (c : Core) (line : Nat) : Option L1Line := findKey L1Line.line line c.l1

def Core.putL1 (c : Core) (l : L1Line) : Core := { c with l1 := insertBy L1Line.line l (dropKey L1Line.line l.line c.l1) }

/-- Bring one L1 line up to an observer mask (R258). -/
def Tx.raiseLine (tx : Tx s0) (core : Nat) (l : L1Line) (mask : BitVec 6) : Tx s0 :=
  if mask &&& ~~~l.vis = 0 then tx
  else
    let tx := if l.dirty = 0 then tx
      else tx.writeFrom core l.line l.key l.mode l.num l.through l.data.toNat l.dirty.toNat
    let vis := l.vis ||| visHome
    let push := mask &&& obsS != 0 && vis &&& obsS = 0
    let tx := if push then tx.pushLine l.line else tx
    let vis := if push || l.through then vis ||| obsS else vis
    tx.mod fun s => s.setCore ((s.core core).putL1 { l with dirty := 0, vis := vis })

/-- A line leaves an L1, by eviction or otherwise, in the state that a release with every letter gives it (R258). -/
def Tx.dropL1 (tx : Tx s0) (core line : Nat) : Tx s0 :=
  match (tx.sys.core core).l1Line line with
  | some l => (tx.raiseLine core l visAll).mod fun s =>
      s.setCore { s.core core with l1 := dropKey L1Line.line line (s.core core).l1 }
  | none => tx

/-- Every L1 and remote-data cache of the package drops a line (R280, R290). -/
def Tx.dropLine (tx : Tx s0) (line : Nat) : Tx s0 :=
  let tx := tx.each (tx.sys.cores.map (·.id)) fun tx c => tx.dropL1 c line
  tx.mod fun s => { s with dies := s.dies.map fun d => { d with rdc := d.rdc.filter fun r => r.line != line } }

/-- Lines of 128 bytes that an L1 holds (R2). -/
def l1Lines : Nat := 1024

/-- Room for one more line: of a full L1 one line, chosen freely, is evicted (R2, R258, R351). -/
def Tx.roomL1 (tx : Tx s0) (core : Nat) : Tx s0 :=
  let ls := (tx.sys.core core).l1
  if ls.length < l1Lines then tx
  else match ls[Config.freeAt tx.sys.nonce ls.length % ls.length]? with
    | some l => tx.dropL1 core l.line
    | none => tx

/-- The L1 line of an access, filled when it is not held (R257); a line under another key goes first (R264). The
read-only mark stays only while every access comes through a read-only declaration (R259); a line that an access through a
shelf or hierarchy-top slot has reached is written through from then on (R358). -/
def Tx.fillL1 (tx : Tx s0) (core line key mode num : Nat) (through ro : Bool) : L1Line × Tx s0 :=
  let tx := match (tx.sys.core core).l1Line line with
    | some l => if l.key = key then tx else tx.dropL1 core line
    | none => tx
  match (tx.sys.core core).l1Line line with
  | some l =>
    let l := { l with ro := l.ro && ro, through := l.through || through, mode := mode, num := num }
    (l, tx.mod fun s => s.setCore ((s.core core).putL1 l))
  | none =>
    let tx := tx.roomL1 core
    let (d, tx) := tx.fetchLine (dieOf core) line key mode num
    let clean := (tx.sys.l2Line line).all fun x => !x.dirty
    let l : L1Line := ⟨line, key, BitVec.ofNat 1024 d, 0, if clean then visAll else visHome, ro, through, mode, num⟩
    (l, tx.mod fun s => s.setCore ((s.core core).putL1 l))

/-- Bytes of a line's number. -/
def lineBytes (data addr n : Nat) : List Byte := leBytes n (data / 2 ^ (8 * (addr % 128)))

/-! ## Release and acquire (R258, R259, R353) -/

/-- The L1 and lining part of a release with a mask. With S every dirty line of the home L2s goes to the linings, which
covers the writes the thread has observed (R352; assumption log 30). -/
def Tx.release (tx : Tx s0) (core : Nat) (mask : BitVec 6) : Tx s0 :=
  if mask = 0 then tx
  else
    let tx := tx.each (tx.sys.core core).l1 fun tx l => tx.raiseLine core l mask
    if mask &&& obsS = 0 then tx else tx.each (tx.sys.l2.map (·.line)) fun tx l => tx.pushLine l

/-- A release of the lines that meet one of the ranges (address, bytes) (R367). -/
def Tx.releaseIn (tx : Tx s0) (core : Nat) (mask : BitVec 6) (ranges : List (Nat × Nat)) : Tx s0 :=
  if mask = 0 then tx
  else
    let meets (line : Nat) : Bool := ranges.any fun r => r.1 < line * 128 + 128 && line * 128 < r.1 + r.2
    let tx := tx.each ((tx.sys.core core).l1.filter fun l => meets l.line) fun tx l => tx.raiseLine core l mask
    if mask &&& obsS = 0 then tx
    else tx.each ((tx.sys.l2.map (·.line)).filter meets) fun tx l => tx.pushLine l

/-- An acquire (R259): lines that are not kept are written back and dropped; with C the epoch of the die's remote-data
cache advances. -/
def Tx.acquire (tx : Tx s0) (core : Nat) (mask : BitVec 6) : Tx s0 :=
  let tx := tx.each ((tx.sys.core core).l1.filter fun l => !l.ro) fun tx l => tx.dropL1 core l.line
  if mask &&& obsC = 0 then tx
  else tx.mod fun s =>
    let d := s.die (dieOf core)
    s.setDie (dieOf core) { d with epoch := d.epoch + 1 }

/-! ## Hidden tags (R289, R290) -/

def wordIx (addr : Nat) : Nat := addr / 8

/-- The 8-byte words that bytes touch. -/
def touched (addr n : Nat) : List Nat := (List.range (wordIx (addr + n - 1) + 1 - wordIx addr)).map fun i => wordIx addr + i

def Sys.tagged (s : Sys) (word : Nat) : Bool := s.tags.contains word

/-- The first live word that an access touches. -/
def Sys.liveIn (s : Sys) (addr n : Nat) : Option Nat := (touched addr n).find? fun w => s.tagged w

/-- A tag changes at its word's home, and every cached copy of the line goes first (R290). -/
def Tx.setTag (tx : Tx s0) (addr : Nat) (live : Bool) : Tx s0 :=
  (tx.dropLine (lineOf addr)).mod fun s =>
    { s with tags := if live then insertBy id (wordIx addr) (s.tags.filter (· != wordIx addr))
                     else s.tags.filter (· != wordIx addr) }

def Sys.poisoned (s : Sys) (addr : Nat) : Bool := s.poisonLines.contains (lineOf addr)

end Sys2Proof.Machine
end

