-- ==== Sys2Proof/Machine/Store.lean ====
section
/-! DEFINITION. Where the native text of an object stands, the line that each entry point keeps ready, and the cores'
instruction stores (R70, R74, R76, R79, R82, R88). -/

namespace Sys2Proof.Machine

/-- The order of the seams of a core: a seam is named by its panel's slot and its number there (R126). -/
def seamLt (a b : Nat × Nat) : Bool := a.1 < b.1 || (a.1 == b.1 && a.2 < b.2)

/-! ## Native text -/

/-- The native text of an object and the portable index of each of its words: a travelling launch runs what the object
supplies (R87). -/
def Object.nativeFor (o : Object) (travelling : Bool) : List Word × List Nat :=
  if travelling then (o.supplied, o.snmap) else (o.native, o.nmap)

/-- A clause header (R99). -/
def isHeader (w : Word) : Bool := w.toNat / 2 ^ 26 == 63

/-- First word and words of the native text in which a thread runs: its piece's in a travelling launch (R82, R88). -/
def Object.nativeSpan (o : Object) (piece : Option Nat) : Nat × Nat :=
  match piece with
  | none => (0, o.native.length)
  | some k => match o.marker.bind fun m => m.pieces[k]? with
    | some p => (p.nstart, p.nwords)
    | none => (0, 0)

/-- The native position of a portable index: the clause header that starts there (R76, R88). -/
def Object.nativeAt (o : Object) (piece : Option Nat) (pc : Nat) : Option Native :=
  let (text, map) := o.nativeFor piece.isSome
  let (a, n) := o.nativeSpan piece
  (((List.range n).map (a + ·)).find? fun k => map.getD k 0 == pc && isHeader (text.getD k 0)).map fun k => ⟨k, 0, 15, 15⟩

/-- The form in which a thread of a launch that does not travel starts (R76, R78). -/
def Object.startForm (o : Object) (ix native : Nat) : Option Native :=
  if !o.nativeOn then none
  else if o.trusted && o.native == o.supplied && native != 0xFFFFFF then some ⟨native, 0, 15, 15⟩
  else o.nativeAt none ix

/-! ## Entry lines (R70) -/

/-- Words of a 256-byte line of text. -/
def lineWords : Nat := 64

/-- Its travelling launches run native (R87). -/
def Object.travelNative (o : Object) : Bool :=
  o.trusted && (match o.marker with
    | some m => m.pieces.all (fun p => p.nwords != 0) && m.entries.all fun e => e.native != 0xFFFFFF
    | none => false)

/-- The native position at which a thread of a travelling launch starts at an index (R76, R82, R87). -/
def Object.travelAt (o : Object) (ix : Nat) (piece : Option Nat) : Option Native :=
  match (o.marker.bind fun m => m.entries.find? fun e => e.index == ix).map (·.native) with
  | some n => some ⟨n, 0, 15, 15⟩
  | none => piece.bind fun k => o.nativeAt (some k) ix

/-- The line that an entry point keeps: the one with its first word, in the form that a thread starting there runs
(assumption log 179). -/
def Object.entryLine (o : Object) (travel : Bool) (e : Nat × Byte × Nat) : EntryLine :=
  let native := if travel then
      (if o.travelNative then o.travelAt e.1 ((o.marker.map fun m => m.pieces).bind fun ps =>
        ps.findIdx? fun p => p.start ≤ e.1 && e.1 < p.start + p.words) else none)
    else o.startForm e.1 e.2.2
  match native with
  | some n => ⟨e.1, travel, true, n.npc / lineWords, ((o.nativeFor travel).1.drop (lineWords * (n.npc / lineWords))).take lineWords⟩
  | none => ⟨e.1, travel, false, e.1 / lineWords, (o.text.drop (lineWords * (e.1 / lineWords))).take lineWords⟩

/-- The object with its entry lines as its form now has them: one of each entry point for each form of launch it can have. -/
def Object.refreshed (o : Object) : Object :=
  { o with entryLines := o.entries.map (o.entryLine false) ++ (if o.marker.isSome then o.entries.map (o.entryLine true) else []) }

/-- Native text comes into use (R76). -/
def Object.translated (o : Object) (text : List Word) (map : List Nat) : Object :=
  { o with native := text, nmap := map, nativeOn := true }.refreshed

/-- Native text is withdrawn (R78). -/
def Object.withdrawn (o : Object) : Object := { o with nativeOn := false }.refreshed

/-! ## Instruction stores (R79) -/

/-- Lines of a 64 KiB instruction store. -/
def storeLines : Nat := 256

/-- Lines that the piece pinned on a core leaves of its store (R79, R87). -/
def Sys.storeRoom (s : Sys) (c : Core) : Nat :=
  match c.piece with
  | none => storeLines
  | some (lk, k) =>
    match (s.launch? lk).bind fun l => (s.objectOf l).bind fun o => (o.marker.bind fun m => m.pieces[k]?).map fun p =>
        if l.native && !c.piecePortable then p.nwords else p.words with
    | some n => storeLines - cdiv n lineWords
    | none => storeLines

/-- A line comes into a core's store; where the store is full another goes, freely chosen (assumption log 179). -/
def Sys.fillLine (s : Sys) (core : Nat) (x : StoreLine) : Sys :=
  let c := s.core core
  if c.istore.contains x || s.storeRoom c = 0 then s
  else
    let kept := if c.istore.length < s.storeRoom c then c.istore else c.istore.eraseIdx (Config.freeNat s.nonce % c.istore.length)
    s.setCore { c with istore := kept ++ [x] }

/-- Where a line of text lies for the cores of a die: in the die's own copy, or in Gorlux's text beside it (R68, R76). -/
def Object.lineAddr (o : Object) (die : Nat) (x : StoreLine) : Option Nat :=
  let on (l : List Nat) : Option Nat := (l.find? fun a => a / 2 ^ 36 / 8 == die).orElse fun _ => l.head?
  if !x.native then (on o.copies).map fun a => a + o.textOff + 4 * lineWords * x.line
  else if x.travel || o.native == o.supplied then (on o.copies).map fun a => a + o.nativeOff + 4 * lineWords * x.line
  else (on o.gorlux).map fun a => a + 4 * lineWords * x.line

/-- The stores keep only lines of objects in the table, and native ones only while native text is in use: what is withdrawn or
evicted is dropped from every core. -/
def Sys.dropLines (s : Sys) : Sys :=
  { s with cores := s.cores.map fun c => { c with
      istore := c.istore.filter fun x => s.objects.any fun o => o.key == x.object && (!x.native || (if x.travel then o.travelNative else o.nativeOn)) } }

/-- The line that a thread's next word comes from, where its launch does not travel; native text that is withdrawn is read
without being kept. -/
def Object.lineOf (o : Object) (t : Thread) : Option StoreLine :=
  match t.nat with
  | some n => if o.nativeOn then some ⟨o.key, false, true, n.npc / lineWords⟩ else none
  | none => if t.pc < o.text.length then some ⟨o.key, false, false, t.pc / lineWords⟩ else none

/-- A fetch: the store of the core takes the line; in a travelling launch the pinned piece is there (R87). -/
def Sys.fetchLine (s : Sys) (core : Nat) (l : Launch) (t : Thread) : Sys :=
  if l.travelling then s
  else match (s.objectOf l).bind (·.lineOf t) with
    | some x => s.fillLine core x
    | none => s

/-- The line that a fetch must read from the code store: one that neither the core's store nor the thread's own fetch line has
(R79, R88). -/
def Sys.lineMissing (s : Sys) (core : Nat) (l : Launch) (t : Thread) : Option Nat :=
  (s.objectOf l).bind fun o =>
    if l.travelling then
      (if l.native && t.nat.isNone && !(s.core core).piecePortable && t.fline != some (t.pc / lineWords)
        then o.lineAddr (dieOf core) ⟨o.key, true, false, t.pc / lineWords⟩ else none)
    else ((o.lineOf t).filter fun x => !(s.core core).istore.contains x).bind (o.lineAddr (dieOf core))

/-- A fetch meets a poisoned line of the code store (R470). -/
def Sys.fetchSpoiled (s : Sys) (core : Nat) (l : Launch) (t : Thread) : Bool :=
  (s.lineMissing core l t).any fun a => s.poisoned a || s.poisoned (a + 128)

/-- The fetch line of a thread that runs portable in a travelling launch that runs native (R88). -/
def Sys.threadLine (s : Sys) (l : Launch) (t : Thread) : Option Nat :=
  if l.travelling && l.native && t.nat.isNone && !(s.core t.core).piecePortable then some (t.pc / lineWords) else none

/-- The entry line that comes with a dispatch fills what the core's store has free for it (R40, R70). -/
def Sys.sendLine (s : Sys) (core : Nat) (l : Launch) (ix : Nat) : Sys :=
  match s.objectOf l with
  | some o => match o.entryLines.find? fun x => x.index == ix && x.travel == l.travelling with
    | some x => s.fillLine core ⟨o.key, x.travel, x.native, x.line⟩
    | none => s
  | none => s

end Sys2Proof.Machine
end

