-- ==== Sys2Proof/Machine/Port.lean ====
section
/-! DEFINITION. The memory port: from a handle to a home (R240 to R250), page tables and the walker (R245 to R249,
R443), extents (R62). -/

namespace Sys2Proof.Machine

variable {s0 : State}

/-- Trap codes (R422). -/
def tILLOP : Byte := 0x01
def tILLCONV : Byte := 0x02
def tALIGN : Byte := 0x03
def tBUFBND : Byte := 0x04
def tBUFRIGHT : Byte := 0x05
def tBUFOWNER : Byte := 0x06
def tSCRBND : Byte := 0x07
def tPGFLT : Byte := 0x08
def tTACKST : Byte := 0x09
def tTKMISUSE : Byte := 0x0A
def tBBMISUSE : Byte := 0x0B
def tSHUTTLE : Byte := 0x0C
def tSPOOLOVF : Byte := 0x0D
def tMARKMISS : Byte := 0x0E
def tSTACKERR : Byte := 0x0F
def tORPHAN : Byte := 0x10
def tBRKPT : Byte := 0x11
def tTRAPI : Byte := 0x12
def tSVCI : Byte := 0x13
def tLINKFLT : Byte := 0x14

/-- Rights an access needs, as Decl.lacks reads them. -/
def rRd : Nat := 1
def rW : Nat := 2
def rA : Nat := 4
def rX : Nat := 8

/-- Bytes of memory in one stack (R2). -/
def stackBytes : Nat := 48 * 2 ^ 30

/-! ## The page table -/

inductive WalkRes where
  /-- address of the entry that holds A and D, and the leaf -/
  | ok (adAddr leaf : Nat)
  | bad
  /-- a table entry lies in a poisoned line (R470) -/
  | spoiled
  | hole
  deriving DecidableEq, Repr

namespace Leaf

def rd (e : Nat) : Bool := e.testBit 59
def w (e : Nat) : Bool := e.testBit 58
def at_ (e : Nat) : Bool := e.testBit 57
def dirty (e : Nat) : Bool := e.testBit 60
def mode (e : Nat) : Nat := bits e 54 2
def num (e : Nat) : Nat := bits e 50 4
def key (e : Nat) : Nat := bits e 37 13
def frame (e : Nat) : Nat := bits e 16 20 * 65536
def big (e : Nat) : Bool := e.testBit 62
/-- Without A and D. -/
def plain (e : Nat) : Nat := e - e % 2 ^ 62 + e % 2 ^ 60
/-- Valid on its own (R247). -/
def valid (e : Nat) : Bool :=
  e.testBit 63 && !e.testBit 56 && !e.testBit 36 && e % 65536 == 0 && mode e != 3 && (mode e != 0 || num e == 0)

/-- Grants the rights of a mask (R250). -/
def grants (e rights : Nat) : Bool :=
  (!rights.testBit 0 || rd e) && (!rights.testBit 1 || w e) && (!rights.testBit 2 || at_ e)

end Leaf

/-- The table key of a partition (R245). -/
def Partition.tableKey (p : Partition) : Nat := p.keyBase

/-- Pieces of a range of addresses, each within one line: first address and bytes. -/
def linePieces (va n : Nat) : List (Nat × Nat) :=
  (List.range (cdiv (va % 128 + n) 128)).filterMap fun i =>
    let a := max va ((va / 128 + i) * 128)
    let b := min (va + n) ((va / 128 + i + 1) * 128)
    if a < b then some (a, b - a) else none

/-- The first place for so many bytes in ranges of stacks, at a multiple of 64 bytes, apart from what is taken: first address and
bytes of each. -/
def freeSpace (store : List StackRange) (taken : List (Nat × Nat)) (bytes : Nat) : Option Nat :=
  let ranges := store.map fun r => (r.stack * 2 ^ 36 + r.base, r.bytes)
  (sortBy id ((ranges.map fun r => roundUp r.1 64) ++ taken.map fun t => roundUp (t.1 + t.2) 64)).find? fun a =>
    ranges.any (fun r => r.1 ≤ a && a + bytes ≤ r.1 + r.2) && taken.all fun t => a + bytes ≤ t.1 || t.1 + t.2 ≤ a

/-- The image of a panel, yoke or launch in the context store, with its partition (R436). -/
def Sys.image? (s : Sys) (o : ImageOf) : Option (Partition × Image) :=
  s.parts.findSome? fun p => (p.images.find? fun i => i.owner == o).map fun i => (p, i)

/-- Bytes of an image, from an offset in it (assumption log 189). -/
def Tx.imageWrite (tx : Tx s0) (p : Partition) (i : Image) (off : Nat) (bs : List Byte) : Tx s0 :=
  tx.each (linePieces (i.addr + off) bs.length) fun tx x =>
    tx.homeWrite x.1 p.tableKey 1 0 false ((bs.drop (x.1 - (i.addr + off))).take x.2)

/-- What happens to the scratchpad of a panel or the region of a yoke that is out happens to its image (R437). -/
def Tx.imageData (tx : Tx s0) (o : ImageOf) (off : Nat) (bs : List Byte) : Tx s0 :=
  match tx.sys.image? o with
  | some (p, i) => tx.imageWrite p i (i.data + off) bs
  | none => tx

/-- A stack that the partition owns (R244). -/
def Partition.owns (p : Partition) (stack : Nat) : Bool := p.stackMask.toNat.testBit stack

/-- It owns a stack of a die. -/
def Partition.onDie (p : Partition) (die : Nat) : Bool := bits p.stackMask.toNat (8 * die) 8 != 0

/-- A 256-byte block of a stack that holds part of the code store, which no declaration reaches (R68, assumption log 169). -/
def Partition.storesCode (p : Partition) (addr : Nat) : Bool :=
  let a := addr % 2 ^ 36 / 256 * 256
  p.codeStore.any fun r => r.stack == addr / 2 ^ 36 && r.base < a + 256 && a < r.base + r.bytes

/-- The same for the partition of a number. -/
def Sys.storesCode (s : Sys) (part addr : Nat) : Bool := (s.part? part).any fun p => p.storesCode addr

/-- The level-4 entry of a table and its big-page group (R247, R248). -/
def walkLeaf (st : State) (p : Partition) (table ix : Nat) : WalkRes :=
  let entry (i : Nat) : Nat := st.homeNat (table + 8 * i) 8 p.tableKey
  let e := entry ix
  if st.sys.poisoned (table + 8 * ix) then .spoiled
  else if !Leaf.valid e then .bad
  else if !Leaf.big e then .ok (table + 8 * ix) e
  else
    let first := ix / 32 * 32
    let e0 := entry first
    if (List.range 2).any (fun i => st.sys.poisoned (table + 8 * first + 128 * i)) then .spoiled
    else if Leaf.frame e0 % (32 * 65536) = 0 ∧
        (List.range 32).all (fun i => Leaf.plain (entry (first + i)) == Leaf.plain e0 + i * 65536) = true
    then .ok (table + 8 * first) e
    else .bad

/-- Levels 1 to 3 (R246), then the leaf. `shifts` are the places of the indices still to use. -/
def walkFrom (st : State) (p : Partition) (va : Nat) : List Nat → Nat → WalkRes
  | [], table => walkLeaf st p table (bits va 16 9)
  | sh :: rest, table =>
    let e := st.homeNat (table + 8 * bits va sh 9) 8 p.tableKey
    if st.sys.poisoned (table + 8 * bits va sh 9) then .spoiled
    else if !e.testBit 63 || bits e 40 23 != 0 || bits e 0 12 != 0 || !p.owns (bits e 36 4) then .bad
    else if bits e 12 24 * 4096 ≥ stackBytes then .hole
    else walkFrom st p va rest (bits e 36 4 * 2 ^ 36 + bits e 12 24 * 4096)

/-- The walk of a virtual address through a partition's table (R245). -/
def walk (st : State) (p : Partition) (va : Nat) : WalkRes :=
  if va ≥ 2 ^ 52 then .bad
  else if !p.owns p.rootStack then .bad
  else if p.rootLocal ≥ stackBytes then .hole
  else
    match walkFrom st p va [43, 34, 25] (p.rootStack * 2 ^ 36 + p.rootLocal) with
    | .ok a e => if Leaf.frame e ≥ stackBytes then .hole else .ok a e
    | r => r

/-- The table entries that a walk reads, in their order: it may end before the last. -/
def walkReads (st : State) (p : Partition) (va : Nat) : List Nat → Nat → List Nat
  | [], table => [table + 8 * bits va 16 9] ++ (List.range 2).map fun i => table + 256 * bits va 21 4 + 128 * i
  | sh :: rest, table =>
    let a := table + 8 * bits va sh 9
    let e := st.homeNat a 8 p.tableKey
    if !e.testBit 63 || !p.owns (bits e 36 4) then [a]
    else a :: walkReads st p va rest (bits e 36 4 * 2 ^ 36 + bits e 12 24 * 4096)

/-- The lines of those entries are held under the table key from then on (R264). -/
def Tx.rekeyWalk (tx : Tx s0) (p : Partition) (va : Nat) : Tx s0 :=
  tx.each (walkReads tx.st p va [43, 34, 25] (p.rootStack * 2 ^ 36 + p.rootLocal)) fun tx a => tx.rekey (lineOf a) p.tableKey

/-- The stack that drops a walk's read, for the partition does not own it (R244). -/
def walkDropFrom (st : State) (p : Partition) (va : Nat) : List Nat → Nat → Option Nat
  | [], _ => none
  | sh :: rest, table =>
    let e := st.homeNat (table + 8 * bits va sh 9) 8 p.tableKey
    if !e.testBit 63 || bits e 40 23 != 0 || bits e 0 12 != 0 then none
    else if !p.owns (bits e 36 4) then some (bits e 36 4)
    else walkDropFrom st p va rest (bits e 36 4 * 2 ^ 36 + bits e 12 24 * 4096)

def walkDrop (st : State) (p : Partition) (va : Nat) : Option Nat :=
  if va ≥ 2 ^ 52 then none
  else if !p.owns p.rootStack then some p.rootStack
  else walkDropFrom st p va [43, 34, 25] (p.rootStack * 2 ^ 36 + p.rootLocal)

/-- A walk that ends at such a stack is told to the host. -/
def Tx.noticeDrop (tx : Tx s0) (p : Partition) (va : Nat) : Tx s0 :=
  match walkDrop tx.st p va with
  | some k => tx.notice (.requestDropped k)
  | none => tx

/-- The walker sets A, and D for a write or an atomic, in the entry at its home L2 (R249, R443). -/
def Tx.setAD (tx : Tx s0) (p : Partition) (adAddr : Nat) (write : Bool) : Tx s0 :=
  let e := tx.st.homeNat adAddr 8 p.tableKey
  let e' := e ||| 2 ^ 61 ||| (if write then 2 ^ 60 else 0)
  if e' = e then tx else tx.homeWrite adAddr p.tableKey 1 0 false (leBytes 8 e')

/-- A virtual page's translation as a page map. -/
def pageOf (slot va leaf : Nat) : PageMap := ⟨slot, va / 65536, Leaf.frame leaf, Leaf.key leaf, Leaf.mode leaf + 1, Leaf.num leaf⟩

/-- Slice mode and number in force (R251). -/
def routeOf (d : List Word) (m : PageMap) : Nat × Nat :=
  if Decl.mode d ≠ 0 then (Decl.mode d, Decl.num d) else (m.mode, m.num)

/-- Needs D set in the leaf (R249). -/
def isWrite (rights : Nat) : Bool := rights.testBit 1 || rights.testBit 2

/-- A walk made at once by an engine or a port: sets the bits, keeps the translation for a core. -/
def Tx.walkNow (tx : Tx s0) (part core va rights : Nat) : Option Nat × Tx s0 :=
  match tx.sys.part? part with
  | none => (none, tx)
  | some p =>
    match walk tx.st p va with
    | .hole => (none, tx.stop .stackHole)
    | .bad => (none, (tx.rekeyWalk p va).noticeDrop p va)
    | .spoiled => (none, tx)
    | .ok ad leaf =>
      if !Leaf.grants leaf rights then (none, tx.rekeyWalk p va)
      else
        let tx := (tx.rekeyWalk p va).setAD p ad (isWrite rights)
        (some leaf, tx.mod fun s =>
          match s.part? part with
          | some p => s.setPart { p with tlb := Tlb.mk core (va / 65536) (BitVec.ofNat 64 leaf) (isWrite rights) ::
              (p.tlb.filter fun t => !(t.core == core && t.vpage == va / 65536)) }
          | none => s)

/-! ## Accesses (R240) -/

/-- Who asks: the launch whose declarations are used, the panel's extents, the core. -/
structure Port where
  part : Nat
  launch : Launch
  extents : List PageMap
  core : Nat
  panel : Nat
  tid : Nat
  deriving DecidableEq, Repr

inductive Check where
  | ok (a : Access)
  /-- a trap with its value; slot, offset (or page address for a `PGFLT`) and whether W or A was needed (R431) -/
  | trap (code : Byte) (value : Word) (slot offset : Nat) (write : Bool)
  /-- a lazy translation must be walked first: page address and rights -/
  | walk (va rights : Nat) (mode0 : Bool)
  | hole
  deriving DecidableEq, Repr

/-- A lazy translation that serves a core's access (R249): one made for it, or, at the machine's choice, for another
core of the partition. -/
def tlbHit (s : Sys) (p : Partition) (core vpage rights : Nat) : Option Nat :=
  let fits (t : Tlb) : Bool :=
    t.vpage == vpage && Leaf.grants t.leaf.toNat rights && (!isWrite rights || t.dirty)
      && (t.core == core || Config.freeBool s.nonce)
  (p.tlb.find? fits).map (·.leaf.toNat)

/-- Steps 4 to 6 of R240 for bytes at `off` of a declaration. -/
def translate (st : State) (pt : Port) (d : List Word) (slot off size rights : Nat) (bin : Bool) : Check :=
  let value := lowWord off
  let write := isWrite rights
  let (stack, local_) := Decl.place d off
  let va := Decl.base d + local_
  let finish (m : PageMap) : Check :=
    let addr := stack * 2 ^ 36 + m.frame + va % 65536
    if m.key ≠ Decl.key d ∨ st.sys.storesCode pt.part addr = true then .trap tBUFOWNER value slot off write
    else
      let (mode, num) := routeOf d m
      .ok ⟨slot, off, size, .home addr m.key mode num (Decl.kind d == 1 || Decl.kind d == 2), Decl.ro d, bin⟩
  if Decl.pinned d then
    match pt.extents.find? fun m => m.slot == slot && m.vpage == va / 65536 with
    | some m => finish m
    | none => .trap tBUFOWNER value slot off write
  else
    match st.sys.part? pt.part with
    | none => .trap tPGFLT value slot (va / 65536 * 65536) write
    | some p =>
      match tlbHit st.sys p pt.core (va / 65536) rights with
      | some leaf => finish (pageOf slot va leaf)
      | none =>
        if st.sys.walks.any fun w => w.pref.isNone && w.panel == pt.panel && w.tid == pt.tid && w.va / 65536 == va / 65536
            && w.failed == some true
        then .trap tPGFLT value slot (va / 65536 * 65536) write
        else .walk (va / 65536 * 65536) rights (Decl.mode d == 0)

/-- R240 for an access of `size` bytes at an offset of a slot, aligned to `al`; `bin` marks an append (R340), which
at a peer is an atomic like another (assumption log 206). -/
def checkAccess (st : State) (pt : Port) (slot off size al rights : Nat) (bin : Bool := false) : Check :=
  let d := pt.launch.decl slot
  let value := lowWord off
  let write := isWrite rights
  if off % al ≠ 0 then .trap tALIGN value slot off write
  else if off + size > Decl.len d then .trap tBUFBND value slot off write
  else if Decl.lacks d rights then .trap tBUFRIGHT value slot off write
  else if Decl.peer d ≠ 0 then .ok ⟨slot, off, size, .peer (Decl.peer d), Decl.ro d, false⟩
  else translate st pt d slot off size rights bin

/-- Every page that a range of a declaration touches, checked in order: the first failure, if any. -/
def checkPages (st : State) (pt : Port) (d : List Word) (slot rights : Nat) : List Nat → Option Check
  | [] => none
  | off :: offs =>
    match translate st pt d slot off 1 rights false with
    | .ok _ => checkPages st pt d slot rights offs
    | c => some c

/-- Offsets of the pieces of a range that lie in one granule and in one page. -/
def pageOffsets (d : List Word) (off n : Nat) : List Nat :=
  let g := if Decl.kind d = 1 ∨ Decl.kind d = 2 then 65536 else 256 * 2 ^ Decl.gran d
  let step := min g 65536
  (List.range (cdiv (off % step + n) step)).flatMap fun i =>
    let a := if i = 0 then off else off / step * step + i * step
    let cut := a + (65536 - (Decl.base d + (Decl.place d a).2) % 65536)
    if cut < min (off + n) (off / step * step + (i + 1) * step) then [a, cut] else [a]

/-- A page of a pinned declaration as the extents that serve an access hold it (R62, R64): those of the panel that asks. An
access that no panel of the declaring launch makes (the fault ring, a peer) goes by the translation made at dispatch. -/
def Sys.extentPage (s : Sys) (part panel : Nat) (d : List Word) (vpage : Nat) : Option PageMap :=
  let page (l : Launch) (maps : List PageMap) : Option PageMap := maps.find? fun m => m.vpage == vpage && l.decl m.slot == d
  if Decl.pinned d then
    match (s.panel? panel).bind fun p => (s.launchOf p).bind fun l => if l.decls.contains d then some (page l p.extents) else none with
    | some r => r
    | none => s.launches.findSome? fun l => if l.part = part then page l l.extents else none
  else none

/-- An engine's access to a byte of a declaration for a panel, with any walk made at once (R249, R286); a pinned one goes by
the panel's extents and never faults: its request carries the declaration's key ID, and a byte of the code store it does not
reach (assumption log 191). The line is held under the request's key from then on (R264). -/
def Tx.engineAddr (tx : Tx s0) (part panel core : Nat) (d : List Word) (off rights : Nat) :
    Option (Nat × Nat × Nat × Nat) × Tx s0 :=
  let (stack, local_) := Decl.place d off
  let va := Decl.base d + local_
  match tx.sys.part? part, tx.sys.extentPage part panel d (va / 65536) with
  | none, _ => (none, tx)
  | some p, some m =>
    let (mode, num) := routeOf d m
    let addr := stack * 2 ^ 36 + m.frame + va % 65536
    if p.storesCode addr then (none, tx) else (some (addr, Decl.key d, mode, num), tx.rekey (lineOf addr) (Decl.key d))
  | some p, none =>
    let (leaf, tx) := match tlbHit tx.sys p core (va / 65536) rights with
      | some l => (some l, tx)
      | none => tx.walkNow part core va rights
    match leaf with
    | none => (none, tx)
    | some l =>
      let addr := stack * 2 ^ 36 + Leaf.frame l + va % 65536
      if Leaf.key l ≠ Decl.key d ∨ p.storesCode addr = true then (none, tx)
      else
        let (mode, num) := routeOf d (pageOf 0 va l)
        (some (addr, Leaf.key l, mode, num), tx.rekey (lineOf addr) (Leaf.key l))

/-- The stack of a virtual address that no declaration names: it follows no stack mask of a declaration, and which of the
partition's stacks serves it is a free value (assumption log 31). -/
def Partition.rawStack (p : Partition) (va : Nat) : Nat :=
  let count := popCount 16 p.stackMask.toNat
  nthSet 16 p.stackMask.toNat (if count ≤ 1 then 0 else Config.rawStack p.num p.stackMask (va / 256) % count)

/-- A virtual address of a partition, as the device itself uses it (R25): package address, key, mode and number. -/
def Tx.virtAddr (tx : Tx s0) (part va rights : Nat) : Option (Nat × Nat × Nat × Nat) × Tx s0 :=
  match tx.sys.part? part with
  | none => (none, tx)
  | some p =>
    let (leaf, tx) := tx.walkNow part 288 va rights
    match leaf with
    | none => (none, tx)
    | some l =>
      let addr := p.rawStack va * 2 ^ 36 + Leaf.frame l + va % 65536
      if p.storesCode addr then (none, tx) else (some (addr, Leaf.key l, Leaf.mode l + 1, Leaf.num l), tx.rekey (lineOf addr) (Leaf.key l))

/-- The same without marking the leaf: a test that changes nothing, of a page that can be read (R26). -/
def State.virtPeek (st : State) (part va : Nat) : Option (Nat × Nat) :=
  match st.sys.part? part with
  | none => none
  | some p =>
    match walk st p va with
    | .ok _ l => if Leaf.rd l then some (p.rawStack va * 2 ^ 36 + Leaf.frame l + va % 65536, Leaf.key l) else none
    | _ => none

end Sys2Proof.Machine
end

