-- ==== Sys2Proof/Machine/Tacks.lean ====
section
/-! DEFINITION. Fault records and tickets (R427 to R431), tack events (R289 to R291, R474), and the dependences that a
tack or a retirement meets (R26, R43). -/

namespace Sys2Proof.Machine

variable {s0 : State}

/-! ## Fault records (R431) -/

/-- The fields of a fault record. -/
structure RecordInfo where
  code : Byte
  source : Nat
  batchIx : Nat
  last : Bool
  launch : Word
  pid : Nat
  tid : Nat
  core : Nat
  chan : Nat
  pc : Nat
  value : Word
  slot : Nat
  offset : Nat
  write : Bool
  deriving DecidableEq, Repr

/-- A record of one panel's or launch's event, which stands alone: the last of its batch (R431). -/
def RecordInfo.of (code : Byte) (source : Nat) (launch : Word) : RecordInfo :=
  ⟨code, source, 0, true, launch, 0, 0, 0, 0, 0, 0, 0, 0, false⟩

/-- The sixteen words of a record (R431). -/
def RecordInfo.words (r : RecordInfo) (ticket : Nat) : List Word :=
  let n (x : Nat) : Word := BitVec.ofNat 32 x
  [n (r.code.toNat * 2 ^ 24 + r.source * 2 ^ 22 + (if r.last then 2 ^ 21 else 0) + r.batchIx % 64 * 2 ^ 15),
   n ticket, r.launch, n (r.pid % 2 ^ 24), n (r.tid % 2 ^ 12 * 2 ^ 20 + r.core % 512 * 8 + r.chan % 8),
   n r.pc, r.value, n (r.slot % 2 ^ 12 * 2 ^ 20), n r.offset, n (r.offset / 2 ^ 32 % 2 ^ 20),
   n (if r.write then 1 else 0), 0, 0, 0, 0, 0]

/-- No answer is expected. -/
def noTicket : Nat := 0xFFFFFFFF

def updPart (n : Nat) (f : Partition → Partition) (s : Sys) : Sys :=
  match s.part? n with
  | some p => s.setPart (f p)
  | none => s

/-- A record joins those that wait for the partition's ring (R429); the host is told (R459). -/
def Tx.postRecord (tx : Tx s0) (part : Nat) (r : RecordInfo) (ticket : Nat) : Tx s0 :=
  (tx.mod (updPart part fun p => { p with faults := p.faults ++ [⟨r.words ticket⟩] })).notice (.supervisorFault part r.code)

/-- A ticket unique among the partition's unanswered records (R431). -/
def Sys.nextTicket (s : Sys) (part : Nat) : Nat := ((s.part? part).map (·.nextTicket)).getD 1

def Tx.openTicket (tx : Tx s0) (part : Nat) (code : Byte) (names : TicketFor) (launch : Nat) : Nat × Tx s0 :=
  let k := tx.sys.nextTicket part
  (k, tx.mod (updPart part fun p =>
    { p with nextTicket := (if k + 1 ≥ noTicket then 1 else k + 1), tickets := p.tickets ++ [⟨k, code, names, launch⟩] }))

/-- Post a record with a ticket of its own. -/
def Tx.postTicket (tx : Tx s0) (part : Nat) (r : RecordInfo) (names : TicketFor) (launch : Nat) : Nat × Tx s0 :=
  let (k, tx) := tx.openTicket part r.code names launch
  (k, tx.postRecord part r k)

/-! ## Dependences (R26, R43) -/

/-- Does a live tack stand at a virtual address with this phase? -/
def State.tackDepMet (st : State) (part : Nat) (dep : Nat) : Bool :=
  match st.virtPeek part (dep % 2 ^ 52) with
  | some (a, key) => st.sys.tagged (wordIx a) && (st.homeNat a 8 key).testBit 63 == dep.testBit 62
  | none => false

/-- A launch all of whose dependences are met becomes ready and frees its held entry (R43, R44). -/
def Launch.settle (l : Launch) : Launch :=
  if l.phase = .held && l.depsMet.all (fun b => b) then { l with phase := .ready, entry := false } else l

/-- Mark the dependences of a held launch that `met` finds met. -/
def Launch.meet (l : Launch) (met : Nat → Bool) : Launch :=
  if l.phase = .held then
    Launch.settle { l with depsMet := (List.range l.depsMet.length).map fun i => l.depsMet.getD i true || met (l.dep i) }
  else l

def Sys.mapLaunches (s : Sys) (f : Launch → Launch) : Sys := { s with launches := s.launches.map f }

/-- The tack dependences that name a word are tested after it flips or is initialised (R26). -/
def Tx.tackMoved (tx : Tx s0) (addr : Nat) : Tx s0 :=
  let st := tx.st
  tx.mod fun s => s.mapLaunches fun l => l.meet fun d =>
    d.testBit 63 && (st.virtPeek l.part (d % 2 ^ 52)).map (·.1) == some addr && st.tackDepMet l.part d

/-- Dependences on a launch's ID are met (R467). -/
def Tx.idRetired (tx : Tx s0) (part : Nat) (id : Word) : Tx s0 :=
  tx.mod fun s => s.mapLaunches fun l =>
    if l.part = part then l.meet fun d => !d.testBit 63 && d % 2 ^ 32 == id.toNat else l

/-! ## Tacks (R289 to R291) -/

/-- Where a tack word lies now. -/
inductive Loc where
  | mem (addr key mode num : Nat)
  | scr (panel addr : Nat)
  | lost (panel addr : Nat)
  /-- at a peer device (R243): what the peer holds is open here (assumption log 4) -/
  | away
  | none
  deriving DecidableEq, Repr

/-- The value that a tack's trap names (R422). -/
def TackRef.value : TackRef → Word
  | .mem _ _ _ off => lowWord off
  | .scr _ addr => lowWord addr
  | .virt _ va => lowWord va

/-- One place: of memory, one address. -/
def Loc.same : Loc → Loc → Bool
  | .mem a _ _ _, .mem b _ _ _ => a == b
  | x, y => x == y

/-- The key ID of a line, and so of a tack in it, as it was last written. -/
def Sys.heldUnder (s : Sys) (line key : Nat) : Bool :=
  match s.l2Line line with
  | some l => l.key == key
  | none => (s.lineKey line).all (· == key)

/-- The present place of a tack (R474); one that the partition names by an address alone has the key ID under which it was made; an event at it needs right A, a wait only Rd (R306). -/
def Tx.locate (tx : Tx s0) (t : TackRef) (right : Nat := rA) : Loc × Tx s0 :=
  match t with
  | .mem part panel d off =>
    if Decl.peer d ≠ 0 then (.away, tx)
    else match tx.engineAddr part panel 288 d off right with
    | (some (a, k, m, n), tx) => (.mem a k m n, tx)
    | (none, tx) => (.none, tx)
  | .virt part va =>
    match tx.virtAddr part va 0 with
    | (some (a, k, m, n), tx) => (if tx.sys.heldUnder (lineOf a) k then .mem a k m n else .none, tx)
    | (none, tx) => (.none, tx)
  | .scr panel addr =>
    if (tx.sys.panel? panel).isSome then (.scr panel addr, tx)
    else if tx.sys.lost.any fun l => l.panel == panel then (.lost panel addr, tx)
    else (.none, tx)

def Tx.tackLive (tx : Tx s0) : Loc → Bool
  | .mem a _ _ _ => tx.sys.tagged (wordIx a)
  | .scr p a => match tx.sys.panel? p with
    | some q => q.stags.contains (wordIx a)
    | none => false
  | .away => Config.freeBool tx.sys.nonce
  | _ => false

def Tx.tackRead (tx : Tx s0) : Loc → Nat
  | .mem a k _ _ => tx.st.homeNat a 8 k
  | .scr p a => match tx.sys.panel? p with
    | some q => Mem.getNat q.scratch a 8
    | none => 0
  | .away => Config.freeNat tx.sys.nonce % 2 ^ 64
  | _ => 0

def Tx.tackWrite (tx : Tx s0) (l : Loc) (w : Nat) : Tx s0 :=
  match l with
  | .mem a k m n => tx.homeWrite a k m n true (leBytes 8 w)
  | .scr p a => (tx.mod fun s => match s.panel? p with
    | some q => s.setPanel { q with scratch := Mem.putBytes q.scratch a (leBytes 8 w) }
    | none => s).imageData (.panel p) a (leBytes 8 w)
  | _ => tx

/-- The waits on an object that has been killed end in a trap, whatever is made at its place later; those of a switched-out panel are
cancelled, and issue again on resume (R306, R307). -/
def Tx.endWaits (tx : Tx s0) (loc : Loc) : Tx s0 :=
  let kill (o : Op) : Op :=
    match o.kind with
    | .tkwait r _ => if ((tx.locate r rRd).1).same loc then { o with kind := .dead tTKMISUSE r.value } else o
    | .bbawait a => match a.target with
      | .home addr key mode num _ =>
        if (Loc.mem addr key mode num).same loc then { o with kind := .dead tBBMISUSE (lowWord a.offset) } else o
      | .peer _ => o
    | _ => o
  let rests (t : Thread) : Bool := (tx.sys.panel? t.panel).any fun p => p.phase == .out
  let on (t : Thread) : Thread := if rests t then t else { t with ops := t.ops.map kill }
  tx.mod fun s => { s with
    threads := s.threads.map on
    panels := s.panels.map fun p => { p with ahead := p.ahead.map fun a => { a with saved := a.saved.map on } } }

namespace TackWord
def phase (w : Nat) : Bool := w.testBit 63
def arrivals (w : Nat) : Nat := bits w 48 15
def bytes (w : Nat) : Nat := w % 2 ^ 48
def make (phase : Bool) (arrivals bytes : Nat) : Nat := (if phase then 2 ^ 63 else 0) + arrivals * 2 ^ 48 + bytes
/-- After a deliver or an arrive that changed the word: the phase flips when nothing is pending (R291). -/
def settle (old new : Nat) : Nat :=
  if new ≠ old ∧ arrivals new = 0 ∧ bytes new = 0 then make (!phase new) 0 0 else new
end TackWord

inductive TackEvent where
  | register (n b : Nat)
  | deliver (b : Nat)
  | arrive
  deriving DecidableEq, Repr

/-- The word after an event, and whether a field was clamped at 0 (R291). -/
def TackEvent.apply (w : Nat) : TackEvent → Nat × Bool
  | .register n b => (TackWord.make (TackWord.phase w) ((TackWord.arrivals w + n) % 2 ^ 15)
      ((TackWord.bytes w + b) % 2 ^ 48), false)
  | .deliver b => (TackWord.settle w (TackWord.make (TackWord.phase w) (TackWord.arrivals w) (TackWord.bytes w - b)),
      b > TackWord.bytes w)
  | .arrive => (TackWord.settle w (TackWord.make (TackWord.phase w) (TackWord.arrivals w - 1) (TackWord.bytes w)),
      TackWord.arrivals w == 0)

/-- An event at a scratchpad tack that a core reset lost (R438): dropped and logged; the first posts `ORPHAN`. -/
def Tx.orphanEvent (tx : Tx s0) (panel addr : Nat) : Tx s0 :=
  let tx := tx.notice (.tackLost panel addr)
  match tx.sys.lost.find? fun l => l.panel == panel with
  | none => tx
  | some l =>
    if l.posted then tx
    else
      match tx.sys.launch? l.launch with
      | none => tx
      | some la =>
        let tx := tx.mod fun s => { s with lost := s.lost.map fun x =>
          if x.launch = l.launch then { x with posted := true } else x }
        (tx.postTicket la.part (RecordInfo.of tORPHAN 2 la.id) (.launch la.key) la.key).2

/-- One event of R291 at its tack's home; one whose word is not live or does not translate is dropped and logged
(R474). -/
def Tx.tackEvent (tx : Tx s0) (t : TackRef) (e : TackEvent) : Tx s0 :=
  let (loc, tx) := tx.locate t
  match loc with
  | .lost p a => tx.orphanEvent p a
  | .away => tx
  | loc =>
    if !tx.tackLive loc then tx.notice (.tackDropped t)
    else
      let w := tx.tackRead loc
      let (w', clamped) := e.apply w
      let tx := if clamped then tx.notice (.tackClamped t) else tx
      let tx := if w' = w then tx else tx.tackWrite loc w'
      if TackWord.phase w' = TackWord.phase w then tx
      else match loc with
        | .mem a _ _ _ => tx.tackMoved a
        | _ => tx

def Tx.tackEvents (tx : Tx s0) (ts : List TackRef) (e : TackEvent) : Tx s0 := tx.each ts fun tx t => tx.tackEvent t e

end Sys2Proof.Machine
end

