-- ==== Sys2Proof/Machine/Retire.lean ====
section
/-! DEFINITION. How a launch ends (R29, R435, R467 to R469), what a terminated launch leaves, and the store path that
both a completing store and a termination use (R257, R260, R290). -/

namespace Sys2Proof.Machine

variable {s0 : State}

/-! ## Stores -/

/-- A store's bytes meet their line (R257, R260, R262, R290): the offset of a live tack word instead, if one is met.
A travelling launch's store is performed at the home L2. -/
def Tx.storeTo (tx : Tx s0) (core : Nat) (travelling : Bool) (a : Access) (bs : List Byte) : Option Nat × Tx s0 :=
  match a.target with
  | .peer _ => (none, tx)
  | .home addr key mode num through =>
    match tx.sys.liveIn addr a.size with
    | some w => (some (a.offset + 8 * w - addr), tx)
    | none =>
      let data := ofLeBytes bs * 2 ^ (8 * (addr % 128))
      let mask := byteMask addr bs.length
      if travelling then
        let tx := tx.dropL1 core (lineOf addr)
        (none, tx.writeFrom core (lineOf addr) key mode num through data mask)
      else
        let (l, tx) := tx.fillL1 core (lineOf addr) key mode num through a.ro
        let l := { l with
          data := BitVec.ofNat 1024 (mergeBytes l.data.toNat data mask)
          dirty := l.dirty ||| BitVec.ofNat 128 mask, vis := 0 }
        (none, tx.mod fun s => s.setCore ((s.core core).putL1 l))

/-- The old value that the atomic returns, and the new one (R272). -/
def atomResult (op : AtomOp) (m x : Nat) : Nat × Nat :=
  match op with
  | .add => (m, (m + x) % 2 ^ 32)
  | .mins => (m, if sint 32 m ≤ sint 32 (x % 2 ^ 32) then m else x % 2 ^ 32)
  | .maxs => (m, if sint 32 m ≥ sint 32 (x % 2 ^ 32) then m else x % 2 ^ 32)
  | .band => (m, m &&& (x % 2 ^ 32))
  | .bor => (m, m ||| (x % 2 ^ 32))
  | .bxor => (m, m ^^^ (x % 2 ^ 32))
  | .xchg => (m, x % 2 ^ 32)
  | .cas => if m = x % 2 ^ 32 then (m + 2 ^ 32, x / 2 ^ 32 % 2 ^ 32) else (m, m)
  | .fadd => (m, (treeAdd m (x % 2 ^ 32)).1)
  | .add64 => (m, (m + x) % 2 ^ 64)

/-- A word at its home, or the offset of a live tack there. -/
def Access.liveTack (a : Access) (s : Sys) : Option Nat :=
  match a.target with
  | .home addr _ _ _ _ => (s.liveIn addr a.size).map fun w => a.offset + 8 * w - addr
  | .peer _ => none

/-- A read-modify-write at the home of the word, performed by a core (R272). -/
def Tx.atHome (tx : Tx s0) (core : Nat) (a : Access) (f : Nat → Nat × Nat) : Nat × Tx s0 :=
  match a.target with
  | .peer _ => (0, tx)
  | .home addr key mode num through =>
    let tx := tx.dropL1 core (lineOf addr)
    let r := f (tx.st.homeNat addr a.size key)
    (r.1, tx.writeFrom core (lineOf addr) key mode num through (r.2 * 2 ^ (8 * (addr % 128))) (byteMask addr a.size))

/-- The thread's dirty bytes of a line go home and the line leaves its L1 (R272, R369). -/
def Tx.flushLine (tx : Tx s0) (core addr : Nat) : Tx s0 := tx.dropL1 core (lineOf addr)

/-! ## Ends of launches -/

/-- The status byte of a launch that ran to its end (R469). -/
def Launch.endStatus (l : Launch) : Nat := if l.lostMsg then 0x11 else if l.suppressed then 0x10 else 0

/-- The completion record (R468). -/
def Launch.completionWords (l : Launch) (status : Nat) (cyc : Nat) : List Word :=
  let b (c : Bool) : Nat := if c then 1 else 0
  [l.id, BitVec.ofNat 32 (status * 65536 + b l.lostMsg * 4 + b l.suppressed * 2 + b l.ran),
   BitVec.ofNat 32 l.lastDie, lowWord cyc, highWord cyc, BitVec.ofNat 32 l.retired, 0, 0]

/-- A key ID of the partition's range. -/
def Partition.hasKey (p : Partition) (k : Nat) : Bool := p.keyBase ≤ k && k < p.keyBase + p.keyCount

def Sys.partHasKey (s : Sys) (n k : Nat) : Bool :=
  match s.part? n with
  | some p => p.hasKey k
  | none => false

/-- Step 2 of R467: the record is written, or dropped with a fault record (R468). -/
def Tx.writeCompletion (tx : Tx s0) (l : Launch) (status : Nat) : Tx s0 :=
  if l.completion = 0 then tx
  else
    let r := { RecordInfo.of tPGFLT 3 l.id with offset := l.completion / 65536 * 65536, write := true }
    let drop (tx : Tx s0) : Tx s0 := tx.postRecord l.part r noTicket
    if l.completion % 32 ≠ 0 then drop tx
    else
      match tx.virtAddr l.part l.completion rW with
      | (none, tx) => drop tx
      | (some (a, k, m, n), tx) =>
        if !tx.sys.partHasKey l.part k then drop tx
        else
          let tx := tx.dropLine (lineOf a)
          tx.homeWrite a k m n true (bytesOfWords (l.completionWords status (tx.sys.die l.lastDie).cyc))

/-- The launch is no more: its bindings, tickets, commands, requests, queries, and parcels go (R361, R435). -/
def Sys.dropLaunch (s : Sys) (l : Launch) : Sys :=
  let mine (k : Nat) : Bool := k == l.key
  let panels := (s.panelsOf l.key).map (·.key)
  let yokes := (s.yokes.filter fun y => mine y.launch).map (·.key)
  let s := updPart l.part (fun p =>
    let b := p.bindings.filter fun b => b.launch != l.key
    let t := p.tickets.filter fun t => t.launch != l.key
    let i := p.images.filter fun i => match i.owner with
      | .panel k => !panels.contains k
      | .yoke k => !yokes.contains k
      | .launch k => k != l.key
    { p with bindings := b, tickets := t, images := i }) s
  { s with
    launches := dropKey Launch.key l.key s.launches
    yokes := s.yokes.filter (fun y => !mine y.launch)
    panels := s.panels.filter (fun p => !mine p.launch)
    threads := s.threads.filter (fun t => !panels.contains t.panel)
    cmds := s.cmds.filter (fun c => !mine c.launch)
    reqs := s.reqs.filter (fun r => !mine r.launch)
    queries := s.queries.filter (fun q => !mine q.launch)
    sweeps := s.sweeps.filter (fun q => !mine q.launch)
    walks := s.walks.filter (fun w => !panels.contains w.panel)
    parcels := s.parcels.filter (fun q => !mine q.launch)
    lost := s.lost.filter (fun x => !mine x.launch)
    cores := s.cores.map (fun c => if c.piece.any (fun x => x.1 == l.key) then { c with piece := none, piecePortable := false } else c) }

/-- A launch of the partition with an ID is held, ready or live (R26, R28). -/
def Sys.idInUse (s : Sys) (part : Nat) (id : Word) : Bool := s.launches.any fun l => l.part == part && l.id == id

/-- A launch uses an object of the verified table (R70). -/
def Sys.objectUsed (s : Sys) (o : Object) : Bool := s.launches.any fun l => l.object == some o.key

/-- Objects that the host wants removed go when no launch uses them (R70). -/
def Sys.evictObjects (s : Sys) : Sys := Sys.dropLines { s with objects := s.objects.filter fun o => !o.evict || s.objectUsed o }

/-- The partition has lost its supervisor (R430). -/
def Tx.unsupervise (tx : Tx s0) (part : Nat) : Tx s0 :=
  (tx.mod (updPart part fun p => { p with supervisor := none, unsupervised := true })).notice (.unsupervised part)

/-- Steps 1 to 4 of R467; a rejection has no release (R29). -/
def Tx.endLaunch (tx : Tx s0) (l : Launch) (status : Nat) (release : Bool) : Tx s0 :=
  let tx := if release then tx.each (tx.sys.cores.map (·.id)) fun tx c => tx.release c visAll else tx
  let tx := tx.writeCompletion l status
  let tx := if l.retireTack = 0 then tx else tx.tackEvent (.virt l.part l.retireTack) .arrive
  let tx := tx.mod fun s => (s.dropLaunch l).evictObjects
  let tx := if tx.sys.idInUse l.part l.id then tx else tx.idRetired l.part l.id
  if l.supervisor then tx.unsupervise l.part else tx

/-- A rejected or failed launch (R29, R61, R63). -/
def Tx.reject (tx : Tx s0) (l : Launch) (status : Nat) : Tx s0 := tx.endLaunch l status false

/-- `CPYS` writes memory from its dense side. -/
def Cmd.out (c : Cmd) : Bool := c.op == 2
/-- Kind of the dense side: 1 scratchpad, 2 tile, 3 bobbin. -/
def Cmd.dense (c : Cmd) : Nat := if c.out then bits (wnat c.desc 6) 22 2 else bits (wnat c.desc 6) 20 2
/-- The bytes a command registered and has not delivered (R292). -/
def Cmd.elem (c : Cmd) : Nat := 2 ^ bits (wnat c.desc 6) 24 3
def Cmd.dims (c : Cmd) : Nat := bits (wnat c.desc 6) 27 3 + 1
def Cmd.extent (c : Cmd) (i : Nat) : Nat := if i < c.dims then bits (wnat c.desc (7 + i / 2)) (16 * (i % 2)) 16 else 1
def Cmd.total (c : Cmd) : Nat :=
  if c.void then 0 else c.extent 0 * c.extent 1 * c.extent 2 * c.extent 3 * c.extent 4 * c.elem

/-- A command whose dense side is in its own yoke, which stops with its panel (R436). -/
def Cmd.stops (c : Cmd) : Bool := c.held || (c.dense != 3 && c.op != 1)

/-- A command that has still to reach its chunk boundary. -/
def Cmd.midChunk (c : Cmd) : Bool :=
  c.stops && c.started && (c.ticket.isNone || c.delivered < c.halt) && c.delivered < c.total && c.delivered % 4096 != 0

/-- Requests that are granted, or copies between two chunk boundaries, keep a terminated launch's panels from their pre-emption
points (R435, R436). -/
def Sys.unfinished (s : Sys) (launch : Nat) : Bool :=
  s.reqs.any (fun r => r.launch == launch && r.granted) || s.cmds.any fun c => c.launch == launch && c.midChunk

/-- A write of a launch to a live tack has found no thread to trap: its completion record says so (R468). -/
def Tx.noteSuppressed (tx : Tx s0) (launch : Nat) (hit : Bool) : Tx s0 :=
  if hit then tx.mod fun s => s.mapLaunches fun x => if x.key = launch then { x with suppressed := true } else x else tx

/-- A command of a terminated launch delivers its remaining registered bytes and arrives (R435). -/
def Tx.abandonCmd (tx : Tx s0) (c : Cmd) : Tx s0 :=
  let tx := tx.noteSuppressed c.launch c.suppressed.isSome
  let tx := if c.registered && c.delivered < c.total then tx.tackEvents c.tacks (.deliver (c.total - c.delivered)) else tx
  tx.tackEvents c.tacks .arrive

/-- What has left its threads is performed at the pre-emption point (R435, R436): stores, atomics, release words, shelf
appends, and binning appends that fit (R340); not where it meets a live tack, which the completion record tells (R468,
assumption log 94). -/
def Tx.drainOp (tx : Tx s0) (t : Thread) (l : Launch) (o : Op) : Tx s0 :=
  match o.kind, o.acc with
  | .store d, some a =>
    match tx.storeTo t.core l.travelling a (leBytes a.size d.toNat) with
    | (hit, tx) => tx.noteSuppressed l.key hit.isSome
  | .atom op x, some a =>
    if (a.liveTack tx.sys).isSome then tx.noteSuppressed l.key true
    else (tx.atHome t.core a fun m =>
      if a.bin && m + x.toNat > Decl.len (l.decl a.slot) then (m, m) else atomResult op m x.toNat).2
  | .relw data mask, some a =>
    let tx := tx.release t.core mask
    if (a.liveTack tx.sys).isSome then tx.noteSuppressed l.key true else (tx.atHome t.core a fun _ => (0, data.toNat)).2
  | .kvap cs, _ => tx.each cs fun tx c =>
    if (c.1.liveTack tx.sys).isSome then tx.noteSuppressed l.key true
    else (tx.atHome t.core c.1 fun _ => (0, ofLeBytes c.2)).2
  | _, _ => tx

def Tx.drainStores (tx : Tx s0) (l : Launch) : Tx s0 :=
  let panels := (tx.sys.panelsOf l.key).map (·.key)
  tx.each (tx.sys.threads.filter fun t => panels.contains t.panel) fun tx t =>
    (tx.each t.ops fun tx o => tx.drainOp t l o).noteSuppressed l.key (t.late.any fun e => e.code == tTACKST)

/-- What a terminated launch drops: queries, sweeps and parcels. -/
def Sys.discard (s : Sys) (launch : Nat) : Sys :=
  { s with
    queries := s.queries.filter (fun q => q.launch != launch), sweeps := s.sweeps.filter (fun q => q.launch != launch)
    parcels := s.parcels.filter (fun p => p.launch != launch) }

def Sys.discardAll (s : Sys) (launch : Nat) : Sys :=
  { s.discard launch with reqs := s.reqs.filter (fun r => r.launch != launch) }

/-- Steps 2 to 5 of R435: requests go, copy commands deliver and arrive, and the launch ends. -/
def Tx.finishEnd (tx : Tx s0) (l : Launch) (status : Nat) : Tx s0 :=
  let tx := tx.mod fun s => s.discardAll l.key
  let tx := tx.each (tx.sys.cmds.filter fun c => c.launch == l.key) fun tx c => tx.abandonCmd c
  tx.endLaunch ((tx.sys.launch? l.key).getD l) status true

/-- Of two reasons for the end of a launch the one that stands first in the table of R469: a trap or kill, an uncorrectable error,
a cancel. -/
def firstStatus (a b : Nat) : Nat :=
  let rank (n : Nat) : Nat := if n ≥ 0x80 then 0 else if n = 0x13 then 1 else 2
  if rank b < rank a then b else a

/-- Step 1 of R435 under way: its threads are gone, and its panels stop; granted requests and copies within a chunk go on. -/
def Sys.beginEnd (s : Sys) (l : Launch) (status : Nat) : Sys :=
  let panels := (s.panelsOf l.key).map (·.key)
  let s := updPart l.part (fun p => { p with tickets := p.tickets.filter fun t => t.launch != l.key }) (s.discard l.key)
  { s with
    launches := putKey Launch.key { l with
      ending := some status, nextYoke := l.yokes, deferred := [], overflow := .none, phase := .live } s.launches
    threads := s.threads.filter (fun t => !panels.contains t.panel)
    panels := s.panels.map (fun p => if p.launch = l.key then { p with phase := .stopping, ahead := none, batch := none } else p)
    reqs := s.reqs.filter (fun r => r.launch != l.key || r.granted)
    walks := s.walks.filter (fun w => !panels.contains w.panel)
    lost := s.lost.filter (fun x => x.launch != l.key) }

/-- Terminate(s) (R435): at once where every panel stands at its pre-emption point; else the launch ends at `LAUNCH_RETIRE`, or
when something else fails meanwhile. -/
def Tx.terminate (tx : Tx s0) (launch status : Nat) : Tx s0 :=
  match tx.sys.launch? launch with
  | none => tx
  | some l =>
    match l.ending with
    | some before => tx.finishEnd l (firstStatus before status)
    | none =>
      let tx := tx.drainStores l
      let l := (tx.sys.launch? launch).getD l
      if tx.sys.unfinished launch then tx.mod fun s => s.beginEnd l status else tx.finishEnd l status

/-- Terminate(s) where the step waits for the end (R461): copies stop where they are (assumption log 61). -/
def Tx.terminateNow (tx : Tx s0) (launch status : Nat) : Tx s0 :=
  match tx.sys.launch? launch with
  | none => tx
  | some l => (tx.drainStores l).finishEnd l (l.ending.elim status fun before => firstStatus before status)

end Sys2Proof.Machine
end

