-- ==== Sys2Proof/Machine/Ops.lean ====
section
/-! DEFINITION. Operations on threads: registers (R93 to R95), advance (R107, R136), transfer of control (R143, R372),
taking a trap and returning from one (R426 to R428, R448), run-ahead (R432), shuttles (R297). -/

namespace Sys2Proof.Machine

variable {s0 : State}

/-! ## Registers -/

/-- The physical register of a named one (R95). -/
def physReg (regs band rotbase k : Nat) : Nat :=
  let b := 8 * band
  let s := if regs = 30 then 238 - b else 8 * regs - b
  if s ≤ k ∧ k < s + b then s + (k - s + rotbase) % b else k

/-- A physical register: the link pair stands apart (R94). -/
def Thread.getV (t : Thread) (k : Nat) : Word :=
  if k = 238 then t.link.1 else if k = 239 then t.link.2 else t.v.getD k 0

def Thread.setV (t : Thread) (k : Nat) (x : Word) : Thread :=
  if k = 238 then { t with link := (x, t.link.2) }
  else if k = 239 then { t with link := (t.link.1, x) }
  else { t with v := t.v.set k x }

def Thread.setVs (t : Thread) (ws : List (Nat × Word)) : Thread := ws.foldl (fun t w => t.setV w.1 w.2) t

/-- A register that a thread holds (R94). -/
def heldReg (regs k : Nat) : Bool := k < 8 * regs || k == 238 || k == 239

/-- Physical registers of a group that starts at a named one, each renamed on its own (R96). -/
def Thread.group (t : Thread) (p : Panel) (k n : Nat) : List Nat :=
  (List.range n).map fun i => physReg p.regs p.band t.rotbase (k + i)

/-- The number that registers hold, lowest first (R4). -/
def Thread.getNat (t : Thread) (ks : List Nat) : Nat :=
  ks.foldr (fun k acc => (t.getV k).toNat + 2 ^ 32 * acc) 0

/-- Write a number to registers, lowest first. -/
def Thread.putNat : Thread → List Nat → Nat → Thread
  | t, [], _ => t
  | t, k :: ks, n => (t.setV k (BitVec.ofNat 32 n)).putNat ks (n / 2 ^ 32)

/-- The index a trap names: the first word of the hint group (R425). -/
def Thread.self (t : Thread) : Nat := t.hints.first.getD t.pc

/-- The thread's panel and launch. -/
def Sys.homeOf (s : Sys) (t : Thread) : Option (Panel × Launch) :=
  match s.panel? t.panel with
  | some p => (s.launch? p.launch).map fun l => (p, l)
  | none => none

/-- The words of text the launch's object has. -/
def Sys.textWords (s : Sys) (l : Launch) : Nat := (s.textOf l).length

/-- The port of a thread. -/
def portOf (p : Panel) (l : Launch) (t : Thread) : Port := ⟨l.part, l, p.extents, t.core, t.panel, t.tid⟩

/-! ## Going on -/

/-- Past an instruction: the next word of its form (R74, R98). -/
def Thread.past (t : Thread) (nmap : List Nat) : Thread :=
  match t.nat with
  | none => { t with pc := t.pc + 1 }
  | some n => { t with pc := nmap.getD (n.npc + 1) (t.pc + 1), nat := some { n with npc := n.npc + 1, left := n.left - 1 } }

/-- After an issue of the target: the next repeat, or the word after the group (R107, R136). -/
def Thread.advance (t : Thread) (nmap : List Nat) : Thread :=
  match t.hints.rep with
  | some r =>
    if t.repidx < r.count.toNat then { t with repidx := t.repidx + 1 }
    else { (t.past nmap) with repidx := 0, hints := Hints.empty }
  | none => { (t.past nmap) with hints := Hints.empty }

def Sys.nmapOf (s : Sys) (l : Launch) : List Nat :=
  match s.objectOf l with
  | some o => (o.nativeFor l.travelling).2
  | none => []

/-- The thread advances. -/
def Tx.advance (tx : Tx s0) (t : Thread) (l : Launch) : Tx s0 :=
  tx.mod fun s => s.setThread (t.advance (s.nmapOf l))

/-- The thread stands at its next instruction, and its entry is not runnable until this one is done (R121, R122, R362). -/
def Thread.held (t : Thread) (nmap : List Nat) (x : Pend) : Thread := { (t.advance nmap) with pend := some x, pendAt := t.self }

def Tx.hold (tx : Tx s0) (t : Thread) (l : Launch) (x : Pend) : Tx s0 :=
  tx.mod fun s => s.setThread (t.held (s.nmapOf l) x)

/-! ## Forms (R74, R76, R87, R88, R104) -/

/-- The form in which a thread continues that a trap or a pre-emption takes to an index: portable (R104, R78), but native in a
travelling launch where a native clause of its piece starts there (R87, R88). -/
def Thread.formAt (t : Thread) (s : Sys) (l : Launch) (pc : Nat) : Option Native :=
  if l.travelling then t.nat.bind fun _ => (s.objectOf l).bind fun o => o.nativeAt t.piece pc else none

/-- The form in which a pre-empted thread continues (R104): between two clauses it stands where it stood, inside one as a trapped
thread does. -/
def Thread.restForm (t : Thread) (s : Sys) (l : Launch) (pc : Nat) : Option Native :=
  if !l.travelling && t.pend.isNone && t.nat.any (·.left == 0) then t.nat else t.formAt s l pc

/-! ## Trap entry and return (R426 to R428, R448) -/

/-- What a fault record says of the access (R431). -/
structure Info where
  slot : Nat
  offset : Nat
  write : Bool
  deriving DecidableEq, Repr

def Info.none : Info := ⟨0, 0, false⟩

/-- Codes whose handler is the supervisor (R422). -/
def supervisorCode (c : Byte) : Bool :=
  c == tBUFOWNER || c == tPGFLT || c == tSPOOLOVF || c == tMARKMISS || c == tORPHAN || c == tSVCI || c == tLINKFLT

/-- The record of a thread's fault (R431): the only one of its batch. -/
def threadRecord (code : Byte) (l : Launch) (p : Panel) (t : Thread) (logical pc : Nat) (value : Word) (i : Info) :
    RecordInfo :=
  { code := code, source := 0, batchIx := 0, last := true, launch := l.id, pid := p.pid, tid := t.tid,
    core := logical, chan := 0, pc := pc, value := value, slot := i.slot, offset := i.offset, write := i.write }

def Sys.logical (s : Sys) (part core : Nat) : Nat :=
  match s.part? part with
  | some p => p.logical core
  | none => 0x1FF

/-- Trap entry in the thread itself (R426): the trap CSRs, then the entry and its priority. A thread already in its
handler, or a launch without a trap entry, ends the launch. `pc` is the index of R425. -/
def Tx.trapEntry (tx : Tx s0) (t : Thread) (l : Launch) (code : Byte) (value : Word) (pc : Nat) : Tx s0 :=
  if t.trapc.toNat.testBit 31 || l.trapEntry == 0xFF then tx.terminate l.key (0x80 + code.toNat)
  else
    let (target, prio, _) := tx.sys.entryOf l l.trapEntry
    tx.mod fun s => s.setThread { t with
      trapc := BitVec.ofNat 32 (2 ^ 31 + code.toNat), trapv := value, trappc := BitVec.ofNat 32 pc
      trapprio := t.prio.setWidth 32, pc := target, prio := prio, hints := Hints.empty, nat := t.formAt s l target
      pend := none, phase := .ready, entered := true }

/-- A supervisor fault suspends the thread and posts its record (R427); it is to resume at `pc` (R428). -/
def Tx.suspend (tx : Tx s0) (t : Thread) (p : Panel) (l : Launch) (code : Byte) (value : Word) (pc : Nat) (i : Info) :
    Tx s0 :=
  let rec_ := threadRecord code l p t (tx.sys.logical l.part t.core) pc value i
  let (k, tx) := tx.postTicket l.part rec_ (.thread t.panel t.tid) l.key
  tx.mod fun s => s.setThread { t with
    phase := .suspended pc, pc := pc, hints := Hints.empty, nat := t.formAt s l pc, pend := none, ticket := some k }

/-- Does a thread run ahead (R432)? -/
def Panel.aheadOf (p : Panel) (tid : Nat) : Bool :=
  match p.ahead with
  | some a => !a.saved.isEmpty && a.tids.contains tid
  | none => false

/-- Run-ahead's end condition has come. -/
def Tx.endAhead (tx : Tx s0) (panel : Nat) : Tx s0 :=
  tx.mod fun s => match s.panel? panel with
    | some p => s.setPanel { p with ahead := p.ahead.map fun a => { a with ended := true } }
    | none => s

/-- A page that faults joins the batch (R432): distinct pages only; the 32nd ends run-ahead. -/
def RunAhead.addPage (a : RunAhead) (page : Nat) (r : FaultRec) : RunAhead :=
  if a.pages.contains page then a
  else { a with pages := a.pages ++ [page], records := a.records ++ [r], ended := a.ended || a.pages.length + 1 ≥ 32 }

/-- A `PGFLT` of a lazy access: the thread joins the run-ahead of its panel, and its page the batch. -/
def Tx.pageFault (tx : Tx s0) (t : Thread) (p : Panel) (l : Launch) (value : Word) (i : Info) : Tx s0 :=
  let r := { threadRecord tPGFLT l p t (tx.sys.logical l.part t.core) t.self value i with last := false }
  let a := p.ahead.getD ⟨[], [], [], 0, [], [], false⟩
  let a := a.addPage (i.offset / 65536) ⟨r.words 0⟩
  let a := if a.tids.contains t.tid then a else { a with tids := a.tids ++ [t.tid] }
  tx.mod fun s => { s.setPanel { p with ahead := some a } with
    walks := s.walks.filter fun w => !(w.panel == t.panel && w.tid == t.tid && w.failed == some true) }

/-- A trap of one thread (R422, R423): to the supervisor, to run-ahead, or to the trap entry. In run-ahead any trap
but `PGFLT` ends it. `back` is the index that R425 names. -/
def Tx.raiseAt (tx : Tx s0) (t : Thread) (code : Byte) (value : Word) (i : Info) (back : Nat) : Tx s0 :=
  match tx.sys.homeOf t with
  | none => tx
  | some (p, l) =>
    if p.aheadOf t.tid then (if code = tPGFLT then tx.pageFault t p l value i else tx.endAhead p.key)
    else if supervisorCode code && !l.supervisor then
      (if code = tPGFLT then tx.pageFault t p l value i else tx.suspend t p l code value back i)
    else
      let tx := if supervisorCode code then tx.notice (.supervisorFault l.part code) else tx
      tx.trapEntry t l code value back

/-- A trap that names the instruction itself. -/
def Tx.raise (tx : Tx s0) (t : Thread) (code : Byte) (value : Word) (i : Info := Info.none) : Tx s0 :=
  tx.raiseAt t code value i t.self

/-- What a return from a trap clears and sets (R448 mode 0), but for place and priority. -/
def Thread.return_ (t : Thread) : Thread := { t with trapc := t.trapc &&& 0x7FFFFFFF, noBrk := true }

/-- A late report of a thread that has exited: a `TACKST` marks the launch, a failure at a peer posts a record that
expects no answer (R475). -/
def Tx.lateLost (tx : Tx s0) (t : Thread) (p : Panel) (l : Launch) (e : Late) : Tx s0 :=
  if e.code = tTACKST then
    tx.mod fun s => s.mapLaunches fun x => if x.key = l.key then { x with suppressed := true } else x
  else
    let r := threadRecord e.code l p t (tx.sys.logical l.part t.core) e.pc e.value ⟨e.slot, e.offset, e.write⟩
    tx.postRecord l.part { r with source := 3 } noTicket

/-! ## Run-ahead (R432) -/

/-- The panels whose threads have just faulted are checkpointed, and those threads run ahead from the next word. -/
def Tx.beginAhead (tx : Tx s0) : Tx s0 :=
  tx.each (tx.sys.panels.filter fun p => p.ahead.any fun a => a.saved.isEmpty) fun tx p =>
    match p.ahead, tx.sys.launchOf p with
    | some a, some l =>
      let all := tx.sys.threadsOf p.key
      let clean := all.map fun t => { t with poisonV := [], poisonP := 0 }
      tx.mod fun s =>
        let s := s.setPanel { p with ahead := some { a with saved := clean, savedMasks := p.masks } }
        (all.filter fun t => a.tids.contains t.tid).foldl
          (fun s t => s.setThread { (t.past (s.nmapOf l)) with repidx := 0, hints := Hints.empty }) s
    | _, _ => tx

/-! ## Transfer of control (R143, R372) -/

/-- The piece that holds an index. -/
def Marker.pieceAt (m : Marker) (ix : Nat) : Option Nat :=
  (List.range m.pieces.length).find? fun i => match m.pieces[i]? with
    | some p => p.start ≤ ix && ix < p.start + p.words
    | none => false

def Marker.entryAt (m : Marker) (ix : Nat) : Option PieceEntry := m.entries.find? fun e => e.index == ix

/-- The thread's next index and priority. A direct branch of native text lands on its own word (`at_`, R74, R98); else a
thread that runs native is in native form where a clause starts (R76, R88, R143). -/
def Thread.land (t : Thread) (o : Option Object) (target : Nat) (prio : Byte) (at_ : Option Native) : Thread :=
  { t with pc := target, prio := prio, hints := Hints.empty,
           nat := match t.nat, o with
             | some _, some o => at_.orElse fun _ => o.nativeAt t.piece target
             | _, _ => none }

/-- Steps 1 to 4 of R372: `ILLOP`, `MARKMISS`, `SPOOLOVF`, or the thread leaves the frontier and departs. `writes` and
`rotbase` are what the transfer itself writes, and take effect with the parcel; `take` pops what it has read; `ret` marks a return from a trap. -/
def Tx.depart (tx : Tx s0) (t : Thread) (p : Panel) (l : Launch) (target : Nat) (prio : Byte)
    (writes : List (Nat × Word)) (rotbase : Nat) (take : Tx s0 → Tx s0 := id) (ret : Bool := false) : Tx s0 :=
  if target ≥ tx.sys.textWords l then tx.raise t tILLOP 0
  else match (tx.sys.objectOf l).bind (·.marker) with
  | none => tx.raise t tILLOP 0
  | some m =>
    let g := p.pid * l.threads + t.tid
    if (m.entryAt target).isNone && !t.fresh then tx.raise t tMARKMISS (BitVec.ofNat 32 target)
    else if 320 * g + 320 > ((l.kind3.map l.decl).map Decl.len).getD 0 then
      tx.raise t tSPOOLOVF (BitVec.ofNat 32 target)
    else (take tx).mod fun s => s.setThread { t with
      phase := .departing target prio writes rotbase tx.sys.nonce ret, pc := t.self, hints := Hints.empty }

/-- A transfer whose target has passed the range test: in place, or by travel (R143, R372). -/
def Tx.transfer (tx : Tx s0) (t : Thread) (p : Panel) (l : Launch) (target : Nat) (prio : Byte)
    (writes : List (Nat × Word)) (rotbase : Nat) (at_ : Option Native := none) (take : Tx s0 → Tx s0 := id)
    (ret : Bool := false) : Tx s0 :=
  let o := tx.sys.objectOf l
  let outside := l.travelling && (o.bind (·.marker)).any fun m => m.pieceAt target != t.piece
  if outside then
    (if p.handlerOf.isSome || p.yoke.isNone then tx.raise t tILLCONV 0
     else if p.aheadOf t.tid then tx.endAhead p.key
     else tx.depart t p l target prio writes rotbase take ret)
  else (take tx).mod fun s => s.setThread { (((if ret then t.return_ else t).setVs writes).land o target prio at_) with rotbase := rotbase }

/-- An operation is over: it counts on its flag no more (R100, R267). -/
def Thread.finish (t : Thread) (o : Op) : Thread :=
  { t with
    ops := t.ops.filter fun x => x.id != o.id
    f := match o.flag with
      | some k => t.f.set k (t.f.getD k 0 - 1)
      | none => t.f }

/-! ## A panel whose threads have exited (R52, R466) -/

def Sys.allExited (s : Sys) (panel : Nat) : Bool := (s.threadsOf panel).all fun t => t.phase == .exited

/-- The operation of a request is over for a thread. -/
def Thread.dropReq (t : Thread) (req : Nat) : Thread :=
  match t.ops.find? fun o => o.kind == .tile req with
  | some o => t.finish o
  | none => t

/-- The held commands of a panel all of whose threads have exited are discarded (R52): a copy completes as one of zero
extent, a held `MMAG` with its arrival alone. -/
def Tx.discardHeld (tx : Tx s0) (panel : Nat) : Tx s0 :=
  if !tx.sys.allExited panel then tx
  else
    let mine (r : Req) : Bool := r.panel == panel && r.held.isSome
    let gone := tx.sys.reqs.filter mine
    let tx := tx.mod fun s => { s with
      cmds := s.cmds.map fun c => if c.held && c.panel == panel then { c with held := false, void := true } else c
      reqs := s.reqs.filter fun r => !mine r
      threads := s.threads.map fun t => if t.panel = panel then gone.foldl (fun t r => t.dropReq r.key) t else t }
    tx.each gone fun tx r => tx.tackEvents r.tack.toList .arrive

/-! ## Shuttles (R297) -/

/-- Why a shuttle access cannot go on. -/
inductive ShuttleRes where
  | ok
  | trap (n : Nat)
  | stall
  deriving DecidableEq, Repr

/-- Pushes of shuttle `n` of a yoke that operations already issued are still to make: each keeps its place in the queue. -/
def Sys.pushesDue (s : Sys) (yoke n : Nat) : Nat :=
  let due (t : Thread) : Nat := (t.ops.filter fun o => o.dst == [240 + n]).length
    + (match t.pend with
      | some (.wait _ dst _ _ _) => if dst = [240 + n] then 1 else 0
      | _ => 0)
  ((s.threads.filter fun t => (s.panel? t.panel).any fun p => p.yoke == some yoke).map due).sum

/-- May this panel pop (or push) shuttle `n`? The queue must not be empty (or full). -/
def shuttleReady (s : Sys) (p : Panel) (l : Launch) (n : Nat) (push : Bool) : ShuttleRes :=
  match s.yokeOf p with
  | none => .trap n
  | some y =>
    match (y.shuttles.getD n ⟨none, []⟩).config with
    | none => .trap n
    | some (prod, cons) =>
      if (if push then prod else cons) ≠ p.position l y then .trap n
      else
        let len := (y.shuttles.getD n ⟨none, []⟩).words.length
        if push then (if len + s.pushesDue y.key n ≥ 16 then .stall else .ok) else (if len = 0 then .stall else .ok)

def Yoke.setShuttle (y : Yoke) (n : Nat) (f : Shuttle → Shuttle) : Yoke :=
  { y with shuttles := y.shuttles.set n (f (y.shuttles.getD n ⟨none, []⟩)) }

def Tx.updYoke (tx : Tx s0) (p : Panel) (f : Yoke → Yoke) : Tx s0 :=
  tx.mod fun s => match s.yokeOf p with
    | some y => s.setYoke (f y)
    | none => s

/-- Pop one word (R97). -/
def Tx.pop (tx : Tx s0) (p : Panel) (n : Nat) : Word × Tx s0 :=
  let w := match tx.sys.yokeOf p with
    | some y => (y.shuttles.getD n ⟨none, []⟩).words.headD 0
    | none => 0
  (w, tx.updYoke p fun y => y.setShuttle n fun q => { q with words := q.words.tail })

/-- The word that an instruction took goes back to the front of its queue: the instruction traps, or is to issue again (R97,
assumption log 185). -/
def Tx.unpop (tx : Tx s0) (p : Panel) (x : Option (Nat × Word)) : Tx s0 :=
  match x with
  | some (n, w) => tx.updYoke p fun y => y.setShuttle n fun q => { q with words := w :: q.words }
  | none => tx

/-- Push one word. -/
def Tx.push (tx : Tx s0) (p : Panel) (n : Nat) (w : Word) : Tx s0 :=
  tx.updYoke p fun y => y.setShuttle n fun q => { q with words := q.words ++ [w] }

/-! ## The stitch (R125) -/

/-- Where a thread of the stitch must wait for a walk, no thread of it issues (R125, R133, R249): the walks stand and all else is
as before. The word has passed its comparators, and the end of a piece, and does so once (R372, R445). -/
def Tx.orWalks (before after : Tx s0) : Tx s0 :=
  let new := after.sys.walks.filter fun w => w.pref.isNone && !before.sys.walks.contains w
  if new.isEmpty || after.halt.isSome then after
  else before.mod fun s => { s with
    serial := after.sys.serial, walks := s.walks ++ new
    threads := s.threads.map fun t => if s.focus.contains (t.panel, t.tid) then { t with noBrk := true, entered := true } else t }

/-- Run `f` for every thread of the stitch in ascending `%tid` order. `f` says whether the threads after it may still
be served: a shuttle that stalls leaves them behind (R125). Threads that fault on a lazy page then run ahead. -/
def Tx.eachThread (tx : Tx s0) (f : Tx s0 → Thread → Panel → Launch → Tx s0 × Bool) : Tx s0 :=
  let r := tx.sys.focus.foldl (fun (acc : Tx s0 × Bool) id =>
    if acc.2 then
      match acc.1.sys.thread? id.1 id.2 with
      | some t =>
        match acc.1.sys.homeOf t with
        | some (p, l) => f acc.1 t p l
        | none => acc
      | none => acc
    else acc) (tx, true)
  (tx.orWalks r.1).beginAhead

/-- The threads of the stitch, ascending. -/
def Sys.stitch (s : Sys) : List (Thread × Panel × Launch) :=
  s.focus.filterMap fun id => (s.thread? id.1 id.2).bind fun t => (s.homeOf t).map fun h => (t, h.1, h.2)

/-- Every thread of the stitch takes the same trap (R128). -/
def Tx.raiseAll (tx : Tx s0) (code : Byte) (value : Word) : Tx s0 :=
  tx.each tx.sys.stitch fun tx x => tx.raise x.1 code value

/-- The same for an instruction that never stalls. -/
def Tx.eachOf (tx : Tx s0) (f : Tx s0 → Thread → Panel → Launch → Tx s0) : Tx s0 :=
  tx.eachThread fun tx t p l => (f tx t p l, true)

end Sys2Proof.Machine
end

