-- ==== Sys2Proof/Machine/Operands.lean ====
section
/-! DEFINITION. Every operand form: which fields of an instruction name registers or tiles, how wide each group is, what
z and the shuttles may stand for, which hints a target accepts (R92 to R97, R105 to R110, R195, R215, R268, R299,
R324, R362, R389, R415, R446), and the decode checks of R115 that follow. -/

namespace Sys2Proof.Machine

variable {s0 : State}

inductive Role where
  | r | w | rw
  deriving DecidableEq, Repr

/-- One register operand: field value, registers in its group, read or written, may name a shuttle, may name z, and
the step of `REP` that moves it (1 d, 2 a, 3 b, 0 none). In the first `pairs` repeats the group is a pair whatever `n`
says (the d of `HQRY` under a stepped sel). -/
structure Opnd where
  f : Nat
  n : Nat
  role : Role
  sh : Bool
  z : Bool
  st : Nat
  pairs : Nat
  deriving DecidableEq, Repr

/-- What `HOPD` is to a target. -/
inductive HopdUse where
  | no | opt | req
  deriving DecidableEq, Repr

/-- The hints a target accepts. `cn` is the width of the c operand, 0 where `HOPD` gives none; `modes` are the mode16
bits it defines; `otypes` how many operand types. -/
structure HintSet where
  himm : Bool
  rep : Bool
  pen : Bool
  sat : Bool
  rmode : Bool
  srd : Bool
  ftz : Bool
  dith : Bool
  setb : Bool
  otypes : Nat
  hopd : HopdUse
  cn : Nat
  csh : Bool
  modes : Nat
  deriving DecidableEq, Repr

/-- The operand form of an instruction: sources in field order follow the destination; `tiles` are 6-bit fields with
their steps; `plain` are the steps that move a field which names no register: an M-format offset, the sel of `HQRY`, the
level of `PREF`; `preds` are the predicates it reads. -/
structure Form where
  ops : List Opnd
  tiles : List (Nat × Nat)
  plain : List Nat
  preds : BitVec 8
  hs : HintSet
  deriving DecidableEq, Repr

namespace HintSet
def none : HintSet := ⟨false, false, false, false, false, false, false, false, false, 0, .no, 0, false, 0⟩
/-- pen and `REP` only -/
def plain : HintSet := { none with rep := true, pen := true }
/-- pen only -/
def pred : HintSet := { none with pen := true }
end HintSet

/-! Operands in their usual places. -/
def dW (f : BitVec 8) (n : Nat) : Opnd := ⟨f.toNat, n, .w, n == 1, n == 1, 1, 0⟩
def dRW (f : BitVec 8) (n : Nat) : Opnd := ⟨f.toNat, n, .rw, false, n == 1, 1, 0⟩
def aR (f : BitVec 8) (n : Nat) : Opnd := ⟨f.toNat, n, .r, n == 1, n == 1, 2, 0⟩
def bR (f : BitVec 8) (n : Nat) : Opnd := ⟨f.toNat, n, .r, n == 1, n == 1, 3, 0⟩
/-- not stepped by `REP` -/
def fixed (o : Opnd) : Opnd := { o with st := 0 }
def noShuttle (o : Opnd) : Opnd := { o with sh := false }
def withZ (o : Opnd) : Opnd := { o with z := true }
def noZ (o : Opnd) : Opnd := { o with z := false, sh := false }

def mkForm (ops : List Opnd) (hs : HintSet) : Form := ⟨ops, [], [], 0, hs⟩
def mForm (ops : List Opnd) (hs : HintSet) : Form := ⟨ops, [], [3], 0, hs⟩
def tForm (tiles : List (Nat × Nat)) (hs : HintSet) : Form := ⟨[], tiles, [], 0, hs⟩

/-- A predicate as a mask. -/
def predBit (n : Nat) : BitVec 8 := BitVec.ofNat 8 (2 ^ n)

/-- d, a, b of the 32-bit three-register form. -/
def rrr (d a b : BitVec 8) (n : Nat) (hs : HintSet) : Form := mkForm [dW d n, aR a n, bR b n] hs

def hSat : HintSet := { HintSet.plain with sat := true }
def hArith : HintSet := { HintSet.plain with sat := true, rmode := true, ftz := true }
def hMode (modes : Nat) (use : HopdUse) : HintSet := { HintSet.plain with hopd := use, modes := modes }
def hFtz : HintSet := { HintSet.plain with ftz := true }
def hImm : HintSet := { HintSet.plain with himm := true }

/-- Cross-lane form (R230): d, a, member mask pair m. -/
def lane (d a m : BitVec 8) (dn an : Nat) (hs : HintSet) : Form :=
  mkForm [noShuttle (dW d dn), noShuttle (aR a an), fixed (bR m 2)] hs

def hMem : HintSet := { HintSet.plain with himm := true }
def hMemA : HintSet := { hMem with setb := true }

/-- Loads and `LDS` (R269, R271): z may stand for any d, a shuttle for none. -/
def loadForm (d h : BitVec 8) (n : Nat) : Form := mForm [withZ (noShuttle (dW d n)), aR h 2 |> noZ] hMemA

/-- Stores and `STS` (R270, R271): d is a source. -/
def storeForm (d h : BitVec 8) (n : Nat) : Form := mForm [aR h 2 |> noZ, ⟨d.toNat, n, .r, n == 1, n == 1, 1, 0⟩] hMem

/-- Atomics (R272): d takes the old value and, without `HOPD`, gives X; `dn` registers for the result, `xn` for X. A shuttle
as a 32-bit d gives X by a pop and takes the old value by a push (R93, R97). -/
def atomForm (d h : BitVec 8) (dn xn : Nat) (hopd : Bool) : Form :=
  let queue := !hopd && dn == 1 && 240 ≤ d.toNat && d.toNat < 248
  mForm ([⟨d.toNat, dn, if hopd || queue then .w else .rw, dn == 1, hopd, 1, 0⟩, aR h 2 |> noZ]
      ++ if queue then [⟨d.toNat, 1, .r, true, false, 0, 0⟩] else [])
    { hMem with setb := d != 248, hopd := .opt, cn := xn, csh := xn == 1 }

/-- The otype of a hint group. -/
def otypeOf (h : Hints) : Nat := match h.hmod with
  | some m => m.otype.toNat
  | none => 0

/-- Its mode16. -/
def modeOf (h : Hints) : Nat := match h.hopd with
  | some o => o.mode.toNat
  | none => 0

def satOf (h : Hints) : Bool := h.hmod.any (·.sat)
def ftzOf (h : Hints) : Bool := h.hmod.any (·.ftz)
def rmodeOf (h : Hints) : Nat := match h.hmod with
  | some m => m.rmode.toNat
  | none => 0

/-- Words of 64 bits under a 64-bit operand type (R202, R237). -/
def otypeRegs (h : Hints) : Nat := if otypeOf h = 1 ∨ otypeOf h = 3 then 2 else 1

/-- Registers of a and b of `PACK` for a format (R225): how many each of a and b gives. -/
def packRegs (fmt : Nat) : Nat :=
  if fmt = 2 ∨ fmt = 3 ∨ fmt = 19 ∨ fmt = 21 then 1
  else if fmt = 8 ∨ fmt = 18 then 4 else 2

/-- Formats that `PACK` and `UNPK` take (R225). -/
def packFmt (fmt : Nat) : Bool := (2 ≤ fmt && fmt ≤ 8) || (16 ≤ fmt && fmt ≤ 23)

/-- Registers that a step code adds for each repeat (R107). -/
def stepAmount (c : BitVec 2) : Nat := if c = 3 then 4 else c.toNat

/-- The step of `REP` for a field. -/
def stepOf (h : Hints) (st : Nat) : Nat :=
  match h.rep, st with
  | some r, 1 => stepAmount r.d
  | some r, 2 => stepAmount r.a
  | some r, 3 => stepAmount r.b
  | _, _ => 0

/-- The tack operand of a matrix request (R325). -/
def hTack : HintSet := { HintSet.none with rep := true, setb := true, hopd := .opt, cn := 2, modes := 3 }

def hEng : HintSet := HintSet.pred

/-- The operand form of an instruction under its hints. -/
def form (i : Instr) (h : Hints) : Form :=
  match i with
  | .add d a b | .sub d a b => rrr d a b 1 { hSat with hopd := .opt, modes := 1 }
  | .addi d a _ => mkForm [dW d 1, aR a 1] { hSat with hopd := .opt, modes := 1, himm := true }
  | .add64 d a b | .sub64 d a b => rrr d a b 2 hSat
  | .mul d a b | .mulhs d a b | .mulhn d a b | .mins d a b | .maxs d a b | .minn d a b | .maxn d a b
  | .absd d a b | .and d a b | .or d a b | .xor d a b | .andn d a b | .orn d a b | .xnor d a b
  | .shl d a b | .shr d a b | .sra d a b | .rol d a b | .bfx d a b | .bfxs d a b => rrr d a b 1 HintSet.plain
  | .mac d a b | .idot4s d a b | .idot4n d a b => mkForm [dRW d 1, aR a 1, bR b 1] hSat
  | .bfi d a b => mkForm [dRW d 1, aR a 1, bR b 1] HintSet.plain
  | .mulw d a b => mkForm [dW d 2, aR a 1, bR b 1] (hMode 1 .opt)
  | .sel d a b =>
    { rrr d a b (otypeRegs h) { hMode 0xF .opt with otypes := 3 } with preds := predBit (modeOf h % 8) }
  | .prmt d a b => rrr d a b 1 (hMode 0xFFFF .req)
  | .andi d a _ | .ori d a _ | .xori d a _ => mkForm [dW d 1, aR a 1] hImm
  | .shli d a _ | .shri d a _ | .srai d a _ => mkForm [dW d 1, aR a 1] HintSet.plain
  | .popc d a | .clz d a | .ctz d a | .brev d a | .bswap d a | .mov d a => mkForm [dW d 1, aR a 1] HintSet.plain
  | .movi d _ => mkForm [dW d 1] hImm
  | .movhi d _ => mkForm [dRW d 1] HintSet.plain
  | .icmps _ m p a b | .icmpn _ m p a b =>
    { mkForm [aR a 1, bR b 1] HintSet.plain with preds := if m = 0 then 0 else predBit p.toNat }
  | .icmpi _ m p a _ => { mkForm [aR a 1] hImm with preds := if m = 0 then 0 else predBit p.toNat }
  | .plut c _ _ b a =>
    { mkForm [] HintSet.plain with preds := predBit c.toNat ||| predBit b.toNat ||| predBit a.toNat }
  | .p2v d => { mkForm [dW d 1] HintSet.plain with preds := 0xFF }
  | .v2p a _ => mkForm [aR a 1] HintSet.plain
  -- 08
  | .faddF32 d a b | .fsubF32 d a b | .fmulF32 d a b => rrr d a b 1 hArith
  | .faddF64 d a b | .fsubF64 d a b | .fmulF64 d a b => rrr d a b 2 hArith
  | .fmacF32 d a b => mkForm [dRW d 1, aR a 1, bR b 1] hArith
  | .fmacF64 d a b => mkForm [dRW d 2, aR a 2, bR b 2] hArith
  | .fmaF32 d a b => rrr d a b 1 { hArith with hopd := .req, cn := 1, csh := true }
  | .fmaF64 d a b => rrr d a b 2 { hArith with hopd := .req, cn := 2 }
  | .fminF32 d a b | .fmaxF32 d a b => rrr d a b 1 hFtz
  | .fminF64 d a b | .fmaxF64 d a b => rrr d a b 2 hFtz
  | .fcmpF32 _ m p a b => { mkForm [aR a 1, bR b 1] hFtz with preds := if m = 0 then 0 else predBit p.toNat }
  | .fcmpF64 _ m p a b => { mkForm [aR a 2, bR b 2] hFtz with preds := if m = 0 then 0 else predBit p.toNat }
  | .paddH16x2 d a b | .pmulH16x2 d a b | .paddBf16x2 d a b | .pmulBf16x2 d a b => rrr d a b 1 hArith
  | .pmacH16x2 d a b | .pmacBf16x2 d a b => mkForm [dRW d 1, aR a 1, bR b 1] hArith
  | .dot2H16 d a b | .dot2Bf16 d a b | .dot4E4m3 d a b | .dot8E2m1 d a b =>
    mkForm [dRW d 1, aR a 1, bR b 1] HintSet.plain
  | .fclass d a t => mkForm [dW d 1, aR a (if t = 1 then 2 else 1)] HintSet.plain
  | .frcp d a | .frsq d a | .fex2 d a | .flg2 d a | .fsin d a | .fcos d a => mkForm [dW d 1, aR a 1] hFtz
  | .fsqrt d a => mkForm [dW d 1, aR a 1] { hFtz with rmode := true }
  | .frcpsF64 d a => mkForm [dW d 2, aR a 2] hFtz
  | .cvt d a t f => mkForm [dW d (if t = 0 then 2 else 1), aR a (if f = 0 then 2 else 1)] hArith
  | .cvti d a t f =>
    mkForm [dW d (if t = 2 ∨ t = 3 then 2 else 1), aR a (if f = 0 then 2 else 1)] { HintSet.plain with rmode := true }
  | .cvtf d a t f =>
    mkForm [dW d (if t = 0 then 2 else 1), aR a (if f = 2 ∨ f = 3 then 2 else 1)] { HintSet.plain with rmode := true }
  | .pack d a b =>
    let fmt := modeOf h % 32
    mkForm [dW d 1, aR a (packRegs fmt), bR b (packRegs fmt)]
      { hMode 0x1F .req with rmode := true, srd := !(packRegs fmt == 1), sat := fmt == 2 || fmt == 3 }
  | .unpk d a =>
    let fmt := modeOf h % 32
    mkForm [dW d (if packRegs fmt = 1 then 2 else 4), aR a 1]
      { hMode (if packRegs fmt = 4 then 0x3F else 0x1F) .req with rmode := true }
  | .scale d a b =>
    let n := if modeOf h = 1 then 2 else 1
    mkForm [dW d n, aR a n, bR b 1] { hArith with hopd := .opt, modes := 1 }
  | .frnd d a =>
    let n := if modeOf h = 1 then 2 else 1
    mkForm [dW d n, aR a n] { hFtz with rmode := true, hopd := .opt, modes := 1 }
  | .logc d a b => mkForm [dRW d 1, aR a 1, bR b 1] (hMode 3 .opt)
  | .shfl d a m => lane d a m 1 1 { HintSet.plain with hopd := .req, cn := 1 }
  | .shflx d a m => lane d a m 1 1 (hMode 0xC07F .req)
  | .bcst d a m => lane d a m 1 1 (hMode 0x807F .opt)
  | .vote d a m => lane d a m 1 1 (hMode 3 .opt)
  | .ballot d a m => lane d a m 2 1 HintSet.plain
  | .raddS32 d a m | .raddF32 d a m | .rminN32 d a m | .rmaxN32 d a m | .rminF32 d a m | .rmaxF32 d a m =>
    lane d a m 1 1 HintSet.plain
  | .rminxN32 d a m => lane d a m 2 1 HintSet.plain
  | .scanS32 d a m => lane d a m 1 1 (hMode 1 .opt)
  | .matchLanes d a m => lane d a m 2 (otypeRegs h) { HintSet.plain with otypes := 3 }
  | .laneid d m => mkForm [noShuttle (dW d 1), fixed (bR m 2)] HintSet.plain
  -- 10
  | .ldB8 d h _ | .ldS8 d h _ | .ldB16 d h _ | .ldS16 d h _ | .ldB32 d h _ | .ldsB32 d h _ => loadForm d h 1
  | .ldB64 d h _ | .ldsB64 d h _ => loadForm d h 2
  | .ldB128 d h _ | .ldsB128 d h _ => loadForm d h 4
  | .stB8 d h _ | .stB16 d h _ | .stB32 d h _ | .stsB32 d h _ => storeForm d h 1
  | .stB64 d h _ | .stsB64 d h _ => storeForm d h 2
  | .stB128 d h _ | .stsB128 d h _ => storeForm d h 4
  | .atomAdd d hd _ | .atomMins d hd _ | .atomMaxs d hd _ | .atomAnd d hd _ | .atomOr d hd _ | .atomXor d hd _
  | .atomXchg d hd _ | .atomFadd d hd _ => atomForm d hd 1 1 h.hopd.isSome
  | .atomCas d hd _ | .atomAdd64 d hd _ => atomForm d hd 2 2 h.hopd.isSome
  | .hmk d a b => mkForm [dW d 2, aR a 1, bR b 2] HintSet.plain
  | .hadd d a b => mkForm [dW d 2, aR a 2, bR b 2] HintSet.plain
  | .hqry d a s =>
    let step := stepOf h 3
    let m := if s.toNat ≥ 2 then 0 else if step = 0 then 64 else cdiv (2 - s.toNat) step
    { mkForm [{ dW d 1 with sh := m == 0, z := m == 0, pairs := m }, aR a 2] HintSet.plain with plain := [3] }
  | .pref _ h _ => { mForm [noZ (aR h 2)] hMem with plain := [1, 3] }
  -- 05
  | .bra _ _ | .call _ _ => mkForm [] { HintSet.none with himm := true }
  | .brc n _ _ | .brn n _ _ => { mkForm [] { HintSet.none with himm := true } with preds := predBit n.toNat }
  | .loop _ _ => mkForm [] { HintSet.none with himm := true, hopd := .req, cn := 1, modes := 1 }
  | .bri _ a => mkForm [aR a 1] HintSet.none
  | .ret => mkForm [⟨238, 2, .r, false, false, 0, 0⟩] HintSet.none
  | .jqry d _ _ => mkForm [dW d 2] HintSet.none
  | .exit | .yield _ | .waitf _ | .enrol _ | .park _ _ | .strike _ | .nop => mkForm [] HintSet.none
  -- 12
  | .resv _ a | .tset _ a | .mpost _ a | .mpre _ a => mkForm [noZ (aR a 4)] HintSet.none
  | .free _ => mkForm [] HintSet.none
  | .tld x r c _ => tForm [(x.toNat, 1), (r.toNat, 2), (c.toNat, 3)]
      { HintSet.none with rep := true, setb := true, hopd := .req, cn := 1, modes := 0 }
  | .tst x r c _ => tForm [(x.toNat, 1), (r.toNat, 2), (c.toNat, 3)]
      { HintSet.none with rep := true, rmode := true, srd := true, dith := true, hopd := .req, cn := 1, modes := 0 }
  | .tzero x => tForm [(x.toNat, 1)] { HintSet.none with rep := true, setb := true }
  | .mma x y z _ _ | .rast x y z _ _ => tForm [(x.toNat, 1), (y.toNat, 2), (z.toNat, 3)] hTack
  | .mmag x y z _ _ => tForm [(x.toNat, 1), (y.toNat, 2), (z.toNat, 3)]
      { HintSet.none with rep := true, setb := true, hopd := .req, cn := 4, modes := 0xFFFF }
  | .tcvt x y _ => tForm [(x.toNat, 1), (y.toNat, 2)] { hTack with rep := false, dith := true }
  | .mqry d _ _ => mkForm [noShuttle (dW d 1)] HintSet.none
  -- 11
  | .cpy _ a _ | .cpym _ a _ | .cpys _ a _ | .launch a | .tkarr _ a _ | .tkkill _ a | .bbrel a | .aqp a | .trq a
  | .rel a _ => mkForm [noZ (aR a 2)] hEng
  | .binc t a b => mkForm [noZ ⟨t.toNat, 2, .r, false, false, 0, 0⟩, aR a 1, bR b 1] hEng
  | .binp t _ => mkForm [noZ (aR t 2)] hEng
  | .hrel _ | .shcfg _ _ _ _ | .fence _ _ => mkForm [] hEng
  | .tkinit _ a b | .tkexp _ a b | .bbinit a b => mkForm [noZ (aR a 2), noZ (bR b 2)] hEng
  | .tkwait d a _ _ => mkForm [withZ (dW d 2), noZ (aR a 2)] { hEng with setb := true }
  | .bbawait d a => mkForm [dW d 2, noZ (aR a 2)] { hEng with setb := true }
  -- 18
  | .kvap d a b => mkForm [⟨d.toNat, 2, .r, false, false, 0, 0⟩, noZ (aR a 2), noZ (bR b 2)] hEng
  | .aqst d a _ => mkForm [dW d 4, aR a 1] { hEng with setb := true }
  -- 17
  | .psend _ _ b => mkForm [noZ (bR b 2)] hEng
  | .travel _ a => mkForm [aR a 1] HintSet.none
  | .pqry d _ => mkForm [dW d 1] hEng
  -- 16
  | .bind d a b => mkForm [dW d 1, noZ (aR a 4), noZ (bR b 2)] hEng
  | .unbind a => mkForm [aR a 1] hEng
  | .acq d a b => mkForm [withZ (dW d 2), noZ (aR a 2), noZ (bR b 2)] hEng
  | .acqr d h _ => mForm [noShuttle (dW d 1), noZ (aR h 2)] { hEng with himm := true }
  | .relw d h _ => mForm [noZ (aR h 2), ⟨d.toNat, 1, .r, true, true, 0, 0⟩]
      { hEng with himm := true, hopd := .opt, modes := 0x3F }
  -- 20
  | .rftResume a | .rftKill a => mkForm [noZ (aR a 1)] HintSet.none
  | .brkSet _ a | .invalTranslation a | .invalWriteback a | .invalKey a => mkForm [noZ (aR a 4)] HintSet.none
  | .csrr d _ | .csrrCyc d => mkForm [dW d 1] HintSet.none
  | .csrw d _ | .csrwIldom d _ | .csrwOflag d => mkForm [{ aR d 1 with st := 0 }] HintSet.none
  | .wait d a b => mkForm [dW d 1, noZ (aR a 2), bR b 1] HintSet.none
  | _ => mkForm [] HintSet.none

/-! ## The checks -/

/-- A register field is legal for a group of `n` (R93, R94, R96, R97). -/
def fieldOk (regs f n : Nat) (sh z : Bool) : Bool :=
  if f < 240 then f % n == 0 && (List.range n).all fun i => heldReg regs (f + i)
  else if f < 248 then sh && n == 1
  else f == 248 && z

/-- Registers of an operand's group in repeat `k`. -/
def Opnd.width (o : Opnd) (k : Nat) : Nat := if k < o.pairs then 2 else o.n

/-- An operand is legal in every repeat (R107). -/
def opndOk (regs : Nat) (h : Hints) (o : Opnd) : Bool :=
  let step := stepOf h o.st
  fieldOk regs o.f (o.width 0) o.sh o.z &&
    (step == 0 || (o.f < 240 && (List.range ((h.rep.map (·.count.toNat)).getD 0 + 1)).all fun i =>
      o.f + i * step < 240 && fieldOk regs (o.f + i * step) (o.width i) false false))

/-- The fields that `REP` steps are fields that may be stepped (R107, R196). -/
def stepsOk (fm : Form) (h : Hints) : Bool :=
  match h.rep with
  | none => true
  | some r =>
    let has (k : Nat) : Bool := fm.ops.any (fun o => o.st == k) || fm.tiles.any (fun t => t.2 == k) || fm.plain.contains k
    (r.d == 0 || has 1) && (r.a == 0 || has 2) && (r.b == 0 || has 3)
      && fm.tiles.all fun t => t.1 + r.count.toNat * stepOf h t.2 < 64

def hmodOk (hs : HintSet) (m : ModHint) : Bool :=
  (m.pen || (m.pnum == 0 && !m.psense)) && (hs.pen || !m.pen) && (hs.sat || !m.sat) && (hs.ftz || !m.ftz) && (hs.dith || !m.dith)
    && (hs.setb || !m.setb) && m.otype.toNat ≤ hs.otypes
    && (m.rmode == 0 || (hs.rmode && m.rmode != 7 && (m.rmode != 6 || hs.srd)))

def hopdOk (regs : Nat) (hs : HintSet) (o : OpdHint) : Bool :=
  hs.hopd != .no && o.mode.toNat &&& (0xFFFF - hs.modes) == 0
    && (if hs.cn = 0 then o.c == 0 else fieldOk regs o.c.toNat hs.cn hs.csh hs.csh)

/-- The decode checks that follow the opcode and the reserved fields (R115): `ILLOP` where this is false. -/
def formOk (regs : Nat) (fm : Form) (h : Hints) : Bool :=
  fm.ops.all (opndOk regs h) && stepsOk fm h && (fm.hs.himm || h.himm.isNone) && (fm.hs.rep || h.rep.isNone)
    && (match h.hmod with
      | some m => hmodOk fm.hs m
      | none => true)
    && (match h.hopd with
      | some o => hopdOk regs fm.hs o
      | none => fm.hs.hopd != .req)

/-- The c operand as one of the sources. -/
def Form.srcs (fm : Form) (h : Hints) : List Opnd :=
  fm.ops.filter (fun o => o.role == .r) ++
    (match h.hopd with
      | some o => if fm.hs.cn = 0 then [] else [⟨o.c.toNat, fm.hs.cn, .r, fm.hs.csh, fm.hs.csh, 0, 0⟩]
      | none => [])

def Form.dst (fm : Form) : Option Opnd := fm.ops.find? fun o => o.role != .r

/-- The register a field names in the repeat that is next (R107). -/
def Opnd.at (o : Opnd) (t : Thread) : Nat := o.f + stepOf t.hints o.st * t.repidx

/-- Physical registers of an operand; none for z or a shuttle. -/
def Opnd.regs (o : Opnd) (t : Thread) (p : Panel) : List Nat :=
  if o.f < 240 then t.group p (o.at t) (o.width t.repidx) else []

/-- A destination of an operation that ends later: its registers, or 240 + n for a push to shuttle n (R93). -/
def Opnd.dest (o : Opnd) (t : Thread) (p : Panel) : List Nat :=
  if 240 ≤ o.f ∧ o.f < 248 then [o.f] else o.regs t p

/-- A tile field in the repeat that is next. -/
def tileAt (t : Thread) (f st : Nat) : Nat := f + stepOf t.hints st * t.repidx

/-- The predicate of `HMOD` lets the thread run (R109). -/
def Thread.runs (t : Thread) : Bool :=
  match t.hints.hmod with
  | some m => !m.pen || (t.p.getLsbD m.pnum.toNat != m.psense)
  | none => true

/-- Predicates an instruction reads, the hint's among them. -/
def Form.predsRead (fm : Form) (h : Hints) : BitVec 8 :=
  fm.preds ||| (match h.hmod with
    | some m => if m.pen then predBit m.pnum.toNat else 0
    | none => 0)

/-- A source is poisoned (R432). -/
def Form.poisoned (fm : Form) (t : Thread) (p : Panel) : Bool :=
  t.poisonP &&& fm.predsRead t.hints != 0
    || (fm.srcs t.hints).any (fun o => (240 ≤ o.f && o.f < 248) || (o.regs t p).any t.poisonV.contains)
    || (match fm.dst with
      | some o => o.role == .rw && (o.regs t p).any t.poisonV.contains
      | none => false)

/-- Shuttles an instruction pops, in field order, and pushes (R97). -/
def Form.pops (fm : Form) (h : Hints) : List Nat :=
  (fm.srcs h).filterMap fun o => if 240 ≤ o.f ∧ o.f < 248 then some (o.f - 240) else none

def Form.pushes (fm : Form) : List Nat :=
  match fm.dst with
  | some o => if 240 ≤ o.f ∧ o.f < 248 then [o.f - 240] else []
  | none => []

/-- The shuttle row of R122 and the `SHUTTLE` checks of R297, over all pops and pushes of one thread. -/
def shuttlesOk (s : Sys) (p : Panel) (l : Launch) (pops pushes : List Nat) : ShuttleRes :=
  let checks := (pops.map fun n => shuttleReady s p l n false) ++ (pushes.map fun n => shuttleReady s p l n true)
  match checks.find? fun r => r != .ok && r != .stall with
  | some r => r
  | none =>
    let len (n : Nat) : Nat := match s.yokeOf p with
      | some y => (y.shuttles.getD n ⟨none, []⟩).words.length
      | none => 0
    let due (n : Nat) : Nat := match s.yokeOf p with
      | some y => s.pushesDue y.key n
      | none => 0
    if pops.any (fun n => len n < pops.count n) || pushes.any (fun n => len n + due n ≥ 16 + pops.count n) then .stall else .ok

/-- Read the sources in field order, popping shuttles (R97). -/
def readSrcs (tx : Tx s0) (t : Thread) (p : Panel) : List Opnd → List Nat × Tx s0
  | [] => ([], tx)
  | o :: os =>
    if o.f < 240 then
      let r := readSrcs tx t p os
      (t.getNat (o.regs t p) :: r.1, r.2)
    else if o.f < 248 then
      let q := tx.pop p (o.f - 240)
      let r := readSrcs q.2 t p os
      (q.1.toNat :: r.1, r.2)
    else
      let r := readSrcs tx t p os
      (0 :: r.1, r.2)

/-- What an arithmetic instruction is given: its sources in field order, the old d, the thread. -/
structure LaneIn where
  x : List Nat
  d0 : Nat
  t : Thread
  p : Panel
  /-- the yoke's dither phase (R179) -/
  phi : Nat

/-- What it gives: a result for d, predicates with a mask of those it writes, flags to raise (R185). -/
structure LaneOut where
  d : Nat
  preds : BitVec 8
  predMask : BitVec 8
  flags : BitVec 5

def LaneOut.val (d : Nat) : LaneOut := ⟨d, 0, 0, 0⟩

/-- Registers poisoned or cleared by a result in run-ahead. -/
def Thread.markPoison (t : Thread) (regs : List Nat) (mask : BitVec 8) (bad : Bool) : Thread :=
  if bad then { t with poisonV := t.poisonV ++ regs, poisonP := t.poisonP ||| mask }
  else { t with poisonV := t.poisonV.filter (fun k => !regs.contains k), poisonP := t.poisonP &&& ~~~mask }

/-- `%dphase` of a panel's yoke. A handler panel has no yoke (R388) and the spec gives it no phase: an open value
(assumption log 4). -/
def Sys.phaseOf (s : Sys) (p : Panel) : Nat :=
  match s.yokeOf p with
  | some y => y.dphase.toNat
  | none => Config.freeNat s.nonce % 32

/-- One thread's part of an arithmetic instruction (R115, R109, R97, R185, R432). -/
def laneStep (tx : Tx s0) (t : Thread) (p : Panel) (l : Launch) (fm : Form) (ok : Bool) (f : LaneIn → LaneOut) :
    Tx s0 × Bool :=
  if !(formOk p.regs fm t.hints && ok) then (tx.raise t tILLOP 0, true)
  else if !t.runs then (tx.advance t l, true)
  else
    let pops := fm.pops t.hints
    let pushes := fm.pushes
    let dregs := match fm.dst with
      | some o => o.regs t p
      | none => []
    if p.aheadOf t.tid then
      let bad := fm.poisoned t p
      let r := readSrcs tx { t with hints := t.hints } p ((fm.srcs t.hints).filter fun o => o.f < 240 || o.f == 248)
      let out := f ⟨r.1, t.getNat dregs, t, p, tx.sys.phaseOf p⟩
      let t' := (t.putNat dregs out.d).markPoison dregs out.predMask bad
      (tx.advance { t' with p := (t.p &&& ~~~out.predMask) ||| (out.preds &&& out.predMask) } l, true)
    else if (!pops.isEmpty || !pushes.isEmpty) && p.yoke.isNone then (tx.raise t tILLCONV 0, true)
    else
      match shuttlesOk tx.sys p l pops pushes with
      | .trap n => (tx.raise t tSHUTTLE (BitVec.ofNat 32 n), true)
      | .stall => (tx, false)
      | .ok =>
        let r := readSrcs tx t p (fm.srcs t.hints)
        let out := f ⟨r.1, t.getNat dregs, t, p, tx.sys.phaseOf p⟩
        let t' := { (t.putNat dregs out.d) with
          p := (t.p &&& ~~~out.predMask) ||| (out.preds &&& out.predMask), fflags := t.fflags ||| out.flags }
        let tx := match pushes with
          | n :: _ => r.2.push p n (BitVec.ofNat 32 out.d)
          | [] => r.2
        (tx.advance t' l, true)

/-- An arithmetic instruction for the whole stitch. `ok` holds the instruction's own decode checks. -/
def alu (i : Instr) (ok : Hints → Bool) (f : LaneIn → LaneOut) (s : State) : Host.Outcome State Fault Refusal :=
  ((Tx.start s).eachThread fun tx t p l => laneStep tx t p l (form i t.hints) (ok t.hints) f).done

/-- No further decode check. -/
def always (_ : Hints) : Bool := true

/-! ## Counting classes (R100, R113) -/

inductive Cls where
  | a | b | none
  deriving DecidableEq, Repr

def classOf : Instr → Cls
  | .ldB8 _ _ _ | .ldS8 _ _ _ | .ldB16 _ _ _ | .ldS16 _ _ _ | .ldB32 _ _ _ | .ldB64 _ _ _ | .ldB128 _ _ _
  | .ldsB32 _ _ _ | .ldsB64 _ _ _ | .ldsB128 _ _ _ => .a
  | .stB8 _ _ _ | .stB16 _ _ _ | .stB32 _ _ _ | .stB64 _ _ _ | .stB128 _ _ _
  | .stsB32 _ _ _ | .stsB64 _ _ _ | .stsB128 _ _ _ => .b
  | .atomAdd d _ _ | .atomMins d _ _ | .atomMaxs d _ _ | .atomAnd d _ _ | .atomOr d _ _ | .atomXor d _ _
  | .atomXchg d _ _ | .atomCas d _ _ | .atomFadd d _ _ | .atomAdd64 d _ _ => if d = 248 then .b else .a
  | .tld _ _ _ _ | .tzero _ | .mma _ _ _ _ _ | .mmag _ _ _ _ _ | .rast _ _ _ _ _ | .tcvt _ _ _ => .a
  | .tst _ _ _ _ => .b
  | .tkwait _ _ _ _ | .bbawait _ _ | .aqst _ _ _ | .pqry _ _ | .acqr _ _ _ => .a
  | .relw _ _ _ => .b
  | _ => .none

/-- The flag an operation counts on: none in portable form; set A or set B in native form (R72, R100, R101). A word of class
A with setb in a clause whose set B is 15 counts on set A, as R101 says of class B (assumption log 166). -/
def flagOf (t : Thread) (c : Cls) : Option Nat :=
  match t.nat with
  | none => none
  | some n =>
    let setb := t.hints.hmod.any (·.setb)
    let pick := if c = .a && !setb then n.setA else if n.setB = 15 then n.setA else n.setB
    if c = .none then none else if pick.toNat < 12 then some pick.toNat else none

/-- R101: a class-A or class-B instruction in a clause whose set A is 15. -/
def clauseOk (t : Thread) (i : Instr) : Bool :=
  match t.nat with
  | none => true
  | some n => n.setA != 15 || classOf i == .none

/-- A compare's result: one predicate written. -/
def predOut (p : BitVec 3) (v : Bool) (flags : BitVec 5) : LaneOut :=
  ⟨0, if v then predBit p.toNat else 0, predBit p.toNat, flags⟩

end Sys2Proof.Machine
end

