-- ==== Sys2Proof/Machine/Issue.lean ====
section
/-! DEFINITION. Issue (R120 to R137): what stands at the frontier, which entry is runnable, which stitch a core issues
next, and what happens to its threads before their word is carried out (R74, R77, R78, R86, R88, R98, R114, R372, R445). -/

namespace Sys2Proof.Machine

variable {s0 : State}

/-! ## Fetch -/

/-- What a thread finds at its next index. -/
inductive Fetched where
  | word (i : Instr)
  /-- a word that no rule decodes, a header or a word where the other is due, or the end of the text (R98, R114) -/
  | bad
  deriving DecidableEq, Repr

/-- A word in the form that runs it: headers only where one is due (R72, R98, R114). -/
def fetchWord (n : Option Native) (w : Option Word) : Fetched :=
  match w with
  | none => .bad
  | some w =>
    match decode w with
    | .error _ => .bad
    | .ok i =>
      match n, i with
      | some n, .clauseHeader _ _ _ _ _ => if n.left = 0 then .word i else .bad
      | some n, _ => if n.left = 0 then .bad else .word i
      | none, _ => .word i

def Sys.fetch (s : Sys) (l : Launch) (t : Thread) : Fetched :=
  match s.objectOf l with
  | none => .bad
  | some o =>
    match t.nat with
    | some n => fetchWord t.nat (o.nativeFor l.travelling).1[n.npc]?
    | none => fetchWord none o.text[t.pc]?

/-! ## Runnable (R122) -/

/-- Physical registers that the thread's outstanding operations will write. -/
def Thread.awaited (t : Thread) : List Nat := t.ops.flatMap (·.dst)

/-- The record of a tile of a panel's yoke; one that is not reserved reads 0. -/
def Sys.tileRecord (s : Sys) (p : Panel) (n : Nat) : QWord :=
  match s.yokeOf p with
  | some y => y.tiles.getD n 0
  | none => 0

/-- Registers that an instruction reads or writes beyond its form: the link pair of `CALL`, the payload of `PSEND`, the
group of a tile transfer, whose size the tile's record gives (R328). -/
def extraRegs (s : Sys) (i : Instr) (t : Thread) (p : Panel) : List Nat :=
  let transfer (x n : Nat) : List Nat :=
    match t.hints.hopd with
    | some o => t.group p o.c.toNat (2 ^ min 4 n * TileRec.valueRegs (s.tileRecord p (tileAt t x 1)))
    | none => []
  match i with
  | .tld x _ _ n | .tst x _ _ n => transfer x.toNat n.toNat
  | .call _ _ => t.group p 238 2
  | .psend _ a b => t.group p a.toNat (min 64 (t.getV (physReg p.regs p.band t.rotbase (b.toNat + 1))).toNat)
  | _ => []

/-- Tiles that an instruction reads (R72): the operands of a request, a C tile that a pass adds to among them, and the
source of a `CPYS` as its descriptor has it (R281, assumption log 42). -/
def tilesRead (i : Instr) (t : Thread) (p : Panel) : List Nat :=
  match i with
  | .tld x _ _ _ => [tileAt t x.toNat 1]
  | .tcvt x _ _ => [x.toNat]
  | .mma x y z _ zc | .mmag x y z _ zc =>
    [tileAt t x.toNat 1, tileAt t y.toNat 2] ++ (if zc = 1 then [] else [tileAt t z.toNat 3])
  | .rast x y z _ _ => [tileAt t x.toNat 1, tileAt t y.toNat 2, tileAt t z.toNat 3]
  | .cpys _ a _ =>
    let d := wordsOf (Mem.getBytes p.scratch (t.getNat (t.group p a.toNat 2)) 64)
    if bits (wnat d 6) 22 2 = 2 then [wnat d 0 % 64] else []
  | _ => []

/-- The tile that a request writes. -/
def Req.target (q : Req) : Option Nat :=
  match q.kind with
  | .tld _ _ _ => none
  | .tst _ _ _ _ _ | .tzero => some q.xn
  | .tcvt _ _ => some q.yn
  | .mma _ _ | .mmag _ _ | .rast _ _ => some q.zn

/-- The portable interlock (R72): an operand, a shuttle to pop among them, waits on an operation of the thread. -/
def interlocked (s : Sys) (t : Thread) (p : Panel) (i : Instr) : Bool :=
  t.nat.isNone && !t.ops.isEmpty &&
    (let fm := form i t.hints
     let regs := (fm.ops ++ fm.srcs t.hints).flatMap (fun o => o.regs t p) ++ extraRegs s i t p
     (regs ++ (fm.pops t.hints).map (240 + ·)).any t.awaited.contains
       || t.ops.any fun o => match o.kind with
         | .tile r => match s.req? r with
           | some q => q.target.any (tilesRead i t p).contains
           | none => false
         | _ => false)

/-- The flag limit of R100. -/
def atFlagLimit (t : Thread) (i : Instr) : Bool :=
  match flagOf t (classOf i) with
  | some f => t.f.getD f 0 ≥ 63
  | none => false

/-- Flags of a mask that do not read 0. -/
def Thread.flagsBusy (t : Thread) (mask : BitVec 12) : Bool :=
  (List.range 12).any fun k => mask.getLsbD k && t.f.getD k 0 != 0

/-- What a thread has issued and still waits for (R122, R151). -/
def Thread.waits (t : Thread) : Bool :=
  match t.pend with
  | none => false
  | some (.waitf m) => if t.nat.isSome then t.flagsBusy m else !t.ops.isEmpty
  | some _ => true

/-- The clause wait of a header (R133). -/
def clauseBusy (t : Thread) (i : Instr) : Bool :=
  match i with
  | .clauseHeader w _ _ _ _ => t.nat.isSome && t.flagsBusy w
  | _ => false

/-- An instruction that performs a release of the thread (R353, R360, R363, R367, R369). -/
def isRelease (i : Instr) : Bool :=
  match i with
  | .fence r _ => r != 0
  | .rel _ _ | .relw _ _ _ | .tkarr _ _ _ | .cpy _ _ _ | .cpym _ _ _ | .cpys _ _ _ | .aqp _ | .trq _ | .psend _ _ _
  | .launch _ => true
  | _ => false

/-- A late report on a flag of a mask. -/
def Thread.lateOn (t : Thread) (mask : BitVec 12) : Option Late :=
  t.late.find? fun e => match e.flag with
    | some k => mask.getLsbD k
    | none => false

/-- The late report that a thread takes now (R475, R287). -/
def latePoint (s : Sys) (t : Thread) (p : Panel) (l : Launch) : Option Late :=
  if p.aheadOf t.tid || t.late.isEmpty then none
  else
    match t.phase with
    | .departing _ _ _ _ _ _ => t.late.head?
    | .ready =>
      match t.pend with
      | some (.waitf m) => if t.nat.isSome then t.lateOn m else none
      | some (.fence _ _) | some (.rel _ _ _ _) | some (.tkarr _ _) => if t.nat.isSome then t.late.head? else none
      | some _ => none
      | none =>
        if t.hints.first.isSome then none
        else if t.nat.isNone then t.late.head?
        else
          match t.late.find? (·.next), s.fetch l t with
          | some e, _ => some e
          | none, .word (.clauseHeader w _ _ _ _) => t.lateOn w
          | none, .word (.waitf m) => t.lateOn m
          | none, .word i => if isRelease i then t.late.head? else none
          | none, .bad => none
    | _ => none

/-- R122 for one thread, but for its shuttle row and what a receiving unit says (`full`). -/
def threadReady (s : Sys) (full : Instr → Thread → Panel → Launch → Bool) (t : Thread) (p : Panel) (l : Launch) : Bool :=
  !t.waits && (latePoint s t p l).isNone
    && !(s.walks.any fun w => w.pref.isNone && w.panel == t.panel && w.tid == t.tid && w.failed.isNone)
    && (t.nat.isSome || (match t.lastPort with
        | some c => c + 4 ≤ (s.die (dieOf t.core)).cyc
        | none => true))
    && (match s.fetch l t with
      | .bad => true
      | .word i => !clauseBusy t i && !interlocked s t p i && !atFlagLimit t i && (p.aheadOf t.tid || !full i t p l))

/-- The shuttle row of R122 for the first thread served. -/
def shuttleStalls (s : Sys) (t : Thread) (p : Panel) (l : Launch) : Bool :=
  match s.fetch l t with
  | .bad => false
  | .word i =>
    let fm := form i t.hints
    t.runs && !p.aheadOf t.tid && formOk p.regs fm t.hints
      && shuttlesOk s p l (fm.pops t.hints) fm.pushes == .stall

/-! ## The frontier (R121, R123) -/

/-- A thread with its panel and launch. -/
structure Standing where
  t : Thread
  p : Panel
  l : Launch

/-- May a panel's thread issue: the panel runs, and no run-ahead holds the thread (R432). -/
def Panel.lets (p : Panel) (tid : Nat) : Bool :=
  p.phase == .running && p.batch.isNone && (match p.ahead with
    | none => true
    | some a => !a.saved.isEmpty && !a.ended && a.tids.contains tid)

/-- Threads that hold a frontier entry on a core. -/
def Sys.standing (s : Sys) (core : Nat) : List Standing :=
  s.threads.filterMap fun t =>
    if t.core = core ∧ t.phase = .ready then
      match s.homeOf t with
      | some (p, l) => if p.lets t.tid && !l.out then some ⟨t, p, l⟩ else none
      | none => none
    else none

/-- The seam in the core's round-robin order (R126): by panel slot then seam; travel seams after them (R370). -/
def Standing.seam (x : Standing) : Nat × Nat :=
  match x.t.tseam with
  | some (k, _) => (64 + 2 * x.l.key, k)
  | none => (x.p.slot, x.p.seamOf x.t.tid)

/-- Lanes of a slot that a stitch of this seam takes (R126, R127, R370). -/
def Standing.lanes (x : Standing) : Nat := if x.t.tseam.isSome then 64 else seamLanes x.p.seam

/-- Place of an entry in frontier order (R121). -/
def Thread.place (t : Thread) : Nat := (255 - t.prio.toNat) * 2 ^ 40 + t.pc

/-- A hint word. -/
def isHint : Instr → Bool
  | .himm _ | .rep _ _ _ _ | .hmod _ _ _ _ _ _ _ _ _ | .hopd _ _ => true
  | _ => false

/-- It stands at a target of which a repeat has been made: between two repeats. -/
def Sys.betweenRepeats (s : Sys) (x : Standing) : Bool :=
  x.t.repidx != 0 && x.t.hints.rep.isSome && (match s.fetch x.l x.t with
    | .word i => !isHint i
    | .bad => true)

/-- A word that only leads to the instruction: a hint word or a clause header. -/
def Sys.leads (s : Sys) (x : Standing) : Bool :=
  match s.fetch x.l x.t with
  | .word (.clauseHeader _ _ _ _ _) => true
  | .word i => isHint i
  | .bad => false

/-- Inside a clause or a hint group, not between two repeats (R123). -/
def Sys.inside (s : Sys) (x : Standing) : Bool :=
  (x.t.hints.first.isSome || (match x.t.nat with
    | some n => n.left != 0
    | none => false)) && !s.betweenRepeats x

/-- Order of the stitches of one entry: portable first (R125), lower `%repidx` first (R136), and of threads with different
hints in force those that hold hints first (assumption log 175). -/
def Thread.rank (t : Thread) : Nat :=
  (if t.nat.isSome then 2 ^ 8 else 0) + t.repidx * 2 + (if t.hints.first.isSome then 0 else 1)

/-- Sets A and B are those of the clause in progress; before a header they mean nothing. -/
def Native.place (n : Native) : Native := if n.left = 0 then ⟨n.npc, 0, 15, 15⟩ else n

/-- Two threads of one entry run as one: the same word of the same form, repeat and hints (R124, R125, R136). -/
def Thread.joins (t u : Thread) : Bool :=
  t.nat.map Native.place == u.nat.map Native.place && t.repidx == u.repidx && t.hints == u.hints

/-- The threads of an entry that run as one, in ascending `%tid` order. -/
def stitchOf (e : List Standing) : List Standing :=
  match leastBy (fun x => x.t.rank) e with
  | none => []
  | some y => sortBy (fun x => x.t.tid) (e.filter fun x => x.t.joins y.t)

/-- The stitch of an entry, if the entry is runnable. -/
def entryStitch (s : Sys) (full : Instr → Thread → Panel → Launch → Bool) (e : List Standing) : Option (List Standing) :=
  let st := stitchOf e
  if e.all (fun x => threadReady s full x.t x.p x.l)
      && (match st with
        | x :: _ => !shuttleStalls s x.t x.p x.l
        | [] => false)
  then some st else none

/-- Entries of a seam in frontier order. -/
def places (xs : List Standing) : List Nat := sortBy id ((xs.map fun x => x.t.place).eraseDups)

/-- The stitch that a seam issues next (R123). -/
def seamStitch (s : Sys) (full : Instr → Thread → Panel → Launch → Bool) (xs : List Standing) : Option (List Standing) :=
  let held := xs.filter s.inside
  (places (if held.isEmpty then xs else held)).findSome? fun k => entryStitch s full (xs.filter fun x => x.t.place == k)

/-! ## Slots (R126) -/

/-- The seams of a core's resident panels and its travel seams, in order (R126, R370). -/
def Sys.seamsOn (s : Sys) (core : Nat) : List (Nat × Nat) :=
  let panels := (s.panels.filter fun p => p.core == core && p.phase != .out && !(p.yoke.isSome && (s.launchOf p).any (·.travelling))).flatMap fun p =>
    (((List.range p.nthr).map p.seamOf).eraseDups).map fun k => (p.slot, k)
  let travel := s.threads.filterMap fun t =>
    if t.core = core then t.tseam.bind fun x => (s.panel? t.panel).map fun p => (64 + 2 * p.launch, x.1) else none
  sortBy (fun k => k.1 * 2 ^ 32 + k.2) (panels ++ travel).eraseDups

/-- The order that starts at a pointer. -/
def fromPtr (ptr : Nat × Nat) (ks : List (Nat × Nat)) : List (Nat × Nat) :=
  ks.filter (fun k => !seamLt k ptr) ++ ks.filter (fun k => seamLt k ptr)

/-- After a seam in the order. -/
def afterSeam (k : Nat × Nat) : Nat × Nat := (k.1, k.2 + 1)

/-- Lead of a slot: launch, form, index. -/
def leadOf (x : Standing) : Nat × Bool × Nat := (x.l.key, x.t.nat.isSome, x.t.pc)

/-- A stitch of a paired seam with threads in both halves (R18, R127). -/
def hasHalves (st : List Standing) : Bool :=
  let lower (x : Standing) : Bool := x.p.laneOf x.t.tid < 64
  st.any (fun x => x.t.tseam.isNone && lower x) && st.any fun x => x.t.tseam.isNone && !lower x

/-- A word that takes the threads of its stitch together: cross-lane words, matrix and tile words (R128), and those whose commands
enter a queue together (R278, R415). -/
def wholeStitch (i : Instr) : Bool :=
  match i with
  | .cpy _ _ _ | .cpym _ _ _ | .cpys _ _ _ | .aqp _ | .trq _ => true
  | _ => match encode i with
    | some w => let o := w.toNat / 2 ^ 24
      (0x70 ≤ o && o < 0x7F) || (0xC0 ≤ o && o < 0xCD)
    | none => false

/-- A stitch takes a slot as its lead, and what of it issues there (R126). A paired one takes both slots; in slot 1 its lower
half alone issues, and its upper half has the seam's next issue (R127). A word that takes the stitch together waits for that
(assumption log 61). -/
def CoreSched.take (c : CoreSched) (s : Sys) (slot : Nat) (k : Nat × Nat) (x : Standing) (st : List Standing) :
    List Standing × CoreSched :=
  let c := { c with slot := slot, lead := some (leadOf x), lanes := x.lanes, done := c.done ++ [k] }
  if !hasHalves st then (st, c)
  else if slot = 0 then (st, { c with slot := 1, lanes := 64 })
  else
    let now := match s.fetch x.l x.t with
      | .word i => if wholeStitch i then [] else st.filter fun y => y.p.laneOf y.t.tid < 64
      | .bad => st.filter fun y => y.p.laneOf y.t.tid < 64
    (now, { c with lanes := 64, owed := (k, (st.map (·.t.tid)).filter fun n => !now.any fun y => y.t.tid == n) :: c.owed })

/-- The upper half of a paired stitch takes a slot: nothing else is packed with it. -/
def CoreSched.pay (c : CoreSched) (slot : Nat) (k : Nat × Nat) : CoreSched :=
  { c with slot := slot, lead := some (0, false, 0), lanes := 64, done := c.done ++ [k], owed := c.owed.filter fun e => e.1 != k }

/-- The threads that the upper half's issue serves; none where a shuttle has left threads of the lower half behind (R125). -/
def owedStitch (xs : List Standing) (tids : List Nat) : List Standing :=
  match sortBy (fun x => x.t.tid) (xs.filter fun x => tids.contains x.t.tid) with
  | [] => []
  | x :: st =>
    let alike (y : Standing) : Bool := y.t.place == x.t.place && y.t.joins x.t
    if xs.any fun y => y.t.tid < x.t.tid && alike y then [] else x :: st.filter alike

/-- The next stitch of a core in its present cycle and what the core then remembers; none: the cycle is full or no seam
is runnable. `ks` are the core's seams, `xs` the threads that hold an entry. -/
def pick (s : Sys) (full : Instr → Thread → Panel → Launch → Bool) (ks : List (Nat × Nat)) (xs : List Standing)
    (c : CoreSched) : Option (List Standing × CoreSched) :=
  let of (k : Nat × Nat) : Option (List Standing) := seamStitch s full (xs.filter fun x => x.seam == k)
  let lead (slot : Nat) : Option (List Standing × CoreSched) :=
    ((fromPtr c.ptr ks).filter fun k => !c.done.contains k).findSome? fun k =>
      match c.owed.find? fun e => e.1 == k with
      | some e =>
        let st := owedStitch (xs.filter fun x => x.seam == k) e.2
        if st.all fun x => threadReady s full x.t x.p x.l then some (st, c.pay slot k) else none
      | none => (of k).bind fun st => match st with
        | x :: _ => some (c.take s slot k x st)
        | [] => none
  match c.lead, c.done.getLast? with
  | some l, some last =>
    let packed : Option (List Standing × CoreSched) :=
      match fromPtr (afterSeam last) ks with
      | [] => none
      | k :: _ =>
        if c.done.contains k || c.owed.any fun e => e.1 == k then none
        else (of k).bind fun st => match st with
          | x :: _ => if leadOf x = l ∧ c.lanes + x.lanes ≤ 64
              then some (st, { c with lanes := c.lanes + x.lanes, done := c.done ++ [k] }) else none
          | [] => none
    match packed with
    | some r => some r
    | none => if c.slot = 0 then lead 1 else none
  | _, _ => lead 0

/-- The core's cycle at a count of its die: in a later one its pointer stands after the last seam that issued. -/
def CoreSched.at_ (c : CoreSched) (serial cyc : Nat) : CoreSched :=
  if c.cyc = cyc then c
  else ⟨(c.done.getLast?.map afterSeam).getD c.ptr, 0, none, 0, [], c.owed, serial, cyc⟩

/-- The stitch that a core issues next in the present cycle. -/
def coreStitch (s : Sys) (full : Instr → Thread → Panel → Launch → Bool) (core : Nat) :
    Option (List Standing × CoreSched) :=
  let xs := s.standing core
  let ks := s.seamsOn core
  let c := ((s.core core).sched).at_ s.serial (s.die (dieOf core)).cyc
  pick s full ks xs { c with owed := c.owed.filter fun e => ks.contains e.1 }

/-! ## Before the word is carried out -/

/-- What keeps a thread from issuing its word: nothing, a comparator, or a departure. -/
inductive Gate where
  | go
  | brk (k : Nat)
  | depart
  /-- a handler thread runs off its piece (R386) -/
  | conv
  deriving DecidableEq, Repr

/-- Does a comparator match (R445)? Between two repeats it may name the target or the first word of the group. -/
def Comparator.hits (c : Comparator) (l : Launch) (t : Thread) : Bool :=
  c.launch == l.id && t.repidx == c.rep.getD 0
    && (c.index == t.pc || (t.repidx != 0 && t.hints.rep.isSome && t.hints.first == some c.index))

def gateBrk (p : Partition) (l : Launch) (t : Thread) : Option Nat :=
  if t.noBrk then none
  else (List.range 4).find? fun k => match p.brk.getD k none with
    | some c => c.hits l t
    | none => false

/-- The index next after a thread's piece, if it has run past the piece's last word, in the portable text or in the native
(R372). A trap handler that starts at that index has not. -/
def ranPast (s : Sys) (l : Launch) (t : Thread) : Option Nat :=
  match (s.objectOf l).bind (·.marker), t.piece with
  | some m, some k => match m.pieces[k]? with
    | some p =>
      let off := t.pc == p.start + p.words || (t.nat.any fun n => n.left == 0 && n.npc == p.nstart + p.nwords)
      if l.travelling && !t.entered && off then some (p.start + p.words) else none
    | none => none
  | _, _ => none

/-- A thread of a travelling launch that has run past its piece, or that starts outside it (R86, R372). -/
def mustDepart (s : Sys) (l : Launch) (t : Thread) : Bool := l.travelling && (t.fresh || (ranPast s l t).isSome)

def gateOf (s : Sys) (x : Standing) : Gate :=
  if mustDepart s x.l x.t then (if x.p.yoke.isSome then .depart else .conv)
  else match s.part? x.l.part with
    | some p => match gateBrk p x.l x.t with
      | some k => .brk k
      | none => .go
    | none => .go

/-- Is the thread at a safe point in its own right (R77)? A `WAITF` whose wait is over is done. -/
def Thread.settled (t : Thread) : Bool :=
  t.ops.isEmpty && t.repidx == 0 && t.hints == Hints.empty && (match t.pend with
    | none => true
    | some (.waitf _) => !t.waits
    | some _ => false)

/-- May a portable thread take native form here: a clause starts at its index, and in a travelling launch a piece entry
stands there (R78, R88, R445). -/
def mayGoNative (s : Sys) (o : Object) (l : Launch) (t : Thread) : Bool :=
  if l.travelling then
    l.native && !(s.core t.core).piecePortable && (o.marker.any fun m => (m.entryAt t.pc).any fun e => t.piece == some e.piece)
  else o.nativeOn

/-- The swap between the forms (R77, R78), of each thread at its own settled word (assumption log 208). -/
def Thread.swapForm (s : Sys) (l : Launch) (t : Thread) : Thread :=
  match s.objectOf l with
  | none => t
  | some o =>
    if !t.settled then t
    else
      match t.nat with
      | none =>
        if !mayGoNative s o l t then t
        else { t with nat := if l.travelling then o.travelAt t.pc t.piece else o.nativeAt none t.pc }
      | some n =>
        if n.left = 0 && !(if l.travelling then l.native && !(s.core t.core).piecePortable else o.nativeOn)
        then { t with nat := none } else t

/-- The mark of an issue on a thread: the form it issues in, its clock, the comparator suppression spent, but by a word that only
leads to the instruction (R448); a `WAITF` whose wait is over is done. -/
def Thread.issued (cyc : Nat) (line : Option Nat) (leads : Bool) (t : Thread) : Thread :=
  { t with
    lastPort := (if t.nat.isNone then some cyc else t.lastPort), noBrk := t.noBrk && leads, entered := false, pend := none, fline := line }

/-- One issue of a run-ahead (R432): after 512 it ends. -/
def RunAhead.count (a : RunAhead) : RunAhead :=
  if a.saved.isEmpty then a else { a with issues := a.issues + 1, ended := a.ended || a.issues + 1 ≥ 512 }

/-- What the issue of a stitch comes to: a word to carry out, or a step that is already whole. -/
inductive Issue (s : State) where
  | run (i : Instr) (tx : Tx s)
  | whole (tx : Tx s)

/-- Threads of a stitch that a comparator stops, or that depart; of one that has run past its piece the index is the next one in
portable text, which a trap names and where it stands if it is to transfer again (R372, R384, assumption log 91). A comparator's trap names the matched word (R425), between two
repeats the first word of the group, from which the repeat is resumed (R107, assumption log 80). -/
def Tx.gates (tx : Tx s0) (st : List Standing) : Tx s0 :=
  tx.each st fun tx x =>
    match gateOf tx.sys x with
    | .go => tx
    | .brk k =>
      tx.raiseAt { x.t with noBrk := false } tBRKPT (BitVec.ofNat 32 k) Info.none (if x.t.repidx = 0 then x.t.pc else x.t.self)
    | .conv => tx.raise x.t tILLCONV 0
    | .depart =>
      if x.p.aheadOf x.t.tid then tx.endAhead x.p.key
      else
        let dest := (ranPast tx.sys x.l x.t).getD x.t.pc
        tx.depart { x.t with pc := dest } x.p x.l dest x.t.prio [] x.t.rotbase

def Sys.mapPanels (s : Sys) (f : Panel → Panel) : Sys := { s with panels := s.panels.map f }

/-- A stitch of a core issues. -/
def issueStitch (s : State) (core : Nat) (st : List Standing) (c : CoreSched) : Issue s :=
  let tx := (Tx.start s).mod fun s => s.setCore { s.core core with sched := c }
  if st.any fun x => gateOf s.sys x != .go then .whole (tx.gates st)
  else if st.any fun x => s.sys.fetchSpoiled core x.l x.t then
    .whole (tx.each st fun tx x => if tx.sys.fetchSpoiled core x.l x.t then tx.terminate x.l.key 0x13 else tx)
  else
    let cyc := (s.sys.die (dieOf core)).cyc
    let swapped := st.any fun x => x.t.swapForm s.sys x.l != x.t
    if swapped then .whole (tx.mod fun s => st.foldl (fun s' x => s'.setThread (x.t.swapForm s x.l)) s)
    else
      let tx := tx.mod fun s =>
        let s := st.foldl (fun s' x => s'.setThread (x.t.issued cyc (s.threadLine x.l x.t) (s.leads x))) s
        let s := { s with focus := st.map fun x => (x.p.key, x.t.tid) }
        match st with
        | x :: _ =>
          let s := s.fetchLine core x.l x.t
          let s := s.mapLaunches fun l => if l.key = x.l.key then { l with ran := true } else l
          s.mapPanels fun p => if p.key = x.p.key then { p with ahead := p.ahead.map (·.count) } else p
        | [] => s
      match st with
      | x :: _ =>
        match s.sys.fetch x.l x.t with
        | .word i => .run i tx
        | .bad => .run .unassignedOpcode tx
      | [] => .whole tx

end Sys2Proof.Machine
end

