-- ==== Sys2Proof/Machine/Boot.lean ====
section
/-! DEFINITION. The smallest program a state can hold: one launch of one panel of one thread, ready at the first word of a
text (R14, R25, R30). What a loader leaves behind; assumption log 1. -/

namespace Sys2Proof.Machine

/-- A partition of one core and one stack, with the settings that `CREATE` gives (R460). -/
def bootPart : Partition :=
  { num := 0,
    l2p := [(0, 0, 0)],
    stackMask := 1, keyBase := 1, keyCount := 16, rootStack := 0, rootLocal := 0,
    codeStore := [], contextStore := [], images := [], signers := [], deadline := false,
    heldQuota := 64, objectQuota := 128, mapQuota := 4,
    supervisor := none, unsupervised := false, tearing := false,
    ring := [], ptgen := 0, l2pidx := 0,
    brk := List.replicate 4 none, bindings := [], vlog := [], faults := [], tickets := [], nextTicket := 1, tlb := [] }

/-- Record of the launch: one panel of one thread, seam code 1, 30 x 8 registers, 256 scratchpad bytes, entry 0 for start
and traps (R25). -/
def bootRecord : List Word :=
  [0, 1, 0, 0, 0x00001000, 0, 0xF0000800, 0] ++ List.replicate 24 0

def bootObject (key : Nat) (text : List Word) : Object :=
  { key := key, part := 0, code := 0, bytes := 0, copies := [], gorlux := [], textOff := 0, nativeOff := 0,
    entries := [(0, 0, 0xFFFFFF)], handlers := [], marker := none,
    text := text, supplied := [], trusted := false, native := [], nmap := [], snmap := [], nativeOn := false, evict := false, used := 0,
    entryLines := [⟨0, false, false, 0, text.take 64⟩], launched := some 0, gaveUp := false }

def bootLaunch (key object : Nat) : Launch :=
  { key := key, part := 0, id := 1, record := bootRecord, decls := [], tiles := [],
    phase := .live, cls := 0, supervisor := false, object := some object, depsMet := [], fails := [], entry := false,
    order := 0, walked := [], extents := [], nextYoke := 1, retired := 0, lastDie := 0, ran := false, lostMsg := false,
    suppressed := false, native := false, holders := [], mapped := false, out := false, overflow := .none, deferred := [], source := none,
    ending := none }

/-- The identity of the pre-operator stage (R314): no conversion of A or B. -/
def idSlot : QWord := 0x3E0000003E000000

/-- A yoke with nothing in it (R112, R297, R309). -/
def Yoke.empty (key launch yid cluster order units : Nat) (tiles : List QWord) : Yoke :=
  { key := key, launch := launch, yid := yid, phase := .placed, cluster := cluster, order := order, units := units,
    tiles := tiles ++ List.replicate (64 - tiles.length) 0,
    region := [], pre := List.replicate 8 idSlot, post := List.replicate 8 0, dphase := 0, oflag := false,
    shuttles := List.replicate 8 ⟨none, []⟩, granted := 0, overflow := false, forOverflow := false }

/-- A panel placed on a core, with nothing done (R30, R138). -/
def Panel.fresh (key launch : Nat) (yoke : Option Nat) (pid core slot nthr regs band seam scratchLen : Nat) : Panel :=
  { key := key, launch := launch, yoke := yoke, pid := pid, phase := .placed, core := core, slot := slot, nthr := nthr,
    regs := regs, band := band, seam := seam, scratchLen := scratchLen, scratch := [], stags := [],
    masks := List.replicate (16 * cdiv nthr (seamWidth seam)) ⟨0, 0⟩,
    ahead := none, extents := [], granted := List.replicate (cdiv nthr (seamWidth seam)) 0, handlerOf := none,
    resumeTicket := none, batch := none }

/-- A thread before its first instruction (R30). -/
def Thread.newborn (panel tid pc : Nat) (prio : Byte) (regs core : Nat) : Thread :=
  { panel := panel, tid := tid, phase := .ready, pc := pc, prio := prio,
    v := List.replicate (min (8 * regs) 238) 0, link := (0, 0), p := 0, f := List.replicate 12 0, fflags := 0, rnd := 0,
    rotbase := 0, rotstep := 0, repidx := 0, cych := 0, trapc := 0, trapv := 0, trappc := 0, trapprio := 0,
    hints := Hints.empty, nat := none, ops := [], pend := none, pendAt := 0, late := [], lastPort := none,
    noBrk := false, core := core, tseam := none, travels := 0, piece := none, poisonV := [], poisonP := 0, ticket := none,
    fresh := false, entered := false, fline := none }

/-- A core of the package on which nothing runs. -/
def Sys.idleCore (s : Sys) : Nat :=
  ((List.range 288).find? fun c => !(s.threads.any fun t => t.core == c) && (findKey Core.id c s.cores).isNone).getD 0

/-- A state with one thread about to issue the first word of a text, which issues next. -/
def Sys.boot (s : Sys) (text : List Word) : Sys :=
  let k := s.serial
  let c := s.idleCore
  let part := (s.part? 0).getD bootPart
  { s with
    agenda := [], serial := k + 4, turn := c + 2
    parts := part :: dropKey Partition.num 0 s.parts
    objects := bootObject k text :: s.objects
    launches := bootLaunch (k + 1) k :: s.launches
    yokes := Yoke.empty (k + 2) (k + 1) 0 (clusterOf c) 0 0 [] :: s.yokes
    panels := { Panel.fresh (k + 3) (k + 1) (some (k + 2)) 0 c 0 1 30 0 1 256 with phase := .running } :: s.panels
    threads := Thread.newborn (k + 3) 0 0 0 30 c :: s.threads }

end Sys2Proof.Machine
end

