-- ==== Sys2Proof/Machine/Integer.lean ====
section
/-! DEFINITION. Opcodes 0x00 to 0x33: integer, logic and address arithmetic (R194 to R213). -/

namespace Sys2Proof.Machine

/-! ## Shared operations -/

/-- First, second source and old d. -/
def LaneIn.a (r : LaneIn) : Nat := r.x.getD 0 0
def LaneIn.b (r : LaneIn) : Nat := r.x.getD 1 0
def LaneIn.c (r : LaneIn) : Nat := r.x.getD 2 0

def LaneIn.sat (r : LaneIn) : Bool := satOf r.t.hints
def LaneIn.mode (r : LaneIn) : Nat := modeOf r.t.hints

/-- Clamp an exact integer to the signed range of `w` bits. -/
def clampS (w : Nat) (y : Int) : Nat :=
  if y < -(2 ^ (w - 1) : Nat) then 2 ^ (w - 1) else if y > (2 ^ (w - 1) : Nat) - 1 then 2 ^ (w - 1) - 1 else wrap w y

/-- Clamp to the unsigned range. -/
def clampN (w : Nat) (y : Int) : Nat := if y < 0 then 0 else if y > (2 ^ w : Nat) - 1 then 2 ^ w - 1 else y.toNat

/-- Wrapped or signed-saturated. -/
def satS (w : Nat) (sat : Bool) (y : Int) : Nat := if sat then clampS w y else wrap w y

/-- The 8-bit immediate of an RI word, sign-extended, or the 32-bit immediate of `HIMM` (R106). -/
def immS (h : Hints) (i : BitVec 8) : Nat :=
  match h.himm with
  | some m => m.toNat * 256 + i.toNat
  | none => wrap 32 (sint 8 i.toNat)

/-- The same, zero-extended. -/
def immN (h : Hints) (i : BitVec 8) : Nat :=
  match h.himm with
  | some m => m.toNat * 256 + i.toNat
  | none => i.toNat

/-- `ADD`, `SUB`, `ADDI` (R197): `x` as the wrapped and signed operand, `xn` as the unsigned form's. -/
def addSat (r : LaneIn) (x xn : Int) : LaneOut :=
  .val (if !r.sat then wrap 32 (sint 32 r.a + x)
    else if r.mode = 0 then clampS 32 (sint 32 r.a + x)
    else clampN 32 (r.a + xn))

/-- u with sat only (R197). -/
def okUnsigned (h : Hints) : Bool := modeOf h % 2 == 0 || satOf h

def not32 (n : Nat) : Nat := 2 ^ 32 - 1 - n % 2 ^ 32

/-- Shifts (R204). -/
def shl32 (a n : Nat) : Nat := if n < 32 then a * 2 ^ n % 2 ^ 32 else 0
def shr32 (a n : Nat) : Nat := if n < 32 then a / 2 ^ n else 0
def sra32 (a n : Nat) : Nat :=
  if n < 32 then wrap 32 (sint 32 a / (2 ^ n : Nat)) else if a.testBit 31 then 2 ^ 32 - 1 else 0
def rol32 (a n : Nat) : Nat := a * 2 ^ (n % 32) % 2 ^ 32 + a / 2 ^ (32 - n % 32)

/-- Leading zeros of the lowest `w` bits. -/
def clzN : Nat → Nat → Nat
  | 0, _ => 0
  | w + 1, n => if n.testBit w then 0 else 1 + clzN w n

/-- Trailing zeros of the lowest `w` bits. -/
def ctzN : Nat → Nat → Nat
  | 0, _ => 0
  | w + 1, n => if n % 2 = 1 then 0 else 1 + ctzN w (n / 2)

/-- Position and clipped width of a field operand (R207). -/
def fieldPos (b : Nat) : Nat := bits b 0 8
def fieldWidth (b : Nat) : Nat :=
  if bits b 8 8 = 0 ∨ fieldPos b ≥ 32 then 0 else min (bits b 8 8) (32 - fieldPos b)

/-- The byte dot product of R213. -/
def dot4 (f : Nat → Int) (a b : Nat) : Int :=
  (List.range 4).foldl (fun y i => y + f (bits a (8 * i) 8) * f (bits b (8 * i) 8)) 0

/-- Byte k of `PRMT` (R208). -/
def prmtByte (src sel k : Nat) : Nat :=
  let byte := bits src (8 * bits sel (4 * k) 3) 8
  if sel.testBit (4 * k + 3) then (if byte.testBit 7 then 0xFF else 0) else byte

/-! ## Meanings -/

def execAdd (d a b : BitVec 8) (s : State) : Host.Outcome State Fault Refusal :=
  alu (.add d a b) okUnsigned (fun r => addSat r (sint 32 r.b) r.b) s

def execAddi (d a i : BitVec 8) (s : State) : Host.Outcome State Fault Refusal :=
  alu (.addi d a i) okUnsigned (fun r => addSat r (sint 32 (immS r.t.hints i)) (sint 32 (immS r.t.hints i))) s

/-- `SUB` (R197); under signed saturation -B is exact, +2^31 for B = -2^31 (assumption log 201). -/
def execSub (d a b : BitVec 8) (s : State) : Host.Outcome State Fault Refusal :=
  alu (.sub d a b) okUnsigned (fun r => addSat r (-sint 32 r.b) (-(r.b : Int))) s

def execAdd64 (d a b : BitVec 8) (s : State) : Host.Outcome State Fault Refusal :=
  alu (.add64 d a b) always (fun r => .val (satS 64 r.sat (sint 64 r.a + sint 64 r.b))) s

def execSub64 (d a b : BitVec 8) (s : State) : Host.Outcome State Fault Refusal :=
  alu (.sub64 d a b) always (fun r => .val (satS 64 r.sat (sint 64 r.a - sint 64 r.b))) s

def execMul (d a b : BitVec 8) (s : State) : Host.Outcome State Fault Refusal :=
  alu (.mul d a b) always (fun r => .val (r.a * r.b % 2 ^ 32)) s

def execMulhs (d a b : BitVec 8) (s : State) : Host.Outcome State Fault Refusal :=
  alu (.mulhs d a b) always (fun r => .val (wrap 64 (sint 32 r.a * sint 32 r.b) / 2 ^ 32)) s

def execMulhn (d a b : BitVec 8) (s : State) : Host.Outcome State Fault Refusal :=
  alu (.mulhn d a b) always (fun r => .val (r.a * r.b / 2 ^ 32)) s

def execMac (d a b : BitVec 8) (s : State) : Host.Outcome State Fault Refusal :=
  alu (.mac d a b) always (fun r => .val (satS 32 r.sat (sint 32 r.a * sint 32 r.b + sint 32 r.d0))) s

def execMulw (d a b : BitVec 8) (s : State) : Host.Outcome State Fault Refusal :=
  alu (.mulw d a b) always
    (fun r => .val (if r.mode = 1 then r.a * r.b else wrap 64 (sint 32 r.a * sint 32 r.b))) s

def execMins (d a b : BitVec 8) (s : State) : Host.Outcome State Fault Refusal :=
  alu (.mins d a b) always (fun r => .val (if sint 32 r.a ≤ sint 32 r.b then r.a else r.b)) s

def execMaxs (d a b : BitVec 8) (s : State) : Host.Outcome State Fault Refusal :=
  alu (.maxs d a b) always (fun r => .val (if sint 32 r.b ≤ sint 32 r.a then r.a else r.b)) s

def execMinn (d a b : BitVec 8) (s : State) : Host.Outcome State Fault Refusal :=
  alu (.minn d a b) always (fun r => .val (min r.a r.b)) s

def execMaxn (d a b : BitVec 8) (s : State) : Host.Outcome State Fault Refusal :=
  alu (.maxn d a b) always (fun r => .val (max r.a r.b)) s

def execAbsd (d a b : BitVec 8) (s : State) : Host.Outcome State Fault Refusal :=
  alu (.absd d a b) always (fun r => .val (sint 32 r.a - sint 32 r.b).natAbs) s

def execSel (d a b : BitVec 8) (s : State) : Host.Outcome State Fault Refusal :=
  alu (.sel d a b) always
    (fun r => .val (if r.t.p.getLsbD (r.mode % 8) != r.mode.testBit 3 then r.a else r.b)) s

def execAnd (d a b : BitVec 8) (s : State) : Host.Outcome State Fault Refusal :=
  alu (.and d a b) always (fun r => .val (r.a &&& r.b)) s

def execOr (d a b : BitVec 8) (s : State) : Host.Outcome State Fault Refusal :=
  alu (.or d a b) always (fun r => .val (r.a ||| r.b)) s

def execXor (d a b : BitVec 8) (s : State) : Host.Outcome State Fault Refusal :=
  alu (.xor d a b) always (fun r => .val (r.a ^^^ r.b)) s

def execAndn (d a b : BitVec 8) (s : State) : Host.Outcome State Fault Refusal :=
  alu (.andn d a b) always (fun r => .val (r.a &&& not32 r.b)) s

def execOrn (d a b : BitVec 8) (s : State) : Host.Outcome State Fault Refusal :=
  alu (.orn d a b) always (fun r => .val (r.a ||| not32 r.b)) s

def execXnor (d a b : BitVec 8) (s : State) : Host.Outcome State Fault Refusal :=
  alu (.xnor d a b) always (fun r => .val (not32 (r.a ^^^ r.b))) s

def execAndi (d a i : BitVec 8) (s : State) : Host.Outcome State Fault Refusal :=
  alu (.andi d a i) always (fun r => .val (r.a &&& immN r.t.hints i)) s

def execOri (d a i : BitVec 8) (s : State) : Host.Outcome State Fault Refusal :=
  alu (.ori d a i) always (fun r => .val (r.a ||| immN r.t.hints i)) s

def execXori (d a i : BitVec 8) (s : State) : Host.Outcome State Fault Refusal :=
  alu (.xori d a i) always (fun r => .val (r.a ^^^ immN r.t.hints i)) s

def execShl (d a b : BitVec 8) (s : State) : Host.Outcome State Fault Refusal :=
  alu (.shl d a b) always (fun r => .val (shl32 r.a r.b)) s

def execShr (d a b : BitVec 8) (s : State) : Host.Outcome State Fault Refusal :=
  alu (.shr d a b) always (fun r => .val (shr32 r.a r.b)) s

def execSra (d a b : BitVec 8) (s : State) : Host.Outcome State Fault Refusal :=
  alu (.sra d a b) always (fun r => .val (sra32 r.a r.b)) s

def execRol (d a b : BitVec 8) (s : State) : Host.Outcome State Fault Refusal :=
  alu (.rol d a b) always (fun r => .val (rol32 r.a r.b)) s

def execShli (d a i : BitVec 8) (s : State) : Host.Outcome State Fault Refusal :=
  alu (.shli d a i) (fun _ => i.toNat < 32) (fun r => .val (shl32 r.a i.toNat)) s

def execShri (d a i : BitVec 8) (s : State) : Host.Outcome State Fault Refusal :=
  alu (.shri d a i) (fun _ => i.toNat < 32) (fun r => .val (shr32 r.a i.toNat)) s

def execSrai (d a i : BitVec 8) (s : State) : Host.Outcome State Fault Refusal :=
  alu (.srai d a i) (fun _ => i.toNat < 32) (fun r => .val (sra32 r.a i.toNat)) s

def execPopc (d a : BitVec 8) (s : State) : Host.Outcome State Fault Refusal :=
  alu (.popc d a) always (fun r => .val (popCount 32 r.a)) s

def execClz (d a : BitVec 8) (s : State) : Host.Outcome State Fault Refusal :=
  alu (.clz d a) always (fun r => .val (clzN 32 r.a)) s

def execCtz (d a : BitVec 8) (s : State) : Host.Outcome State Fault Refusal :=
  alu (.ctz d a) always (fun r => .val (ctzN 32 r.a)) s

def execBrev (d a : BitVec 8) (s : State) : Host.Outcome State Fault Refusal :=
  alu (.brev d a) always (fun r => .val (bitsOf 32 fun i => r.a.testBit (31 - i))) s

def execBswap (d a : BitVec 8) (s : State) : Host.Outcome State Fault Refusal :=
  alu (.bswap d a) always (fun r => .val (ofLeBytes (leBytes 4 r.a).reverse)) s

def execBfx (d a b : BitVec 8) (s : State) : Host.Outcome State Fault Refusal :=
  alu (.bfx d a b) always (fun r => .val (bits r.a (fieldPos r.b) (fieldWidth r.b))) s

def execBfxs (d a b : BitVec 8) (s : State) : Host.Outcome State Fault Refusal :=
  alu (.bfxs d a b) always (fun r => .val (
    if fieldWidth r.b = 0 then 0 else wrap 32 (sint (fieldWidth r.b) (bits r.a (fieldPos r.b) (fieldWidth r.b))))) s

def execBfi (d a b : BitVec 8) (s : State) : Host.Outcome State Fault Refusal :=
  alu (.bfi d a b) always (fun r =>
    let m := if fieldWidth r.b = 0 then 0 else (2 ^ fieldWidth r.b - 1) * 2 ^ fieldPos r.b
    .val ((r.d0 &&& not32 m) ||| (shl32 r.a (fieldPos r.b) &&& m))) s

def execPrmt (d a b : BitVec 8) (s : State) : Host.Outcome State Fault Refusal :=
  alu (.prmt d a b) always (fun r =>
    let src := r.a + r.b * 2 ^ 32
    .val ((List.range 4).foldl (fun n k => n + prmtByte src r.mode k * 2 ^ (8 * k)) 0)) s

/-- `HIMM` on an RW word has 16 bits to give (R106). -/
def okHimm16 (h : Hints) : Bool := match h.himm with
  | some m => m.toNat < 2 ^ 16
  | none => true

def execMovi (d : BitVec 8) (i : BitVec 16) (s : State) : Host.Outcome State Fault Refusal :=
  alu (.movi d i) okHimm16 (fun r => .val (match r.t.hints.himm with
    | some m => m.toNat % 2 ^ 16 * 2 ^ 16 + i.toNat
    | none => wrap 32 (sint 16 i.toNat))) s

def execMovhi (d : BitVec 8) (i : BitVec 16) (s : State) : Host.Outcome State Fault Refusal :=
  alu (.movhi d i) always (fun r => .val (i.toNat * 2 ^ 16 + r.d0 % 2 ^ 16)) s

def execMov (d a : BitVec 8) (s : State) : Host.Outcome State Fault Refusal :=
  alu (.mov d a) always (fun r => .val r.a) s

/-- The new predicate of a compare. -/
def LaneIn.pred (r : LaneIn) (m : BitVec 2) (p : BitVec 3) (t : Bool) : Bool := comb m (r.t.p.getLsbD p.toNat) t

def execIcmps (c : BitVec 3) (m : BitVec 2) (p : BitVec 3) (a b : BitVec 8) (s : State) : Host.Outcome State Fault Refusal :=
  alu (.icmps c m p a b) (fun _ => m != 3 && c.toNat < 6)
    (fun r => predOut p (r.pred m p (condS c.toNat (sint 32 r.a) (sint 32 r.b))) 0) s

def execIcmpn (c : BitVec 3) (m : BitVec 2) (p : BitVec 3) (a b : BitVec 8) (s : State) : Host.Outcome State Fault Refusal :=
  alu (.icmpn c m p a b) (fun _ => m != 3 && c.toNat < 6)
    (fun r => predOut p (r.pred m p (condN c.toNat r.a r.b)) 0) s

def execIcmpi (c : BitVec 3) (m : BitVec 2) (p : BitVec 3) (a i : BitVec 8) (s : State) : Host.Outcome State Fault Refusal :=
  alu (.icmpi c m p a i) (fun _ => m != 3)
    (fun r => predOut p (r.pred m p (condI c.toNat r.a (immS r.t.hints i))) 0) s

def execPlut (c d : BitVec 3) (l : BitVec 8) (b a : BitVec 3) (s : State) : Host.Outcome State Fault Refusal :=
  alu (.plut c d l b a) always (fun r =>
    let v (n : BitVec 3) : Nat := if r.t.p.getLsbD n.toNat then 1 else 0
    predOut d (l.getLsbD (4 * v c + 2 * v b + v a)) 0) s

def execP2v (d : BitVec 8) (s : State) : Host.Outcome State Fault Refusal :=
  alu (.p2v d) always (fun r => .val r.t.p.toNat) s

def execV2p (a m : BitVec 8) (s : State) : Host.Outcome State Fault Refusal :=
  alu (.v2p a m) always (fun r => ⟨0, BitVec.ofNat 8 r.a, m, 0⟩) s

/-- The sum of R213. -/
def idot (r : LaneIn) (f : Nat → Int) : LaneOut := .val (satS 32 r.sat (sint 32 r.d0 + dot4 f r.a r.b))

def execIdot4s (d a b : BitVec 8) (s : State) : Host.Outcome State Fault Refusal :=
  alu (.idot4s d a b) always (fun r => idot r (sint 8)) s

def execIdot4n (d a b : BitVec 8) (s : State) : Host.Outcome State Fault Refusal :=
  alu (.idot4n d a b) always (fun r => idot r (fun n => (n : Int))) s

end Sys2Proof.Machine
end

