-- ==== Sys2Proof/Machine/Formats.lean ====
section
/-! DEFINITION. The operand formats of R157: narrow floats (R162, R163, R181), log formats (R167 to R169, R183), integers,
normalised and fixed-point numbers (R166, R184), block scales (R164, R165, R182). -/

namespace Sys2Proof.Machine

/-! ## Format codes (R157) -/

/-- Bits of one element. -/
def fmtBits (c : Nat) : Nat :=
  match c with
  | 0 => 64
  | 1 | 25 => 32
  | 2 | 3 | 19 | 21 => 16
  | 6 | 7 | 11 | 12 | 22 | 24 => 6
  | 8 | 13 | 14 | 18 => 4
  | _ => 8

/-- A block-scaled format (R165). -/
def fmtBlock (c : Nat) : Bool := (9 ≤ c && c ≤ 15) || c == 24

/-- The element format of a block-scaled format (R165). -/
def fmtElem (c : Nat) : Nat :=
  match c with
  | 9 => 4
  | 10 => 5
  | 11 => 6
  | 12 => 7
  | 13 | 14 => 8
  | 15 => 16
  | 24 => 22
  | c => c

/-- E_max of R165. -/
def fmtEmax (c : Nat) : Int :=
  match c with
  | 9 => 16
  | 10 => 8
  | 11 => 4
  | 15 => 6
  | 24 => 3
  | _ => 2

/-! ## Narrow floats (R162, R163) -/

structure NFmt where
  e : Nat
  m : Nat
  b : Nat
  deriving DecidableEq, Repr

def narrow (c : Nat) : Option NFmt :=
  match c with
  | 4 => some ⟨5, 2, 15⟩
  | 5 => some ⟨4, 3, 7⟩
  | 6 => some ⟨3, 2, 3⟩
  | 7 => some ⟨2, 3, 1⟩
  | 8 => some ⟨2, 1, 1⟩
  | _ => none

namespace NFmt

def val (f : NFmt) (x : Nat) : FVal :=
  let s := x.testBit (f.e + f.m)
  let e := bits x f.m f.e
  let m := x % 2 ^ f.m
  if e = 0 then .fin s m (2 ^ (f.b - 1 + f.m)) else .fin s ((2 ^ f.m + m) * 2 ^ (e - 1)) (2 ^ (f.b - 1 + f.m))

def signBit (f : NFmt) (neg : Bool) : Nat := if neg then 2 ^ (f.e + f.m) else 0

/-- Conversion without a block scale (R181). -/
def conv (f : NFmt) (mode : RMode) (x : FVal) : Nat × BitVec 5 :=
  let top := 2 ^ (f.e + f.m) - 1
  match x with
  | .nan _ => (0, fNV)
  | .inf neg => (f.signBit neg + top, fOF ||| fNX)
  | .fin neg n d =>
    let r := roundGrid mode f.m (1 - (f.b : Int)) neg n d
    let c := if r.y < 2 ^ f.m then r.y
      else
        let up := r.y == 2 ^ (f.m + 1)
        ((if up then r.q + 1 else r.q) + f.m + f.b).toNat * 2 ^ f.m + ((if up then 2 ^ f.m else r.y) - 2 ^ f.m)
    if c > top then (f.signBit neg + top, fOF ||| fNX)
    else (f.signBit neg + c, flagIf r.nx fNX ||| flagIf (r.nx && c < 2 ^ f.m) fUF)

end NFmt

/-! ## Log formats (R167 to R169) -/

/-- The table T (R168): step 4 takes every other entry of step 8. -/
def logT (f : Nat) : Nat := [0x8000, 0x8B96, 0x9838, 0xA5FF, 0xB505, 0xC567, 0xD745, 0xEAC1].getD f 0

/-- Entry `f` of the table of step `q`. -/
def logTq (q f : Nat) : Nat := if q = 4 then logT (2 * f) else logT f

/-- The value of a sign and a log in steps of 1/q. -/
def logVal (neg : Bool) (l : Int) (q : Nat) : FVal :=
  FVal.scale2 (.fin neg (logTq q (l % q).toNat) 1) (l / (q : Int) - 15)

structure LFmt where
  /-- bits of the log field, steps in one octave -/
  w : Nat
  q : Nat
  deriving DecidableEq, Repr

def l6 : LFmt := ⟨5, 4⟩
def l8 : LFmt := ⟨7, 8⟩

namespace LFmt

def neg (f : LFmt) (x : Nat) : Bool := x.testBit f.w
/-- The log of a code. -/
def log (f : LFmt) (x : Nat) : Int := sint f.w x
def isZero (f : LFmt) (x : Nat) : Bool := x % 2 ^ f.w == 2 ^ (f.w - 1)
def val (f : LFmt) (x : Nat) : FVal := if f.isZero x then .fin (f.neg x) 0 1 else logVal (f.neg x) (f.log x) f.q
/-- The code of a sign and a log. -/
def code (f : LFmt) (neg : Bool) (l : Int) : Nat := (if neg then 2 ^ f.w else 0) + wrap f.w l
def lowest (f : LFmt) : Int := -((2 ^ (f.w - 1) : Nat) : Int)
def highest (f : LFmt) : Int := ((2 ^ (f.w - 1) : Nat) : Int) - 1

/-- (n / d)^k against 2^e: at least it? -/
def powGe (n d k : Nat) (e : Int) : Bool :=
  if e ≥ 0 then n ^ k ≥ d ^ k * 2 ^ e.toNat else n ^ k * 2 ^ (-e).toNat ≥ d ^ k

/-- floor(q log2(n / d)), searched among the q steps of the octave. -/
def floorLog (q n d : Nat) : Int :=
  let base := flog2 n d * q
  (List.range q).foldl (fun (acc : Int) (i : Nat) => if powGe n d q (base + i) then base + i else acc) base

/-- Round log2 |x| away from the floor (R183)? -/
def logAway (f : LFmt) (mode : RMode) (neg : Bool) (l : Int) (n d : Nat) : Bool :=
  let exact := powGe n d f.q l && powGe d n f.q (-l)
  let atHalf := powGe n d (2 * f.q) (2 * l + 1)
  let half := atHalf && powGe d n (2 * f.q) (-(2 * l + 1))
  match mode with
  | .rtz => false
  | .rup => !exact && !neg
  | .rdn => !exact && neg
  | .rna => atHalf
  | .rne => (atHalf && !half) || (half && l % 2 != 0)
  | .srd dv => powGe n d (32 * f.q) (32 * l + dv + 1)

/-- The log, floor or one above it, whose table value is exactly the value: it converts back to its own code in every
mode, as R183 closes by saying. -/
def exactLog (f : LFmt) (neg : Bool) (l : Int) (n d : Nat) : Option Int :=
  [l, l + 1].find? fun k => (logVal neg k f.q).rel (.fin neg n d) == .eq

/-- Conversion (R183); a NaN gives +0 (R181). The log that may be above the highest step is the rounded one (assumption log 200). -/
def conv (f : LFmt) (mode : RMode) (x : FVal) : Nat × BitVec 5 :=
  match x with
  | .nan _ => (f.code false f.lowest, fNV)
  | .inf neg => (f.code neg f.highest, fOF ||| fNX)
  | .fin neg n d =>
    if n = 0 then (f.code neg f.lowest, 0)
    else
      let l := floorLog f.q n d
      let r := if l < f.lowest then f.lowest
        else match f.exactLog neg l n d with
          | some k => k
          | none => if f.logAway mode neg l n d then l + 1 else l
      if r > f.highest then (f.code neg f.highest, fOF ||| fNX)
      else if r ≤ f.lowest then (f.code neg f.lowest, fUF ||| fNX)
      else (f.code neg r, flagIf ((f.val (f.code neg r)).rel (.fin neg n d) != .eq) fNX)

end LFmt

/-- The product of two log codes whose steps are given, with extra log `e` (R169). -/
def logMul (fa fb : LFmt) (a b : Nat) (e : Int) : FVal :=
  let neg := fa.neg a != fb.neg b
  if fa.isZero a || fb.isZero b then .fin neg 0 1
  else
    let q := max fa.q fb.q
    let up (f : LFmt) (x : Nat) : Int := f.log x * (q / f.q : Nat)
    logVal neg (up fa a + up fb b + e) q

/-! ## Integers, normalised and fixed-point numbers (R166, R184) -/

/-- The range of an integer element. -/
def intRange (c : Nat) : Int × Int :=
  match c with
  | 16 => (-128, 127)
  | 17 => (0, 255)
  | 18 => (-8, 7)
  | 19 => (-32768, 32767)
  | _ => (-2147483648, 2147483647)

/-- Flags of a value rounded to an integer: the grid's NX, and UF where a nonzero value gives 0 (R177). -/
def intFlags (r : Nat × Bool) : BitVec 5 := flagIf r.2 fNX ||| flagIf (r.2 && r.1 == 0) fUF

/-- x times `k`, rounded to an integer and saturated to a range: the integer and flags (R184, R224). -/
def convInt (mode : RMode) (lo hi : Int) (k : Nat) (x : FVal) : Int × BitVec 5 :=
  match x with
  | .nan _ => (0, fNV)
  | .inf neg => (if neg then lo else hi, fNV)
  | .fin neg n d =>
    let r := roundInt mode neg (n * k) d
    let y : Int := if neg then -(r.1 : Int) else r.1
    if y < lo then (lo, fNV) else if y > hi then (hi, fNV) else (y, intFlags r)

/-- Conversion to UN8 or UN16: clamp to [0, 1], then round (R184). -/
def convUn (mode : RMode) (k : Nat) (x : FVal) : Nat × BitVec 5 :=
  match x with
  | .nan _ => (0, fNV)
  | .inf neg => (if neg then 0 else k, 0)
  | .fin neg n d =>
    if neg then (0, 0) else if n ≥ d then (k, 0)
    else
      let r := roundInt mode false (n * k) d
      (r.1, intFlags r)

/-! ## Elements -/

/-- The value of an element without its block scale. -/
def elemVal (c x : Nat) : FVal :=
  match c with
  | 0 => fp64.val x
  | 1 => fp32.val x
  | 2 => fp16.val x
  | 3 => bf16.val x
  | 16 => .ofInt (sint 8 x)
  | 17 => .ofInt x
  | 18 => .ofInt (sint 4 x)
  | 19 => .ofInt (sint 16 x)
  | 20 => .fin false x 255
  | 21 => .fin false x 65535
  | 22 => l6.val x
  | 23 => l8.val x
  | 25 => match FVal.ofInt (sint 32 x) with
    | .fin s n _ => .fin s n 256
    | v => v
  | c => match narrow c with
    | some f => f.val x
    | none => .nan false

/-- An element converted from a value, without a block scale (R180, R181, R183, R184). -/
def elemConv (c : Nat) (mode : RMode) (sat : Bool) (x : FVal) : Nat × BitVec 5 :=
  match c with
  | 0 => fp64.round mode sat false x
  | 1 => fp32.round mode sat false x
  | 2 => fp16.round mode sat false x
  | 3 => bf16.round mode sat false x
  | 20 => convUn mode 255 x
  | 21 => convUn mode 65535 x
  | 22 => l6.conv mode x
  | 23 => l8.conv mode x
  | 25 =>
    let r := convInt mode (intRange 25).1 (intRange 25).2 256 x
    (wrap 32 r.1, r.2)
  | c => match narrow c with
    | some f => f.conv mode x
    | none =>
      let r := convInt mode (intRange c).1 (intRange c).2 1 x
      (wrap (fmtBits c) r.1, r.2)

/-! ## Block scales (R164, R182) -/

/-- The value of a scaled element; a scale of 0xFF makes it a NaN. -/
def scaledVal (c scale x : Nat) : FVal :=
  if scale = 0xFF then .nan false else (elemVal (fmtElem c) x).scale2 ((scale : Int) - 127)

/-- The scale of a block (R182). -/
def blockScale (c : Nat) (xs : List FVal) : Nat :=
  if xs.any FVal.isNan then 0xFF
  else if xs.any FVal.isInf then 254
  else
    let a := xs.foldl (fun acc x => if acc.magLt x then x.abs else acc) (.fin false 0 1)
    match a with
    | .fin _ n d =>
      if n = 0 then 127
      else
        let s := flog2 n d - fmtEmax c + 127
        if s < 0 then 0 else if s > 254 then 254 else s.toNat
    | _ => 254

/-- An element of a block whose scale is known. -/
def blockElem (c scale : Nat) (mode : RMode) (x : FVal) : Nat × BitVec 5 :=
  if scale = 0xFF then (if c = 24 then l6.code false l6.lowest else 0, 0)
  else
    let r := elemConv (fmtElem c) mode false (x.scale2 (127 - (scale : Int)))
    (if c = 14 ∧ r.1 = 8 then 0 else r.1, r.2)

end Sys2Proof.Machine
end

