-- ==== Sys2Proof/Machine/Special.lean ====
section
/-! DEFINITION. Special functions (R222, R223). The bits are the implementation's own (Config.specialBits) where they lie within
the bound; where those would not, the nearest value of the format stands in (assumption log 20). -/

namespace Sys2Proof.Machine

/-! ## Fixed-point approximations, with `prec` fraction bits; each is within 2^-60 of the function -/

def prec : Nat := 96

/-- n / d in fixed point. -/
def toFix (n d : Nat) : Nat := n * 2 ^ prec / d

/-- Square root in fixed point. -/
def sqrtFix (x : Nat) : Nat := isqrt (x * 2 ^ prec)

/-- 2^f for a fraction f: the product of the roots 2^(1/2), 2^(1/4), ... that its bits name. -/
def exp2Fix (f : Nat) : Nat → Nat → Nat → Nat
  | 0, _, acc => acc
  | k + 1, root, acc =>
    let root := sqrtFix root
    exp2Fix f k root (if f.testBit (prec - 1 - (80 - (k + 1))) then acc * root / 2 ^ prec else acc)

/-- 2^(f / 2^prec), 0 ≤ f < 2^prec. -/
def exp2Frac (f : Nat) : Nat := exp2Fix f 80 (2 ^ (prec + 1)) (2 ^ prec)

/-- Fraction bits of log2 of a mantissa in [1, 2), by repeated squaring. -/
def log2Fix : Nat → Nat → Nat → Nat
  | 0, _, acc => acc
  | k + 1, x, acc =>
    let y := x * x / 2 ^ (2 * prec)
    if y ≥ 2 ^ (2 * prec + 1) then log2Fix k (y / 2) (2 * acc + 1) else log2Fix k y (2 * acc)

/-- log2 of n / d as a fraction of 2^64. -/
def log2Of (n d : Nat) : Int :=
  let k := flog2 n d
  let u := unitsOf n d k
  k * 2 ^ 64 + (log2Fix 64 (u.1 * 2 ^ (2 * prec) / u.2) 0 : Nat)

/-- Cosine and sine of pi / 2^k for k from 1 on, and the rotation by the angles that the bits of f name. -/
def rotFix (f : Nat) : Nat → Nat × Nat → Int × Int → Int × Int
  | 0, _, acc => acc
  | k + 1, (c, s), (x, y) =>
    let acc := if f.testBit (prec - 1 - (80 - (k + 1))) then
        ((x * c - y * s) / 2 ^ prec, (x * s + y * c) / 2 ^ prec) else (x, y)
    let c' := sqrtFix ((2 ^ prec + c) / 2)
    rotFix f k (c', s * 2 ^ prec / (2 * c')) acc

/-- cos and sin of pi * f / 2^prec for 0 ≤ f < 2^prec. -/
def cosSinPi (f : Nat) : Int × Int := rotFix f 80 (0, 2 ^ prec) (2 ^ prec, 0)

/-! ## Candidates and bounds -/

/-- x - y as a signed fraction. -/
def fracSub (x y : FVal) : FVal := (x.add false y.negate).1

/-- |x - y| ≤ b for finite values, or < b where the bound is strict. -/
def within (strict : Bool) (x y b : FVal) : Bool :=
  (if strict then (fracSub x y).magLt b else !b.magLt (fracSub x y)) && !x.isInf && !x.isNan

/-- One unit in the last place of a format at a value (R177). -/
def ulpAt (f : FFmt) (x : FVal) : FVal :=
  match x with
  | .fin _ n d => if n = 0 then FVal.scale2 (.fin false 1 1) (f.emin - f.m)
    else FVal.scale2 (.fin false 1 1) (max (flog2 n d) f.emin - f.m)
  | _ => .fin false 0 1

/-- The implementation's bits if they lie within `bound` of `x`, else the nearest. `fn` numbers the function; the error of
`FRCPS.f64`, number 7, lies below its bound (R222). -/
def special (f : FFmt) (fn : Nat) (ftz : Bool) (operand : Nat) (x bound : FVal) : Nat × BitVec 5 :=
  let c := Config.specialBits fn ftz operand % 2 ^ f.width
  let r := if within (fn == 7) (f.val c) x bound then c else (f.round .rne false false x).1
  if ftz && f.subnormal r then (f.signBit (f.negOf r), fUF ||| fNX) else (r, 0)

/-- k * x. -/
def FVal.times (k : Nat) (x : FVal) : FVal := (x.mul (.fin false k 1)).1

/-- A power of two, which is exact where the table says so. -/
def isPow2 (n d : Nat) : Bool := unitsOf n d (flog2 n d) |> fun u => u.1 == u.2

/-- An exact result. -/
def exactRes (f : FFmt) (ftz : Bool) (x : FVal) : Nat × BitVec 5 :=
  let r := (f.round .rne false false x).1
  if ftz && f.subnormal r then (f.signBit (f.negOf r), fUF ||| fNX) else (r, 0)

/-- A NaN or invalid operand. -/
def specialNan (f : FFmt) (sig : Bool) : Nat × BitVec 5 := (f.nanBits, flagIf sig fNV)

/-- 1 / A (R222). -/
def recip (f : FFmt) (fn : Nat) (ftz : Bool) (operand : Nat) (bound : FVal → FVal) : Nat × BitVec 5 :=
  match f.valFtz ftz operand with
  | .nan sig => specialNan f sig
  | .inf neg => (f.signBit neg, 0)
  | .fin neg n d =>
    if n = 0 then (f.signBit neg + f.infBits, fDZ)
    else
      let x := FVal.fin neg d n
      let o := f.round .rne false false x
      if o.2 &&& fOF != 0 then (f.signBit neg + f.infBits, fOF ||| fNX)
      else if isPow2 n d then exactRes f ftz x
      else special f fn ftz operand x (bound x)

/-- 1 / sqrt(A): the exact square root of d / n to 2^-90 of its size. -/
def rsqrt (ftz : Bool) (operand : Nat) : Nat × BitVec 5 :=
  match fp32.valFtz ftz operand with
  | .nan sig => specialNan fp32 sig
  | .inf neg => if neg then (fp32.nanBits, fNV) else (0, 0)
  | .fin neg n d =>
    if n = 0 then (fp32.signBit neg + fp32.infBits, fDZ)
    else if neg then (fp32.nanBits, fNV)
    else
      let x := FVal.fin false (isqrt (d * 2 ^ 600 / n)) (2 ^ 300)
      special fp32 1 ftz operand x ((ulpAt fp32 x).times 2)

/-- Square root, correctly rounded (R222, R177). -/
def sqrtRound (f : FFmt) (mode : RMode) (ftz : Bool) (operand : Nat) : Nat × BitVec 5 :=
  match f.valFtz ftz operand with
  | .nan sig => specialNan f sig
  | .inf neg => if neg then (f.nanBits, fNV) else (f.infBits, 0)
  | .fin neg n d =>
    if n = 0 then (f.signBit neg, 0)
    else if neg then (f.nanBits, fNV)
    else
      -- the root to 2 bits below the last place, with the rest as a sticky bit
      let q := max (flog2 n d / 2) f.emin - f.m
      let u := unitsOf n d (2 * q - 4)
      let t := isqrt (u.1 / u.2)
      let exact := t * t * u.2 == u.1
      f.round mode false ftz (FVal.scale2 (.fin false (2 * t + if exact then 0 else 1) 2) (q - 2))

/-- 2^A (R222). -/
def fex2 (ftz : Bool) (operand : Nat) : Nat × BitVec 5 :=
  match fp32.valFtz ftz operand with
  | .nan sig => specialNan fp32 sig
  | .inf neg => (if neg then 0 else fp32.infBits, 0)
  | .fin neg n d =>
    if n = 0 then (0x3F800000, 0)
    else if !neg && n ≥ 128 * d then (fp32.infBits, fOF ||| fNX)
    else
      let far := neg && n ≥ 200 * d
      let k : Int := if neg then -(cdiv n d : Nat) else (n / d : Nat)
      let frac : Nat := if neg then (cdiv n d * d - n) * 2 ^ prec / d else n % d * 2 ^ prec / d
      if far then special fp32 3 ftz operand (.fin false 1 (2 ^ 200)) ((ulpAt fp32 (.fin false 0 1)).times 2)
      else if n % d = 0 ∧ k ≥ -149 then exactRes fp32 ftz (FVal.scale2 (.fin false 1 1) k)
      else
        let x := FVal.scale2 (.fin false (exp2Frac frac) (2 ^ prec)) k
        let o := fp32.round .rne false false x
        if o.2 &&& fOF != 0 then (fp32.infBits, fOF ||| fNX)
        else special fp32 3 ftz operand x ((ulpAt fp32 x).times 2)

/-- log2 A (R222). -/
def flg2 (ftz : Bool) (operand : Nat) : Nat × BitVec 5 :=
  match fp32.valFtz ftz operand with
  | .nan sig => specialNan fp32 sig
  | .inf neg => if neg then (fp32.nanBits, fNV) else (fp32.infBits, 0)
  | .fin neg n d =>
    if n = 0 then (fp32.signBit true + fp32.infBits, fDZ)
    else if neg then (fp32.nanBits, fNV)
    else if isPow2 n d then exactRes fp32 ftz (.ofInt (flog2 n d))
    else
      let x := FVal.scale2 (.ofInt (log2Of n d)) (-64)
      let near := decide (2 * n ≥ d) && decide (n ≤ 2 * d)
      special fp32 4 ftz operand x (if near then FVal.scale2 (.fin false 1 1) (-22) else (ulpAt fp32 x).times 2)

/-- sin(pi A) or cos(pi A) (R222): exact at multiples of one half. -/
def sinCos (cosine ftz : Bool) (operand : Nat) : Nat × BitVec 5 :=
  match fp32.valFtz ftz operand with
  | .nan sig => specialNan fp32 sig
  | .inf _ => (fp32.nanBits, fNV)
  | .fin neg n d =>
    -- A mod 2 in half turns of 1/2
    let n := n % (2 * d)
    let one (neg : Bool) : Nat × BitVec 5 := (fp32.signBit neg + 0x3F800000, 0)
    if n * 2 % d = 0 then
      let h := n * 2 / d
      if cosine then (if h % 2 = 1 then (0, 0) else one (h == 2))
      else if h % 2 = 0 then (fp32.signBit neg, 0) else one (neg != (h == 3))
    else
      let r := cosSinPi (n % d * 2 ^ prec / d)
      let flip := decide (n ≥ d)
      let v := if cosine then (if flip then -r.1 else r.1) else (if flip != neg then -r.2 else r.2)
      special fp32 (if cosine then 6 else 5) ftz operand (FVal.scale2 (.ofInt v) (-(prec : Int)))
        (FVal.scale2 (.fin false 1 1) (-22))

end Sys2Proof.Machine
end

