-- ==== Sys2Proof/Machine/Float.lean ====
section
/-! DEFINITION. Opcodes 0x40 to 0x6F: floating-point arithmetic, special functions and conversions (R214 to R229). -/

namespace Sys2Proof.Machine

/-! ## Shared operations -/

/-- The rounding mode in force (R108, R176). -/
def LaneIn.rmode (r : LaneIn) : RMode := RMode.ofCode r.t.rnd.toNat (rmodeOf r.t.hints)
def LaneIn.ftz (r : LaneIn) : Bool := ftzOf r.t.hints

/-- A result code with its flags. -/
def LaneOut.flagged (x : Nat × BitVec 5) : LaneOut := ⟨x.1, 0, 0, x.2⟩

/-- One operation of R216 in a format: `f` gives the exact value from A, B and D0 or C. -/
def arith (r : LaneIn) (f : FFmt) (a b c : Nat) (uses : Nat) (op : RMode → FVal → FVal → FVal → FVal × Bool) :
    Nat × BitVec 5 :=
  let v (x : Nat) : FVal := f.valFtz r.ftz x
  f.result r.rmode r.sat r.ftz ([v a, v b, v c].take uses) (op r.rmode (v a) (v b) (v c))

def opAdd (m : RMode) (a b _c : FVal) : FVal × Bool := a.add m.zneg b
def opSub (m : RMode) (a b _c : FVal) : FVal × Bool := a.add m.zneg b.negate
def opMul (_m : RMode) (a b _c : FVal) : FVal × Bool := a.mul b
def opFma (m : RMode) (a b c : FVal) : FVal × Bool := fmaVal m.zneg a b c

/-- The packed forms (R219): both halves, flags together. -/
def packed (r : LaneIn) (f : FFmt) (uses : Nat) (op : RMode → FVal → FVal → FVal → FVal × Bool) : LaneOut :=
  let h (e : Nat) : Nat × BitVec 5 := arith r f (bits r.a (16 * e) 16) (bits r.b (16 * e) 16) (bits r.d0 (16 * e) 16) uses op
  .flagged ((h 0).1 + (h 1).1 * 2 ^ 16, (h 0).2 ||| (h 1).2)

/-- D0 and n products in one exact sum (R220). -/
def dotSum (r : LaneIn) (n w c : Nat) : LaneOut :=
  let es := (List.range n).map fun i => (elemVal c (bits r.a (w * i) w), elemVal c (bits r.b (w * i) w))
  let d0 := fp32.val r.d0
  .flagged (sumRound fp32 (d0 :: es.flatMap fun e => [e.1, e.2]) ((d0, false) :: es.map fun e => e.1.mul e.2))

/-- Does a compare set NV (R218)? -/
def cmpNV (c : Nat) (a b : FVal) : Bool := if 2 ≤ c ∧ c ≤ 5 then a.isNan || b.isNan else a.isSig || b.isSig

/-- `FCMP` in a format. -/
def fcmp (r : LaneIn) (f : FFmt) (c : BitVec 3) (m : BitVec 2) (p : BitVec 3) : LaneOut :=
  let a := f.valFtz r.ftz r.a
  let b := f.valFtz r.ftz r.b
  predOut p (r.pred m p (condF c.toNat (a.rel b))) (flagIf (cmpNV c.toNat a b) fNV)

/-- Float type codes (R224). -/
def floatFmt (t : Nat) : FFmt := if t = 0 then fp64 else if t = 1 then fp32 else if t = 2 then fp16 else bf16

/-- The range of an integer type code (R224). -/
def intTypeRange (t : Nat) : Int × Int :=
  if t = 0 then (-(2 ^ 31 : Nat), (2 ^ 31 : Nat) - 1) else if t = 1 then (0, (2 ^ 32 : Nat) - 1)
  else if t = 2 then (-(2 ^ 63 : Nat), (2 ^ 63 : Nat) - 1) else (0, (2 ^ 64 : Nat) - 1)

/-- A 16-bit source is read from [15:0] (R224). -/
def srcBits (f : FFmt) (x : Nat) : Nat := x % 2 ^ f.width

/-- The classes of R221. -/
def fclassOf (f : FFmt) (x : Nat) : Nat :=
  match f.val x with
  | .nan sig => if sig then 8 else 9
  | .inf neg => if neg then 0 else 7
  | .fin neg n _ =>
    if n = 0 then (if neg then 3 else 4)
    else if f.subnormal x then (if neg then 2 else 5) else (if neg then 1 else 6)

/-- The mode of a conversion to a narrow element (R178): SRD reads the table at (lane * n + e). -/
def LaneIn.elemMode (r : LaneIn) (n e : Nat) : RMode :=
  if rmodeOf r.t.hints = 6 then .srd (ditherD (r.p.laneOf r.t.tid * n + e + r.phi)) else r.rmode

/-- Elements that `PACK` writes and `UNPK` reads (R225, R226). -/
def packCount (fmt : Nat) : Nat := 2 * packRegs fmt

/-- `PACK` (R225). -/
def packOut (r : LaneIn) : LaneOut :=
  let fmt := r.mode % 32
  let k := packRegs fmt
  let xs := (List.range (2 * k)).map fun e =>
    elemConv fmt (r.elemMode (2 * k) e) r.sat (fp32.val (if e < k then bits r.a (32 * e) 32 else bits r.b (32 * (e - k)) 32))
  .flagged (xs.foldr (fun x acc => x.1 + acc * 2 ^ fmtBits fmt) 0, orFlags (xs.map (·.2)))

/-- `UNPK` (R226). -/
def unpkOut (r : LaneIn) : LaneOut :=
  let fmt := r.mode % 32
  let w := fmtBits fmt
  let first := if r.mode.testBit 5 then 4 else 0
  let xs := (List.range (if w = 16 then 2 else 4)).map fun e =>
    fp32.round r.rmode false false (elemVal fmt (bits r.a (w * (first + e)) w))
  .flagged (xs.foldr (fun x acc => x.1 + acc * 2 ^ 32) 0, orFlags (xs.map (·.2)))

/-- A shift count held to ±2,200 (R227). -/
def scaleCount (b : Nat) : Int := max (-2200) (min 2200 (sint 32 b))

/-- `SCALE` (R227). -/
def scaleOut (r : LaneIn) : LaneOut :=
  let f := if r.mode = 1 then fp64 else fp32
  .flagged (f.round r.rmode r.sat r.ftz ((f.valFtz r.ftz r.a).scale2 (scaleCount r.b)))

/-- `FRND` (R228). -/
def frndOut (r : LaneIn) : LaneOut :=
  let f := if r.mode = 1 then fp64 else fp32
  .flagged (match f.valFtz r.ftz r.a with
    | .fin neg n d => (f.round .rne false false (.fin neg (roundInt r.rmode neg n d).1 1)).1
    | v => (f.round .rne false false v).1, flagIf (f.val r.a).isSig fNV)

/-- `LOGC` (R229). -/
def logcOut (r : LaneIn) : LaneOut :=
  let fa := if r.mode = 1 then l6 else l8
  let fb := if r.mode = 0 then l8 else l6
  let d0 := fp32.val r.d0
  let ps := (List.range 4).map fun i =>
    logMul fa fb (bits r.a ((fa.w + 1) * i) (fa.w + 1)) (bits r.b ((fb.w + 1) * i) (fb.w + 1)) 0
  .flagged (sumRound fp32 [d0] ((d0, false) :: ps.map fun p => (p, false)))

/-! ## Meanings -/

def execFaddF32 (d a b : BitVec 8) (s : State) : Host.Outcome State Fault Refusal :=
  alu (.faddF32 d a b) always (fun r => .flagged (arith r fp32 r.a r.b 0 2 opAdd)) s

def execFsubF32 (d a b : BitVec 8) (s : State) : Host.Outcome State Fault Refusal :=
  alu (.fsubF32 d a b) always (fun r => .flagged (arith r fp32 r.a r.b 0 2 opSub)) s

def execFmulF32 (d a b : BitVec 8) (s : State) : Host.Outcome State Fault Refusal :=
  alu (.fmulF32 d a b) always (fun r => .flagged (arith r fp32 r.a r.b 0 2 opMul)) s

def execFmacF32 (d a b : BitVec 8) (s : State) : Host.Outcome State Fault Refusal :=
  alu (.fmacF32 d a b) always (fun r => .flagged (arith r fp32 r.a r.b r.d0 3 opFma)) s

def execFmaF32 (d a b : BitVec 8) (s : State) : Host.Outcome State Fault Refusal :=
  alu (.fmaF32 d a b) always (fun r => .flagged (arith r fp32 r.a r.b r.c 3 opFma)) s

def execFminF32 (d a b : BitVec 8) (s : State) : Host.Outcome State Fault Refusal :=
  alu (.fminF32 d a b) always (fun r => .flagged (fp32.minmax false r.ftz r.a r.b)) s

def execFmaxF32 (d a b : BitVec 8) (s : State) : Host.Outcome State Fault Refusal :=
  alu (.fmaxF32 d a b) always (fun r => .flagged (fp32.minmax true r.ftz r.a r.b)) s

def execFcmpF32 (c : BitVec 3) (m : BitVec 2) (p : BitVec 3) (a b : BitVec 8) (s : State) :
    Host.Outcome State Fault Refusal :=
  alu (.fcmpF32 c m p a b) (fun _ => m != 3) (fun r => fcmp r fp32 c m p) s

def execFaddF64 (d a b : BitVec 8) (s : State) : Host.Outcome State Fault Refusal :=
  alu (.faddF64 d a b) always (fun r => .flagged (arith r fp64 r.a r.b 0 2 opAdd)) s

def execFsubF64 (d a b : BitVec 8) (s : State) : Host.Outcome State Fault Refusal :=
  alu (.fsubF64 d a b) always (fun r => .flagged (arith r fp64 r.a r.b 0 2 opSub)) s

def execFmulF64 (d a b : BitVec 8) (s : State) : Host.Outcome State Fault Refusal :=
  alu (.fmulF64 d a b) always (fun r => .flagged (arith r fp64 r.a r.b 0 2 opMul)) s

def execFmacF64 (d a b : BitVec 8) (s : State) : Host.Outcome State Fault Refusal :=
  alu (.fmacF64 d a b) always (fun r => .flagged (arith r fp64 r.a r.b r.d0 3 opFma)) s

def execFmaF64 (d a b : BitVec 8) (s : State) : Host.Outcome State Fault Refusal :=
  alu (.fmaF64 d a b) always (fun r => .flagged (arith r fp64 r.a r.b r.c 3 opFma)) s

def execFminF64 (d a b : BitVec 8) (s : State) : Host.Outcome State Fault Refusal :=
  alu (.fminF64 d a b) always (fun r => .flagged (fp64.minmax false r.ftz r.a r.b)) s

def execFmaxF64 (d a b : BitVec 8) (s : State) : Host.Outcome State Fault Refusal :=
  alu (.fmaxF64 d a b) always (fun r => .flagged (fp64.minmax true r.ftz r.a r.b)) s

def execFcmpF64 (c : BitVec 3) (m : BitVec 2) (p : BitVec 3) (a b : BitVec 8) (s : State) :
    Host.Outcome State Fault Refusal :=
  alu (.fcmpF64 c m p a b) (fun _ => m != 3) (fun r => fcmp r fp64 c m p) s

def execPaddH16x2 (d a b : BitVec 8) (s : State) : Host.Outcome State Fault Refusal :=
  alu (.paddH16x2 d a b) always (fun r => packed r fp16 2 opAdd) s

def execPmulH16x2 (d a b : BitVec 8) (s : State) : Host.Outcome State Fault Refusal :=
  alu (.pmulH16x2 d a b) always (fun r => packed r fp16 2 opMul) s

def execPmacH16x2 (d a b : BitVec 8) (s : State) : Host.Outcome State Fault Refusal :=
  alu (.pmacH16x2 d a b) always (fun r => packed r fp16 3 opFma) s

def execPaddBf16x2 (d a b : BitVec 8) (s : State) : Host.Outcome State Fault Refusal :=
  alu (.paddBf16x2 d a b) always (fun r => packed r bf16 2 opAdd) s

def execPmulBf16x2 (d a b : BitVec 8) (s : State) : Host.Outcome State Fault Refusal :=
  alu (.pmulBf16x2 d a b) always (fun r => packed r bf16 2 opMul) s

def execPmacBf16x2 (d a b : BitVec 8) (s : State) : Host.Outcome State Fault Refusal :=
  alu (.pmacBf16x2 d a b) always (fun r => packed r bf16 3 opFma) s

def execDot2H16 (d a b : BitVec 8) (s : State) : Host.Outcome State Fault Refusal :=
  alu (.dot2H16 d a b) always (fun r => dotSum r 2 16 2) s

def execDot2Bf16 (d a b : BitVec 8) (s : State) : Host.Outcome State Fault Refusal :=
  alu (.dot2Bf16 d a b) always (fun r => dotSum r 2 16 3) s

def execDot4E4m3 (d a b : BitVec 8) (s : State) : Host.Outcome State Fault Refusal :=
  alu (.dot4E4m3 d a b) always (fun r => dotSum r 4 8 5) s

def execDot8E2m1 (d a b : BitVec 8) (s : State) : Host.Outcome State Fault Refusal :=
  alu (.dot8E2m1 d a b) always (fun r => dotSum r 8 4 8) s

def execFclass (d a t : BitVec 8) (s : State) : Host.Outcome State Fault Refusal :=
  let f := if t = 0 then fp32 else if t = 1 then fp64 else if t = 2 then fp16 else bf16
  alu (.fclass d a t) (fun _ => t.toNat < 4) (fun r => .val (2 ^ fclassOf f (srcBits f r.a))) s

def execFrcp (d a : BitVec 8) (s : State) : Host.Outcome State Fault Refusal :=
  alu (.frcp d a) always (fun r => .flagged (recip fp32 0 r.ftz r.a (ulpAt fp32))) s

def execFrsq (d a : BitVec 8) (s : State) : Host.Outcome State Fault Refusal :=
  alu (.frsq d a) always (fun r => .flagged (rsqrt r.ftz r.a)) s

def execFsqrt (d a : BitVec 8) (s : State) : Host.Outcome State Fault Refusal :=
  alu (.fsqrt d a) always (fun r => .flagged (sqrtRound fp32 r.rmode r.ftz r.a)) s

def execFex2 (d a : BitVec 8) (s : State) : Host.Outcome State Fault Refusal :=
  alu (.fex2 d a) always (fun r => .flagged (fex2 r.ftz r.a)) s

def execFlg2 (d a : BitVec 8) (s : State) : Host.Outcome State Fault Refusal :=
  alu (.flg2 d a) always (fun r => .flagged (flg2 r.ftz r.a)) s

def execFsin (d a : BitVec 8) (s : State) : Host.Outcome State Fault Refusal :=
  alu (.fsin d a) always (fun r => .flagged (sinCos false r.ftz r.a)) s

def execFcos (d a : BitVec 8) (s : State) : Host.Outcome State Fault Refusal :=
  alu (.fcos d a) always (fun r => .flagged (sinCos true r.ftz r.a)) s

def execFrcpsF64 (d a : BitVec 8) (s : State) : Host.Outcome State Fault Refusal :=
  alu (.frcpsF64 d a) always (fun r => .flagged (recip fp64 7 r.ftz r.a fun x => x.abs.scale2 (-26))) s

/-- `CVT` (R224): ftz acts on the operand only. -/
def execCvt (d a : BitVec 8) (t f : BitVec 4) (s : State) : Host.Outcome State Fault Refusal :=
  alu (.cvt d a t f) (fun _ => t.toNat < 4 && f.toNat < 4 && t != f) (fun r =>
    let src := floatFmt f.toNat
    .flagged ((floatFmt t.toNat).round r.rmode r.sat false (src.valFtz r.ftz (srcBits src r.a)))) s

def execCvti (d a : BitVec 8) (t f : BitVec 4) (s : State) : Host.Outcome State Fault Refusal :=
  alu (.cvti d a t f) (fun _ => t.toNat < 4 && f.toNat < 4) (fun r =>
    let src := floatFmt f.toNat
    let range := intTypeRange t.toNat
    let y := convInt r.rmode range.1 range.2 1 (src.val (srcBits src r.a))
    .flagged (wrap (if t.toNat < 2 then 32 else 64) y.1, y.2)) s

def execCvtf (d a : BitVec 8) (t f : BitVec 4) (s : State) : Host.Outcome State Fault Refusal :=
  alu (.cvtf d a t f) (fun _ => t.toNat < 4 && f.toNat < 4) (fun r =>
    let x : Int := if f = 0 then sint 32 r.a else if f = 2 then sint 64 r.a else r.a
    .flagged ((floatFmt t.toNat).round r.rmode false false (.ofInt x))) s

def execPack (d a b : BitVec 8) (s : State) : Host.Outcome State Fault Refusal :=
  alu (.pack d a b) (fun h => packFmt (modeOf h % 32)) packOut s

def execUnpk (d a : BitVec 8) (s : State) : Host.Outcome State Fault Refusal :=
  alu (.unpk d a) (fun h => packFmt (modeOf h % 32)) unpkOut s

def execScale (d a b : BitVec 8) (s : State) : Host.Outcome State Fault Refusal :=
  alu (.scale d a b) always scaleOut s

def execLogc (d a b : BitVec 8) (s : State) : Host.Outcome State Fault Refusal :=
  alu (.logc d a b) (fun h => modeOf h % 4 != 3) logcOut s

def execFrnd (d a : BitVec 8) (s : State) : Host.Outcome State Fault Refusal :=
  alu (.frnd d a) always frndOut s

end Sys2Proof.Machine
end

