-- ==== Sys2Proof/Machine/Access.lean ====
section
/-! DEFINITION. Opcodes 0x80 to 0x9F at issue: loads, stores, scratchpad accesses, atomics, handles, prefetch (R240, R255, R256,
R268 to R276). What the operations do when they complete stands in Complete.lean. -/

namespace Sys2Proof.Machine

variable {s0 : State}

/-! ## Shared operations -/

/-- The offset of an M-format word in access units (R106, R107). -/
def unitOffset (t : Thread) (o : BitVec 8) : Nat :=
  (match t.hints.himm with
    | some m => m.toNat * 256 + o.toNat
    | none => o.toNat) + stepOf t.hints 3 * t.repidx

/-- The pair that an operand names, as a 64-bit number. -/
def Thread.pair (t : Thread) (p : Panel) (k : Nat) : Nat := t.getNat (t.group p k 2)

/-- The handle of an M-format word in the repeat that is next. -/
def handleOf (t : Thread) (p : Panel) (h : BitVec 8) : Nat := t.pair p (h.toNat + stepOf t.hints 2 * t.repidx)

/-- An operation starts: it counts on its flag and is outstanding (R100). -/
def Thread.begin_ (t : Thread) (o : Op) : Thread :=
  { t with
    ops := t.ops ++ [o]
    f := match o.flag with
      | some k => t.f.set k (t.f.getD k 0 + 1)
      | none => t.f }

/-- A new operation of a thread, which then goes on. -/
def Tx.issueOp (tx : Tx s0) (t : Thread) (l : Launch) (i : Instr) (kind : OpKind) (acc : Option Access) (dst : List Nat)
    (popped : Option (Nat × Word) := none) : Tx s0 :=
  tx.take.advance (t.begin_ ⟨tx.fresh, kind, acc, dst, flagOf t (classOf i), t.self, popped⟩) l

/-- A lazy translation must be walked first (R249): the walk is posted and the thread waits. -/
def Tx.postWalk (tx : Tx s0) (t : Thread) (l : Launch) (va rights : Nat) (mode0 : Bool) (pref : Option (Nat × Nat × Nat) := none) :
    Tx s0 :=
  tx.take.mod fun s =>
    { s with walks := s.walks ++ [⟨tx.fresh, l.part, t.core, t.panel, t.tid, va, rights, mode0, none, pref⟩] }

/-- The port's checks for one thread: the access, or the step with the trap taken or the walk posted. -/
def Tx.port (tx : Tx s0) (t : Thread) (p : Panel) (l : Launch) (slot off size al rights : Nat) (bin : Bool) :
    Option Access × Tx s0 :=
  match checkAccess tx.st (portOf p l t) slot off size al rights bin with
  | .ok a => (some a, tx)
  | .trap c v sl o w => (none, tx.raise t c v ⟨sl, o, w⟩)
  | .walk va r m => (none, tx.postWalk t l va r m)
  | .hole => (none, tx.stop .stackHole)

/-- The decode checks of a memory or engine word for one thread. -/
def wordOk (i : Instr) (t : Thread) (p : Panel) : Bool := formOk p.regs (form i t.hints) t.hints && clauseOk t i

/-- The instruction is suppressed in run-ahead (R432). -/
def Tx.suppress (tx : Tx s0) (t : Thread) (l : Launch) : Tx s0 := tx.advance t l

/-- Bytes of a home access as the core sees them: its L1 line, else the home. -/
def State.seenNat (st : State) (core addr key n : Nat) : Nat :=
  match (st.sys.core core).l1Line (lineOf addr) with
  | some l => ofLeBytes (lineBytes l.data.toNat addr n)
  | none => st.homeNat addr n key

/-- Sign- or zero-extend a loaded value to its registers. -/
def extendLoad (signed : Bool) (size v : Nat) : Nat := if signed then wrap 32 (sint (8 * size) v) else v

/-- A load in run-ahead (R432): it reads at once, or poisons its destination; it waits for a walk as any load does (R249). -/
def Tx.aheadLoad (tx : Tx s0) (t : Thread) (p : Panel) (l : Launch) (fm : Form) (slot off size : Nat) (signed : Bool) :
    Tx s0 :=
  let dst := match fm.dst with
    | some o => o.regs t p
    | none => []
  let poison (tx : Tx s0) : Tx s0 := tx.advance (t.markPoison dst 0 true) l
  if fm.poisoned t p then poison tx
  else
    let go (tx : Tx s0) (a : Access) : Tx s0 :=
      match a.target with
      | .peer _ => poison tx
      | .home addr key _ _ _ =>
        if tx.sys.poisoned addr then poison tx
        else tx.advance ((t.putNat dst (extendLoad signed size (tx.st.seenNat t.core addr key size))).markPoison dst 0 false) l
    match checkAccess tx.st (portOf p l t) slot off size size rRd false with
    | .ok a => go tx a
    | .hole => tx.stop .stackHole
    | .trap c v sl o w => if c = tPGFLT then poison (tx.raise t c v ⟨sl, o, w⟩) else tx.raise t c v ⟨sl, o, w⟩
    | .walk va r m => tx.postWalk t l va r m

/-- A load that has just joined run-ahead leaves its destination poisoned (R432). -/
def Tx.poisonFaulted (tx : Tx s0) (t : Thread) (dst : List Nat) : Tx s0 :=
  match tx.sys.panel? t.panel, tx.sys.thread? t.panel t.tid with
  | some p, some u => if p.ahead.any fun a => a.tids.contains t.tid then tx.mod fun s => s.setThread { u with poisonV := dst } else tx
  | _, _ => tx

/-- A global load at issue (R269). -/
def loadWord (i : Instr) (h o : BitVec 8) (size : Nat) (signed : Bool) (s : State) : Host.Outcome State Fault Refusal :=
  ((Tx.start s).eachOf fun tx t p l =>
    let fm := form i t.hints
    if !wordOk i t p then tx.raise t tILLOP 0
    else if !t.runs then tx.advance t l
    else
      let hd := handleOf t p h
      let off := handleOff hd + unitOffset t o * size
      if p.aheadOf t.tid then tx.aheadLoad t p l fm (handleSlot hd) off size signed
      else
        let dst := (fm.dst.map fun d => d.regs t p).getD []
        match tx.port t p l (handleSlot hd) off size size rRd false with
        | (none, tx) => tx.poisonFaulted t dst
        | (some a, tx) => tx.issueOp t l i (.load signed) (some a) dst).done

/-- The shuttle row for one thread of a memory or engine word: go on, stall, or trap. -/
def Tx.shuttled (tx : Tx s0) (t : Thread) (p : Panel) (l : Launch) (i : Instr) (go : Tx s0 → Tx s0) : Tx s0 × Bool :=
  let fm := form i t.hints
  let pops := fm.pops t.hints
  let pushes := fm.pushes
  if pops.isEmpty && pushes.isEmpty then (go tx, true)
  else if p.yoke.isNone then (tx.raise t tILLCONV 0, true)
  else
    match shuttlesOk tx.sys p l pops pushes with
    | .trap n => (tx.raise t tSHUTTLE (BitVec.ofNat 32 n), true)
    | .stall => (tx, false)
    | .ok => (go tx, true)

/-- A global store at issue (R270). -/
def storeWord (i : Instr) (h o : BitVec 8) (size : Nat) (s : State) : Host.Outcome State Fault Refusal :=
  ((Tx.start s).eachThread fun tx t p l =>
    let fm := form i t.hints
    if !wordOk i t p then (tx.raise t tILLOP 0, true)
    else if !t.runs then (tx.advance t l, true)
    else if p.aheadOf t.tid then (tx.suppress t l, true)
    else
      tx.shuttled t p l i fun tx =>
        let hd := handleOf t p h
        match tx.port t p l (handleSlot hd) (handleOff hd + unitOffset t o * size) size size rW false with
        | (none, tx) => tx
        | (some a, tx) =>
          let r := readSrcs tx t p (fm.srcs t.hints)
          r.2.issueOp t l i (.store (BitVec.ofNat 128 (r.1.getD 1 0 % 2 ^ (8 * size)))) (some a) []).done

/-! ### Scratchpad (R255, R256) -/

/-- The panel whose allocation a thread uses: a handler panel shares its destination's (R388). -/
def Sys.scratchPanel (s : Sys) (p : Panel) : Option Panel :=
  match p.handlerOf with
  | some k => s.panel? k
  | none => some p

/-- The checks of R255: a trap, or none. -/
def scratchTrap (len addr size : Nat) : Option Byte :=
  if addr % size ≠ 0 then some tALIGN else if addr + size > len then some tSCRBND else none

/-- An `LDS` or `STS` for one thread: `go` performs it on the panel that owns the allocation. -/
def scratchWord (i : Instr) (h o : BitVec 8) (size : Nat) (store : Bool)
    (s : State) : Host.Outcome State Fault Refusal :=
  ((Tx.start s).eachThread fun tx t p l =>
    let fm := form i t.hints
    if !wordOk i t p then (tx.raise t tILLOP 0, true)
    else if !t.runs then (tx.advance t l, true)
    else if l.travelling then (tx.raise t tILLCONV 0, true)
    else if store && p.aheadOf t.tid then (tx.suppress t l, true)
    else
      tx.shuttled t p l i fun tx =>
        let addr := handleOf t p h + unitOffset t o * size
        match tx.sys.scratchPanel p with
        | none => tx.raise t tSCRBND (lowWord addr)
        | some q =>
          let dst := (fm.dst.map fun d => d.regs t p).getD []
          if p.aheadOf t.tid && fm.poisoned t p then tx.advance (t.markPoison dst 0 true) l
          else
            match scratchTrap q.scratchLen addr size with
            | some c => tx.raise t c (lowWord addr)
            | none =>
              if store then
                match (touched addr size).find? q.stags.contains with
                | some w => tx.raise t tTACKST (lowWord (8 * w))
                | none =>
                  let r := readSrcs tx t p (fm.srcs t.hints)
                  let tx := r.2.mod fun s => s.setPanel { q with scratch := Mem.putBytes q.scratch addr (leBytes size (r.1.getD 1 0)) }
                  tx.issueOp t l i .sts none []
              else
                let v := Mem.getNat q.scratch addr size
                if p.aheadOf t.tid then tx.advance ((t.putNat dst v).markPoison dst 0 false) l
                else tx.issueOp t l i (.lds (BitVec.ofNat 128 v)) none dst).done

/-! ### Atomics (R272, R340) -/

/-- Is this an append to bin memory (R340)? -/
def isAppend (i : Instr) (l : Launch) (slot off : Nat) : Bool :=
  match i with
  | .atomAdd d _ _ => d != 248 && !l.travelling && l.eventEntry != 0xFF && l.kind3 == some slot && off == 0
  | _ => false

/-- An atomic at issue: X comes from c, else from d. -/
def atomWord (i : Instr) (op : AtomOp) (d h o : BitVec 8) (size : Nat) (s : State) : Host.Outcome State Fault Refusal :=
  ((Tx.start s).eachThread fun tx t p l =>
    let fm := form i t.hints
    if !wordOk i t p then (tx.raise t tILLOP 0, true)
    else if !t.runs then (tx.advance t l, true)
    else if p.aheadOf t.tid then (tx.suppress t l, true)
    else
      tx.shuttled t p l i fun tx =>
        let hd := handleOf t p h
        let off := handleOff hd + unitOffset t o * size
        match tx.port t p l (handleSlot hd) off size size rA (isAppend i l (handleSlot hd) off) with
        | (none, tx) => tx
        | (some a, tx) =>
          let r := readSrcs tx t p (fm.srcs t.hints)
          let dst := if d = 248 then [] else (fm.dst.map fun d => d.dest t p).getD []
          let x := if t.hints.hopd.isSome || fm.pops t.hints != [] then r.1.getD 1 0 else t.getNat dst
          r.2.issueOp t l i (.atom op (BitVec.ofNat 64 x)) (some a) dst
            ((fm.pops t.hints).head?.map fun n => (n, BitVec.ofNat 32 x))).done

/-! ### Instructions that read the launch -/

/-- A field that names no register, in the repeat that is next (R107). -/
def Thread.stepped (t : Thread) (f : BitVec 8) (st : Nat) : Nat := f.toNat + stepOf t.hints st * t.repidx

/-- An arithmetic instruction that also reads the launch (R275). -/
def aluOf (i : Instr) (ok : Thread → Bool) (f : Launch → LaneIn → LaneOut) (s : State) : Host.Outcome State Fault Refusal :=
  ((Tx.start s).eachThread fun tx t p l => laneStep tx t p l (form i t.hints) (ok t) (f l)).done

/-! ## Meanings -/

def execLdB8 (d h o : BitVec 8) (s : State) : Host.Outcome State Fault Refusal := loadWord (.ldB8 d h o) h o 1 false s
def execLdS8 (d h o : BitVec 8) (s : State) : Host.Outcome State Fault Refusal := loadWord (.ldS8 d h o) h o 1 true s
def execLdB16 (d h o : BitVec 8) (s : State) : Host.Outcome State Fault Refusal := loadWord (.ldB16 d h o) h o 2 false s
def execLdS16 (d h o : BitVec 8) (s : State) : Host.Outcome State Fault Refusal := loadWord (.ldS16 d h o) h o 2 true s
def execLdB32 (d h o : BitVec 8) (s : State) : Host.Outcome State Fault Refusal := loadWord (.ldB32 d h o) h o 4 false s
def execLdB64 (d h o : BitVec 8) (s : State) : Host.Outcome State Fault Refusal := loadWord (.ldB64 d h o) h o 8 false s
def execLdB128 (d h o : BitVec 8) (s : State) : Host.Outcome State Fault Refusal := loadWord (.ldB128 d h o) h o 16 false s

def execStB8 (d h o : BitVec 8) (s : State) : Host.Outcome State Fault Refusal := storeWord (.stB8 d h o) h o 1 s
def execStB16 (d h o : BitVec 8) (s : State) : Host.Outcome State Fault Refusal := storeWord (.stB16 d h o) h o 2 s
def execStB32 (d h o : BitVec 8) (s : State) : Host.Outcome State Fault Refusal := storeWord (.stB32 d h o) h o 4 s
def execStB64 (d h o : BitVec 8) (s : State) : Host.Outcome State Fault Refusal := storeWord (.stB64 d h o) h o 8 s
def execStB128 (d h o : BitVec 8) (s : State) : Host.Outcome State Fault Refusal := storeWord (.stB128 d h o) h o 16 s

def execLdsB32 (d h o : BitVec 8) (s : State) : Host.Outcome State Fault Refusal := scratchWord (.ldsB32 d h o) h o 4 false s
def execLdsB64 (d h o : BitVec 8) (s : State) : Host.Outcome State Fault Refusal := scratchWord (.ldsB64 d h o) h o 8 false s
def execLdsB128 (d h o : BitVec 8) (s : State) : Host.Outcome State Fault Refusal :=
  scratchWord (.ldsB128 d h o) h o 16 false s
def execStsB32 (d h o : BitVec 8) (s : State) : Host.Outcome State Fault Refusal := scratchWord (.stsB32 d h o) h o 4 true s
def execStsB64 (d h o : BitVec 8) (s : State) : Host.Outcome State Fault Refusal := scratchWord (.stsB64 d h o) h o 8 true s
def execStsB128 (d h o : BitVec 8) (s : State) : Host.Outcome State Fault Refusal :=
  scratchWord (.stsB128 d h o) h o 16 true s

def execAtomAdd (d h o : BitVec 8) (s : State) : Host.Outcome State Fault Refusal := atomWord (.atomAdd d h o) .add d h o 4 s
def execAtomMins (d h o : BitVec 8) (s : State) : Host.Outcome State Fault Refusal := atomWord (.atomMins d h o) .mins d h o 4 s
def execAtomMaxs (d h o : BitVec 8) (s : State) : Host.Outcome State Fault Refusal := atomWord (.atomMaxs d h o) .maxs d h o 4 s
def execAtomAnd (d h o : BitVec 8) (s : State) : Host.Outcome State Fault Refusal := atomWord (.atomAnd d h o) .band d h o 4 s
def execAtomOr (d h o : BitVec 8) (s : State) : Host.Outcome State Fault Refusal := atomWord (.atomOr d h o) .bor d h o 4 s
def execAtomXor (d h o : BitVec 8) (s : State) : Host.Outcome State Fault Refusal := atomWord (.atomXor d h o) .bxor d h o 4 s
def execAtomXchg (d h o : BitVec 8) (s : State) : Host.Outcome State Fault Refusal := atomWord (.atomXchg d h o) .xchg d h o 4 s
def execAtomCas (d h o : BitVec 8) (s : State) : Host.Outcome State Fault Refusal := atomWord (.atomCas d h o) .cas d h o 4 s
def execAtomFadd (d h o : BitVec 8) (s : State) : Host.Outcome State Fault Refusal := atomWord (.atomFadd d h o) .fadd d h o 4 s
def execAtomAdd64 (d h o : BitVec 8) (s : State) : Host.Outcome State Fault Refusal :=
  atomWord (.atomAdd64 d h o) .add64 d h o 8 s

/-- `HMK` (R273). -/
def execHmk (d a b : BitVec 8) (s : State) : Host.Outcome State Fault Refusal :=
  alu (.hmk d a b) always (fun r => .val (r.a % 2 ^ 12 * 2 ^ 52 + r.b % 2 ^ 52)) s

/-- `HADD` (R274). -/
def execHadd (d a b : BitVec 8) (s : State) : Host.Outcome State Fault Refusal :=
  alu (.hadd d a b) always (fun r => .val (r.a / 2 ^ 52 * 2 ^ 52 + (r.a + r.b) % 2 ^ 52)) s

/-- `HQRY` (R275): the launch's own copy of the declaration. -/
def execHqry (d a x : BitVec 8) (s : State) : Host.Outcome State Fault Refusal :=
  aluOf (.hqry d a x) (fun t => t.stepped x 3 < 4) (fun l r =>
    let b := l.decl (handleSlot r.a)
    .val (match r.t.stepped x 3 with
      | 0 => Decl.len b
      | 1 => Decl.len b - handleOff r.a
      | 2 => wnat b 4
      | _ => wnat b 5)) s

/-- The line of a prefetch comes into the L1, its home L2 or its last-level cache (R276); one whose request would be held is
dropped (assumption log 192). -/
def Tx.prefetch (tx : Tx s0) (core level : Nat) (travelling : Bool) (a : Access) : Tx s0 :=
  match a.target with
  | .peer _ => tx
  | .home addr key mode num through =>
    if tx.sys.homeHeld (dieOf core) addr mode num then tx
    else if level = 2 then tx.mod (·.fillLlc (lineOf addr))
    else if level = 1 || (travelling && !a.ro) then tx.fillL2 (lineOf addr) key mode num
    else (tx.fillL1 core (lineOf addr) key mode num through a.ro).2

/-- `PREF` (R276): the line comes into the level named, a lazy page is walked meanwhile; nothing traps beyond decode, and a
prefetch that would fault, a translation to a place without memory among them, is dropped. -/
def execPref (l h o : BitVec 8) (s : State) : Host.Outcome State Fault Refusal :=
  ((Tx.start s).eachOf fun tx t p la =>
    let i := Instr.pref l h o
    let level := t.stepped l 1
    if !(wordOk i t p && level < 3) then tx.raise t tILLOP 0
    else if !t.runs || p.aheadOf t.tid then tx.advance t la
    else
      let hd := handleOf t p h
      let off := handleOff hd + unitOffset t o * 128
      let tx := match checkAccess tx.st (portOf p la t) (handleSlot hd) off 1 1 rRd false with
        | .ok a => tx.prefetch t.core level la.travelling a
        | .walk va r m => tx.postWalk t la va r m (some (level, handleSlot hd, off))
        | .hole | .trap _ _ _ _ _ => tx
      tx.advance t la).done

end Sys2Proof.Machine
end

