-- ==== Sys2Proof/Machine/Lane.lean ====
section
/-! DEFINITION. Opcodes 0x70 to 0x7E: the cross-lane instructions (R230 to R238, R190 to R193, R18). -/

namespace Sys2Proof.Machine

variable {s0 : State}

/-! ## Members -/

/-- A member lane: its number in its half, its thread, its a and c operands. -/
structure Member where
  lane : Nat
  t : Thread
  a : Nat
  c : Nat

/-- One half of a paired seam, or a whole seam: its lanes, whether it is the upper half, its members. -/
structure Half where
  w : Nat
  upper : Bool
  members : List Member

/-- A lane's number within its half (R18). -/
def halfLane (p : Panel) (t : Thread) : Nat := p.laneOf t.tid % 64

def inUpper (p : Panel) (t : Thread) : Bool := p.laneOf t.tid ≥ 64

/-- The mask a thread reads, in bits 0 to W - 1, W of the hardware seam, 8 for a split one (R17, R230, assumption log 199). -/
def maskOf (p : Panel) (m : BitVec 8) (t : Thread) : Nat := t.getNat (t.group p m.toNat 2) % 2 ^ seamLanes p.seam

/-- The lanes of a half that hold a thread which has not exited (R16). -/
def presentLanes (s : Sys) (p : Panel) (seam : Nat) (upper : Bool) : List Nat :=
  ((s.threadsOf p.key).filter fun t => t.phase != .exited && p.seamOf t.tid == seam && inUpper p t == upper).map (halfLane p)

/-- R230 and R128 for the threads of one half whose predicate test passes: one mask, naming no present lane outside
the stitch. -/
def masksOk (s : Sys) (p : Panel) (m : BitVec 8) (all live : List Thread) (upper : Bool) : Bool :=
  match live with
  | [] => true
  | t :: _ =>
    let k := maskOf p m t
    live.all (fun u => maskOf p m u == k)
      && (presentLanes s p (p.seamOf t.tid) upper).all fun l => !k.testBit l || all.any fun u => halfLane p u == l

/-- The members of a half. -/
def membersOf (fm : Form) (p : Panel) (m : BitVec 8) (live : List Thread) : List Member :=
  live.filterMap fun t =>
    if (maskOf p m t).testBit (halfLane p t) then
      let src (k : Nat) : Nat := match (fm.srcs t.hints)[k]? with
        | some o => t.getNat (o.regs t p)
        | none => 0
      some ⟨halfLane p t, t, src 0, src 2⟩
    else none

/-- A collective: `f` gives, from the halves, the value each member writes and the flags raised (R230, R231, R185). -/
def collective (i : Instr) (m : BitVec 8) (ok : Hints → Bool) (f : List Half → (Half → Member → Nat) × BitVec 5) (s : State) :
    Host.Outcome State Fault Refusal :=
  let tx := Tx.start s
  match tx.sys.stitch with
  | [] => tx.done
  | (t0, p, l) :: rest =>
    let fm := form i t0.hints
    let all := t0 :: rest.map (·.1)
    let live := all.filter (·.runs)
    let half (u : Bool) (ts : List Thread) : List Thread := ts.filter fun t => inUpper p t == u
    if !(formOk p.regs fm t0.hints && ok t0.hints) then (tx.raiseAll tILLOP 0).done
    else if l.travelling then
      (tx.each all fun tx t => if t.runs then tx.raise t tILLCONV 0 else tx.advance t l).done
    else if !(masksOk s.sys p m (half false all) (half false live) false
        && masksOk s.sys p m (half true all) (half true live) true) then (tx.raiseAll tILLCONV 0).done
    else
      let mk (u : Bool) : Half := ⟨seamLanes p.seam, u, membersOf fm p m (half u live)⟩
      let halves := if p.paired then [mk false, mk true] else [mk false]
      let r := f halves
      let bad := halves.any fun h => h.members.any fun x => fm.poisoned x.t p
      let write (t : Thread) : Thread :=
        let vals := halves.flatMap fun h => (h.members.filter fun x => x.t.tid == t.tid).map (r.1 h)
        let t1 := match vals, fm.dst with
          | v :: _, some o =>
            let t1 := t.putNat (o.regs t p) v
            if p.aheadOf t.tid then t1.markPoison (o.regs t p) 0 bad else t1
          | _, _ => t
        if t.runs && !p.aheadOf t.tid then { t1 with fflags := t1.fflags ||| r.2 } else t1
      (tx.each all fun tx t => tx.advance (write t) l).done

/-! ## Shared operations -/

def Half.member? (h : Half) (lane : Nat) : Option Member := h.members.find? fun x => x.lane == lane

/-- The value of source lane k, or the member's own A (R232). -/
def Half.from (h : Half) (j : Member) (k : Int) : Nat :=
  if k < 0 then j.a else ((h.member? k.toNat).getD j).a

/-- All members of the seam, lower half first. -/
def everyone (hs : List Half) : List Member := hs.flatMap (·.members)

/-- One value for every member. -/
def one (v : Nat) : (Half → Member → Nat) × BitVec 5 := (fun _ _ => v, 0)

/-- One level of the tree: neighbours summed. -/
def treeLevel : List (Nat × BitVec 5) → List (Nat × BitVec 5)
  | x :: y :: rest => (let r := treeAdd x.1 y.1; (r.1, x.2 ||| y.2 ||| r.2)) :: treeLevel rest
  | l => l

/-- The pairwise tree over W lanes (R190): `k` levels. -/
def tree : Nat → List (Nat × BitVec 5) → Nat × BitVec 5
  | 0, l => l.headD (0x80000000, 0)
  | k + 1, l => tree k (treeLevel l)

/-- `RADD.f32` over one half: identity -0.0. -/
def Half.radd (h : Half) : Nat × BitVec 5 :=
  tree (Nat.log2 h.w) ((List.range h.w).map fun j => (((h.member? j).map (·.a)).getD 0x80000000, 0))

/-- `RADD.f32` (R190, R18). -/
def raddF (hs : List Half) : (Half → Member → Nat) × BitVec 5 :=
  match hs with
  | [lo, hi] =>
    let x := lo.radd
    let y := hi.radd
    let r := treeAdd x.1 y.1
    (fun _ _ => r.1, x.2 ||| y.2 ||| r.2)
  | h :: _ => (fun _ _ => h.radd.1, h.radd.2)
  | [] => one 0

/-- `RMIN.f32`, `RMAX.f32` (R191). -/
def rminmaxF (maxi : Bool) (hs : List Half) : (Half → Member → Nat) × BitVec 5 :=
  let vs := (everyone hs).map (·.a)
  let nv := flagIf (vs.any fun x => (fp32.val x).isSig) fNV
  let nums := vs.filter fun x => !(fp32.val x).isNan
  let v := if nums.isEmpty && !vs.isEmpty then fp32.nanBits
    else nums.foldl (fun acc x => (fp32.minmax maxi false acc x).1) (fp32.signBit maxi + fp32.infBits)
  (fun _ _ => v, nv)

/-- Do two values match (R193)? -/
def matches_ (otype : Nat) (x y : Nat) : Bool :=
  if otype = 2 then (fp32.val x).rel (fp32.val y) == .eq
  else if otype = 3 then (fp64.val x).rel (fp64.val y) == .eq
  else x == y

/-! ## Meanings -/

def execShfl (d a m : BitVec 8) (s : State) : Host.Outcome State Fault Refusal :=
  collective (.shfl d a m) m always (fun _ => (fun h j => h.from j j.c, 0)) s

/-- `SHFLX` (R232): mode16[6:0] x, [15:14] mode; 3 is illegal. -/
def execShflx (d a m : BitVec 8) (s : State) : Host.Outcome State Fault Refusal :=
  collective (.shflx d a m) m (fun h => bits (modeOf h) 14 2 != 3)
    (fun _ => (fun h j =>
      let mode := modeOf j.t.hints
      let x := mode % 2 ^ 7
      h.from j (match bits mode 14 2 with
        | 0 => ((j.lane ^^^ x : Nat) : Int)
        | 1 => (j.lane : Int) - x
        | _ => (j.lane : Int) + x), 0)) s

/-- `BCST` (R232): lane L where mode16[15] is set and L is a member, else the lowest member. -/
def execBcst (d a m : BitVec 8) (s : State) : Host.Outcome State Fault Refusal :=
  collective (.bcst d a m) m (fun h => (modeOf h).testBit 15 || modeOf h == 0)
    (fun _ => (fun h j =>
      let mode := modeOf j.t.hints
      let low := (leastBy (fun x => x.lane) h.members).getD j
      (if mode.testBit 15 then (h.member? (mode % 2 ^ 7)).getD low else low).a, 0)) s

/-- `VOTE` (R233, R18). -/
def execVote (d a m : BitVec 8) (s : State) : Host.Outcome State Fault Refusal :=
  collective (.vote d a m) m (fun h => modeOf h != 3)
    (fun hs => (fun _ j =>
      let xs := (everyone hs).map (·.a)
      let yes := match modeOf j.t.hints with
        | 0 => xs.all (· != 0)
        | 1 => xs.any (· != 0)
        | _ => xs.all (· == j.a)
      if yes then 1 else 0, 0)) s

def execBallot (d a m : BitVec 8) (s : State) : Host.Outcome State Fault Refusal :=
  collective (.ballot d a m) m always
    (fun _ => (fun h _ => h.members.foldl (fun n x => n + if x.a != 0 then 2 ^ x.lane else 0) 0, 0)) s

def execRaddS32 (d a m : BitVec 8) (s : State) : Host.Outcome State Fault Refusal :=
  collective (.raddS32 d a m) m always (fun hs => one (((everyone hs).map (·.a)).sum % 2 ^ 32)) s

def execRaddF32 (d a m : BitVec 8) (s : State) : Host.Outcome State Fault Refusal :=
  collective (.raddF32 d a m) m always raddF s

def execRminN32 (d a m : BitVec 8) (s : State) : Host.Outcome State Fault Refusal :=
  collective (.rminN32 d a m) m always (fun hs => one (((everyone hs).map (·.a)).foldl min 0xFFFFFFFF)) s

def execRmaxN32 (d a m : BitVec 8) (s : State) : Host.Outcome State Fault Refusal :=
  collective (.rmaxN32 d a m) m always (fun hs => one (((everyone hs).map (·.a)).foldl max 0)) s

def execRminF32 (d a m : BitVec 8) (s : State) : Host.Outcome State Fault Refusal :=
  collective (.rminF32 d a m) m always (rminmaxF false) s

def execRmaxF32 (d a m : BitVec 8) (s : State) : Host.Outcome State Fault Refusal :=
  collective (.rmaxF32 d a m) m always (rminmaxF true) s

/-- `RMINX.n32` (R192, R235): the least value and the lowest lane that holds it, counted over both halves. -/
def execRminxN32 (d a m : BitVec 8) (s : State) : Host.Outcome State Fault Refusal :=
  collective (.rminxN32 d a m) m always
    (fun hs =>
      let lanes := hs.flatMap fun h => h.members.map fun x => (x.a, x.lane + if h.upper then 64 else 0)
      one (match leastBy (fun e => e.1 * 2 ^ 8 + e.2) lanes with
        | some e => e.1 + e.2 * 2 ^ 32
        | none => 2 ^ 64 - 1)) s

/-- `SCAN.s32` (R236, R18). -/
def execScanS32 (d a m : BitVec 8) (s : State) : Host.Outcome State Fault Refusal :=
  collective (.scanS32 d a m) m always
    (fun hs => (fun h j =>
      let upTo := h.members.filter fun x => if modeOf j.t.hints = 1 then x.lane < j.lane else x.lane ≤ j.lane
      let below := if h.upper then (hs.head?.map fun lo => (lo.members.map (·.a)).sum).getD 0 else 0
      ((upTo.map (·.a)).sum + below) % 2 ^ 32, 0)) s

def execMatchLanes (d a m : BitVec 8) (s : State) : Host.Outcome State Fault Refusal :=
  collective (.matchLanes d a m) m always
    (fun _ => (fun h j => h.members.foldl
      (fun n x => n + if matches_ (otypeOf j.t.hints) j.a x.a then 2 ^ x.lane else 0) 0, 0)) s

def execLaneid (d m : BitVec 8) (s : State) : Host.Outcome State Fault Refusal :=
  collective (.laneid d m) m always
    (fun _ => (fun h j => (h.members.filter fun x => x.lane < j.lane).length + h.members.length * 2 ^ 16, 0)) s

end Sys2Proof.Machine
end

