-- ==== Sys2Proof/Machine/Engines.lean ====
section
/-! DEFINITION. What the engine words share (R299): their decode checks, tack and object operands (R289, R294), register reads,
and the pages an engine can reach (R286). -/

namespace Sys2Proof.Machine

variable {s0 : State}

/-- A word that a thread of a travelling launch raises `ILLCONV` on before its shuttles are looked at (R383). -/
def shunsTravel : Instr → Bool
  | .binc _ _ _ => true
  | _ => false

/-- An engine word for each thread of the stitch: decode checks, predicate, run-ahead, then `go` (R299, R109, R432). -/
def engineWord (i : Instr) (ok : Thread → Panel → Launch → Bool)
    (go : (s : State) → Tx s → Thread → Panel → Launch → Tx s) (s : State) : Host.Outcome State Fault Refusal :=
  ((Tx.start s).eachThread fun tx t p l =>
    if !(wordOk i t p && ok t p l) then (tx.raise t tILLOP 0, true)
    else if !t.runs then (tx.advance t l, true)
    else if p.aheadOf t.tid then (tx.suppress t l, true)
    else if l.travelling && shunsTravel i then (tx.raise t tILLCONV 0, true)
    else tx.shuttled t p l i fun tx => go s tx t p l).done

/-- No check beyond the operand form. -/
def anyThread (_ : Thread) (_ : Panel) (_ : Launch) : Bool := true

/-- Where an access lies, as a tack place. -/
def Access.loc (a : Access) : Loc :=
  match a.target with
  | .home addr key mode num _ => .mem addr key mode num
  | .peer _ => .away

/-- A scratchpad operand of `n` bytes (R255, R299): `go` is given the panel that owns the allocation. -/
def Tx.scratchArg (tx : Tx s0) (t : Thread) (p : Panel) (l : Launch) (addr n : Nat) (go : Tx s0 → Panel → Tx s0) : Tx s0 :=
  if l.travelling then tx.raise t tILLCONV 0
  else
    match tx.sys.scratchPanel p with
    | none => tx.raise t tSCRBND (lowWord addr)
    | some q =>
      match scratchTrap q.scratchLen addr n with
      | some c => tx.raise t c (lowWord addr)
      | none => go tx q

/-- A tack operand (R299): a scratchpad address or a handle; `go` is given the tack and its place. -/
def Tx.tackArg (tx : Tx s0) (t : Thread) (p : Panel) (l : Launch) (scr : Bool) (v rights : Nat)
    (go : Tx s0 → TackRef → Loc → Tx s0) : Tx s0 :=
  if scr then tx.scratchArg t p l v 8 fun tx q => go tx (.scr q.key v) (.scr q.key v)
  else
    match tx.port t p l (handleSlot v) (handleOff v) 8 8 rights false with
    | (none, tx) => tx
    | (some a, tx) => go tx (.mem l.part p.key (l.decl (handleSlot v)) (handleOff v)) a.loc

/-- The value that a tack's trap leaves (R422). -/
def objValue (scr : Bool) (v : Nat) : Word := if scr then lowWord v else lowWord (handleOff v)

/-- Room for a registration (R283 step 4, R305). -/
def tackRoom (w n b : Nat) : Bool := TackWord.arrivals w + n ≤ 32767 && TackWord.bytes w + b ≤ 2 ^ 48 - 1

/-- Change the tags of the words that bytes hold; every cached copy of their lines goes first (R290). -/
def Tx.setTags (tx : Tx s0) (addr n : Nat) (live : Bool) : Tx s0 :=
  let ws := touched addr n
  let tx := tx.each (ws.map fun w => w / 16) fun tx line => tx.dropLine line
  tx.mod fun s =>
    let rest := s.tags.filter fun w => !ws.contains w
    { s with tags := if live then ws.foldl (fun ts w => insertBy id w ts) rest else rest }

/-- The tag of a tack word set or cleared (R289). -/
def Tx.markTack (tx : Tx s0) (loc : Loc) (live : Bool) : Tx s0 :=
  match loc with
  | .mem a _ _ _ => tx.setTags a 8 live
  | .scr p a => tx.mod fun s => match s.panel? p with
    | some q =>
      let rest := q.stags.filter (· != wordIx a)
      s.setPanel { q with stags := if live then insertBy id (wordIx a) rest else rest }
    | none => s
  | _ => tx

/-- A thread has operations that have not completed, of a kind. -/
def Thread.busy (t : Thread) (f : OpKind → Bool) : Bool := t.ops.any fun o => f o.kind

/-- Operations that write memory or the scratchpad. -/
def OpKind.writes : OpKind → Bool
  | .store _ | .sts | .atom _ _ | .relw _ _ | .kvap _ | .deferred _ => true
  | _ => false

/-- Loads. -/
def OpKind.reads : OpKind → Bool
  | .load _ | .lds _ | .acqr | .landing _ _ => true
  | _ => false

/-- An `ACQR`, or what is left of one (R362). -/
def OpKind.acquires : OpKind → Bool
  | .acqr | .landing _ true => true
  | _ => false

/-! ## Objects of several words at home -/

/-- The `n` bytes of an object at its home; free at a peer (assumption log 4). -/
def State.objBytes (st : State) (loc : Loc) (n : Nat) : List Byte :=
  match loc with
  | .mem a k _ _ => (List.range (cdiv n 16)).flatMap fun i => st.homeBytes (a + 16 * i) (min 16 (n - 16 * i)) k
  | .away => (List.range n).map fun i => BitVec.ofNat 8 (Config.freeAt st.sys.nonce i)
  | _ => List.replicate n 0

def State.objWords (st : State) (loc : Loc) (n : Nat) : List Word := wordsOf (st.objBytes loc (4 * n))

/-- Write bytes from an address on at the home, byte by byte. What the device itself writes goes through to the lining, as a
shelf's or hierarchy-top's lines must (R358), and other lines may (R261, assumption log 176). -/
def Tx.homeBytesAt (tx : Tx s0) (key mode num : Nat) : List Byte → Nat → Tx s0
  | [], _ => tx
  | b :: bs, a => (tx.homeWrite a key mode num true [b]).homeBytesAt key mode num bs (a + 1)

def Tx.objWrite (tx : Tx s0) (loc : Loc) (off : Nat) (ws : List Word) : Tx s0 :=
  match loc with
  | .mem a k m n => tx.homeBytesAt k m n (bytesOfWords ws) (a + off)
  | _ => tx

/-! ## Pages that an engine reaches -/

/-- Why an engine could not reach a byte: nothing, `PGFLT` or `BUFOWNER`. A pinned memory side never faults (R286). -/
def State.reach (st : State) (part panel core : Nat) (d : List Word) (off rights : Nat) : Option Byte :=
  if Decl.peer d ≠ 0 then none
  else
    let (stack, local_) := Decl.place d off
    let va := Decl.base d + local_
    match st.sys.part? part, st.sys.extentPage part panel d (va / 65536) with
    | none, _ => some tPGFLT
    | some _, some _ => none
    | some p, none =>
      let bound (key frame : Nat) : Option Byte :=
        if key = Decl.key d ∧ p.storesCode (stack * 2 ^ 36 + frame + va % 65536) = false then none else some tBUFOWNER
      match tlbHit st.sys p core (va / 65536) rights with
      | some leaf => bound (Leaf.key leaf) (Leaf.frame leaf)
      | none =>
        match walk st p va with
        | .ok _ leaf => if Leaf.grants leaf rights then bound (Leaf.key leaf) (Leaf.frame leaf) else some tPGFLT
        | _ => some tPGFLT

/-- A pseudo-core under which the engines of a cluster keep their translations (R249). -/
def engineCore (cluster : Nat) : Nat := 288 + cluster

/-! ## Words that an acquire holds (R362, R73) -/

/-- Words of the memory, engine, parcel and stack units, and `WAIT`, which reads memory: none issues before an earlier
`ACQR` has acquired (R362). -/
def afterAcquire (i : Instr) : Bool :=
  match encode i with
  | some w => let o := w.toNat / 2 ^ 24
    (0x80 ≤ o && o < 0xA0) || (0xC0 ≤ o && o < 0xF0) || o == 0xF7
  | none => false

/-- Words on tacks and bobbins that read nothing an acquire gives, and that may end the wait. -/
def besideWait (i : Instr) : Bool :=
  match i with
  | .tkarr _ _ _ | .tkwait _ _ _ _ | .bbawait _ _ | .tkinit _ _ _ | .tkexp _ _ _ | .tkkill _ _ | .bbinit _ _ => true
  | _ => false

end Sys2Proof.Machine
end

