-- ==== Sys2Proof/Machine/TackOps.lean ====
section
/-! DEFINITION. Tack, bobbin and shuttle words (R294 to R297, R305 to R308). -/

namespace Sys2Proof.Machine

variable {s0 : State}

/-! ## Tacks (R305, R306) -/

def execTkinit (x : BitVec 1) (a b : BitVec 8) (s : State) : Host.Outcome State Fault Refusal :=
  engineWord (.tkinit x a b) anyThread (fun _ tx t p l =>
    let v := t.pair p a.toNat
    tx.tackArg t p l (x == 1) v rA fun tx _ loc =>
      if tx.tackLive loc then tx.raise t tTKMISUSE (objValue (x == 1) v)
      else
        let tx := (tx.markTack loc true).tackWrite loc (t.pair p b.toNat)
        let tx := match loc with
          | .mem addr _ _ _ => tx.tackMoved addr
          | _ => tx
        tx.advance t l) s

def execTkexp (x : BitVec 1) (a b : BitVec 8) (s : State) : Host.Outcome State Fault Refusal :=
  engineWord (.tkexp x a b) anyThread (fun _ tx t p l =>
    let v := t.pair p a.toNat
    let w := t.pair p b.toNat
    tx.tackArg t p l (x == 1) v rA fun tx ref loc =>
      if !tx.tackLive loc || TackWord.phase w || !tackRoom (tx.tackRead loc) (TackWord.arrivals w) (TackWord.bytes w) then
        tx.raise t tTKMISUSE (objValue (x == 1) v)
      else (tx.tackEvent ref (.register (TackWord.arrivals w) (TackWord.bytes w))).advance t l) s

/-- `TKARR`: the release comes first, and the arrival when it is complete. -/
def execTkarr (x : BitVec 1) (a : BitVec 8) (o : BitVec 6) (s : State) : Host.Outcome State Fault Refusal :=
  engineWord (.tkarr x a o) anyThread (fun _ tx t p l =>
    let v := t.pair p a.toNat
    tx.tackArg t p l (x == 1) v rA fun tx ref loc =>
      if !tx.tackLive loc || TackWord.arrivals (tx.tackRead loc) == 0 then tx.raise t tTKMISUSE (objValue (x == 1) v)
      else tx.hold t l (.tkarr ref o)) s

def execTkkill (x : BitVec 1) (a : BitVec 8) (s : State) : Host.Outcome State Fault Refusal :=
  engineWord (.tkkill x a) anyThread (fun _ tx t p l =>
    let v := t.pair p a.toNat
    tx.tackArg t p l (x == 1) v rA fun tx _ loc =>
      let w := tx.tackRead loc
      if !tx.tackLive loc || TackWord.arrivals w != 0 || TackWord.bytes w != 0 then
        tx.raise t tTKMISUSE (objValue (x == 1) v)
      else ((tx.markTack loc false).advance t l).endWaits loc) s

/-- `TKWAIT` at issue; it completes when the phase differs. -/
def execTkwait (d a : BitVec 8) (x ph : BitVec 1) (s : State) : Host.Outcome State Fault Refusal :=
  engineWord (.tkwait d a x ph) anyThread (fun _ tx t p l =>
    let v := t.pair p a.toNat
    tx.tackArg t p l (x == 1) v rRd fun tx ref loc =>
      if !tx.tackLive loc then tx.raise t tTKMISUSE (objValue (x == 1) v)
      else tx.issueOp t l (.tkwait d a x ph) (.tkwait ref (ph == 1)) none (if d = 248 then [] else t.group p d.toNat 2)) s

/-! ## Bobbins (R294 to R296, R307) -/

namespace Bobbin

def slotBytes (w : List Word) : Nat := wnat w 2
def maxSlots (w : List Word) : Nat := bits (wnat w 3) 16 16
def minSlots (w : List Word) : Nat := bits (wnat w 3) 0 16
def active (w : List Word) : Nat := bits (wnat w 4) 16 16
def claim (w : List Word) : Nat := wnat w 5
def write (w : List Word) : Nat := wnat w 6
def read (w : List Word) : Nat := wnat w 7
def released (w : List Word) : Nat := wnat w 8
/-- A difference of pointers, mod 2^32. -/
def diff (x y : Nat) : Nat := (x + 2 ^ 32 - y) % 2 ^ 32

/-- An image's sizes are legal (R294). -/
def sizesOk (w : List Word) : Bool :=
  slotBytes w % 128 == 0 && 128 ≤ slotBytes w && slotBytes w ≤ 2 ^ 24 && 1 ≤ maxSlots w && maxSlots w ≤ 4096
    && 1 ≤ minSlots w && minSlots w ≤ maxSlots w

/-- A running average (R295, R296). -/
def average (old sample : Nat) : Nat := (old - old / 8 + sample / 8) % 2 ^ 32

/-- The words after a `BBREL` at cycle `now` (R296); the active slots follow the new interval (assumption log 202). -/
def afterRelease (w : List Word) (now : Nat) : List Word :=
  let interval := average (wnat w 10) (diff (now % 2 ^ 32) (wnat w 11))
  let act := max (minSlots w) (min (maxSlots w) (cdiv (wnat w 9) (max interval 1) + 1))
  let n (x : Nat) : Word := BitVec.ofNat 32 x
  (((w.set 8 (n (released w + 1))).set 10 (n interval)).set 11 (n now)).set 4 (n (act * 2 ^ 16))

end Bobbin

/-- A bobbin operand (R299): a 64-byte access that needs Rd W A. -/
def Tx.bobbinArg (tx : Tx s0) (t : Thread) (p : Panel) (l : Launch) (v : Nat) (go : Tx s0 → Access → Tx s0) : Tx s0 :=
  match tx.port t p l (handleSlot v) (handleOff v) 64 64 (rRd + rW + rA) false with
  | (none, tx) => tx
  | (some a, tx) => go tx a

def execBbinit (a b : BitVec 8) (s : State) : Host.Outcome State Fault Refusal :=
  engineWord (.bbinit a b) anyThread (fun u tx t p l =>
    let v := t.pair p a.toNat
    let bad (tx : Tx u) : Tx u := tx.raise t tBBMISUSE (objValue false v)
    if l.travelling then tx.raise t tILLCONV 0
    else tx.bobbinArg t p l v fun tx acc =>
      tx.scratchArg t p l (t.pair p b.toNat) 64 fun tx q =>
        let img := (wordsOf (Mem.getBytes q.scratch (t.pair p b.toNat) 64)).take 4
        let loc := acc.loc
        let old := tx.st.objWords loc 16
        let mark (tx : Tx u) (live : Bool) : Tx u := match loc with
          | .mem addr _ _ _ => tx.setTags addr 64 live
          | _ => tx
        if Bobbin.slotBytes img = 0 then
          (if tx.tackLive loc && Bobbin.claim old == Bobbin.released old then ((mark tx false).advance t l).endWaits loc else bad tx)
        else if tx.tackLive loc || !Bobbin.sizesOk img then bad tx
        else
          let h := dnat img 0
          let d := l.decl (handleSlot h)
          if handleOff h + Bobbin.maxSlots img * Bobbin.slotBytes img > Decl.len d then tx.raise t tBUFBND (lowWord (handleOff h))
          else if Decl.lacks d (rRd + rW) then tx.raise t tBUFRIGHT (lowWord (handleOff h))
          else
            let ws := img ++ BitVec.ofNat 32 (Bobbin.minSlots img * 2 ^ 16) :: List.replicate 11 0
            ((mark tx true).objWrite loc 0 ws).advance t l) s

/-- `BBAWAIT` at issue; it completes when a slot is filled. -/
def execBbawait (d a : BitVec 8) (s : State) : Host.Outcome State Fault Refusal :=
  engineWord (.bbawait d a) anyThread (fun _ tx t p l =>
    let v := t.pair p a.toNat
    tx.bobbinArg t p l v fun tx acc =>
      if !tx.tackLive acc.loc then tx.raise t tBBMISUSE (objValue false v)
      else tx.issueOp t l (.bbawait d a) (.bbawait acc) (some acc) (t.group p d.toNat 2)) s

/-- `BBREL`; it issues once the thread's earlier loads have completed (Units.lean). -/
def execBbrel (a : BitVec 8) (s : State) : Host.Outcome State Fault Refusal :=
  engineWord (.bbrel a) anyThread (fun _ tx t p l =>
    let v := t.pair p a.toNat
    tx.bobbinArg t p l v fun tx acc =>
      let loc := acc.loc
      let w := tx.st.objWords loc 16
      if !tx.tackLive loc || Bobbin.released w == Bobbin.read w then tx.raise t tBBMISUSE (objValue false v)
      else
        let now := match loc with
          | .mem addr _ _ _ => (tx.sys.die (homeDie addr)).cyc
          | _ => 0
        (tx.objWrite loc 0 (Bobbin.afterRelease w now)).advance t l) s

/-! ## Shuttles (R297, R308) -/

/-- Panels of a yoke. -/
def Yoke.panelCount (y : Yoke) (l : Launch) : Nat := if y.overflow then l.perYoke else min l.perYoke (l.panels - y.yid * l.perYoke)

def execShcfg (e : BitVec 1) (n : BitVec 3) (p c : BitVec 2) (s : State) : Host.Outcome State Fault Refusal :=
  engineWord (.shcfg e n p c) (fun _ _ _ => e == 1 || (p == 0 && c == 0)) (fun _ tx t q l =>
    match tx.sys.yokeOf q with
    | none => tx.raise t tILLCONV 0
    | some y =>
      let sh := y.shuttles.getD n.toNat ⟨none, []⟩
      let k := y.panelCount l
      if l.travelling then tx.raise t tILLCONV 0
      else if !sh.words.isEmpty || (e == 1 && (sh.config.isSome || p.toNat ≥ k || c.toNat ≥ k)) then
        tx.raise t tSHUTTLE (n.setWidth 32)
      else
        (tx.updYoke q fun y => y.setShuttle n.toNat fun _ => ⟨if e = 1 then some (p.toNat, c.toNat) else none, []⟩).advance t l) s

end Sys2Proof.Machine
end

