-- ==== Sys2Proof/Machine/Copy.lean ====
section
/-! DEFINITION. Copy words, held commands and device-side launch at issue (R277 to R288, R292, R298 to R304). -/

namespace Sys2Proof.Machine

variable {s0 : State}

/-! ## The box (R281, R282) -/

namespace Cmd

/-- Memory and dense sides: `CPYS` reads the dense side. -/
def memHandle (c : Cmd) : Nat := if c.out then dnat c.desc 2 else dnat c.desc 0
def memSlot (c : Cmd) : Nat := handleSlot c.memHandle
def memBase (c : Cmd) : Nat := handleOff c.memHandle
def denseWord (c : Cmd) (i : Nat) : Nat := wnat c.desc ((if c.out then 0 else 2) + i)
def denseAddr (c : Cmd) : Nat := if c.out then dnat c.desc 0 else dnat c.desc 2
def tile (c : Cmd) : Nat := c.denseWord 0 % 64
/-- Where the dense side starts. -/
def start (c : Cmd) : Nat := if c.dense = 2 then c.denseWord 1 else if c.dense = 3 then 0 else c.denseAddr
def tackValid (c : Cmd) : Bool := (wnat c.desc 6).testBit 31
def tackScr (c : Cmd) : Bool := (wnat c.desc 6).testBit 30
def tackAddr (c : Cmd) : Nat := dnat c.desc 4
def bus (c : Cmd) : Nat := bits (wnat c.desc 6) 18 2
def scout (c : Cmd) : Nat := bits (wnat c.desc 6) 8 8
def pitch (c : Cmd) : Nat := bits (wnat c.desc 9) 16 16 * 16
def stride (c : Cmd) (i : Nat) : Nat := if i = 0 then c.elem else wnat c.desc (9 + i)
def patch (c : Cmd) : Bool := (wnat c.desc 14).testBit 31
def patchDim (c : Cmd) : Nat := bits (wnat c.desc 14) 28 3
def countIx (c : Cmd) : Nat := bits (wnat c.desc 14) 0 16
def firstYoke (c : Cmd) : Nat := bits (wnat c.desc 15) 16 16
def yokeCount (c : Cmd) : Nat := bits (wnat c.desc 15) 8 8

/-- Rows of the dense side, and the bytes from one to the next. -/
def rows (c : Cmd) : Nat := c.extent 1 * c.extent 2 * c.extent 3 * c.extent 4
def rowStep (c : Cmd) : Nat := if c.pitch = 0 then c.extent 0 * c.elem else c.pitch

/-- Element coordinates from its place in box order. -/
def coord (c : Cmd) (e i : Nat) : Nat :=
  match i with
  | 0 => e % c.extent 0
  | 1 => e / c.extent 0 % c.extent 1
  | 2 => e / (c.extent 0 * c.extent 1) % c.extent 2
  | 3 => e / (c.extent 0 * c.extent 1 * c.extent 2) % c.extent 3
  | _ => e / (c.extent 0 * c.extent 1 * c.extent 2 * c.extent 3)

/-- Memory-side offset of an element (R282). -/
def memOff (c : Cmd) (e : Nat) : Nat :=
  c.memBase + ((List.range 5).map fun i => c.coord e i * c.stride i).sum

/-- Dense-side address of an element (R282). -/
def denseOff (c : Cmd) (e : Nat) : Nat := c.start + e / c.extent 0 * c.rowStep + c.coord e 0 * c.elem

/-- Ends of the two sides. -/
def memEnd (c : Cmd) : Nat := c.memBase + ((List.range 5).map fun i => (c.extent i - 1) * c.stride i).sum + c.elem
def denseEnd (c : Cmd) : Nat := c.start + (c.rows - 1) * c.rowStep + c.extent 0 * c.elem

/-- Step 2 of R283 but for the tile. -/
def wellFormed (c : Cmd) : Bool :=
  let w6 := wnat c.desc 6
  let unused (i : Nat) : Bool := i < c.dims
    || (bits (wnat c.desc (7 + i / 2)) (16 * (i % 2)) 16 == 0 && (i == 0 || wnat c.desc (9 + i) == 0))
  bits w6 16 2 == 0 && w6 % 256 == 0 && c.dims ≤ 5 && bits w6 24 3 ≤ 4
    && (List.range 5).all unused
    && (c.tackValid || (wnat c.desc 4 == 0 && wnat c.desc 5 == 0))
    && (if c.out then (c.dense == 1 || c.dense == 2) && bits w6 20 2 == 0
        else bits w6 22 2 == 0 && (if c.op = 1 then c.dense == 2 else 1 ≤ c.dense))
    && (if c.op = 1 then (c.bus == 1 || c.bus == 2) && 1 ≤ c.yokeCount && c.yokeCount ≤ 16 && (!c.tackValid || c.tackScr)
        else c.bus == 0 && c.yokeCount == 0 && c.firstYoke == 0)
    && wnat c.desc 15 % 256 == 0 && bits (wnat c.desc 14) 16 12 == 0
    && (if c.patch then c.patchDim < c.dims else c.patchDim == 0)
    && (c.dense != 2 || c.denseWord 0 < 64)
    && c.total < 2 ^ 48 && (c.pitch == 0 || c.extent 0 * c.elem ≤ c.pitch)

/-- Step 3: the memory side's base and strides. -/
def aligned (c : Cmd) : Bool := c.memBase % c.elem == 0 && (List.range c.dims).all fun i => c.stride i % c.elem == 0

/-- Steps 5 and 6: the first failure. -/
def rangeTrap (c : Cmd) (l : Launch) (scratchLen : Nat) (tiles : List QWord) : Option (Byte × Word) :=
  let d := l.decl c.memSlot
  if c.memEnd > Decl.len d then some (tBUFBND, lowWord c.memBase)
  else if (c.dense == 1 && c.denseEnd > scratchLen)
      || (c.dense == 2 && c.denseEnd > TileRec.size (tiles.getD c.tile 0) * 8192) then some (tSCRBND, lowWord c.start)
  else if Decl.lacks d (if c.out then rW else rRd) then some (tBUFRIGHT, lowWord c.memBase)
  else none

end Cmd

/-! ## Queues (R277) -/

/-- A command that is saved with its switched-out panel. -/
def Cmd.saved (s : Sys) (c : Cmd) : Bool := c.stops && (s.panel? c.panel).any fun p => p.phase == .out

/-- The commands that stand in a channel's queue, in its order. -/
def Sys.queue (s : Sys) (cluster chan : Nat) : List Cmd :=
  s.cmds.filter fun c => c.cluster == cluster && c.chan == chan && !c.saved s

/-! ## Multicast targets (R285) -/

/-- Are two physical clusters on one row bus (1) or column bus (2)? -/
def onBus (bus a b : Nat) : Bool :=
  a / 36 == b / 36 && (if bus = 1 then a % 36 / 4 / 3 == b % 36 / 4 / 3 else a % 36 / 4 % 3 == b % 36 / 4 % 3)

/-- The target yokes of a `CPYM`. -/
def Sys.targets (s : Sys) (c : Cmd) : List Yoke :=
  sortBy Yoke.yid (s.yokes.filter fun y => y.launch == c.launch && y.phase == .placed
    && c.firstYoke ≤ y.yid && y.yid < c.firstYoke + c.yokeCount && onBus c.bus c.cluster y.cluster)

/-- The lowest-`%pid` panel of a yoke (R12), if it has not retired. -/
def Sys.firstPanel (s : Sys) (y : Yoke) : Option Panel :=
  (s.launch? y.launch).bind fun l => s.panels.find? fun p => p.yoke == some y.key && p.pid == (if y.overflow then l.panels else y.yid * l.perYoke)

/-- The tacks of a command with their places, checked (R283 step 4): the command's one tack, or one of every target. -/
def Tx.copyTacks (tx : Tx s0) (t : Thread) (p : Panel) (l : Launch) (c : Cmd) (bytes : Nat)
    (go : Tx s0 → List TackRef → Tx s0) : Tx s0 :=
  let bad (tx : Tx s0) : Tx s0 := tx.raise t tTKMISUSE (objValue c.tackScr c.tackAddr)
  if !c.tackValid then go tx []
  else if c.op = 1 then
    let ys := tx.sys.targets c
    let ps := ys.filterMap tx.sys.firstPanel
    if ps.length < ys.length then bad tx
    else match ps.findSome? fun q => scratchTrap q.scratchLen c.tackAddr 8 with
    | some code => tx.raise t code (lowWord c.tackAddr)
    | none =>
      let refs := ps.map fun q => TackRef.scr q.key c.tackAddr
      if ps.all fun q => tx.tackLive (.scr q.key c.tackAddr) && tackRoom (tx.tackRead (.scr q.key c.tackAddr)) 1 bytes
      then go tx refs else bad tx
  else tx.tackArg t p l c.tackScr c.tackAddr rA fun tx ref loc =>
    if tx.tackLive loc && tackRoom (tx.tackRead loc) 1 bytes then go tx [ref] else bad tx

/-- The tiles of a panel's yoke. -/
def Sys.tilesOf (s : Sys) (p : Panel) : List QWord :=
  match s.yokeOf p with
  | some y => y.tiles
  | none => []

/-- A thread of the upper half of a stitch whose active threads are more than a queue of 64 can ever hold: it stays behind, and
waits for entries of its own (assumption log 117). -/
def Sys.leftBehind (s : Sys) (p : Panel) (t : Thread) : Bool :=
  (s.stitch.filter fun x => x.1.runs).length > 64 && p.laneOf t.tid ≥ 64

/-- A copy command at issue (R300): the checks of R283, registration, entry into the channel's queue. -/
def Tx.copyIssue (tx : Tx s0) (t : Thread) (p : Panel) (l : Launch) (op chan : Nat) (held : Bool) (addr : Nat) : Tx s0 :=
  tx.scratchArg t p l addr 64 fun tx q =>
    let c : Cmd := ⟨tx.fresh, l.key, p.key, t.tid, clusterOf t.core, chan, op, wordsOf (Mem.getBytes q.scratch addr 64), held,
      false, false, 0, [], [], none, none, 0, none, t.self, false⟩
    let zero := c.total == 0
    let open_ := held || zero
    if !c.wellFormed then tx.raise t tILLOP 0
    else if c.dense == 2 && p.yoke.isNone then tx.raise t tILLCONV 0
    else if c.dense == 2 && !TileRec.live ((tx.sys.tilesOf p).getD c.tile 0) then tx.raise t tILLOP 4
    else if !open_ && !c.aligned then tx.raise t tALIGN (lowWord c.memBase)
    else
      let bytes := if open_ then 0 else c.total
      tx.copyTacks t p l c bytes fun tx tacks =>
        match (if open_ then none else c.rangeTrap l q.scratchLen (tx.sys.tilesOf p)) with
        | some (code, v) => tx.raise t code v
        | none =>
          let enter (tx : Tx s0) : Tx s0 :=
            let c := { c with tacks := tacks, registered := !open_, yokes := if op = 1 then (tx.sys.targets c).map (·.key) else [] }
            let tx := tx.tackEvents tacks (.register 1 bytes)
            (tx.take.mod fun s => { s with cmds := s.cmds ++ [c] }).advance t l
          if c.dense == 3 && (held || !zero) then
            tx.bobbinArg t p l c.denseAddr fun tx acc =>
              let w := tx.st.objWords acc.loc 16
              if tx.tackLive acc.loc && c.total ≤ Bobbin.slotBytes w then enter tx
              else tx.raise t tBBMISUSE (objValue false c.denseAddr)
          else enter tx

def execCpy (c : BitVec 3) (a : BitVec 8) (h : BitVec 1) (s : State) : Host.Outcome State Fault Refusal :=
  engineWord (.cpy c a h) anyThread (fun u tx t p l => if u.sys.leftBehind p t then tx else tx.copyIssue t p l 0 c.toNat (h == 1) (t.pair p a.toNat)) s

def execCpym (c : BitVec 3) (a : BitVec 8) (h : BitVec 1) (s : State) : Host.Outcome State Fault Refusal :=
  engineWord (.cpym c a h) anyThread (fun u tx t p l => if u.sys.leftBehind p t then tx else tx.copyIssue t p l 1 c.toNat (h == 1) (t.pair p a.toNat)) s

def execCpys (c : BitVec 3) (a : BitVec 8) (h : BitVec 1) (s : State) : Host.Outcome State Fault Refusal :=
  engineWord (.cpys c a h) anyThread (fun u tx t p l => if u.sys.leftBehind p t then tx else tx.copyIssue t p l 2 c.toNat (h == 1) (t.pair p a.toNat)) s

/-! ## Count tables and held commands (R288, R301 to R303) -/

/-- `BINC` (R301); a live tack word is left alone (R291). -/
def execBinc (d a b : BitVec 8) (s : State) : Host.Outcome State Fault Refusal :=
  engineWord (.binc d a b) anyThread (fun _ tx t p l =>
    if l.travelling then tx.raise t tILLCONV 0
    else
      match tx.sys.scratchPanel p with
      | none => tx.raise t tSCRBND 0
      | some q =>
        let peek (k : BitVec 8) : Nat := peekWord tx.sys t p k
        let x := (t.pair p d.toNat + 4 * peek a) % 2 ^ 64
        match scratchTrap q.scratchLen x 4 with
        | some c => tx.raise t c (lowWord x)
        | none =>
          if q.stags.contains (wordIx x) then tx.raise t tTACKST (lowWord (8 * wordIx x))
          else
            let r := readSrcs tx t p ((form (.binc d a b) t.hints).srcs t.hints)
            let v := Mem.getNat q.scratch x 4 + r.1.getD 2 0
            (r.2.mod fun s => s.setPanel { q with scratch := Mem.putBytes q.scratch x (leBytes 4 v) }).advance t l) s
where
  /-- The value of a source field without popping it; a second pop of one shuttle would read the word after it, which
  `BINC` takes only for its addend. -/
  peekWord (s : Sys) (t : Thread) (p : Panel) (a : BitVec 8) : Nat :=
    if a.toNat < 240 then (t.getV (physReg p.regs p.band t.rotbase a.toNat)).toNat
    else if a.toNat < 248 then
      match s.yokeOf p with
      | some y => ((y.shuttles.getD (a.toNat - 240) ⟨none, []⟩).words.headD 0).toNat
      | none => 0
    else 0

/-- Replace the extent of a command's patch dimension. -/
def Cmd.setExtent (c : Cmd) (n : Nat) : Cmd :=
  let k := 7 + c.patchDim / 2
  let sh := 16 * (c.patchDim % 2)
  let w := wnat c.desc k
  { c with desc := c.desc.set k (BitVec.ofNat 32 (w - bits w sh 16 * 2 ^ sh + n * 2 ^ sh)) }

/-- A held command of a panel on one of the named channels. -/
def Cmd.heldBy (c : Cmd) (panel : Nat) (mask : BitVec 8) : Bool := c.held && c.panel == panel && mask.getLsbD c.chan

/-- A held `MMAG` of a panel on one of the named channels. -/
def Req.heldBy (r : Req) (panel : Nat) (mask : BitVec 8) : Bool :=
  r.panel == panel && r.held.any fun h => mask.getLsbD h.1

/-- `BINP` (R302). -/
def execBinp (d m : BitVec 8) (s : State) : Host.Outcome State Fault Refusal :=
  engineWord (.binp d m) anyThread (fun _ tx t p l =>
    if l.travelling then tx.raise t tILLCONV 0
    else
      match tx.sys.scratchPanel p with
      | none => tx.raise t tSCRBND 0
      | some q =>
        let base := t.pair p d.toNat
        let cs := tx.sys.cmds.filter fun c => c.heldBy p.key m && c.patch
        let rs := tx.sys.reqs.filter fun r => r.heldBy p.key m
        let ixs := cs.map (·.countIx) ++ rs.map fun r => (r.held.map (·.2)).getD 0
        match ixs.find? fun i => (scratchTrap q.scratchLen (base + 4 * i) 4).isSome with
        | some i => tx.raise t tSCRBND (lowWord (base + 4 * i))
        | none =>
          let count (i : Nat) : Nat := Mem.getNat q.scratch (base + 4 * i) 4
          (tx.mod fun s => { s with
            cmds := s.cmds.map fun c => if c.heldBy p.key m && c.patch then c.setExtent (min (count c.countIx) 65535) else c
            reqs := s.reqs.map fun r => match r.held with
              | some h => if r.heldBy p.key m then { r with rows := min (count h.2) 64 } else r
              | none => r }).advance t l) s

/-- One held command is released (R303): it registers its bytes, or runs as zero-extent; the fault of a failure. -/
def Tx.releaseCmd (tx : Tx s0) (p : Panel) (l : Launch) (scratchLen : Nat) (k : Nat) : Option (Byte × Word) × Tx s0 :=
  match tx.sys.cmd? k with
  | none => (none, tx)
  | some c =>
    let bad := if c.total = 0 then none
      else if !c.aligned then some (tALIGN, lowWord c.memBase) else c.rangeTrap l scratchLen (tx.sys.tilesOf p)
    match bad with
    | some e => (some e, tx.mod fun s => s.setCmd { c with held := false, void := true })
    | none =>
      let tx := if c.total = 0 then tx else tx.tackEvents c.tacks (.register 0 c.total)
      (none, tx.mod fun s => s.setCmd { c with held := false, registered := c.total != 0 })

/-- `HREL` (R303), channel by channel from 0 up (assumption log 203). -/
def execHrel (m : BitVec 8) (s : State) : Host.Outcome State Fault Refusal :=
  engineWord (.hrel m) anyThread (fun u tx t p l =>
    if l.travelling then tx.raise t tILLCONV 0
    else
      let len := ((tx.sys.scratchPanel p).map (·.scratchLen)).getD 0
      let held := (List.range 8).flatMap fun ch => (tx.sys.cmds.filter fun c => c.heldBy p.key m && c.chan == ch).map (·.key)
      let r := held.foldl (fun (acc : Option (Byte × Word) × Tx u) k =>
        let x := acc.2.releaseCmd p l len k
        (acc.1.orElse fun _ => x.1, x.2)) (none, tx)
      let tx := r.2.mod fun s => { s with
        reqs := s.reqs.map fun q => match q.held with
          | some h =>
            if q.heldBy p.key m then
              { q with held := none, after := (s.queue (clusterOf q.core) h.1).map (·.key) }
            else q
          | none => q }
      match r.1 with
      | some (c, v) => tx.raise t c v
      | none => tx.advance t l) s

/-! ## `LAUNCH` (R298, R304) -/

/-- Does a code address lie within the footprint of a declaration with X? -/
def Launch.coversCode (l : Launch) (code : Nat) : Bool :=
  (List.range l.decls.length).any fun i =>
    let d := l.decl i
    Decl.valid d && Decl.hasX d && (Decl.pages d).contains (code / 65536) && Decl.base d ≤ code

/-- The bytes of a checked access at the home L2. -/
def State.accessBytes (st : State) (a : Access) (n : Nat) : List Byte := st.objBytes a.loc n

/-- A target at home whose line is poisoned (R470). -/
def Target.spoiled (s : Sys) : Target → Bool
  | .home addr _ _ _ _ => s.poisoned addr
  | .peer _ => false

/-- The L2 line of another key that an access meets goes (R264). -/
def Tx.rekeyAccess (tx : Tx s0) (a : Access) : Tx s0 :=
  match a.target with
  | .home addr key _ _ _ => tx.rekey (lineOf addr) key
  | .peer _ => tx

/-- `LAUNCH`; it issues once the thread's earlier writes have been performed (Units.lean). A record in a poisoned line ends the
launch that submits it (R470). -/
def execLaunch (a : BitVec 8) (s : State) : Host.Outcome State Fault Refusal :=
  engineWord (.launch a) anyThread (fun _ tx t p l =>
    let h := t.pair p a.toNat
    match checkAccess tx.st (portOf p l t) (handleSlot h) (handleOff h) 128 64 (rRd + rX) false with
    | .trap c v sl o w => tx.raise t c v ⟨sl, o, w⟩
    | .walk va r m => tx.postWalk t l va r m
    | .hole => tx.stop .stackHole
    | .ok _ =>
      let half (k : Nat) := tx.port t p l (handleSlot h) (handleOff h + k) 64 64 rRd false
      match half 0, half 64 with
      | (some x, _), (some y, _) =>
        let tx := tx.release t.core 0b111100#6
        let ws := wordsOf (tx.st.accessBytes x 64 ++ tx.st.accessBytes y 64)
        let tx := (tx.rekeyAccess x).rekeyAccess y
        if x.target.spoiled tx.sys || y.target.spoiled tx.sys then tx.terminate l.key 0x13
        else if !l.coversCode (dnat ws 2) then tx.raise t tBUFRIGHT (lowWord (handleOff h))
        else
          tx.take.mod fun s =>
            { s.setThread (t.held (s.nmapOf l) (.launch tx.fresh)) with
              stream := s.stream ++ [⟨tx.fresh, l.part, l.cls, ws, false⟩] }
      | (none, tx), _ => tx
      | _, (none, tx) => tx) s

end Sys2Proof.Machine
end

