-- ==== Sys2Proof/Machine/Scan.lean ====
section
/-! DEFINITION. What thimbles and box testers compute (R396 to R405, R411 to R414): reads of the lining chunk by chunk, Ex2, the
scan, the merge, result records, hierarchy walks. -/

namespace Sys2Proof.Machine

variable {s0 : State}

/-! ## Banks (R394) and the error log (R403, R404) -/

def bankOf (addr : Nat) : Nat := addr % 2 ^ 36 / 1024 % 1024
def rowOf (addr : Nat) : Nat := addr % 2 ^ 36 / 2 ^ 20

/-- A row's error, if it has one: correctable or not. -/
def Stack.errorAt (k : Stack) (bank row : Nat) : Option Bool :=
  (k.errors.find? fun e => e.1 == bank && e.2.1 == row).map (·.2.2.2)

/-- The next faster retention class (R407). -/
def fasterClass (ms : Nat) : Nat := if ms = 128 then 64 else 32

/-- A row's class in ms. -/
def Stack.classAt (k : Stack) (bank row : Nat) : Nat :=
  match k.classes.find? fun e => e.1 == bank && e.2.1 == row with
  | some e => e.2.2
  | none => 128

/-- A corrected error moves its row to the next faster class. -/
def Stack.hasten (k : Stack) (bank row : Nat) : Stack :=
  { k with classes := (bank, row, fasterClass (k.classAt bank row)) :: k.classes.filter fun e => !(e.1 == bank && e.2.1 == row) }

/-- A new entry of the error log (R404); the index it takes. -/
def Stack.logError (k : Stack) (kind part bank row : Nat) (token launch : Word) : Nat × Stack :=
  let i := k.seq % 4096
  let w0 := BitVec.ofNat 32 (2 ^ 31 + kind * 2 ^ 29 + part % 8 * 2 ^ 26 + bank % 1024 * 2 ^ 16 + row % 65536)
  (i, { k with seq := (k.seq + 1) % 2 ^ 32
               log := (i, [w0, token, launch, BitVec.ofNat 32 k.seq]) :: k.log.filter fun e => e.1 != i })

/-! ## Reads of the lining -/

/-- What a stack unit may read: the memory as it is, and as it was at the post; each 64-byte chunk comes from one of
them (R398, R405). -/
structure Chunks where
  now : List Host.Cell
  start : List Host.Cell
  sys : Sys
  key : Nat

/-- A chunk's bytes; `salt` numbers the read. -/
def Chunks.bytes (c : Chunks) (salt addr n : Nat) : List Byte :=
  let m := if c.now = c.start then c.now else if Config.freeAt c.sys.nonce salt % 2 = 0 then c.now else c.start
  match c.sys.lineKey (lineOf addr) with
  | some k => if k = c.key then Mem.getBytes m addr n
      else leBytes n (foreignLine (lineOf addr) k c.key / 2 ^ (8 * (addr % 128)))
  | none => Mem.getBytes m addr n

/-- Bytes of several chunks. -/
def Chunks.run (c : Chunks) (salt addr n : Nat) : List Byte :=
  (List.range (cdiv n 64)).flatMap fun i => c.bytes (salt * 64 + i) (addr + 64 * i) (min 64 (n - 64 * i))

/-- The package address of a byte of a shelf or hierarchy-top (R396, R397). -/
def stackAddr (s : Sys) (part panel : Nat) (d : List Word) (off : Nat) : Option Nat :=
  let (stack, local_) := Decl.place d off
  let va := Decl.base d + local_
  (s.extentPage part panel d (va / 65536)).map fun m => stack * 2 ^ 36 + m.frame + va % 65536

/-! ## Ex2 (R400) -/

def ex2Table : List Nat :=
  [0x3F800000, 0x3F85AAC3, 0x3F8B95C2, 0x3F91C3D3, 0x3F9837F0, 0x3F9EF532, 0x3FA5FED7, 0x3FAD583F,
   0x3FB504F3, 0x3FBD08A4, 0x3FC5672A, 0x3FCE248C, 0x3FD744FD, 0x3FE0CCDF, 0x3FEAC0C7, 0x3FF5257D]

def rne (x : FVal) : Nat := (fp32.round .rne false false x).1

/-- One rounding of a * b + c. -/
def fmaBits (a : Nat) (b : FVal) (c : Nat) : Nat := rne (fmaVal false (fp32.val a) b (fp32.val c)).1

/-- Ex2: the value's floor, its sixteenths and the exact rest, then three rounded steps; `n / d` is the magnitude. -/
def ex2Bits (y : FVal) : Nat :=
  match y with
  | .inf _ => 0
  | .nan _ => fp32.nanBits
  | y =>
    match fp32.val (rne y) with
    | .fin neg n d =>
      -- floor of the signed quotient
      let i : Int := if neg then -(cdiv n d : Nat) else (n / d : Nat)
      if i < -300 then 0
      else
        -- f = x - i = fn / d
        let fn : Nat := ((if neg then -(n : Int) else (n : Int)) - i * d).toNat
        let j := 16 * fn / d
        let r := FVal.fin false (16 * fn - j * d) (16 * d)
        let p := fmaBits 0x3D635847 r 0x3E75FDF0
        let p := fmaBits p r 0x3F317218
        let p := fmaBits p r 0x3F800000
        rne (((fp32.val (ex2Table.getD j 0)).mul (fp32.val p)).1.scale2 i)
    | _ => 0

/-! ## The scan and the merge (R399, R401) -/

structure Triple where
  m : Nat
  l : Nat
  acc : List Nat
  n : Nat
  nv : Bool
  deriving DecidableEq, Repr

/-- -infinity in FP32. -/
def negInf : Nat := 0xFF800000

def Triple.identity (d : Nat) : Triple := ⟨negInf, 0, List.replicate d 0, 0, false⟩

/-- Is it I, whatever its NV? -/
def Triple.isId (t : Triple) : Bool := t.m == negInf && t.l == 0 && t.acc.all (· == 0) && t.n == 0

/-- A * ca + B * cb, rounded once. -/
def mix (a ca b cb : Nat) : Nat :=
  rne (((fp32.val a).mul (fp32.val ca)).1.add false ((fp32.val b).mul (fp32.val cb)).1).1

/-- Ex2 of a difference of two FP32 values. -/
def ex2Diff (x m : Nat) : Nat := if x = m then 0x3F800000 else ex2Bits ((fp32.val x).add false (fp32.val m).negate).1

def Triple.merge (a b : Triple) : Triple :=
  if a.isId then { b with nv := a.nv || b.nv }
  else if b.isId then { a with nv := a.nv || b.nv }
  else
    let m := if (fp32.val a.m).rel (fp32.val b.m) == .lt then b.m else a.m
    let ca := ex2Diff a.m m
    let cb := ex2Diff b.m m
    ⟨m, mix a.l ca b.l cb, (a.acc.zip b.acc).map fun e => mix e.1 ca e.2 cb, a.n + b.n, a.nv || b.nv⟩

/-- One token of a scan: its score's operands and its value row. -/
def Triple.token (t : Triple) (scale : Nat) (q k v : List FVal) : Triple :=
  let terms := (q.zip k).map fun e => e.1.mul e.2
  let dot := (exactSum (q ++ k) terms).1
  let s := rne ((fp32.val scale).mul dot).1
  let sv := fp32.val s
  if sv.isNan || sv == .inf false then { t with nv := true }
  else if s = negInf then { t with n := t.n + 1 }
  else
    let up := (fp32.val t.m).rel sv == .lt
    let c := if up then ex2Diff t.m s else 0x3F800000
    let w := if up then 0x3F800000 else if (fp32.val t.m).rel sv == .eq then 0x3F800000 else ex2Diff s t.m
    { t with
      n := t.n + 1, m := if up then s else t.m
      l := rne (((fp32.val t.l).mul (fp32.val c)).1.add false (fp32.val w)).1
      acc := (t.acc.zip v).map fun e => rne (((fp32.val e.1).mul (fp32.val c)).1.add false ((fp32.val w).mul e.2).1).1 }

/-- The elements of a record (R396, R163, R164). -/
def recordVals (d : List Word) (bs : List Byte) : List FVal :=
  let n := Decl.dim d
  (List.range n).map fun i =>
    if Decl.be4 d then scaledVal 10 (bs.getD (n + i / 32) 0).toNat (bs.getD i 0).toNat
    else bf16.val (ofLeBytes [bs.getD (2 * i) 0, bs.getD (2 * i + 1) 0])

/-- Tokens of a range in one bank of stack index `sigma`, ascending. -/
def bankTokens (count sigma bank first horizon : Nat) : List Nat :=
  ((List.range (horizon / (1024 * count) + 1)).map fun u => sigma + count * (bank + 1024 * u)).filter fun t =>
    first ≤ t && t < horizon

/-- What a scan of a stack has found. -/
structure Scanned where
  tri : Triple
  stack : Stack
  corrected : Nat
  excluded : Nat
  firstLog : Nat

/-- What a unit of the lining meets that reads bytes of a row: a correctable error, or one that cannot be corrected, of the row or of
a line that is poisoned in the DRAM (R403, R470). -/
def Sys.rowFault (s : Sys) (k : Stack) (addr n : Nat) : Option Bool :=
  let lost := (List.range (lineOf (addr + n - 1) + 1 - lineOf addr)).any fun i =>
    s.poisonLines.contains (lineOf addr + i) && !(s.l2Line (lineOf addr + i)).any (·.dirty)
  if lost then some false else k.errorAt (bankOf addr) (rowOf addr)

/-- An error in one record, met once (R403): is the token lost? -/
def Scanned.meet (x : Scanned) (fault : Option Bool) (part bank row : Nat) (token launch : Word) : Bool × Scanned :=
  match fault with
  | none => (false, x)
  | some correctable =>
    let (i, st) := x.stack.logError (if correctable then 0 else 1) part bank row token launch
    let x := { x with stack := st, firstLog := if x.firstLog = 0xFFF then i else x.firstLog }
    if correctable then (false, { x with stack := x.stack.hasten bank row, corrected := x.corrected + 1 }) else (true, x)

/-- One query's parameters for a scan. -/
structure ScanArgs where
  part : Nat
  launch : Word
  panel : Nat
  shelf : List Word
  head : Nat
  scale : Nat
  first : Nat
  horizon : Nat
  q : List FVal

/-- One token of the scan of a bank. -/
def Scanned.step (a : ScanArgs) (c : Chunks) (x : Scanned) (t : Nat) : Scanned :=
  let d := a.shelf
  match stackAddr c.sys a.part a.panel d (Decl.shelfOffset d t a.head 0), stackAddr c.sys a.part a.panel d (Decl.shelfOffset d t a.head 1) with
  | some ka, some va =>
    let tok := BitVec.ofNat 32 t
    let n := Decl.dataBytes d
    let fault := c.sys.rowFault x.stack ka n
    let fault' := c.sys.rowFault x.stack va n
    let (lost, x) := x.meet fault a.part (bankOf ka) (rowOf ka) tok a.launch
    let (lost', x) := if rowOf va = rowOf ka ∧ fault' = fault then (false, x)
      else x.meet fault' a.part (bankOf va) (rowOf va) tok a.launch
    if lost || lost' then { x with excluded := x.excluded + 1 }
    else
      let k := recordVals d (c.run (2 * t) ka n)
      let v := recordVals d (c.run (2 * t + 1) va n)
      { x with tri := x.tri.token a.scale a.q k v }
  | _, _ => x

/-- The scan of one stack: banks merged in ascending order from the identity (R401). -/
def scanStack (a : ScanArgs) (c : Chunks) (sigma : Nat) (st : Stack) : Scanned :=
  let d := Decl.dim a.shelf
  (List.range 1024).foldl (fun (x : Scanned) bank =>
    let y := (bankTokens (Decl.stackCount a.shelf) sigma bank a.first a.horizon).foldl (Scanned.step a c)
      { x with tri := Triple.identity d }
    { y with tri := x.tri.merge y.tri }) ⟨Triple.identity d, st, 0, 0, 0xFFF⟩

/-- The words of a result record (R402, R403), padded with zeros to its stride. -/
def Scanned.words (x : Scanned) (d : Nat) : List Word :=
  let n (k : Nat) : Word := BitVec.ofNat 32 k
  let status := 2 ^ 31 + (if x.tri.nv then 2 ^ 30 else 0) + (if x.excluded = 0 then 0 else 2 ^ 29)
    + min x.corrected 511 * 2 ^ 20 + min x.excluded 255 * 2 ^ 12 + x.firstLog
  let ws := [n status, n x.tri.n, n x.tri.m, n x.tri.l] ++ x.tri.acc.map n
  ws ++ List.replicate (16 * cdiv (4 + d) 16 - ws.length) 0

/-! ## Box tests (R411 to R413) -/

/-- A fraction with a positive denominator. -/
structure Frac where
  n : Int
  d : Nat

def Frac.le (a b : Frac) : Bool := a.n * b.d ≤ b.n * a.d
def Frac.sub (a b : Frac) : Frac := ⟨a.n * b.d - b.n * a.d, a.d * b.d⟩
def Frac.add (a b : Frac) : Frac := ⟨a.n * b.d + b.n * a.d, a.d * b.d⟩
/-- a / b for b not 0. -/
def Frac.div (a b : Frac) : Frac := if b.n < 0 then ⟨-a.n * b.d, a.d * b.n.natAbs⟩ else ⟨a.n * b.d, a.d * b.n.natAbs⟩
def Frac.maxAbs (a b : Frac) : Frac :=
  let x : Frac := ⟨a.n.natAbs, a.d⟩
  let y : Frac := ⟨b.n.natAbs, b.d⟩
  if x.le y then y else x

def fracOf (x : FVal) : Option Frac :=
  match x with
  | .fin neg n d => some ⟨if neg then -(n : Int) else (n : Int), d⟩
  | _ => none

/-- x at most y, infinities included; false with a NaN. -/
def fvalLe (x y : FVal) : Bool := x.rel y == .lt || x.rel y == .eq

/-- A box of six values is empty (R411). -/
def boxEmpty (b : List FVal) : Bool :=
  b.any FVal.isNan || (List.range 3).any fun i => !fvalLe (b.getD i (.nan false)) (b.getD (3 + i) (.nan false))

def boxesMeet (a b : List FVal) : Bool :=
  (List.range 3).all fun i =>
    fvalLe (a.getD i (.nan false)) (b.getD (3 + i) (.nan false)) && fvalLe (b.getD i (.nan false)) (a.getD (3 + i) (.nan false))

/-- A closed interval of the parameter: an end that is absent is not bounded. -/
structure Span where
  lo : Option Frac
  hi : Option Frac

def Span.cut (s : Span) (lo hi : Option Frac) : Span :=
  ⟨match s.lo, lo with
    | some a, some b => some (if a.le b then b else a)
    | none, b => b
    | a, none => a,
   match s.hi, hi with
    | some a, some b => some (if a.le b then a else b)
    | none, b => b
    | a, none => a⟩

def Span.ok (s : Span) : Bool :=
  match s.lo, s.hi with
  | some a, some b => a.le b
  | _, _ => true

/-- The span in which one axis lies within [lo, hi] (absent: unbounded); none if nowhere. -/
def axisSpan (o dir : Frac) (lo hi : Option Frac) (s : Span) : Option Span :=
  if dir.n = 0 then
    (if lo.all (fun l => l.le o) && hi.all (fun h => o.le h) then some s else none)
  else
    let a := lo.map fun l => (l.sub o).div dir
    let b := hi.map fun h => (h.sub o).div dir
    some (if dir.n > 0 then s.cut a b else s.cut b a)

/-- The exact segment touches the box dilated by `eps` on every side. -/
def segmentTouches (o dir : List Frac) (t : Span) (box : List FVal) (eps : Frac) : Bool :=
  let r := (List.range 3).foldl (fun (acc : Option Span) i => acc.bind fun s =>
    axisSpan (o.getD i ⟨0, 1⟩) (dir.getD i ⟨0, 1⟩) ((fracOf (box.getD i (.nan false))).map fun x => x.sub eps)
      ((fracOf (box.getD (3 + i) (.nan false))).map fun x => x.add eps) s) (some t)
  match r with
  | some s => s.ok
  | none => false

/-- Does a node box survive an item (R413)? `ray` says the mode; words of the item and of the box. -/
def survives (boxMode : Bool) (item box : List Word) : Bool :=
  let iv := item.map fun w => fp32.val w.toNat
  let bv := box.map fun w => fp32.val w.toNat
  if boxEmpty bv then false
  else if boxMode then !boxEmpty (iv.take 6) && boxesMeet (iv.take 6) bv
  else if iv.any FVal.isNan || !fvalLe (iv.getD 6 (.nan false)) (iv.getD 7 (.nan false)) then false
  else
    match (iv.take 6).mapM fracOf with
    | none => Config.nearBox item box
    | some od =>
      let o := od.take 3
      let dir := od.drop 3
      let t : Span := ⟨fracOf (iv.getD 6 (.nan false)), fracOf (iv.getD 7 (.nan false))⟩
      -- a parameter range that starts at +infinity or ends at -infinity holds no finite point
      let void := iv.getD 6 (.nan false) == .inf false || iv.getD 7 (.nan false) == .inf true
      if !void && segmentTouches o dir t bv ⟨0, 1⟩ then true
      else
        let near := match bv.mapM fracOf with
          | none => true
          | some bs =>
            let m := (bs ++ o).foldl Frac.maxAbs ⟨0, 1⟩
            segmentTouches o dir t bv ⟨m.n, m.d * 65536⟩
        near && !void && Config.nearBox item box

/-! ## Walks (R412) -/

structure Walked where
  /-- nodes still open: node, next child, level -/
  open_ : List (Nat × Nat × Nat)
  /-- nodes visited, each once -/
  nodes : List Nat
  visits : Nat
  found : List DWord
  overflow : Bool
  bad : Bool

/-- One node's words. -/
def nodeWords (c : Chunks) (part panel : Nat) (top : List Word) (salt node : Nat) : List Word :=
  match stackAddr c.sys part panel top (128 * node) with
  | some a => wordsOf (c.run (4 * salt) a 128)
  | none => List.replicate 32 0

/-- A child word that does not end the item (R411): not type 3, and of an internal child an index below N, with [61:24] zero. It is
looked at whatever its box. -/
def childOk (nodes w : Nat) : Bool := w / 2 ^ 62 != 3 && (w / 2 ^ 62 != 1 || w % 2 ^ 62 < nodes)

/-- One test of the walk. -/
def Walked.step (c : Chunks) (part panel : Nat) (top : List Word) (boxMode : Bool) (item : List Word) (x : Walked) : Walked :=
  match x.open_ with
  | [] => x
  | (node, child, level) :: rest =>
    if child ≥ 4 then { x with open_ := rest }
    else
      let ws := nodeWords c part panel top (item.foldl (fun n w => n + w.toNat) (node * 8)) node
      let x := { x with open_ := (node, child + 1, level) :: rest }
      let w := dnat ws (24 + 2 * child)
      if !childOk (Decl.nodes top) w then { x with open_ := [], bad := true }
      else if !survives boxMode item ((ws.drop (6 * child)).take 6) then x
      else
        match w / 2 ^ 62 with
        | 0 => x
        | 1 =>
          let k := w % 2 ^ 24
          if level ≥ 64 ∨ x.visits ≥ 65536 then { x with open_ := [], overflow := true }
          else { x with open_ := (k, 0, level + 1) :: x.open_, visits := x.visits + 1
                        nodes := if x.nodes.contains k then x.nodes else x.nodes ++ [k] }
        | _ => { x with found := x.found ++ [BitVec.ofNat 64 (w % 2 ^ 62)] }

def walkSteps (f : Walked → Walked) : Nat → Walked → Walked
  | 0, x => x
  | n + 1, x => if x.open_.isEmpty then x else walkSteps f n (f x)

/-- The walk of one item from node 0. At most 65,536 nodes are visited, each with five turns. -/
def walkItem (c : Chunks) (part panel : Nat) (top : List Word) (boxMode : Bool) (item : List Word) : Walked :=
  walkSteps (Walked.step c part panel top boxMode item) 400000 ⟨[(0, 0, 1)], [0], 1, [], false, false⟩

/-- Two lists of entries interleaved freely, each in its order (R414). -/
def weave {α : Type} (nonce : Nat) : Nat → List α → List α → List α
  | 0, xs, ys => xs ++ ys
  | _, [], ys => ys
  | _, xs, [] => xs
  | n + 1, x :: xs, y :: ys =>
    if Config.freeAt nonce (4096 + n) % 2 = 0 then x :: weave nonce n xs (y :: ys) else y :: weave nonce n (x :: xs) ys

end Sys2Proof.Machine
end

