-- ==== Sys2Proof/Machine/StackOps.lean ====
section
/-! DEFINITION. Opcodes 0xE0 to 0xE3 at issue: `AQP`, `KVAP`, `AQST`, `TRQ` (R415 to R420). -/

namespace Sys2Proof.Machine

variable {s0 : State}

/-- `STACKERR` with its reason (R416). -/
def Tx.stackErr (tx : Tx s0) (t : Thread) (reason : Nat) : Tx s0 := tx.raise t tSTACKERR (BitVec.ofNat 32 reason)

/-- The slot checks of a shelf or hierarchy handle: empty, kind, offset, right. -/
def kindTrap (l : Launch) (h kind : Nat) (needsW : Bool) : Option (Byte × Word) :=
  let d := l.decl (handleSlot h)
  if !Decl.valid d then some (tBUFBND, lowWord (handleOff h))
  else if Decl.kind d ≠ kind then some (tSTACKERR, 1)
  else if handleOff h ≠ 0 then some (tSTACKERR, 4)
  else if Decl.lacks d (if needsW then rW else rRd) then some (tBUFRIGHT, lowWord (handleOff h))
  else none

/-- Bytes from one result record to the next (R402). -/
def resultStride (d : Nat) : Nat := 64 * cdiv (16 + 4 * d) 64

/-- The tack words of a descriptor are written 0 without a tack (R417). -/
def noTackOk (ws : List Word) : Bool := (wnat ws 6).testBit 31 || (wnat ws 4 == 0 && wnat ws 5 == 0)

/-- The tack of a descriptor (R283 step 4): it has room for one arrival and `bytes`. -/
def Tx.descTack (tx : Tx s0) (t : Thread) (p : Panel) (l : Launch) (ws : List Word) (bytes : Nat)
    (go : Tx s0 → Option TackRef → Tx s0) : Tx s0 :=
  let scr := (wnat ws 6).testBit 30
  let v := dnat ws 4
  if !(wnat ws 6).testBit 31 then go tx none
  else tx.tackArg t p l scr v rA fun tx ref loc =>
    if tx.tackLive loc && tackRoom (tx.tackRead loc) 1 bytes then go (tx.tackEvent ref (.register 1 bytes)) (some ref)
    else tx.raise t tTKMISUSE (objValue scr v)

/-- BF16 elements of a query (R158). -/
def queryVals (bs : List Byte) (d : Nat) : List (BitVec 16) :=
  (List.range d).map fun i => BitVec.ofNat 16 (ofLeBytes [bs.getD (2 * i) 0, bs.getD (2 * i + 1) 0])

/-- The checks of `AQP` that name the shelf, the head and the range (R417 step 2). -/
def aqpTrap (l : Launch) (ws : List Word) : Option (Byte × Word) :=
  let h := dnat ws 0
  let d := l.decl (handleSlot h)
  if bits (wnat ws 6) 0 22 ≠ 0 ∨ (ws.drop 10).any (· != 0) = true ∨ noTackOk ws = false then some (tILLOP, 0)
  else
    match kindTrap l h 1 false with
    | some e => some e
    | none =>
      if bits (wnat ws 6) 22 8 ≥ Decl.heads d then some (tSTACKERR, 2)
      else if wnat ws 8 > wnat ws 9 ∨ wnat ws 9 > Decl.maxTokens d then some (tSTACKERR, 3)
      else none

/-- Posts that a cluster's queue of 64 holds (R415). -/
def Sys.postsHeld (s : Sys) (cluster : Nat) : Nat :=
  let here (k panel : Nat) : Bool := k == cluster && (s.panel? panel).any fun p => p.phase != .out
  (s.queries.filter fun q => here q.cluster q.panel && !q.unposted.isEmpty).length
    + (s.sweeps.filter fun q => here q.cluster q.panel && !q.posted).length

/-- A word that posts; it issues once the queue has room for the stitch (R122, R415, Units.lean), but for a half that stays behind
(assumption log 118). -/
def postWord (i : Instr) (go : (s : State) → Tx s → Thread → Panel → Launch → Tx s) (s : State) :
    Host.Outcome State Fault Refusal :=
  engineWord i anyThread (fun s tx t p l => if s.sys.leftBehind p t then tx else go s tx t p l) s

/-- `AQP` (R417); it issues once the thread's earlier writes have been performed (Units.lean). -/
def execAqp (a : BitVec 8) (s : State) : Host.Outcome State Fault Refusal :=
  postWord (.aqp a) (fun _ tx t p l =>
    let addr := t.pair p a.toNat
    let tx := if l.travelling then tx else tx.release t.core obsS
    tx.scratchArg t p l addr 64 fun tx q =>
      let ws := wordsOf (Mem.getBytes q.scratch addr 64)
      match aqpTrap l ws with
      | some (c, v) => tx.raise t c v
      | none =>
        let d := l.decl (handleSlot (dnat ws 0))
        let n := Decl.dim d
        if addr + 64 + 2 * n > q.scratchLen then tx.raise t tSCRBND (lowWord addr)
        else
          let h := dnat ws 2
          let rd := l.decl (handleSlot h)
          let off := handleOff h
          let bytes := Decl.stackCount d * resultStride n
          let post (tx : Tx _) : Tx _ :=
            tx.descTack t p l ws bytes fun tx tack =>
              let qr : Query := ⟨tx.fresh, l.key, p.key, t.tid, l.part, clusterOf t.core, ws,
                queryVals (Mem.getBytes q.scratch (addr + 64) (2 * n)) n, d, rd, setBits 16 (Decl.mask d), [], [], tack⟩
              (tx.take.mod fun s => { s with queries := s.queries ++ [qr] }).advance t l
          if off % 64 ≠ 0 then tx.raise t tALIGN (lowWord off)
          else if off + bytes > Decl.len rd then tx.raise t tBUFBND (lowWord off)
          else if Decl.lacks rd rW then tx.raise t tBUFRIGHT (lowWord off)
          else if Decl.peer rd ≠ 0 then post tx
          else
            match checkPages tx.st (portOf p l t) rd (handleSlot h) rW (pageOffsets rd off bytes) with
            | none => post tx
            | some (.trap c v sl o w) => tx.raise t c v ⟨sl, o, w⟩
            | some (.walk va r m) => tx.postWalk t l va r m
            | some .hole => tx.stop .stackHole
            | some (.ok _) => post tx) s

/-- Offsets of the 64-byte chunks of the record at an offset (R418). -/
def chunkOffsets (d : List Word) (off : Nat) : List Nat := (List.range (Decl.recBytes d / 64)).map fun i => off + 64 * i

/-- The chunks of one record: 64 bytes each, the data and then zeros (R418). -/
def recordChunks (st : State) (pt : Port) (d : List Word) (slot off : Nat) (bs : List Byte) :
    Option (List (Access × List Byte)) :=
  let full := bs ++ List.replicate (Decl.recBytes d - bs.length) 0
  (List.range (Decl.recBytes d / 64)).mapM fun i =>
    match translate st pt d slot (off + 64 * i) 64 rW false with
    | .ok a => some (a, (full.drop (64 * i)).take 64)
    | _ => none

/-- `KVAP` at issue (R418); the owner check of a chunk fails with that chunk's offset, the key record's chunks first. -/
def execKvap (d a b : BitVec 8) (s : State) : Host.Outcome State Fault Refusal :=
  engineWord (.kvap d a b) anyThread (fun _ tx t p l =>
    if l.travelling then tx.raise t tILLCONV 0
    else
      let src := t.pair p b.toNat
      let h := t.pair p a.toNat
      let sh := l.decl (handleSlot h)
      let tok := t.pair p d.toNat % 2 ^ 32
      let head := t.pair p d.toNat / 2 ^ 32
      let n := Decl.dataBytes sh
      if src % 16 ≠ 0 then tx.raise t tALIGN (lowWord src)
      else
        match kindTrap l h 1 true with
        | some (c, v) => tx.raise t c v
        | none =>
          if head ≥ Decl.heads sh then tx.stackErr t 2
          else if tok ≥ Decl.maxTokens sh then tx.stackErr t 3
          else
            match tx.sys.scratchPanel p with
            | none => tx.raise t tSCRBND (lowWord src)
            | some q =>
              if src + 2 * n > q.scratchLen then tx.raise t tSCRBND (lowWord src)
              else
                let pt := portOf p l t
                let at_ (kv : Nat) := Decl.shelfOffset sh tok head kv
                let chunks (kv : Nat) := recordChunks tx.st pt sh (handleSlot h) (at_ kv) (Mem.getBytes q.scratch (src + kv * n) n)
                match chunks 0, chunks 1 with
                | some k, some v => tx.issueOp t l (.kvap d a b) (.kvap (k ++ v)) none []
                | _, _ =>
                  match checkPages tx.st pt sh (handleSlot h) rW (chunkOffsets sh (at_ 0) ++ chunkOffsets sh (at_ 1)) with
                  | some (.trap c v sl o w) => tx.raise t c v ⟨sl, o, w⟩
                  | some (.walk va r m) => tx.postWalk t l va r m
                  | _ => tx.stop .stackHole) s

/-- `AQST` at issue (R419). -/
def execAqst (d a : BitVec 8) (k : BitVec 4) (s : State) : Host.Outcome State Fault Refusal :=
  ((Tx.start s).eachThread fun tx t p l =>
    if !wordOk (.aqst d a k) t p then (tx.raise t tILLOP 0, true)
    else if !t.runs then (tx.advance t l, true)
    else if p.aheadOf t.tid then (tx.suppress t l, true)
    else
      tx.shuttled t p l (.aqst d a k) fun tx =>
        if !((tx.sys.part? l.part).any fun q => q.owns k.toNat) then tx.stackErr t 5
        else
          let r := readSrcs tx t p ((form (.aqst d a k) t.hints).srcs t.hints)
          r.2.issueOp t l (.aqst d a k) (.aqst k.toNat (r.1.getD 0 0 % 4096)) none (t.group p d.toNat 4)).done

/-- Items of a sweep, eight words each (R420). -/
def sweepItems (m : List Host.Cell) (at_ n : Nat) : List (List Word) :=
  (List.range n).map fun i => wordsOf (Mem.getBytes m (at_ + 32 * i) 32)

/-- `TRQ` (R420); it issues once the thread's earlier writes have been performed (Units.lean). -/
def execTrq (a : BitVec 8) (s : State) : Host.Outcome State Fault Refusal :=
  postWord (.trq a) (fun _ tx t p l =>
    let addr := t.pair p a.toNat
    let tx := if l.travelling then tx else tx.release t.core obsS
    tx.scratchArg t p l addr 64 fun tx q =>
      let ws := wordsOf (Mem.getBytes q.scratch addr 64)
      let n := bits (wnat ws 6) 23 6 + 1
      let items := sweepItems q.scratch (addr + 64) n
      let boxes := (wnat ws 6).testBit 29
      let boxPad := !boxes || items.all fun it => wnat it 6 == 0 && wnat it 7 == 0
      if bits (wnat ws 6) 0 23 ≠ 0 ∨ (ws.drop 7).any (· != 0) = true ∨ noTackOk ws = false then tx.raise t tILLOP 0
      else
        match kindTrap l (dnat ws 0) 2 false with
        | some (c, v) => tx.raise t c v
        | none =>
          if addr + 64 + 32 * n > q.scratchLen then tx.raise t tSCRBND (lowWord addr)
          else if !boxPad then tx.raise t tILLOP 0
          else
            tx.bobbinArg t p l (dnat ws 2) fun tx acc =>
              let bob := tx.st.objWords acc.loc 16
              if !tx.tackLive acc.loc || Bobbin.slotBytes bob < 32 then tx.raise t tBBMISUSE (objValue false (dnat ws 2))
              else
                tx.descTack t p l ws 0 fun tx tack =>
                  let sw : Sweep := ⟨tx.fresh, l.key, p.key, t.tid, l.part, clusterOf t.core, ws, items,
                    l.decl (handleSlot (dnat ws 0)), l.decl (handleSlot (dnat ws 2)), false, [], List.range n, [], none,
                    false, false, tack⟩
                  (tx.take.mod fun s => { s with sweeps := s.sweeps ++ [sw] }).advance t l) s

end Sys2Proof.Machine
end

