-- ==== Sys2Proof/Machine/Tiles.lean ====
section
/-! DEFINITION. Tiles and what the matrix engine computes from them: records (R310, R311), elements (R312, R172 to R174), pairs
(R313), the two stages (R314, R315), passes (R187 to R189, R331, R332), raster mode (R322, R323), transfers (R328 to R330,
R334). -/

namespace Sys2Proof.Machine

/-! ## Records (R310, R311) -/

namespace TileRec

def pitch (q : QWord) : Nat :=
  if role q = 2 then (if format q = 0 ∨ format q = 25 then 512 else 256)
  else match format q with
    | 6 | 7 | 11 | 12 | 22 | 24 => 192
    | 25 => 16
    | _ => 128

/-- Bits of a stored element or accumulator. -/
def width (q : QWord) : Nat :=
  if role q = 2 then (if format q = 0 ∨ format q = 25 then 64 else 32) else fmtBits (format q)

def rowLen (q : QWord) : Nat := pitch q * 8 / width q

def blocked (q : QWord) : Bool := role q != 2 && fmtBlock (format q)

def escaped (q : QWord) : Bool := role q != 2 && format q == 14

/-- Scale bytes of one row. -/
def scaleRow (q : QWord) : Nat := if blocked q then rowLen q / blockLen q else 0

/-- Byte of the region where the tile starts. -/
def origin (q : QWord) : Nat := base q * 8192

/-- The areas of a tile: first byte and length. -/
def areas (q : QWord) : List (Nat × Nat) :=
  (0, rows q * pitch q) :: ((if blocked q then [(scaleOff q, rows q * scaleRow q)] else [])
    ++ (if escaped q then [(sideOff q, 8200), (maskOff q, 8)] else []))

/-- Field rules of R310 and R311. -/
def fieldsOk (q : QWord) : Bool :=
  let n := q.toNat
  bits n 32 10 == 0 && bits n 64 4 == 0 && bits n 96 32 == 0 && format q ≤ 25 && cols q ≤ rowLen q
    && (role q != 2 || format q == 0 || format q == 1 || format q == 16 || format q == 25)
    && (blocked q || scaleOff q == 0) && (escaped q || (sideOff q == 0 && maskOff q == 0))

def apart : List (Nat × Nat) → Bool
  | [] => true
  | a :: rest => (rest.all fun b => a.1 + a.2 ≤ b.1 || b.1 + b.2 ≤ a.1) && apart rest

/-- Every area lies within the size, and no two overlap. -/
def areasOk (q : QWord) : Bool := (areas q).all (fun a => a.1 + a.2 ≤ size q * 8192) && apart (areas q)

/-- The units of two records overlap. -/
def overlaps (a b : QWord) : Bool := size b != 0 && base a < base b + size b && base b < base a + size a

/-- The place of a record in its region: within it, apart from the others. -/
def placeOk (q : QWord) (units : Nat) (others : List QWord) : Bool :=
  base q + size q ≤ units && others.all fun o => !overlaps q o

/-- The first reason of R325 for which an image is refused as tile `n` (assumption log 204); a spare record of the number itself is
none of the others (assumption log 205). -/
def refuse (q : QWord) (units n : Nat) (tiles : List QWord) : Option Nat :=
  if size q = 0 ∨ role q = 3 ∨ !fieldsOk q then some 1
  else if !areasOk q then some 2
  else if !placeOk q units ((List.range 64).filterMap fun k => if k = n then none else tiles[k]?) then some 3
  else none

end TileRec

/-! ## Elements (R312) -/

/-- The code that stands for zero (R330). -/
def zeroCode (fmt : Nat) : Nat := if fmt = 22 ∨ fmt = 24 then 0x10 else if fmt = 23 then 0x40 else 0

/-- The zero code of a tile's element or entry. -/
def TileRec.zero (q : QWord) : Nat := if TileRec.role q = 2 then 0 else zeroCode (TileRec.format q)

/-- The stored bits of position k of row r. -/
def rawAt (m : List Host.Cell) (q : QWord) (r k : Nat) : Nat :=
  let w := TileRec.width q
  Mem.getNat m (TileRec.origin q + r * TileRec.pitch q + w * k / 8) 9 / 2 ^ (w * k % 8) % 2 ^ w

/-- Write them. -/
def rawPut (m : List Host.Cell) (q : QWord) (r k v : Nat) : List Host.Cell :=
  let w := TileRec.width q
  let a := TileRec.origin q + r * TileRec.pitch q + w * k / 8
  let sh := w * k % 8
  let n := cdiv (sh + w) 8
  let old := Mem.getNat m a n
  Mem.putBytes m a (leBytes n (old - bits old sh w * 2 ^ sh + v % 2 ^ w * 2 ^ sh))

def scaleAt (m : List Host.Cell) (q : QWord) (r j : Nat) : Nat :=
  (Mem.get m (TileRec.origin q + TileRec.scaleOff q + r * TileRec.scaleRow q + j)).toNat

def scalePut (m : List Host.Cell) (q : QWord) (r j v : Nat) : List Host.Cell :=
  Mem.put m (TileRec.origin q + TileRec.scaleOff q + r * TileRec.scaleRow q + j) (BitVec.ofNat 8 v)

/-- The entries of a side list that are read (R173, R174): key and value, while the keys rise. -/
def sideEntries (m : List Host.Cell) (at_ : Nat) : Nat → Nat → List (Nat × Nat)
  | 0, _ => []
  | n + 1, lo =>
    let key := Mem.getNat m at_ 2 * 65536 + Mem.getNat m (at_ + 2) 2
    if key < lo then [] else (key, Mem.getNat m (at_ + 4) 2) :: sideEntries m (at_ + 8) n (key + 1)

/-- Entries that a side list's header counts (R173); one whose reserved bits are not 0 is rejected, with no entry read (R5,
assumption log 182). -/
def sideCount (m : List Host.Cell) (a : Nat) : Nat := if Mem.getNat m (a + 2) 6 = 0 then min (Mem.getNat m a 2) 1024 else 0

/-- The value of an escape, if an entry names it (R174). -/
def escapeAt (m : List Host.Cell) (q : QWord) (r k : Nat) : Option FVal :=
  let a := TileRec.origin q + TileRec.sideOff q
  ((sideEntries m (a + 8) (sideCount m a) 0).find? fun e => e.1 == r * 65536 + k).map fun e => bf16.val e.2

/-- Is code 8 of row r an escape (R172)? -/
def flagged (m : List Host.Cell) (q : QWord) (r : Nat) : Bool :=
  TileRec.escaped q && (Mem.getNat m (TileRec.origin q + TileRec.maskOff q) 8).testBit r

/-- An element as the engine sees it: its value, its code and the block's log shift (for log products), whether an
escape missed, flags raised so far. -/
structure El where
  v : FVal
  code : Nat
  shift : Int
  miss : Bool
  fl : BitVec 5

def El.zero (fmt : Nat) : El := ⟨.fin false 0 1, zeroCode fmt, 0, false, 0⟩

/-- An element from its format, code, scale and escape. -/
def elOf (fmt code scale : Nat) (esc : Option (Option FVal)) : El :=
  match esc with
  | some (some v) => ⟨v, code, 0, false, 0⟩
  | some none => ⟨.fin false 0 1, code, 0, true, 0⟩
  | none =>
    if fmtBlock fmt then ⟨scaledVal fmt scale code, code, (scale : Int) - 127, false, 0⟩ else ⟨elemVal fmt code, code, 0, false, 0⟩

/-- Element (r, k) of an A or B tile. -/
def elAt (m : List Host.Cell) (q : QWord) (r k : Nat) : El :=
  let fmt := TileRec.format q
  if r ≥ TileRec.rows q ∨ k ≥ TileRec.cols q then El.zero fmt
  else
    let c := rawAt m q r k
    elOf fmt c (if fmtBlock fmt then scaleAt m q r (k / TileRec.blockLen q) else 0)
      (if flagged m q r && c == 8 then some (escapeAt m q r k) else none)

/-- Position k of a gathered row (R332): its bytes, then its scales; lane `r` is its row for escapes, and an entry of x's side list
matches it whatever rows and columns x's record has (assumption log 183). -/
def elGathered (m : List Host.Cell) (q : QWord) (row : List Byte) (r k : Nat) : El :=
  let fmt := TileRec.format q
  let w := TileRec.width q
  let c := ofLeBytes row / 2 ^ (w * k) % 2 ^ w
  elOf fmt c (row.getD (TileRec.pitch q + k / TileRec.blockLen q) 0).toNat
    (if flagged m q r && c == 8 then some (escapeAt m q r k) else none)

/-- The value of an entry of any tile (R334): an accumulator's codes name its values. -/
def valueAt (m : List Host.Cell) (q : QWord) (r k : Nat) : El :=
  if TileRec.role q ≠ 2 then elAt m q r k
  else if r ≥ TileRec.rows q ∨ k ≥ TileRec.cols q then El.zero 0
  else
    let c := rawAt m q r k
    let v := match TileRec.format q with
      | 0 => fp64.val c
      | 1 => fp32.val c
      | 16 => .ofInt (sint 32 c)
      | _ => match FVal.ofInt (sint 64 c) with
        | .fin s n _ => .fin s n 65536
        | v => v
    ⟨v, c, 0, false, 0⟩

/-! ## Pairs (R313) -/

def class8 (f : Nat) : Bool := f == 4 || f == 5 || f == 9 || f == 10 || f == 15 || f == 20 || f == 16 || f == 17
def class4 (f : Nat) : Bool := (6 ≤ f && f ≤ 8) || (11 ≤ f && f ≤ 14) || f == 18
def isInt8 (f : Nat) : Bool := f == 16 || f == 17
def isL6 (f : Nat) : Bool := f == 22 || f == 24
def is16 (f : Nat) : Bool := f == 2 || f == 3 || f == 21

/-- K and the accumulator's code of a pair of effective formats. -/
def pairOf (a b : Nat) : Option (Nat × Nat) :=
  if a = 0 ∧ b = 0 then some (16, 0)
  else if a = 1 ∧ b = 1 then some (32, 1)
  else if a = 19 ∧ b = 19 then some (64, 16)
  else if (is16 a && (is16 b || b == 19)) || (is16 b && (is16 a || a == 19)) then some (64, 1)
  else if class8 a && class8 b then some (128, if isInt8 a && isInt8 b then 16 else 1)
  else if class4 a && class4 b then some (256, if a = 18 ∧ b = 18 then 16 else 1)
  else if class8 a && class4 b then some (128, if isInt8 a ∧ b = 18 then 16 else 1)
  else if class4 a && class8 b then some (128, if a = 18 ∧ isInt8 b then 16 else 1)
  else if (a == 23 && (b == 23 || isL6 b)) || (b == 23 && isL6 a) then some (128, 1)
  else if isL6 a && isL6 b then some (256, 1)
  else none

/-! ## The pre-operator stage (R314) -/

namespace PreCfg

def transpose (w : Nat) : Bool := w.testBit 31
def broadcast (w : Nat) : Bool := w.testBit 30
def target (w : Nat) : Nat := bits w 25 5
def part (w : Nat) : Nat := bits w 23 2

/-- A slot word is legal (R314, reason 0x06). -/
def ok (w : Nat) : Bool := w % 2 ^ 23 == 0 && (target w == 31 && part w == 0 || target w == 2 || target w == 3)

/-- The effective format, if the stage accepts the source. -/
def effective (w : Nat) (q : QWord) : Option Nat :=
  let f := TileRec.format q
  let e := if target w = 31 then f else target w
  let conv := target w == 31 || (fmtBits f ≤ 8 && 64 * part w < TileRec.rowLen q)
  if conv && (!transpose w || e == 2 || e == 3 || e == 19 || e == 21) then some e else none

/-- One conversion of the stage. -/
def convert (w : Nat) (e : El) : El :=
  if target w = 31 then e
  else
    let f := if target w = 2 then fp16 else bf16
    let r := f.round .rne false false e.v
    ⟨f.val r.1, r.1, 0, e.miss, r.2⟩

/-- The stage over a stored operand. -/
def apply (w : Nat) (get : Nat → Nat → El) (r k : Nat) : El :=
  let r := if broadcast w then 0 else r
  let at_ (r k : Nat) : El := convert w (get r (if target w = 31 then k else 64 * part w + k))
  if transpose w then at_ k r else at_ r k

end PreCfg

/-! ## Sums (R169, R187 to R189) -/

def logFmt (f : Nat) : Option LFmt := if isL6 f then some l6 else if f = 23 then some l8 else none

/-- One product of a pass. -/
def productOf (fa fb : Nat) (a b : El) : FVal × Bool :=
  match logFmt fa, logFmt fb with
  | some la, some lb =>
    if a.v.isNan || b.v.isNan then (.nan false, false)
    else
      let q : Nat := max la.q lb.q
      (logMul la lb a.code b.code ((q : Int) * (a.shift + b.shift)), false)
  | _, _ => a.v.mul b.v

/-- The integer that a value is. -/
def intVal : FVal → Int
  | .fin s n d => if s then -(n / d : Nat) else (n / d : Nat)
  | _ => 0

/-- One rounding of running value and products (R187, R188). -/
def groupSum (f : FFmt) (fa fb : Nat) (acc : Nat) (es : List (El × El)) : Nat × BitVec 5 :=
  sumRound f (f.val acc :: es.flatMap fun e => [e.1.v, e.2.v])
    ((f.val acc, false) :: es.map fun e => productOf fa fb e.1 e.2)

/-- Groups of a list. -/
def chunks {α : Type} (n : Nat) : Nat → List α → List (List α)
  | 0, _ => []
  | k + 1, l => l.take n :: chunks n k (l.drop n)

/-- One entry of a pass: the accumulator's bits before and after, and flags. -/
def passEntry (fa fb acc init : Nat) (es : List (El × El)) : Nat × BitVec 5 :=
  if acc = 16 then
    (clampS 32 (sint 32 init + (es.map fun e => intVal e.1.v * intVal e.2.v).sum), 0)
  else if acc = 0 then
    (chunks 4 4 es).foldl (fun (x : Nat × BitVec 5) g => let y := groupSum fp64 fa fb x.1 g; (y.1, x.2 ||| y.2)) (init, 0)
  else if fa = 1 then
    (chunks 8 4 es).foldl (fun (x : Nat × BitVec 5) g => let y := groupSum fp32 fa fb x.1 g; (y.1, x.2 ||| y.2)) (init, 0)
  else groupSum fp32 fa fb init es

/-- The zero that a pass starts from under zc (R331). -/
def accZero (acc : Nat) : Nat := if acc = 0 then 2 ^ 63 else if acc = 1 then 2 ^ 31 else 0

/-! ## What a request does -/

/-- The outcome of a request: the region, flags, whether an escape missed, and the register value of each thread (by
`%tid`). -/
structure Ran where
  region : List Host.Cell
  fl : BitVec 5
  miss : Bool
  regs : List (Nat × Nat)

/-- Regions that a read may see for one element (R318): the present one, or one that a request of another seam is about
to leave. -/
structure View where
  now : List Host.Cell
  later : List (List Host.Cell)
  nonce : Nat

/-- The region seen at element (r, k). -/
def View.at (v : View) (r k : Nat) : List Host.Cell :=
  let l := v.now :: v.later
  if v.later.isEmpty then v.now else l.getD (Config.freeAt v.nonce (r * 256 + k) % l.length) v.now

/-- Fold over the entries of `rows` by `cols`. -/
def overEntries (rows cols : Nat) (r0 : Ran) (f : Ran → Nat → Nat → Ran) : Ran :=
  (List.range rows).foldl (fun acc r => (List.range cols).foldl (fun acc c => f acc r c) acc) r0

/-- The elements of one entry: row r of A with row n of B. -/
def entryEls (k : Nat) (a b : Nat → Nat → El) (r n : Nat) : List (El × El) := (List.range k).map fun i => (a r i, b n i)

/-- Store a pass entry. -/
def Ran.entry (x : Ran) (z : QWord) (r n fa fb acc init : Nat) (es : List (El × El)) : Ran :=
  let y := passEntry fa fb acc init es
  { x with region := rawPut x.region z r n y.1, miss := x.miss || es.any fun e => e.1.miss || e.2.miss
           fl := es.foldl (fun f e => f ||| e.1.fl ||| e.2.fl) (x.fl ||| y.2) }

/-- `MMA` (R331). -/
def runMma (v : View) (q : Req) (pre : QWord) (zc : Bool) : Ran :=
  let wa := bits pre.toNat 0 32
  let wb := bits pre.toNat 32 32
  let r0 : Ran := ⟨v.now, 0, false, []⟩
  match PreCfg.effective wa q.x, PreCfg.effective wb q.y with
  | some fa, some fb =>
    match pairOf fa fb with
    | some (k, acc) =>
      let a := PreCfg.apply wa fun r i => elAt (v.at r i) q.x r i
      let b := PreCfg.apply wb fun r i => elAt (v.at r i) q.y r i
      overEntries (TileRec.rows q.z) (TileRec.cols q.z) r0 fun x r n =>
        x.entry q.z r n fa fb acc (if zc then accZero acc else rawAt x.region q.z r n) (entryEls k a b r n)
    | none => r0
  | _, _ => r0

/-- Lanes in ascending order with a row, below the count (R332). -/
def Req.usedLanes (q : Req) : List LaneData := (sortBy LaneData.lane q.lanes).filter fun d => d.row.isSome && d.lane < q.rows

/-- `MMAG` (R332). -/
def runMmag (v : View) (q : Req) (pre : QWord) (zc : Bool) : Ran :=
  let wa := bits pre.toNat 0 32
  let wb := bits pre.toNat 32 32
  let r0 : Ran := ⟨v.now, 0, false, []⟩
  match PreCfg.effective wa q.x, PreCfg.effective wb q.y with
  | some fa, some fb =>
    match pairOf fa fb with
    | some (k, acc) =>
      let used := q.usedLanes
      let stored (r i : Nat) : El := match used.find? fun d => d.lane == r with
        | some d => elGathered v.now q.x (d.row.getD []) r i
        | none => El.zero (TileRec.format q.x)
      let a := PreCfg.apply wa stored
      let b := PreCfg.apply wb fun r i => elAt (v.at r i) q.y r i
      let live := used.filter fun d => d.scatter < TileRec.rows q.z
      let cleared := if zc then
          live.foldl (fun (x : Ran) d => (List.range (TileRec.cols q.z)).foldl
            (fun x n => { x with region := rawPut x.region q.z d.scatter n (accZero acc) }) x) r0
        else r0
      live.foldl (fun x d => (List.range (TileRec.cols q.z)).foldl (fun x n =>
        x.entry q.z d.scatter n fa fb acc (rawAt x.region q.z d.scatter n) (entryEls k a b d.lane n)) x) cleared
    | none => r0
  | _, _ => r0

/-! ### Raster mode (R322, R323) -/

/-- The FX32 row r of an operand. -/
def fxRow (v : View) (q : QWord) (r : Nat) : List Int :=
  (List.range 4).map fun k =>
    if r ≥ TileRec.rows q ∨ k ≥ TileRec.cols q then 0 else sint 32 (rawAt (v.at r k) q r k)

def dotInt (a b : List Int) : Int := ((a.zip b).map fun e => e.1 * e.2).sum

/-- The sum of an entry in units of 2^-16. -/
def rastSum (a b : List Int) : Int := max (-(2 ^ 63 : Nat)) (min ((2 ^ 63 : Nat) - 1) (dotInt a b))

def topLeft (e : List Int) : Bool := e.getD 0 0 > 0 || (e.getD 0 0 == 0 && e.getD 1 0 > 0)

/-- A quotient rounded to FP32 with RNE. -/
def fpQuot (n : Int) (d : Nat) : Nat × BitVec 5 := fp32.round .rne false false (.fin (decide (n < 0)) n.natAbs d)

/-- The sums of triangle i at a sample. -/
structure Sums where
  e : List Int
  z : Int

def Sums.total (s : Sums) : Int := s.e.sum

def Sums.covered (s : Sums) (edges : List (List Int)) (tlb : Bool) : Bool :=
  s.total > 0 && (s.e.zip edges).all fun x => if tlb && !topLeft x.2 then x.1 ≥ 1 else x.1 ≥ 0

/-- The extracted entry `(4i + k, j)`. -/
def Sums.extract (s : Sums) (cov : Bool) (k : Nat) : Nat × BitVec 5 :=
  match k with
  | 0 =>
    let d := fpQuot s.z 65536
    ((if cov then 2 ^ 32 else 0) + d.1, d.2)
  | 1 =>
    if s.total ≤ 0 then (0, 0)
    else
      let b0 := fpQuot (s.e.getD 0 0) s.total.toNat
      let b1 := fpQuot (s.e.getD 1 0) s.total.toNat
      (b0.1 + b1.1 * 2 ^ 32, b0.2 ||| b1.2)
  | _ => (0, 0)

/-- `RAST` (R333). -/
def runRast (v : View) (q : Req) (tlb extract : Bool) : Ran :=
  let a := (List.range 64).map (fxRow v q.x)
  let b := (List.range 64).map (fxRow v q.y)
  let sum (r j : Nat) : Int := rastSum (a.getD r []) (b.getD j [])
  overEntries (TileRec.rows q.z) (TileRec.cols q.z) ⟨v.now, 0, false, []⟩ fun x r j =>
    if !extract then { x with region := rawPut x.region q.z r j (wrap 64 (sum r j)) }
    else
      let i := r / 4
      let edges := (List.range 3).map fun e => a.getD (4 * i + e) []
      let sums (j : Nat) : Sums := ⟨(List.range 3).map fun e => sum (4 * i + e) j, sum (4 * i + 3) j⟩
      let y := if r % 4 = 2 ∧ j = 0 then (bitsOf 64 fun j => (sums j).covered edges tlb, 0)
        else (sums j).extract ((sums j).covered edges tlb) (r % 4)
      { x with region := rawPut x.region q.z r j y.1, fl := x.fl ||| y.2 }

/-! ### Transfers -/

/-- A value as `TLD` gives it to registers (R328): bits, escape missed, flags. -/
def toReg (v : View) (q : QWord) (r k : Nat) : Nat × Bool × BitVec 5 :=
  let out := r ≥ TileRec.rows q ∨ k ≥ TileRec.cols q
  let raw := if out then 0 else rawAt (v.at r k) q r k
  let fmt := TileRec.format q
  if TileRec.role q = 2 ∨ fmt = 0 ∨ fmt = 25 then (raw, false, 0)
  else if 16 ≤ fmt ∧ fmt ≤ 19 then (if out then 0 else wrap 32 (intVal (elemVal fmt raw)), false, 0)
  else
    let e := elAt (v.at r k) q r k
    let x := fp32.round .rne false false e.v
    (x.1, e.miss, x.2)

/-- `TLD`: `n` values for each lane from row + lane, column col (R328). -/
def runTld (v : View) (q : Req) (row col n : Nat) : Ran :=
  let w := 32 * TileRec.valueRegs q.x
  q.lanes.foldl (fun (x : Ran) d =>
    if row + d.lane ≥ TileRec.rows q.x then x
    else
      let vs := (List.range n).map fun e => toReg v q.x (row + d.lane) (col + e)
      { x with regs := (d.tid, vs.foldr (fun e acc => e.1 + acc * 2 ^ w) 0) :: x.regs
               miss := x.miss || vs.any (·.2.1), fl := vs.foldl (fun f e => f ||| e.2.2) x.fl })
    ⟨v.now, 0, false, []⟩

/-- A register value as `TST` stores it (R329). -/
def fromReg (q : QWord) (mode : RMode) (x : Nat) : Nat × BitVec 5 :=
  let fmt := TileRec.format q
  if TileRec.role q = 2 ∨ fmt = 0 ∨ fmt = 25 then (x, 0)
  else if 16 ≤ fmt ∧ fmt ≤ 19 then
    let r := convInt .rne (intRange fmt).1 (intRange fmt).2 1 (.ofInt (sint 32 x))
    (wrap (fmtBits fmt) r.1, r.2)
  else elemConv fmt mode false (fp32.val x)

/-- The mode of an element at a column: SRD where the output is dithered (R178). -/
def outMode (dithered : Bool) (phi col : Nat) (mode : RMode) : RMode :=
  if dithered then .srd (ditherD (col % 32 + phi)) else mode

/-- `TST` (R329). -/
def runTst (v : View) (q : Req) (row col n : Nat) (rmode : Nat) (dith : Bool) (phi : Nat) : Ran :=
  let w := TileRec.valueRegs q.x
  q.lanes.foldl (fun (x : Ran) d =>
    (List.range n).foldl (fun (x : Ran) e =>
      let r := row + d.lane
      let k := col + e
      if r ≥ TileRec.rows q.x ∨ k ≥ TileRec.cols q.x then x
      else
        let val := if w = 2 then (d.vals.getD (2 * e) 0).toNat + (d.vals.getD (2 * e + 1) 0).toNat * 2 ^ 32
          else (d.vals.getD e 0).toNat
        let y := fromReg q.x (outMode dith phi k (RMode.ofCode d.rnd.toNat rmode)) val
        { x with region := rawPut x.region q.x r k y.1, fl := x.fl ||| y.2 }) x)
    ⟨v.now, 0, false, []⟩

/-- `TZERO` (R330). -/
def runTzero (v : View) (q : Req) : Ran :=
  let x := overEntries (TileRec.rows q.x) (TileRec.rowLen q.x) ⟨v.now, 0, false, []⟩ fun x r k =>
    { x with region := rawPut x.region q.x r k (TileRec.zero q.x) }
  let x := overEntries (TileRec.rows q.x) (TileRec.scaleRow q.x) x fun x r j =>
    { x with region := scalePut x.region q.x r j 0x7F }
  if TileRec.escaped q.x then
    { x with region := Mem.putBytes x.region (TileRec.origin q.x + TileRec.sideOff q.x) [0, 0] }
  else x

/-- maximumNumber or minimumNumber of a number and a bound. -/
def clampTo (maxi : Bool) (v b : FVal) : FVal :=
  if b.isNan then v else if maxi then (if v.before b then b else v) else if b.before v then b else v

/-- Steps 1 and 2 of the post-operator stage (R315). -/
def postVal (post : QWord) (v : FVal) : FVal :=
  let w0 := bits post.toNat 0 32
  let v := v.scale2 (sint 8 (bits w0 20 8))
  if w0.testBit 31 && !v.isNan then
    clampTo false (clampTo true v (fp32.val (bits post.toNat 32 32))) (fp32.val (bits post.toNat 64 32))
  else v

/-- An entry of an accumulator tile from a value (R334). -/
def accConv (fmt : Nat) (mode : RMode) (x : FVal) : Nat × BitVec 5 :=
  match fmt with
  | 0 => fp64.round mode false false x
  | 1 => fp32.round mode false false x
  | 16 =>
    let r := convInt mode (-(2 ^ 31 : Nat)) ((2 ^ 31 : Nat) - 1) 1 x
    (wrap 32 r.1, r.2)
  | _ =>
    let r := convInt mode (-(2 ^ 63 : Nat)) ((2 ^ 63 : Nat) - 1) 65536 x
    (wrap 64 r.1, r.2)

/-- `TCVT` (R334). Positions of a block at or beyond cols are zeros that skip the post-operator stage
(assumption log 137). -/
def runTcvt (v : View) (q : Req) (post : QWord) (dith : Bool) (phi : Nat) : Ran :=
  let mode := RMode.ofCode (bits post.toNat 28 3) 0
  let src (r k : Nat) : El := valueAt (v.at r k) q.x r k
  let r0 : Ran := ⟨v.now, 0, false, []⟩
  let fmt := TileRec.format q.y
  if TileRec.blocked q.y then
    let n := TileRec.blockLen q.y
    overEntries (TileRec.rows q.y) (cdiv (TileRec.cols q.y) n) r0 fun x r j =>
      let inside (e : Nat) : Bool := n * j + e < TileRec.cols q.y
      let es := (List.range n).map fun e => if inside e then src r (n * j + e) else El.zero 0
      let vs := (List.range n).map fun e => if inside e then postVal post (es.getD e (El.zero 0)).v else .fin false 0 1
      let sc := blockScale fmt vs
      let x := { x with region := scalePut x.region q.y r j sc, miss := x.miss || es.any (·.miss) }
      (List.range n).foldl (fun (x : Ran) e =>
        let y := blockElem fmt sc (outMode dith phi (n * j + e) mode) (vs.getD e (.fin false 0 1))
        { x with region := rawPut x.region q.y r (n * j + e) y.1, fl := x.fl ||| y.2 }) x
  else
    overEntries (TileRec.rows q.y) (TileRec.cols q.y) r0 fun x r k =>
      let e := src r k
      let w := postVal post e.v
      let m := outMode dith phi k mode
      let y := if TileRec.role q.y = 2 then accConv fmt m w else elemConv fmt m false w
      { x with region := rawPut x.region q.y r k y.1, miss := x.miss || e.miss, fl := x.fl ||| y.2 }

/-- Does the request round with SRD (R179)? -/
def Req.dithered (q : Req) : Bool :=
  match q.kind with
  | .tst _ _ _ rmode dith => TileRec.dither q.x || dith || rmode == 6
  | .tcvt _ dith => TileRec.dither q.y || dith
  | _ => false

/-- The whole effect of a request on its region and registers. -/
def Req.perform (v : View) (q : Req) (phi : Nat) : Ran :=
  match q.kind with
  | .tld row col n => runTld v q row col n
  | .tst row col n rmode _ => runTst v q row col n rmode.toNat q.dithered phi
  | .tzero => runTzero v q
  | .mma pre zc => runMma v q pre zc
  | .mmag pre zc => runMmag v q pre zc
  | .rast tlb extract => runRast v q tlb extract
  | .tcvt post _ => runTcvt v q post q.dithered phi

end Sys2Proof.Machine
end

