-- ==== Sys2Proof/Machine/Matrix.lean ====
section
/-! DEFINITION. Opcodes 0xC0 to 0xCC at issue (R316, R317, R324 to R336). What a request does when it is granted and completes
stands in MatrixEvents.lean. -/

namespace Sys2Proof.Machine

variable {s0 : State}

/-! ## Shared operations -/

/-- The stitch holds every present thread of its seam (R128). -/
def convergent (s : Sys) (p : Panel) (t0 : Thread) (all : List Thread) : Bool :=
  ((s.threadsOf p.key).filter fun t => t.phase != .exited && p.seamOf t.tid == p.seamOf t0.tid).all fun t =>
    all.any fun u => u.tid == t.tid

/-- Every thread of the stitch goes on. -/
def Tx.advanceAll (tx : Tx s0) : Tx s0 := tx.each tx.sys.stitch fun tx x => tx.advance x.1 x.2.2

/-- A tile word for the whole stitch (R324): decode checks, run-ahead, `ILLCONV`; then `go` with the lowest present lane's
thread and the yoke. -/
def tileWord (i : Instr) (ok : Hints → Panel → Bool)
    (go : (s : State) → Tx s → Thread → Panel → Launch → Yoke → List Thread → Tx s) (s : State) :
    Host.Outcome State Fault Refusal :=
  let tx := Tx.start s
  match tx.sys.stitch with
  | [] => tx.done
  | (t0, p, l) :: rest =>
    let all := t0 :: rest.map (·.1)
    (if !(wordOk i t0 p && ok t0.hints p) then tx.raiseAll tILLOP 0
     else if p.aheadOf t0.tid then tx.advanceAll
     else
       match tx.sys.yokeOf p with
       | none => tx.raiseAll tILLCONV 0
       | some y =>
         if l.travelling || p.paired || !convergent s.sys p t0 all then tx.raiseAll tILLCONV 0
         else go s tx t0 p l y all).done

/-- A tile check of R325 fails. -/
def Tx.refuseTile (tx : Tx s0) (reason : Nat) : Tx s0 := tx.raiseAll tILLOP (BitVec.ofNat 32 reason)

/-- A tile's record, if it is reserved. -/
def Yoke.tile? (y : Yoke) (n : Nat) : Option QWord :=
  let q := y.tiles.getD n 0
  if TileRec.live q then some q else none

/-- The quad that a register field names, as one 128-bit value. -/
def Thread.quad (t : Thread) (p : Panel) (k : Nat) : QWord := BitVec.ofNat 128 (t.getNat (t.group p k 4))

/-- Change the record of a tile. -/
def Yoke.setTile (y : Yoke) (n : Nat) (q : QWord) : Yoke := { y with tiles := y.tiles.set n q }

/-- Place of a request's seam on its core (R126). -/
def Sys.reqSeam (s : Sys) (r : Req) : Nat × Nat := (((s.panel? r.panel).map (·.slot)).getD 0, r.seam)

/-- The requests, oldest first, with a new one: the youngest, but ahead of those that a higher seam of its core issued in the
same cycle (R319). -/
def Sys.enqueue (s : Sys) (r : Req) : List Req :=
  let later (q : Req) : Bool := q.core == r.core && (s.core r.core).sched.since ≤ q.key && seamLt (s.reqSeam r) (s.reqSeam q)
  match s.reqs.findIdx? later with
  | some i => s.reqs.take i ++ r :: s.reqs.drop i
  | none => s.reqs ++ [r]

/-- A new request: an entry of the table, and an operation of every thread of the stitch (R316, R317). `lanes` gives each
thread's data, `dst` its destination registers. -/
def Tx.postReq (tx : Tx s0) (i : Instr) (t0 : Thread) (p : Panel) (l : Launch) (y : Yoke) (r : Req)
    (dst : Thread → List Nat) : Tx s0 :=
  let key := tx.fresh
  let r := { r with key := key, launch := l.key, yoke := y.key, panel := p.key, seam := p.seamOf t0.tid, core := t0.core }
  let tx := tx.take.mod fun s => { s with reqs := s.enqueue r }
  tx.each tx.sys.stitch fun tx x =>
    tx.take.advance (x.1.begin_ ⟨tx.fresh, .tile key, none, dst x.1, flagOf x.1 (classOf i), x.1.self, none⟩) l

/-- A request that has not been filled in. -/
def Req.blank (kind : ReqKind) : Req :=
  { key := 0, launch := 0, yoke := 0, panel := 0, seam := 0, core := 0, kind := kind, x := 0, y := 0, z := 0,
    xn := 0, yn := 0, zn := 0, lanes := [], tack := none, granted := false, held := none, rows := 64, after := [], passed := 0, phi := 0,
    back := false }

/-- The optional tack of a request (R325), read from the lowest present lane; a failure is every thread's trap. -/
def Tx.tileTack (tx : Tx s0) (t : Thread) (p : Panel) (l : Launch) (go : Tx s0 → Option TackRef → Tx s0) : Tx s0 :=
  match t.hints.hopd with
  | none => go tx none
  | some o =>
    let scr := o.mode.toNat.testBit 1
    let v := t.pair p o.c.toNat
    let test (tx : Tx s0) (ref : TackRef) (loc : Loc) : Tx s0 :=
      if tx.tackLive loc && tackRoom (tx.tackRead loc) 1 0 then go (tx.tackEvent ref (.register 1 0)) (some ref)
      else tx.raiseAll tTKMISUSE (objValue scr v)
    if scr then
      match scratchTrap p.scratchLen v 8 with
      | some c => tx.raiseAll c (lowWord v)
      | none => test tx (.scr p.key v) (.scr p.key v)
    else
      match checkAccess tx.st (portOf p l t) (handleSlot v) (handleOff v) 8 8 rA false with
      | .ok a => test tx (.mem l.part p.key (l.decl (handleSlot v)) (handleOff v)) a.loc
      | .trap c w sl o wr => tx.each tx.sys.stitch fun tx x => tx.raise x.1 c w ⟨sl, o, wr⟩
      | .walk va r m => tx.postWalk t l va r m
      | .hole => tx.stop .stackHole

/-- A tack `HOPD` has mode16[0] = 1 (R325). -/
def tackHintOk (h : Hints) (_ : Panel) : Bool := h.hopd.isNone || (modeOf h).testBit 0

def noHintCheck (_ : Hints) (_ : Panel) : Bool := true

/-! ## Records and slots (R326, R327, R335, R336) -/

def execResv (n : BitVec 6) (a : BitVec 8) (s : State) : Host.Outcome State Fault Refusal :=
  tileWord (.resv n a) noHintCheck (fun _ tx t p _ y _ =>
    let q := t.quad p a.toNat
    match TileRec.refuse q y.units n.toNat y.tiles with
    | some r => tx.refuseTile r
    | none =>
      if (y.tile? n.toNat).isSome then tx.refuseTile 4
      else ((tx.mod fun s => s.setYoke (y.setTile n.toNat q)).advanceAll)) s

def execTset (n : BitVec 6) (a : BitVec 8) (s : State) : Host.Outcome State Fault Refusal :=
  tileWord (.tset n a) noHintCheck (fun _ tx t p _ y _ =>
    let q := t.quad p a.toNat
    match TileRec.refuse q y.units n.toNat y.tiles, y.tile? n.toNat with
    | some r, _ => tx.refuseTile r
    | none, none => tx.refuseTile 4
    | none, some old =>
      if TileRec.base q ≠ TileRec.base old ∨ TileRec.size q ≠ TileRec.size old then tx.refuseTile 3
      else ((tx.mod fun s => s.setYoke (y.setTile n.toNat q)).advanceAll)) s

/-- A command whose dense side is tile `n` of a yoke (R325, R327). -/
def Sys.tileCopy (s : Sys) (y : Yoke) (n : Nat) (c : Cmd) : Bool :=
  c.dense == 2 && c.tile == n
    && (c.yokes.contains y.key || (c.op != 1 && (s.panel? c.panel).any fun p => p.yoke == some y.key))

/-- A request that names tile `n` of a yoke. -/
def Req.names (r : Req) (y n : Nat) : Bool :=
  r.yoke == y && (r.xn == n || (match r.kind with
    | .mma _ _ | .mmag _ _ | .rast _ _ => r.yn == n || r.zn == n
    | .tcvt _ _ => r.yn == n
    | _ => false))

/-- `FREE` (R327): the record is cleared once nothing names the tile. -/
def execFree (n : BitVec 6) (s : State) : Host.Outcome State Fault Refusal :=
  tileWord (.free n) noHintCheck (fun _ tx _ _ _ y _ =>
    if (y.tile? n.toNat).isNone then tx.refuseTile 4
    else if tx.sys.cmds.any (fun c => c.held && tx.sys.tileCopy y n.toNat c)
        || tx.sys.reqs.any (fun r => r.held.isSome && r.names y.key n.toNat) then tx.refuseTile 7
    else tx.each tx.sys.stitch fun tx x => tx.hold x.1 x.2.2 (.free n.toNat)) s

/-- A configuration image is legal (R314, R315). -/
def preImageOk (q : QWord) : Bool :=
  let n := q.toNat
  PreCfg.ok (bits n 0 32) && PreCfg.ok (bits n 32 32) && bits n 64 64 == 0

def postImageOk (q : QWord) : Bool :=
  let n := q.toNat
  bits n 0 20 == 0 && bits n 28 3 ≤ 4 && bits n 96 32 == 0

def execMpre (k : BitVec 3) (a : BitVec 8) (s : State) : Host.Outcome State Fault Refusal :=
  tileWord (.mpre k a) (fun _ _ => k != 0) (fun _ tx t p _ y _ =>
    let q := t.quad p a.toNat
    if !preImageOk q then tx.refuseTile 6
    else (tx.mod fun s => s.setYoke { y with pre := y.pre.set k.toNat q }).advanceAll) s

def execMpost (k : BitVec 3) (a : BitVec 8) (s : State) : Host.Outcome State Fault Refusal :=
  tileWord (.mpost k a) (fun _ _ => k != 0) (fun _ tx t p _ y _ =>
    let q := t.quad p a.toNat
    if !postImageOk q then tx.refuseTile 6
    else (tx.mod fun s => s.setYoke { y with post := y.post.set k.toNat q }).advanceAll) s

/-- Request entries in use in a cluster (R316): requests not yet granted, but for those withdrawn with their yoke (R321). -/
def Sys.reqEntries (s : Sys) (cluster : Nat) : Nat :=
  (s.reqs.filter fun r => !r.granted && !r.back && clusterOf r.core == cluster && (s.panel? r.panel).any fun p => p.phase != .out).length

def Req.cluster (r : Req) : Nat := clusterOf r.core

/-- A withdrawn request of a panel that runs again waits for an entry of its cluster's table. -/
def Req.waits (s : Sys) (cluster : Nat) (r : Req) : Bool :=
  r.back && !r.granted && r.cluster == cluster && (s.panel? r.panel).any fun p => p.phase == .running

/-- The requests that are posted again in a cluster, in order of age, as entries are free; `freed` more are (R321). -/
def Sys.reposts (s : Sys) (cluster freed : Nat) : List Nat :=
  ((s.reqs.filter (Req.waits s cluster)).take (32 + freed - s.reqEntries cluster)).map (·.key)

def Sys.repost (s : Sys) (cluster : Nat) : Sys :=
  let again := s.reposts cluster 0
  { s with reqs := s.reqs.map fun r => { r with back := r.back && !again.contains r.key } }

/-- `%arbq` (R320). -/
def arbqOf (s : Sys) (p : Panel) (t : Thread) : Nat :=
  let waiting := (s.reqs.filter fun r => !r.granted && !r.back && r.panel == p.key && r.seam == p.seamOf t.tid).length
  let used := s.reqEntries (clusterOf t.core)
  waiting * 2 ^ 22 + used * 2 ^ 16 + p.granted.getD (p.seamOf t.tid) 0 % 2 ^ 16

/-- `MQRY` (R336). -/
def execMqry (d : BitVec 8) (x : BitVec 6) (k : BitVec 8) (s : State) : Host.Outcome State Fault Refusal :=
  tileWord (.mqry d x k) (fun _ _ => k.toNat ≤ 5 && (k.toNat ≤ 3 || x == 0)) (fun _ tx _ p _ y _ =>
    let st := tx.sys
    tx.each st.stitch fun tx u =>
      let v := match k.toNat with
        | 4 => arbqOf st p u.1
        | 5 => y.granted % 2 ^ 32
        | k => bits (match y.tile? x.toNat with
          | some q => q.toNat
          | none => 0) (32 * k) 32
      tx.advance (u.1.putNat (if d = 248 then [] else u.1.group p d.toNat 1) v) u.2.2) s

/-! ## Transfers (R328 to R330, R334) -/

/-- A row and a column field of a transfer, in the repeat that is next. -/
def transferAt (t : Thread) (r c : BitVec 6) : Nat × Nat := (tileAt t r.toNat 2, 4 * tileAt t c.toNat 3)

/-- The register operand of a transfer: `n` values of `w` registers from c (R94, R96). -/
def transferRegs (p : Panel) (h : Hints) (n w : Nat) : Bool :=
  match h.hopd with
  | some o => o.c.toNat % w == 0 && (List.range (n * w)).all fun i => o.c.toNat + i < 240 && heldReg p.regs (o.c.toNat + i)
  | none => false

def transferGroup (t : Thread) (p : Panel) (n w : Nat) : List Nat :=
  match t.hints.hopd with
  | some o => t.group p o.c.toNat (n * w)
  | none => []

def execTld (x r c : BitVec 6) (n : BitVec 3) (s : State) : Host.Outcome State Fault Refusal :=
  tileWord (.tld x r c n) (fun h p => n.toNat ≤ 4 && transferRegs p h (2 ^ n.toNat) 1) (fun _ tx t p l y all =>
    let xn := tileAt t x.toNat 1
    match y.tile? xn with
    | none => tx.refuseTile 4
    | some q =>
      let k := 2 ^ n.toNat
      let w := TileRec.valueRegs q
      let at_ := transferAt t r c
      if !transferRegs p t.hints k w then tx.refuseTile 0
      else
        let lanes := all.map fun u => ⟨u.tid, p.laneOf u.tid, [], 0, none, 0⟩
        tx.postReq (.tld x r c n) t p l y { Req.blank (.tld at_.1 at_.2 k) with x := q, xn := xn, lanes := lanes }
          fun u => if at_.1 + p.laneOf u.tid < TileRec.rows q then transferGroup u p k w else []) s

def execTst (x r c : BitVec 6) (n : BitVec 3) (s : State) : Host.Outcome State Fault Refusal :=
  tileWord (.tst x r c n) (fun h p => n.toNat ≤ 4 && transferRegs p h (2 ^ n.toNat) 1) (fun _ tx t p l y all =>
    let xn := tileAt t x.toNat 1
    match y.tile? xn with
    | none => tx.refuseTile 4
    | some q =>
      let k := 2 ^ n.toNat
      let w := TileRec.valueRegs q
      let at_ := transferAt t r c
      let rmode := BitVec.ofNat 3 (rmodeOf t.hints)
      let dith := t.hints.hmod.any (·.dith)
      let lanes := all.map fun u => ⟨u.tid, p.laneOf u.tid, (transferGroup u p k w).map u.getV, u.rnd, none, 0⟩
      let rq : Req := { Req.blank (.tst at_.1 at_.2 k rmode dith) with x := q, xn := xn, lanes := lanes }
      if TileRec.blocked q || (rq.dithered && (TileRec.role q == 2 || TileRec.width q > 8)) then tx.refuseTile 8
      else if !transferRegs p t.hints k w then tx.refuseTile 0
      else tx.postReq (.tst x r c n) t p l y rq fun _ => []) s

def execTzero (x : BitVec 6) (s : State) : Host.Outcome State Fault Refusal :=
  tileWord (.tzero x) noHintCheck (fun _ tx t p l y _ =>
    let xn := tileAt t x.toNat 1
    match y.tile? xn with
    | none => tx.refuseTile 4
    | some q => tx.postReq (.tzero x) t p l y { Req.blank .tzero with x := q, xn := xn } fun _ => []) s

def execTcvt (x y : BitVec 6) (k : BitVec 3) (s : State) : Host.Outcome State Fault Refusal :=
  tileWord (.tcvt x y k) tackHintOk (fun _ tx t p l yo _ =>
    match yo.tile? x.toNat, yo.tile? y.toNat with
    | some qx, some qy =>
      let rq : Req := { Req.blank (.tcvt (yo.post.getD k.toNat 0) (t.hints.hmod.any (·.dith))) with
        x := qx, y := qy, xn := x.toNat, yn := y.toNat }
      if x = y then tx.refuseTile 5
      else if rq.dithered && (TileRec.role qy == 2 || TileRec.width qy > 8) then tx.refuseTile 8
      else tx.tileTack t p l fun tx tack => tx.postReq (.tcvt x y k) t p l yo { rq with tack := tack } fun _ => []
    | _, _ => tx.refuseTile 4) s

/-! ## Passes (R331 to R333) -/

/-- The three tiles of a pass are reserved and have their roles, and the pair with its stages is accepted (R313, R314). -/
def passReason (y : Yoke) (pre : QWord) (xn yn zn : Nat) : Option Nat :=
  match y.tile? xn, y.tile? yn, y.tile? zn with
  | some a, some b, some c =>
    let acc := match PreCfg.effective (bits pre.toNat 0 32) a, PreCfg.effective (bits pre.toNat 32 32) b with
      | some fa, some fb => (pairOf fa fb).map (·.2)
      | _, _ => none
    if TileRec.role a = 0 ∧ TileRec.role b = 1 ∧ TileRec.role c = 2 ∧ acc = some (TileRec.format c) then none else some 5
  | _, _, _ => some 4

/-- The captured records of a pass. -/
def Req.withTiles (r : Req) (y : Yoke) (xn yn zn : Nat) : Req :=
  { r with x := y.tiles.getD xn 0, y := y.tiles.getD yn 0, z := y.tiles.getD zn 0, xn := xn, yn := yn, zn := zn }

def execMma (x y z : BitVec 6) (k : BitVec 3) (zc : BitVec 1) (s : State) : Host.Outcome State Fault Refusal :=
  tileWord (.mma x y z k zc) tackHintOk (fun _ tx t p l yo _ =>
    let xn := tileAt t x.toNat 1
    let yn := tileAt t y.toNat 2
    let zn := tileAt t z.toNat 3
    let pre := yo.pre.getD k.toNat idSlot
    match passReason yo pre xn yn zn with
    | some r => tx.refuseTile r
    | none =>
      tx.tileTack t p l fun tx tack =>
        tx.postReq (.mma x y z k zc) t p l yo { (Req.blank (.mma pre (zc == 1))).withTiles yo xn yn zn with tack := tack }
          fun _ => []) s

def execRast (x y z : BitVec 6) (tl e : BitVec 1) (s : State) : Host.Outcome State Fault Refusal :=
  tileWord (.rast x y z tl e) tackHintOk (fun _ tx t p l yo _ =>
    let xn := tileAt t x.toNat 1
    let yn := tileAt t y.toNat 2
    let zn := tileAt t z.toNat 3
    match yo.tile? xn, yo.tile? yn, yo.tile? zn with
    | some a, some b, some c =>
      if TileRec.role a = 0 ∧ TileRec.role b = 1 ∧ TileRec.role c = 2 ∧ TileRec.format a = 25 ∧ TileRec.format b = 25
          ∧ TileRec.format c = 25 then
        tx.tileTack t p l fun tx tack =>
          tx.postReq (.rast x y z tl e) t p l yo
            { (Req.blank (.rast (tl == 1) (e == 1))).withTiles yo xn yn zn with tack := tack } fun _ => []
      else tx.refuseTile 5
    | _, _, _ => tx.refuseTile 4) s

/-- Bytes of a gathered row: the pitch, then the row's scales (R332). -/
def gatherBytes (q : QWord) : Nat := TileRec.pitch q + TileRec.scaleRow q

/-- A lane's row address and scatter row. -/
def gatherOf (t : Thread) (p : Panel) : Nat × Nat :=
  match t.hints.hopd with
  | some o => (t.pair p o.c.toNat, (t.getV (physReg p.regs p.band t.rotbase (o.c.toNat + 2))).toNat % 64)
  | none => (2 ^ 63, 0)

/-- `MMAG` (R332). -/
def execMmag (x y z : BitVec 6) (k : BitVec 3) (zc : BitVec 1) (s : State) : Host.Outcome State Fault Refusal :=
  tileWord (.mmag x y z k zc) (fun h _ => (modeOf h).testBit 15 || modeOf h == 0) (fun _ tx t p l yo all =>
    let xn := tileAt t x.toNat 1
    let yn := tileAt t y.toNat 2
    let zn := tileAt t z.toNat 3
    let pre := yo.pre.getD k.toNat idSlot
    match passReason yo pre xn yn zn with
    | some r => tx.refuseTile r
    | none =>
      let q := yo.tiles.getD xn 0
      let n := gatherBytes q
      let bad (u : Thread) : Option Byte :=
        let a := (gatherOf u p).1
        if a.testBit 63 then none
        else if a % 16 ≠ 0 then some tALIGN else if a + n > p.scratchLen then some tSCRBND else none
      match leastBy (fun u => p.laneOf u.tid) (all.filter fun u => (bad u).isSome) with
      | some u => tx.raiseAll ((bad u).getD 0) (BitVec.ofNat 32 (p.laneOf u.tid))
      | none =>
        let lanes := all.map fun u =>
          let g := gatherOf u p
          ⟨u.tid, p.laneOf u.tid, [], 0, if g.1.testBit 63 then none else some (Mem.getBytes p.scratch g.1 n), g.2⟩
        let m := modeOf t.hints
        let held := if m.testBit 15 then some (bits m 12 3, bits m 0 12) else none
        tx.postReq (.mmag x y z k zc) t p l yo
          { (Req.blank (.mmag pre (zc == 1))).withTiles yo xn yn zn with lanes := lanes, held := held } fun _ => []) s

end Sys2Proof.Machine
end

