-- ==== Sys2Proof/Machine/Sync.lean ====
section
/-! DEFINITION. Opcodes 0xE8 to 0xEE at issue: fences, binding, the consistency instructions (R361 to R369). Releases end in
Complete.lean. -/

namespace Sys2Proof.Machine

variable {s0 : State}

/-! ## Shared operations -/

/-- Write a result to d, push it to a shuttle, or discard it; and go on. -/
def Tx.give (tx : Tx s0) (t : Thread) (p : Panel) (l : Launch) (i : Instr) (v : Nat) : Tx s0 :=
  match (form i t.hints).dst with
  | none => tx.advance t l
  | some o =>
    if 240 ≤ o.f ∧ o.f < 248 then (tx.push p (o.f - 240) (BitVec.ofNat 32 v)).advance t l
    else tx.advance (t.putNat (o.regs t p) v) l

/-! ## Binding regions to objects (R361) -/

/-- The package address of a byte of a declaration, by its extents or the page table, with nothing changed. -/
def State.pieceAddr (st : State) (part panel : Nat) (d : List Word) (off : Nat) : Option Nat :=
  let (stack, local_) := Decl.place d off
  let va := Decl.base d + local_
  match st.sys.extentPage part panel d (va / 65536) with
  | some m => some (stack * 2 ^ 36 + m.frame + va % 65536)
  | none => (st.sys.part? part).bind fun p =>
    match walk st p va with
    | .ok _ leaf => some (stack * 2 ^ 36 + Leaf.frame leaf + va % 65536)
    | _ => none

/-- An object's identity: the peer (0 for this package) and the address there. -/
def State.objectAt (st : State) (part panel : Nat) (d : List Word) (off : Nat) : Option (Nat × Nat) :=
  if Decl.peer d ≠ 0 then some (Decl.peer d, Decl.base d + off)
  else (st.pieceAddr part panel d off).map fun a => (0, a)

/-- The address ranges of a region: what lies in memory of this package. -/
def State.regionRanges (st : State) (part panel : Nat) (d : List Word) (off n : Nat) : List (Nat × Nat) :=
  if Decl.peer d ≠ 0 then []
  else
    let starts := pageOffsets d off n
    (List.range starts.length).filterMap fun i =>
      let a := starts.getD i 0
      (st.pieceAddr part panel d a).map fun x => (x, starts.getD (i + 1) (off + n) - a)

/-- Ranges of the regions bound to an object (R367). -/
def State.boundTo (st : State) (part panel : Nat) (d : List Word) (off : Nat) : List (Nat × Nat) :=
  match st.sys.part? part with
  | none => []
  | some p =>
    let me := st.objectAt part panel d off
    (p.bindings.filter fun b => me.isSome && st.objectAt part panel b.objVa b.objOff == me).flatMap fun b =>
      st.regionRanges part panel b.regionVa b.regionOff b.regionLen

/-- The lowest free entry of a binding table. -/
def Partition.freeBinding (p : Partition) : Option Nat :=
  (List.range 4096).find? fun e => !p.bindings.any fun b => b.num == e

/-- The region's slot and bounds (R364); through an empty slot every access raises `BUFBND` (R34). -/
def regionTrap (d : List Word) (off n : Nat) : Option Byte :=
  if !Decl.valid d || off + n > Decl.len d then some tBUFBND
  else if Decl.lacks d rRd then some tBUFRIGHT
  else if n = 0 then some tBUFBND
  else none

/-! ## Meanings -/

/-- `FENCE` (R363): an acquire issues once the thread's loads are complete (Units.lean) and is done; the others hold the
entry until their release is (Complete.lean). -/
def execFence (r : BitVec 2) (o : BitVec 6) (s : State) : Host.Outcome State Fault Refusal :=
  engineWord (.fence r o) (fun _ _ _ => r != 3 || o.getLsbD 5) (fun _ tx t _ l =>
    if r = 0 then (tx.acquire t.core o).advance t l else tx.hold t l (.fence r o)) s

/-- `BIND` (R364). -/
def execBind (d a b : BitVec 8) (s : State) : Host.Outcome State Fault Refusal :=
  engineWord (.bind d a b) anyThread (fun _ tx t p l =>
    let rh := t.pair p a.toNat
    let n := t.pair p (a.toNat + 2)
    let rd := l.decl (handleSlot rh)
    match regionTrap rd (handleOff rh) n with
    | some c => tx.raise t c (lowWord (handleOff rh)) ⟨handleSlot rh, handleOff rh, false⟩
    | none =>
      let oh := t.pair p b.toNat
      match tx.port t p l (handleSlot oh) (handleOff oh) 8 8 (rRd + rA) false with
      | (none, tx) => tx
      | (some _, tx) =>
        match (tx.sys.part? l.part).bind (·.freeBinding) with
        | none => tx.give t p l (.bind d a b) 0xFFFFFFFF
        | some e =>
          let x : Binding := ⟨e, l.key, rd, handleOff rh, n, l.decl (handleSlot oh), handleOff oh⟩
          (tx.mod (updPart l.part fun q => { q with bindings := x :: q.bindings })).give t p l (.bind d a b) e) s

/-- `UNBIND` (R365). -/
def execUnbind (a : BitVec 8) (s : State) : Host.Outcome State Fault Refusal :=
  engineWord (.unbind a) anyThread (fun _ tx t p l =>
    let r := readSrcs tx t p ((form (.unbind a) t.hints).srcs t.hints)
    let e := r.1.getD 0 0
    (r.2.mod (updPart l.part fun q => { q with bindings := q.bindings.filter fun b => b.num != e })).advance t l) s

/-- `ACQ` at issue (R366). -/
def execAcq (d a b : BitVec 8) (s : State) : Host.Outcome State Fault Refusal :=
  engineWord (.acq d a b) anyThread (fun _ tx t p l =>
    let h := t.pair p a.toNat
    match tx.port t p l (handleSlot h) (handleOff h) 8 8 rRd false with
    | (none, tx) => tx
    | (some acc, tx) =>
      tx.hold t l (.acq acc (if d = 248 then [] else t.group p d.toNat 2) (BitVec.ofNat 64 (t.pair p b.toNat)))) s

/-- `REL` at issue (R367): the entries present now are the ones it uses. -/
def execRel (a : BitVec 8) (o : BitVec 6) (s : State) : Host.Outcome State Fault Refusal :=
  engineWord (.rel a o) anyThread (fun _ tx t p l =>
    let h := t.pair p a.toNat
    match tx.port t p l (handleSlot h) (handleOff h) 8 8 (rRd + rA) false with
    | (none, tx) => tx
    | (some acc, tx) =>
      if tx.tackLive acc.loc then tx.raise t tTACKST (lowWord (handleOff h))
      else tx.take.hold t l (.rel acc o (tx.st.boundTo l.part p.key (l.decl (handleSlot h)) (handleOff h)) tx.fresh)) s

/-- `ACQR` at issue (R368). -/
def execAcqr (d h o : BitVec 8) (s : State) : Host.Outcome State Fault Refusal :=
  engineWord (.acqr d h o) anyThread (fun _ tx t p l =>
    let hd := handleOf t p h
    match tx.port t p l (handleSlot hd) (handleOff hd + unitOffset t o * 4) 4 4 rRd false with
    | (none, tx) => tx
    | (some acc, tx) => tx.issueOp t l (.acqr d h o) .acqr (some acc) (if d = 248 then [] else t.group p d.toNat 1)) s

/-- `RELW` at issue (R369): the mask is C without `HOPD`. -/
def execRelw (d h o : BitVec 8) (s : State) : Host.Outcome State Fault Refusal :=
  engineWord (.relw d h o) anyThread (fun _ tx t p l =>
    let hd := handleOf t p h
    let mask := if t.hints.hopd.isSome then BitVec.ofNat 6 (modeOf t.hints) else obsC
    match tx.port t p l (handleSlot hd) (handleOff hd + unitOffset t o * 4) 4 4 rW false with
    | (none, tx) => tx
    | (some acc, tx) =>
      let r := readSrcs tx t p ((form (.relw d h o) t.hints).srcs t.hints)
      r.2.issueOp t l (.relw d h o) (.relw (BitVec.ofNat 32 (r.1.getD 1 0)) mask) (some acc) []) s

end Sys2Proof.Machine
end

