-- ==== Sys2Proof/Machine/System.lean ====
section
/-! DEFINITION. Opcodes 0xF0 to 0xF7: traps, returns, breakpoints, CSRs, `INVAL`, `WAIT` (R446 to R452, R53 to R56, R111, R112,
R253, R445). -/

namespace Sys2Proof.Machine

variable {s0 : State}

/-! ## Shared operations -/

/-- A system word; `last`: it ends its clause in native text; `super`: only the supervisor may run it (R446). -/
def systemWord (i : Instr) (last super : Bool) (ok : Thread → Panel → Launch → Bool)
    (go : (s : State) → Tx s → Thread → Panel → Launch → Tx s) (s : State) : Host.Outcome State Fault Refusal :=
  engineWord i (fun t p l =>
    (!last || (match t.nat with
      | some n => n.left == 1
      | none => true)) && (!super || l.supervisor) && ok t p l) go s

/-- The index after an instruction (R425). -/
def Tx.indexAfter (tx : Tx s0) (t : Thread) (l : Launch) : Nat := (t.past (tx.sys.nmapOf l)).pc

/-! ## `TRAP`, `SVC`, `BRK` (R447, R449) -/

def execTrap (n : BitVec 16) (s : State) : Host.Outcome State Fault Refusal :=
  systemWord (.trap n) true false anyThread (fun _ tx t _ l =>
    tx.raiseAt t tTRAPI (n.setWidth 32) Info.none (tx.indexAfter t l)) s

def execSvc (n : BitVec 16) (s : State) : Host.Outcome State Fault Refusal :=
  systemWord (.svc n) true false anyThread (fun _ tx t _ l =>
    tx.raiseAt t tSVCI (n.setWidth 32) Info.none (tx.indexAfter t l)) s

def execBrk (i : BitVec 8) (s : State) : Host.Outcome State Fault Refusal :=
  systemWord (.brk i) true false anyThread (fun _ tx t _ l =>
    tx.raiseAt t tBRKPT (0x100 + i.setWidth 32) Info.none (tx.indexAfter t l)) s

/-! ## Comparators (R445) -/

/-- Does a comparator of the partition name a word of piece k of a launch? -/
def Partition.watches (p : Partition) (l : Launch) (pc : Piece) : Bool :=
  p.brk.any fun b => match b with
    | some c => c.launch == l.id && pc.start ≤ c.index && c.index < pc.start + pc.words
    | none => false

/-- A pinned piece of a native launch is held in portable form while a comparator names a word of it. -/
def Sys.portablePiece (s : Sys) (lk k : Nat) : Bool :=
  match s.launch? lk with
  | none => false
  | some l =>
    match s.part? l.part, (s.objectOf l).bind (·.marker) with
    | some p, some m => l.native && (m.pieces[k]?).any fun pc => p.watches l pc
    | _, _ => false

/-- The pieces are pinned again in the form they now need. -/
def Sys.repin (s : Sys) : Sys :=
  { s with cores := s.cores.map fun c => match c.piece with
      | some (lk, k) => { c with piecePortable := s.portablePiece lk k }
      | none => c }

/-- Setting a comparator withdraws the native text of the object that the launch it names runs (R78). -/
def Sys.withdraw (s : Sys) (part : Nat) (id : Word) : Sys :=
  let named := (s.launches.filter fun l => l.part == part && l.id == id && !l.travelling).filterMap (·.object)
  Sys.dropLines { s with objects := s.objects.map fun o => if named.contains o.key then o.withdrawn else o }

/-- Set or clear comparator k of a partition. -/
def Tx.setBrk (tx : Tx s0) (part k : Nat) (c : Option Comparator) : Tx s0 :=
  (tx.mod (updPart part fun p => { p with brk := p.brk.set k c })).mod Sys.repin

/-- The image of `BRK.set` is legal. -/
def brkImageOk (q : List Nat) : Bool := bits (q.getD 2 0) 6 25 == 0 && q.getD 3 0 == 0

/-- The four words of a quad operand. -/
def Thread.quadWords (t : Thread) (p : Panel) (k : Nat) : List Nat := (t.group p k 4).map fun r => (t.getV r).toNat

def execBrkSet (k : BitVec 2) (a : BitVec 8) (s : State) : Host.Outcome State Fault Refusal :=
  systemWord (.brkSet k a) true true (fun t p _ => brkImageOk (t.quadWords p a.toNat)) (fun _ tx t p l =>
    let q := t.quadWords p a.toNat
    let w2 := q.getD 2 0
    let c : Comparator := ⟨BitVec.ofNat 32 (q.getD 0 0), q.getD 1 0, if w2.testBit 31 then some (w2 % 64) else none⟩
    ((tx.setBrk l.part k.toNat (some c)).mod fun s => s.withdraw l.part c.launch).advance t l) s

def execBrkClr (k : BitVec 2) (s : State) : Host.Outcome State Fault Refusal :=
  systemWord (.brkClr k) true true anyThread (fun _ tx t _ l => (tx.setBrk l.part k.toNat none).advance t l) s

/-! ## `RFT` (R448) -/

/-- Mode 0. The thread goes on at `%trappc`, in native form where it is native and a clause starts there; outside its piece
it travels there (R372). -/
def execRft (s : State) : Host.Outcome State Fault Refusal :=
  systemWord .rft true false anyThread (fun _ tx t p l =>
    if !t.trapc.toNat.testBit 31 || t.trappc.toNat ≥ tx.sys.textWords l then tx.raise t tILLOP 0
    else tx.transfer t p l t.trappc.toNat (t.trapprio.setWidth 8) [] t.rotbase none id true) s

/-- Resume what a ticket names (R428, R432, R433, R64, R438). -/
def Tx.resumeTicket (tx : Tx s0) (k : Ticket) : Tx s0 :=
  match k.names with
  | .thread p tid => tx.mod fun s =>
      let free (t : Thread) : Thread :=
        if t.panel = p ∧ t.tid = tid ∧ t.ticket = some k.num then { t with phase := .ready, ticket := none } else t
      { s with
        threads := s.threads.map free
        panels := s.panels.map fun q => { q with ahead := q.ahead.map fun a => { a with saved := a.saved.map free } } }
  | .batch p => tx.mod fun s => match s.panel? p with
      | some q => s.setPanel { q with batch := none }
      | none => s
  | .cmd c => tx.mod fun s => match s.cmd? c with
      | some x => s.setCmd { x with ticket := none }
      | none => s
  | .panel p => tx.mod fun s => match s.panel? p with
      | some q => s.setPanel { q with resumeTicket := none }
      | none => s
  | .launch _ => tx

/-- A ticket is answered: no record of that number is left unanswered. -/
def Tx.closeTicket (tx : Tx s0) (part num : Nat) : Tx s0 :=
  tx.mod (updPart part fun p => { p with tickets := p.tickets.filter fun t => t.num != num })

/-- The ticket that a thread's operand names. -/
def Sys.ticketOf (s : Sys) (part num : Nat) : Option Ticket :=
  (s.part? part).bind fun p => p.tickets.find? fun t => t.num == num

def execRftResume (a : BitVec 8) (s : State) : Host.Outcome State Fault Refusal :=
  systemWord (.rftResume a) true true anyThread (fun _ tx t p l =>
    let tx := tx.advance t l
    match tx.sys.ticketOf l.part (t.getNat (t.group p a.toNat 1)) with
    | none => tx
    | some k => (tx.closeTicket l.part k.num).resumeTicket k) s

def execRftKill (a : BitVec 8) (s : State) : Host.Outcome State Fault Refusal :=
  systemWord (.rftKill a) true true anyThread (fun _ tx t p l =>
    let tx := tx.advance t l
    match tx.sys.ticketOf l.part (t.getNat (t.group p a.toNat 1)) with
    | none => tx
    | some k => (tx.closeTicket l.part k.num).terminate k.launch (0x80 + k.code.toNat)) s

/-! ## CSRs (R53 to R56, R111, R112, R450) -/

/-- `%l2pval` (R56). -/
def Partition.l2pval (p : Partition) : Nat :=
  let i := p.l2pidx.toNat
  if i ≥ 288 then 0
  else match p.l2p.find? fun e => e.1 == i with
    | some e => 2 ^ 31 + e.2.1 * 2 ^ 8 + e.2.2
    | none => 0

/-- A CSR that only the supervisor may name. -/
def superCsr (n : Nat) : Bool := (0x800 ≤ n && n ≤ 0x8FF) || (0xC00 ≤ n && n ≤ 0xCFF)

/-- Delivered bytes of a channel's current command, which heads its queue (R284). -/
def Sys.cwp (s : Sys) (cluster chan : Nat) : Nat :=
  match (s.queue cluster chan).head? with
  | some c => if c.started then min c.delivered 0xFFFFFFFF else 0
  | none => 0

/-- `%yid` (R14); a handler panel reads its destination's (R388). -/
def Launch.yidOf (l : Launch) (pid : Nat) : Nat := if pid ≥ l.panels then cdiv l.panels l.perYoke else pid / l.perYoke

/-- The value of a CSR; none for a number that is not listed (R111). A handler panel has no yoke: what it reads of
`%dphase` and `%oflag` is free (assumption log 181). -/
def csrValue (s : Sys) (t : Thread) (p : Panel) (l : Launch) (n : Nat) : Option Nat :=
  let part := s.part? l.part
  if n = 0x000 then some t.tid
  else if n = 0x001 then some p.pid
  else if n = 0x002 then some (l.yidOf p.pid)
  else if n = 0x003 then some (dieOf p.core)
  else if n = 0x004 then some (p.laneOf t.tid)
  else if n = 0x005 then some (seamW p.seam)
  else if n = 0x006 then some p.nthr
  else if n = 0x007 then some l.panels
  else if n = 0x008 then some ((s.die (dieOf t.core)).cyc % 2 ^ 32)
  else if n = 0x009 then some t.cych.toNat
  else if n = 0x100 then some t.fflags.toNat
  else if n = 0x101 then some t.rnd.toNat
  else if n = 0x102 then some (s.phaseOf p)
  else if n = 0x103 then some (match s.yokeOf p with
    | some y => if y.oflag then 1 else 0
    | none => Config.freeNat s.nonce % 2)
  else if n = 0x200 then some t.prio.toNat
  else if n = 0x201 then some t.rotbase
  else if n = 0x202 then some t.rotstep
  else if n = 0x203 then some t.repidx
  else if 0x300 ≤ n ∧ n ≤ 0x307 then some (s.cwp (clusterOf t.core) (n - 0x300))
  else if n = 0x308 then some (arbqOf s p t)
  else if n = 0x400 then some t.trapc.toNat
  else if n = 0x401 then some t.trapv.toNat
  else if n = 0x402 then some t.trappc.toNat
  else if n = 0x403 then some t.trapprio.toNat
  else if 0x800 ≤ n ∧ n ≤ 0x809 then some (s.harv.getD (n - 0x800) 0).toNat
  else if n = 0x80A then part.map (·.l2pidx.toNat)
  else if n = 0x80B then part.map (·.l2pval)
  else if n = 0xC00 then part.map (·.num)
  else if n = 0xC01 then part.map (·.ptgen.toNat)
  else if 0xC10 ≤ n ∧ n ≤ 0xC1F then some (s.ildom.getD (n - 0xC10) 0).toNat
  else none

/-- A read of `%cyc` latches the upper half (R111). -/
def Thread.latch (t : Thread) (cyc : Nat) : Thread := { t with cych := BitVec.ofNat 32 (cyc / 2 ^ 32) }

/-- A CSR read for each thread. -/
def csrRead (i : Instr) (n : Nat) (s : State) : Host.Outcome State Fault Refusal :=
  systemWord i false (superCsr n) anyThread (fun _ tx t p l =>
    match csrValue tx.sys t p l n with
    | none => tx.raise t tILLOP 0
    | some v =>
      let t' := if n = 0x008 then t.latch (tx.sys.die (dieOf t.core)).cyc else t
      tx.give t' p l i v) s

def execCsrr (d : BitVec 8) (n : BitVec 16) (s : State) : Host.Outcome State Fault Refusal :=
  csrRead (.csrr d n) n.toNat s

def execCsrrCyc (d : BitVec 8) (s : State) : Host.Outcome State Fault Refusal := csrRead (.csrrCyc d) 0x008 s

/-- Bits of a CSR that may be written nonzero (R112, R424, R55); none: not writable here. -/
def csrMask (n : Nat) : Option Nat :=
  if n = 0x100 ∨ n = 0x102 then some 0x1F
  else if n = 0x101 then some 7
  else if n = 0x201 ∨ n = 0x202 then some 0x7F
  else if n = 0x400 then some 0x800000FF
  else if n = 0x401 ∨ n = 0x402 then some 0xFFFFFFFF
  else if n = 0x403 then some 0xFF
  else if n = 0x80A then some 0x1FF
  else none

/-- Is the value in range for the thread (R112)? A band of 0 ignores writes (R95). -/
def csrRangeOk (p : Panel) (n v : Nat) : Bool :=
  if n = 0x101 then v ≤ 4
  else if n = 0x201 ∨ n = 0x202 then p.band == 0 || v < 8 * p.band
  else true

/-- A write that has passed its checks; one of `%dphase` in a handler panel, which has no yoke, changes nothing (assumption log
181). -/
def Tx.csrPut (tx : Tx s0) (t : Thread) (p : Panel) (l : Launch) (n v : Nat) : Tx s0 :=
  let w : Word := BitVec.ofNat 32 v
  let go (t : Thread) : Tx s0 := tx.advance t l
  if n = 0x100 then go { t with fflags := BitVec.ofNat 5 v }
  else if n = 0x101 then go { t with rnd := BitVec.ofNat 3 v }
  else if n = 0x102 then (tx.updYoke p fun y => { y with dphase := BitVec.ofNat 5 v }).advance t l
  else if n = 0x201 then go (if p.band = 0 then t else { t with rotbase := v })
  else if n = 0x202 then go (if p.band = 0 then t else { t with rotstep := v })
  else if n = 0x400 then go { t with trapc := w }
  else if n = 0x401 then go { t with trapv := w }
  else if n = 0x402 then go { t with trappc := w }
  else if n = 0x403 then go { t with trapprio := w }
  else (tx.mod (updPart l.part fun q => { q with l2pidx := w })).advance t l

def execCsrw (d : BitVec 8) (n : BitVec 16) (s : State) : Host.Outcome State Fault Refusal :=
  systemWord (.csrw d n) false (superCsr n.toNat) (fun _ _ _ => (csrMask n.toNat).isSome) (fun _ tx t p l =>
    let r := readSrcs tx t p ((form (.csrw d n) t.hints).srcs t.hints)
    let v := r.1.getD 0 0
    let m := (csrMask n.toNat).getD 0
    if v &&& (0xFFFFFFFF - m) != 0 || !csrRangeOk p n.toNat v then tx.raise t tILLOP 0
    else r.2.csrPut t p l n.toNat v) s

/-- `%oflag` is cleared by writing 1 (R112); in a handler panel there is none (assumption log 181). -/
def execCsrwOflag (d : BitVec 8) (s : State) : Host.Outcome State Fault Refusal :=
  systemWord (.csrwOflag d) false false anyThread (fun _ tx t p l =>
    let r := readSrcs tx t p ((form (.csrwOflag d) t.hints).srcs t.hints)
    let v := r.1.getD 0 0
    if v > 1 then tx.raise t tILLOP 0
    else (r.2.updYoke p fun y => { y with oflag := y.oflag && v == 0 }).advance t l) s

/-- A write of an interleave domain (R253): a change performs a switch, and the write completes when it has ended. -/
def execCsrwIldom (d : BitVec 8) (n : BitVec 4) (s : State) : Host.Outcome State Fault Refusal :=
  systemWord (.csrwIldom d n) false true anyThread (fun _ tx t p l =>
    let r := readSrcs tx t p ((form (.csrwIldom d n) t.hints).srcs t.hints)
    let w : Word := BitVec.ofNat 32 (r.1.getD 0 0)
    let old := tx.sys.ildom.getD n.toNat 0
    if w = old then r.2.advance t l
    else (r.2.mod fun s => { s with ildom := s.ildom.set n.toNat w }).hold t l (.ildom n.toNat old)) s

/-! ## `INVAL` (R451) and `WAIT` (R452) -/

/-- Does a page meet a range? None meets a range of length 0 (R451). -/
def pageIn (base n vpage : Nat) : Bool := n != 0 && vpage * 65536 < base + n && base < (vpage + 1) * 65536

/-- A kind 0 quad: base and length. -/
def invalBase (q : List Nat) : Nat := q.getD 0 0 + q.getD 1 0 * 2 ^ 32
def invalLen (q : List Nat) : Nat := q.getD 2 0 + q.getD 3 0 * 2 ^ 32

/-- The `INVAL` holds its thread until it is complete (Complete.lean). -/
def Tx.holdInval (tx : Tx s0) (t : Thread) (l : Launch) (kind : Nat) (q : List Nat) : Tx s0 :=
  tx.take.hold t l (.inval kind (q.map fun x => BitVec.ofNat 32 x) tx.fresh)

/-- Kind 0: the translations are dropped; it completes when what used them has. -/
def execInvalTranslation (a : BitVec 8) (s : State) : Host.Outcome State Fault Refusal :=
  systemWord (.invalTranslation a) false true (fun t p _ => invalBase (t.quadWords p a.toNat) < 2 ^ 52) (fun _ tx t p l =>
    let q := t.quadWords p a.toNat
    (tx.mod (updPart l.part fun x =>
      { x with tlb := x.tlb.filter fun e => !pageIn (invalBase q) (invalLen q) e.vpage })).holdInval t l 0 q) s

/-- A kind 1 quad is legal: die and slices, a domain or all. -/
def invalSlicesOk (q : List Nat) : Bool :=
  q.getD 0 0 < 2 ^ 17 && (q.getD 1 0 < 16 || q.getD 1 0 == 0xFFFFFFFF) && q.getD 2 0 == 0 && q.getD 3 0 == 0

def execInvalWriteback (a : BitVec 8) (s : State) : Host.Outcome State Fault Refusal :=
  systemWord (.invalWriteback a) false true (fun t p _ => invalSlicesOk (t.quadWords p a.toNat)) (fun _ tx t p l =>
    tx.holdInval t l 1 (t.quadWords p a.toNat)) s

/-- A kind 2 quad is legal but for the partition's range. -/
def invalKeyOk (q : List Nat) : Bool := q.getD 0 0 < 2 ^ 13 && q.getD 1 0 == 0 && q.getD 2 0 == 0 && q.getD 3 0 == 0

def execInvalKey (a : BitVec 8) (s : State) : Host.Outcome State Fault Refusal :=
  systemWord (.invalKey a) false true (fun t p _ => invalKeyOk (t.quadWords p a.toNat)) (fun _ tx t p l =>
    let q := t.quadWords p a.toNat
    if tx.sys.partHasKey l.part (q.getD 0 0) then tx.holdInval t l 2 q else tx.raise t tILLOP 0) s

/-- `WAIT` at issue; it ends at a changed word or after 65,536 cycles. -/
def execWait (d a b : BitVec 8) (s : State) : Host.Outcome State Fault Refusal :=
  systemWord (.wait d a b) false false anyThread (fun _ tx t p l =>
    let h := t.pair p a.toNat
    match tx.port t p l (handleSlot h) (handleOff h) 4 4 rRd false with
    | (none, tx) => tx
    | (some acc, tx) =>
      let r := readSrcs tx t p ((form (.wait d a b) t.hints).srcs t.hints)
      let v : Word := BitVec.ofNat 32 (r.1.getD 1 0)
      r.2.hold t l (.wait acc (((form (.wait d a b) t.hints).dst.map fun o => o.dest t p).getD []) v
        ((tx.sys.die (dieOf t.core)).cyc + 65536) (((form (.wait d a b) t.hints).pops t.hints).head?.map fun n => (n, v)))) s

end Sys2Proof.Machine
end

