-- ==== Sys2Proof/Machine/Control.lean ====
section
/-! DEFINITION. Opcodes 0xA0 to 0xBC: branches, calls, loops, waits and rejoin masks (R134, R138 to R156). -/

namespace Sys2Proof.Machine

variable {s0 : State}

/-! ## Shared operations -/

/-- The decode checks of the control block: the operand form, no `HMOD` (R143), and, in native text, the last word of
its clause where `last` is set (R134). -/
def controlOk (i : Instr) (last : Bool) (t : Thread) (p : Panel) : Bool :=
  formOk p.regs (form i t.hints) t.hints && t.hints.hmod.isNone && clauseOk t i
    && (!last || (match t.nat with
      | some n => n.left == 1
      | none => true))

/-- The offset of a B-format word: 16 bits, or 40 under `HIMM` (R106). -/
def branchOffset (h : Hints) (o : BitVec 16) : Int :=
  match h.himm with
  | some m => sint 40 (m.toNat * 2 ^ 16 + o.toNat)
  | none => sint 16 o.toNat

/-- The direct target, if it lies in the text (R143): a portable index and, for a native branch, whose offset counts native
words, the clause header there (R74, R98). -/
def directTarget (s : Sys) (l : Launch) (t : Thread) (o : BitVec 16) : Option (Nat × Option Native) :=
  match t.nat with
  | none =>
    let k : Int := (t.pc : Int) + 1 + branchOffset t.hints o
    if 0 ≤ k ∧ k < s.textWords l then some (k.toNat, none) else none
  | some n =>
    let j : Int := (n.npc : Int) + 1 + branchOffset t.hints o
    match s.objectOf l with
    | none => none
    | some x =>
      let (text, map) := x.nativeFor l.travelling
      let k := map.getD j.toNat 0
      if 0 ≤ j ∧ j < text.length ∧ isHeader (text.getD j.toNat 0) = true ∧ k < s.textWords l
      then some (k, some ⟨j.toNat, 0, 15, 15⟩) else none

/-- A control word for each thread of the stitch, after its decode checks. -/
def control (i : Instr) (last : Bool) (f : (s : State) → Tx s → Thread → Panel → Launch → Tx s) (s : State) :
    Host.Outcome State Fault Refusal :=
  ((Tx.start s).eachOf fun tx t p l => if controlOk i last t p then f s tx t p l else tx.raise t tILLOP 0).done

/-- A branch on a poisoned predicate or register ends run-ahead (R432). -/
def Tx.unlessPoisoned (tx : Tx s0) (i : Instr) (t : Thread) (p : Panel) (go : Tx s0 → Tx s0) : Tx s0 :=
  if p.aheadOf t.tid && (form i t.hints).poisoned t p then tx.endAhead p.key else go tx

/-- A direct branch taken where `taken` says so (R144). -/
def directBranch (i : Instr) (prio : Byte) (o : BitVec 16) (taken : Thread → Bool) (s : State) :
    Host.Outcome State Fault Refusal :=
  control i true (fun _ tx t p l =>
    match directTarget tx.sys l t o with
    | none => tx.raise t tILLOP 0
    | some k =>
      tx.unlessPoisoned i t p fun tx =>
        if taken t then tx.transfer t p l k.1 prio [] t.rotbase k.2 else tx.advance t l) s

/-- An indirect branch to a value that has been read; `take` pops what it was read from. -/
def Tx.indirect (tx : Tx s0) (t : Thread) (p : Panel) (l : Launch) (k : Nat) (prio : Byte) (take : Tx s0 → Tx s0) : Tx s0 :=
  if k ≥ tx.sys.textWords l then tx.raise t tILLOP 0 else tx.transfer t p l k prio [] t.rotbase none take

/-! ## Branches -/

def execBra (p : BitVec 8) (o : BitVec 16) (s : State) : Host.Outcome State Fault Refusal :=
  directBranch (.bra p o) p o (fun _ => true) s

def execBrc (n : BitVec 3) (p : BitVec 8) (o : BitVec 16) (s : State) : Host.Outcome State Fault Refusal :=
  directBranch (.brc n p o) p o (fun t => t.p.getLsbD n.toNat) s

def execBrn (n : BitVec 3) (p : BitVec 8) (o : BitVec 16) (s : State) : Host.Outcome State Fault Refusal :=
  directBranch (.brn n p o) p o (fun t => !t.p.getLsbD n.toNat) s

/-- `CALL` (R145). The link pair is named like any register (R95). -/
def execCall (p : BitVec 8) (o : BitVec 16) (s : State) : Host.Outcome State Fault Refusal :=
  control (.call p o) true (fun _ tx t q l =>
    match directTarget tx.sys l t o with
    | none => tx.raise t tILLOP 0
    | some k =>
      let t' := if q.aheadOf t.tid then t.markPoison [238, 239] 0 false else t
      tx.transfer t' q l k.1 p [(238, t.prio.setWidth 32), (239, BitVec.ofNat 32 (t.pc + 1))] t.rotbase k.2) s

/-- `RET` (R146). -/
def execRet (s : State) : Host.Outcome State Fault Refusal :=
  control .ret true (fun _ tx t p l =>
    tx.unlessPoisoned .ret t p fun tx => tx.indirect t p l t.link.2.toNat (t.link.1.setWidth 8) id) s

/-- The one source of an indirect transfer, read without popping: its value, or the shuttle's word. -/
def peekSource (s : Sys) (t : Thread) (p : Panel) (a : BitVec 8) : Nat :=
  if a.toNat < 240 then (t.getV (physReg p.regs p.band t.rotbase a.toNat)).toNat
  else if a.toNat < 248 then
    match s.yokeOf p with
    | some y => ((y.shuttles.getD (a.toNat - 240) ⟨none, []⟩).words.headD 0).toNat
    | none => 0
  else 0

/-- Pop the source if it is a shuttle. -/
def Tx.takeSource (tx : Tx s0) (p : Panel) (a : BitVec 8) : Tx s0 :=
  if 240 ≤ a.toNat ∧ a.toNat < 248 then (tx.pop p (a.toNat - 240)).2 else tx

/-- The shuttle row for one source: go on, stall, or trap. -/
def Tx.withSource (tx : Tx s0) (t : Thread) (p : Panel) (l : Launch) (a : BitVec 8) (go : Tx s0 → Tx s0) : Tx s0 × Bool :=
  if 240 ≤ a.toNat ∧ a.toNat < 248 then
    if p.yoke.isNone then (tx.raise t tILLCONV 0, true)
    else match shuttleReady tx.sys p l (a.toNat - 240) false with
      | .trap n => (tx.raise t tSHUTTLE (BitVec.ofNat 32 n), true)
      | .stall => (tx, false)
      | .ok => (go tx, true)
  else (go tx, true)

/-- `BRI` (R147). -/
def execBri (p a : BitVec 8) (s : State) : Host.Outcome State Fault Refusal :=
  ((Tx.start s).eachThread fun tx t q l =>
    if !controlOk (.bri p a) true t q then (tx.raise t tILLOP 0, true)
    else if q.aheadOf t.tid && (form (.bri p a) t.hints).poisoned t q then (tx.endAhead q.key, true)
    else tx.withSource t q l a fun tx => tx.indirect t q l (peekSource tx.sys t q a) p (fun tx => tx.takeSource q a)).done

/-- `LOOP` (R150). -/
def execLoop (p : BitVec 8) (o : BitVec 16) (s : State) : Host.Outcome State Fault Refusal :=
  control (.loop p o) true (fun _ tx t q l =>
    match directTarget tx.sys l t o with
    | none => tx.raise t tILLOP 0
    | some k =>
      tx.unlessPoisoned (.loop p o) t q fun tx =>
        let c := match t.hints.hopd with
          | some h => physReg q.regs q.band t.rotbase h.c.toNat
          | none => 0
        let n := (t.getV c).toNat
        let rot := if (modeOf t.hints).testBit 0 && q.band > 0 then (t.rotbase + t.rotstep) % (8 * q.band) else t.rotbase
        if n > 1 then tx.transfer t q l k.1 p [(c, BitVec.ofNat 32 (n - 1))] rot k.2
        else tx.advance { (t.setV c 0) with rotbase := rot } l) s

/-! ## Ends, waits, nothing -/

/-- `YIELD` (R149). -/
def execYield (p : BitVec 8) (s : State) : Host.Outcome State Fault Refusal :=
  control (.yield p) true (fun _ tx t _ l => tx.advance { t with prio := p } l) s

/-- `WAITF` (R151): the thread's entry then waits (R122). -/
def execWaitf (f : BitVec 12) (s : State) : Host.Outcome State Fault Refusal :=
  control (.waitf f) false (fun _ tx t _ l => tx.advance { t with pend := some (.waitf f) } l) s

/-- `NOP` (R156). -/
def execNop (s : State) : Host.Outcome State Fault Refusal :=
  control .nop false (fun _ tx t _ l => tx.advance t l) s

/-! ## Rejoin masks (R138 to R142) -/

/-- Place of mask j of a thread's seam in its panel's list. -/
def Panel.maskIx (p : Panel) (tid j : Nat) : Nat := 16 * p.seamOf tid + j

def Panel.mask (p : Panel) (k : Nat) : Mask := p.masks.getD k ⟨0, 0⟩

/-- A lane's bit. -/
def laneBit (p : Panel) (tid : Nat) : BitVec 128 := BitVec.ofNat 128 (2 ^ p.laneOf tid)

/-- The release of a parked thread (R139). -/
def Thread.unpark (t : Thread) : Thread :=
  match t.phase with
  | .parked _ pc prio => { t with phase := .ready, pc := pc, prio := prio }
  | _ => t

/-- Is a thread parked on mask place `k` of its panel? -/
def Thread.parkedOn (t : Thread) (p : Panel) (k : Nat) : Bool :=
  match t.phase with
  | .parked j _ _ => t.panel == p.key && p.maskIx t.tid j == k
  | _ => false

/-- A mask that completes releases its arrived threads and is cleared (R139). -/
def Tx.completeMask (tx : Tx s0) (panel k : Nat) : Tx s0 :=
  match tx.sys.panel? panel with
  | none => tx
  | some p =>
    let m := p.mask k
    if m.arrived = 0 ∨ m.arrived ≠ m.enrolled then tx
    else tx.mod fun s => { s.setPanel { p with masks := p.masks.set k ⟨0, 0⟩ } with
      threads := s.threads.map fun t => if t.parkedOn p k then t.unpark else t }

/-- Change mask place `k` of a panel. -/
def Tx.setMask (tx : Tx s0) (panel k : Nat) (f : Mask → Mask) : Tx s0 :=
  tx.mod fun s => match s.panel? panel with
    | some p => s.setPanel { p with masks := p.masks.set k (f (p.mask k)) }
    | none => s

/-- A mask word: refused in a travelling launch (R142); then, for the stitch's threads at once, `f` on mask j of their
seam and `g` on the thread; completion is tested last (R140). -/
def maskWord (i : Instr) (last : Bool) (j : BitVec 4) (f : BitVec 128 → Mask → Mask)
    (g : (s : State) → Tx s → Thread → Panel → Launch → Tx s) (bad : Mask → BitVec 128 → Bool)
    (s : State) : Host.Outcome State Fault Refusal :=
  let tx := (Tx.start s).eachOf fun tx t p l =>
    if !controlOk i last t p then tx.raise t tILLOP 0
    else if l.travelling then tx.raise t tILLCONV 0
    else
      let k := p.maskIx t.tid j.toNat
      if bad (p.mask k) (laneBit p t.tid) then tx.raise t tILLCONV 0
      else g s (tx.setMask p.key k (f (laneBit p t.tid))) t p l
  (tx.each s.sys.stitch fun tx x => tx.completeMask x.2.1.key (x.2.1.maskIx x.1.tid j.toNat)).done

/-- `ENROL` (R152). -/
def execEnrol (j : BitVec 4) (s : State) : Host.Outcome State Fault Refusal :=
  maskWord (.enrol j) false j (fun b m => { m with enrolled := m.enrolled ||| b })
    (fun _ tx t _ l => tx.advance t l) (fun _ _ => false) s

/-- `PARK` (R153): a thread that is not enrolled traps alone. -/
def execPark (p : BitVec 8) (j : BitVec 4) (s : State) : Host.Outcome State Fault Refusal :=
  maskWord (.park p j) true j (fun b m => { m with arrived := m.arrived ||| b })
    (fun _ tx t _ l => tx.mod fun s =>
      s.setThread { (t.advance (s.nmapOf l)) with phase := .parked j.toNat (t.pc + 1) p })
    (fun m b => m.enrolled &&& b == 0) s

/-- `STRIKE` (R154). -/
def execStrike (j : BitVec 4) (s : State) : Host.Outcome State Fault Refusal :=
  maskWord (.strike j) false j (fun b m => ⟨m.enrolled &&& ~~~b, m.arrived &&& ~~~b⟩)
    (fun _ tx t _ l => tx.advance t l) (fun _ _ => false) s

/-- `EXIT` (R148, R141); late reports not yet taken are taken by no thread (R475); a panel that is at its end discards
what it holds (R52). -/
def execExit (s : State) : Host.Outcome State Fault Refusal :=
  let tx := (Tx.start s).eachOf fun tx t p l =>
    if !controlOk .exit true t p then tx.raise t tILLOP 0
    else if p.aheadOf t.tid then tx.endAhead p.key
    else
      let tx := tx.each (List.range 16) fun tx j =>
        tx.setMask p.key (p.maskIx t.tid j) fun m => ⟨m.enrolled &&& ~~~laneBit p t.tid, m.arrived &&& ~~~laneBit p t.tid⟩
      let tx := tx.each t.late fun tx e => tx.lateLost t p l e
      tx.mod fun s => s.setThread { t with phase := .exited, hints := Hints.empty, pend := none, late := [] }
  let tx := tx.each s.sys.stitch fun tx x =>
    tx.each (List.range 16) fun tx j => tx.completeMask x.2.1.key (x.2.1.maskIx x.1.tid j)
  (tx.each (s.sys.stitch.map fun x => x.2.1.key).eraseDups fun tx p => tx.discardHeld p).done

/-- `JQRY` (R155). -/
def execJqry (d : BitVec 8) (x : BitVec 1) (j : BitVec 4) (s : State) : Host.Outcome State Fault Refusal :=
  control (.jqry d x j) false (fun _ tx t p l =>
    if l.travelling then tx.raise t tILLCONV 0
    else
      let m := p.mask (p.maskIx t.tid j.toNat)
      let v := (if x = 0 then m.enrolled else m.arrived).toNat
      let half := if p.laneOf t.tid ≥ 64 then v / 2 ^ 64 else v % 2 ^ 64
      let dst := t.group p d.toNat 2
      tx.advance ((t.putNat dst half).markPoison dst 0 false) l) s

end Sys2Proof.Machine
end

