-- ==== Sys2Proof/Machine/Travel.lean ====
section
/-! DEFINITION. Opcodes 0xE4 to 0xE6 (R377, R386 to R392), and where a parcel goes. -/

namespace Sys2Proof.Machine

variable {s0 : State}

/-! ## Holders and spools (R377, R379, R387) -/

/-- Distance of a core from another (R377). -/
def distance (s : Sys) (part src dst : Nat) : Nat :=
  if src = dst then 0
  else if s.logical part src / 4 = s.logical part dst / 4 then 1
  else if dieOf src = dieOf dst then 2 else 3

/-- The holder of a piece that a parcel is sent to: lowest reported occupancy, with the parcels of its own stitch
counted, if it is one of several, then nearest, then lowest logical core (R374, R377). -/
def chooseHolder (s : Sys) (l : Launch) (piece src : Nat) (group : Option Nat) : Option Nat :=
  let own (c : Nat) : Nat := (s.parcels.filter fun p => p.launch == l.key && p.dest.isNone && group == some p.group
    && (p.phase == .net c || p.phase == .spool c || p.phase == .spilled c)).length + s.sent.countP fun e => group == some e.1 && e.2 == c
  leastBy (fun c => ((s.core c).reported + own c) * 2 ^ 16 + distance s l.part src c * 2 ^ 12 + s.logical l.part c)
    (l.holders.getD piece [])

/-- Is it a message? -/
def Parcel.isMessage (p : Parcel) : Bool := p.dest.isSome

/-- Spool entries of a core in use: what it holds, and the credits of messages on their way. -/
def Sys.spoolUse (s : Sys) (core : Nat) : Nat :=
  (s.parcels.filter fun p => p.phase == .spool core || (p.isMessage && p.phase == .net core)).length

/-- A message of a sender to a destination, older than a key, still waits to leave (R387). -/
def Sys.messageHeld (s : Sys) (src : Nat × Nat) (dest : Option Nat) (before : Nat) : Bool :=
  s.parcels.any fun r => r.key < before && r.isMessage && r.src == src && r.dest == dest && (match r.phase with
    | .waiting | .saved _ => true
    | _ => false)

/-- A message can take an entry of a core's spool (R387). -/
def Sys.credit (s : Sys) (core : Nat) (src : Nat × Nat) (dest : Option Nat) (before : Nat) : Bool :=
  s.spoolUse core < 256 && !s.messageHeld src dest before

/-! ## Words -/

/-- A handler of the launch's code object: its portable index, priority and registers. -/
def Sys.handler (s : Sys) (l : Launch) (h : Nat) : Option (Nat × Byte × Nat) :=
  (s.objectOf l).bind fun o => (o.handlers[h]?).map fun r =>
    let e := o.entries.getD r.1 (0, 0, 0)
    (e.1, e.2.1, r.2)

/-- `TRAVEL` (R390): always a departure, within the thread's own piece too. -/
def execTravel (p a : BitVec 8) (s : State) : Host.Outcome State Fault Refusal :=
  ((Tx.start s).eachThread fun tx t q l =>
    let i := Instr.travel p a
    if !(formOk q.regs (form i t.hints) t.hints && clauseOk t i && (match t.nat with
        | some n => n.left == 1
        | none => true)) || !l.travelling then (tx.raise t tILLOP 0, true)
    else if q.handlerOf.isSome then
      (tx.raise t (if peekSource tx.sys t q a ≥ tx.sys.textWords l then tILLOP else tILLCONV) 0, true)
    else if q.aheadOf t.tid then (tx.endAhead q.key, true)
    else tx.withSource t q l a fun tx =>
      tx.depart t q l (peekSource tx.sys t q a) p [] t.rotbase fun tx => tx.takeSource q a).done

/-- Where a message of `PSEND` goes: its destination panel, and the core, if it can be sent now. -/
inductive MsgRoute where
  | goes (panel core : Nat)
  /-- the destination panel has retired: the message is discarded (R388) -/
  | gone
  /-- no core yet: not placed, or no holder -/
  | wait

/-- The panel of a launch with a `%pid`. -/
def Sys.panelByPid (s : Sys) (l : Launch) (pid : Nat) : Option Panel :=
  s.panels.find? fun p => p.launch == l.key && p.pid == pid && p.handlerOf.isNone

/-- The route of a message (R386). In a travelling launch its panel is the sender's, for a handler the panel it runs for
(R388). -/
def msgRoute (s : Sys) (t : Thread) (p : Panel) (l : Launch) (dst h : Nat) : MsgRoute :=
  if l.travelling then
    match s.handler l h with
    | none => .wait
    | some (ix, _, _) =>
      let piece := ((s.objectOf l).bind (·.marker)).bind fun m => m.pieceAt ix
      match piece.bind fun k => chooseHolder s l k t.core none with
      | some c => .goes (p.handlerOf.getD p.key) c
      | none => .wait
  else
    match s.panelByPid l dst with
    | some q => if q.phase = .out then .wait else .goes q.key q.core
    | none => if dst / l.perYoke < l.nextYoke then .gone else .wait

/-- The checks of R391: a trap, or none. -/
def psendTrap (s : Sys) (t : Thread) (p : Panel) (l : Launch) (h a b : BitVec 8) : Option (Byte × Word) :=
  let pr := t.pair p b.toNat
  let dst := pr % 2 ^ 32
  let n := pr / 2 ^ 32
  match s.handler l h.toNat with
  | none => some (tILLOP, 0)
  | some (ix, _, _) =>
    if n > 64 then some (tILLOP, 0)
    else if n > 0 ∧ (a.toNat ≥ 240 ∨ !(List.range n).all fun i => heldReg p.regs (a.toNat + i)) then some (tILLOP, 0)
    else if l.travelling then
      (if dst ≠ 0xFFFFFFFF then some (tILLOP, 0)
       else if ((s.objectOf l).bind (·.marker)).any fun m => (m.entryAt ix).isSome then none
       else some (tMARKMISS, BitVec.ofNat 32 ix))
    else if dst ≥ l.panels then some (tILLOP, 0) else none

/-- `PSEND` (R391); it issues once the threads' earlier writes have been performed and a message of the stitch can leave
(Units.lean); a thread that finds no entry left at its destination stays behind (R387, R391). -/
def execPsend (h a b : BitVec 8) (s : State) : Host.Outcome State Fault Refusal :=
  engineWord (.psend h a b) anyThread (fun _ tx t p l =>
    match psendTrap tx.sys t p l h a b with
    | some (c, v) => tx.raise t c v
    | none =>
      let pr := t.pair p b.toNat
      let n := pr / 2 ^ 32
      match tx.sys.handler l h.toNat, msgRoute tx.sys t p l (pr % 2 ^ 32) h.toNat with
      | some (ix, prio, _), .goes q core =>
        if !tx.sys.credit core (p.key, t.tid) (some q) tx.fresh then tx
        else
        let tx := tx.release t.core obsC
        let piece := (((tx.sys.objectOf l).bind (·.marker)).bind fun m => m.pieceAt ix).getD 0
        let pid := ((tx.sys.panel? q).map (·.pid)).getD 0
        let w (x : Nat) : Word := BitVec.ofNat 32 x
        let header := [w ix, w (2 * 2 ^ 24 + prio.toNat * 2 ^ 16 + n), l.id, w pid, 0, w (piece * 2 ^ 24 + h.toNat * 2 ^ 16),
          w (tx.sys.logical l.part t.core), 0]
        let carried := if n = 0 then [] else (t.group p a.toNat n).map t.getV
        (tx.take.mod fun s =>
          { s with parcels := s.parcels ++ [⟨tx.fresh, l.key, header, carried, .net core, some q, s.nonce, (p.key, t.tid)⟩] }).advance t l
      | _, .gone =>
        ((tx.release t.core obsC).mod fun s => s.mapLaunches fun x => if x.key = l.key then { x with lostMsg := true } else x).advance t l
      | _, _ => tx) s

/-- `PQRY` at issue (R392). -/
def execPqry (d k : BitVec 8) (s : State) : Host.Outcome State Fault Refusal :=
  engineWord (.pqry d k) (fun _ _ _ => k.toNat < 5) (fun _ tx t p l =>
    tx.issueOp t l (.pqry d k) (.pqry k.toNat) none (((form (.pqry d k) t.hints).dst.map fun o => o.dest t p).getD [])) s

end Sys2Proof.Machine
end

