-- ==== Sys2Proof/Machine/Complete.lean ====
section
/-! DEFINITION. How operations and held instructions end: `MEMORY_OP_COMPLETE`, `LATE_REPORT`, `PAGE_WALK_COMPLETE`,
`TKWAIT_COMPLETE`, `BBAWAIT_COMPLETE`, `ACQ_SATISFIED`, `WAIT_DONE`, `RELEASE_COMPLETE`, `INVAL_COMPLETE`,
`INTERLEAVE_SWITCH_END`, `BINNING_APPEND`, `DEFERRED_APPEND_REPLAY` (R265 to R272, R290, R340 to R343, R475). -/

namespace Sys2Proof.Machine

variable {s0 : State}

/-- An event that happens where it is due, and is passed over elsewhere (assumption log 40). -/
def eventStep (s : State) (isDue : Bool) (f : Tx s → Tx s) : Host.Outcome State Fault Refusal :=
  if isDue then (f (Tx.start s)).done else .next s

/-! ## A thread and its checkpoint -/

/-- Change a thread, and its copy in a run-ahead checkpoint (R432). -/
def Sys.updThread (s : Sys) (panel tid : Nat) (f : Thread → Thread) : Sys :=
  let at_ (t : Thread) : Thread := if t.panel = panel ∧ t.tid = tid then f t else t
  { s with
    threads := s.threads.map at_
    panels := s.panels.map fun p =>
      if p.key = panel then { p with ahead := p.ahead.map fun a => { a with saved := a.saved.map at_ } } else p }

def Tx.updThread (tx : Tx s0) (panel tid : Nat) (f : Thread → Thread) : Tx s0 := tx.mod fun s => s.updThread panel tid f

def Tx.finishOp (tx : Tx s0) (t : Thread) (o : Op) : Tx s0 := tx.updThread t.panel t.tid fun u => u.finish o

/-- A result whose destination is a shuttle is pushed (R93); room was kept for it at issue. -/
def Tx.pushDest (tx : Tx s0) (t : Thread) (dst : List Nat) (v : Nat) : Tx s0 :=
  match dst, tx.sys.panel? t.panel with
  | [k], some p => if 240 ≤ k then tx.push p (k - 240) (BitVec.ofNat 32 v) else tx
  | _, _ => tx

/-- Registers written with values of their own. -/
def Thread.putEach (t : Thread) (ws : List (Nat × Word)) : Thread := ws.foldl (fun t e => t.setV e.1 e.2) t

/-- It ends with its destination written. -/
def Tx.finishWith (tx : Tx s0) (t : Thread) (o : Op) (v : Nat) : Tx s0 :=
  (tx.pushDest t o.dst v).updThread t.panel t.tid fun u => (u.putNat o.dst v).finish o

/-- A report that waits for its point (R475); one of a thread that has exited is lost. -/
def Tx.addLate (tx : Tx s0) (t : Thread) (p : Panel) (l : Launch) (e : Late) : Tx s0 :=
  if t.phase = .exited then tx.lateLost t p l e
  else tx.updThread t.panel t.tid fun u => { u with late := u.late ++ [e] }

/-- A thread can take a trap now: it stands in its frontier, between instructions or repeats. -/
def Thread.takable (t : Thread) (p : Panel) : Bool :=
  t.phase == .ready && t.pend.isNone && p.ahead.isNone && (t.hints.first.isNone || t.repidx != 0)

/-- An operation ends in a trap of its thread (R243, R290, R306); the trap waits where the thread cannot take it. -/
def Tx.opTrap (tx : Tx s0) (t : Thread) (p : Panel) (l : Launch) (o : Op) (code : Byte) (value : Word) (i : Info) : Tx s0 :=
  let tx := (tx.finishOp t o).unpop p o.popped
  match tx.sys.thread? t.panel t.tid with
  | none => tx
  | some u =>
    if u.takable p then tx.raiseAt u code value i o.pc
    else tx.addLate u p l ⟨code, value, o.pc, o.flag, i.slot, i.offset, true, i.write⟩

/-! ## When an operation may end (R265) -/

/-- Where an access falls: place (0 this package, else the peer's number + 1), first byte, bytes. Accesses of a thread to one peer keep
their order. -/
def Access.span (a : Access) : Nat × Nat × Nat :=
  match a.target with
  | .home addr _ _ _ _ => (0, addr, a.size)
  | .peer d => (d + 1, 0, 1)

def Op.spans (o : Op) : List (Nat × Nat × Nat) :=
  match o.kind with
  | .kvap cs => cs.map fun c => c.1.span
  | .bbawait _ => []
  | _ => (o.acc.map Access.span).toList

def spansMeet (x y : Nat × Nat × Nat) : Bool := x.1 == y.1 && x.2.1 < y.2.1 + y.2.2 && y.2.1 < x.2.1 + x.2.2

def Op.meets (a b : Op) : Bool := a.spans.any fun x => b.spans.any fun y => spansMeet x y

/-- Links that a launch's fabric domain assigns to a peer. A declaration may name a peer outside the domain, or with domain 0: no link
is then known to be down, and what comes back from there is free (R13, assumption log 180). -/
def Sys.peerLinks (s : Sys) (l : Launch) (device : Nat) : Option (BitVec 18) :=
  (s.domains.find? fun d => d.num == l.domain).bind fun d =>
    (d.peers.find? fun q => q.device == device).map (·.links)

/-- All links to a peer are down (R464). -/
def Sys.peerCut (s : Sys) (l : Launch) (device : Nat) : Bool :=
  match s.peerLinks l device with
  | some m => m != 0 && (List.range 18).all fun k => !m.getLsbD k || !((s.links.getD k Link.reset).up)
  | none => false

/-- A peer is cut off, and each of its links has stayed down for too long: its accesses fail (R464). -/
def Sys.peerLost (s : Sys) (l : Launch) (device : Nat) : Bool :=
  s.peerCut l device && (match s.peerLinks l device with
    | some m => (List.range 18).all fun k => !m.getLsbD k || (s.links.getD k Link.reset).raised
    | none => false)

/-- The peer's port refuses what a thread waits for, freely, or the peer is lost (R240, R243, R464). -/
def Sys.peerFails (s : Sys) (l : Launch) (device : Nat) : Bool :=
  s.peerLost l device || Config.freeAt s.nonce 1 % 2 == 1

/-- What a peer answers to an operation, freely (R243). -/
def freeReply (s : Sys) (o : Op) : PeerReply :=
  if Config.freeAt s.nonce (2 * o.id) % 2 = 0 then .refused else .data (BitVec.ofNat 128 (Config.freeAt s.nonce (2 * o.id + 1)))

/-- What a peer answers: nothing but a failure once it is lost. -/
def Sys.peerReply (s : Sys) (l : Launch) (o : Op) (reply : PeerReply) : PeerReply :=
  match o.acc.map Access.target with
  | some (.peer d) => if s.peerLost l d then .refused else reply
  | _ => reply

/-- A request that cannot be served yet: its domain switches, the bridge trains, or its peer is cut off. -/
def Sys.routeHeld (s : Sys) (l : Launch) (core : Nat) (a : Access) : Bool :=
  match a.target with
  | .home addr _ mode num _ => s.homeHeld (dieOf core) addr mode num
  | .peer d => s.peerCut l d && !s.peerLost l d

/-- Every earlier write of the thread is done (R353). -/
def Thread.writesDone (t : Thread) (before : Nat) : Bool := !t.ops.any fun o => o.kind.writes && o.id < before

def Thread.readsDone (t : Thread) (before : Nat) : Bool :=
  !t.ops.any fun o => o.id < before && (o.kind.reads || (match o.kind with
    | .atom _ _ | .deferred _ => !o.dst.isEmpty || o.flag.any (· < 6)
    | .aqst _ _ | .pqry _ => true
    | _ => false))

/-- No tile request of the thread that is older than `before` is unfinished. -/
def Thread.tilesDone (t : Thread) (before : Nat) : Bool := !t.ops.any fun o => o.id < before && (match o.kind with
  | .tile _ => true
  | _ => false)

def obsX : BitVec 6 := 0b001000#6

/-- Home die of an access. -/
def Access.die (a : Access) : Nat :=
  match a.target with
  | .home addr _ _ _ _ => homeDie addr
  | .peer _ => 0

/-- A panel of the yoke is switched out: the yoke's deferred appends are withdrawn into the contexts, and are posted again, in
their order, when its last panel has resumed (R343, assumption log 177). -/
def Sys.withdrawn (s : Sys) (panel : Nat) : Bool :=
  (s.panel? panel).any fun p => p.phase == .out || (p.yoke.isSome && s.panels.any fun q => q.yoke == p.yoke && q.phase == .out)

/-- Deferred appends that a die holds. -/
def Sys.deferredOn (s : Sys) (die : Nat) : Nat :=
  ((s.threads.filter fun t => !s.withdrawn t.panel).map fun t => (t.ops.filter fun o => match o.kind with
    | .deferred _ => o.acc.any fun a => a.die == die
    | _ => false).length).sum

/-- An append of the launch that was deferred, and has been withdrawn or stands at the port again: it goes before any new append
of the launch (R343). -/
def Sys.reposting (s : Sys) (e : Nat × Nat × Nat) : Bool :=
  s.withdrawn e.1 || ((s.thread? e.1 e.2.1).any fun t => t.ops.any fun o => o.id == e.2.2 && (match o.kind with
    | .atom _ _ => true
    | _ => false))

/-- A binning append stays at the port: the die's store is full (R342), its yoke's appends are withdrawn, or another append of the
launch is to be posted before it (R343), which an overflow yoke's own appends do not wait for (assumption log 177). -/
def Sys.atPort (s : Sys) (t : Thread) (p : Panel) (l : Launch) (o : Op) (a : Access) : Bool :=
  s.withdrawn p.key || s.deferredOn a.die ≥ 4096
    || (!((s.yokeOf p).any (·.overflow)) && (match l.deferred.find? s.reposting with
      | some e => e != (t.panel, t.tid, o.id)
      | none => false))

/-- Where a request goes that leaves the die: a slice of the other die, as home die and slice, or a peer, as its number + 2; none
for one that its L1 or its die serves. -/
def Sys.accessCrossing (s : Sys) (core : Nat) (kind : OpKind) (a : Access) : Option (Nat × Nat) :=
  match a.target with
  | .peer d => some (d + 2, 0)
  | .home addr key mode num _ =>
    if homeDie addr = dieOf core then none
    else
      let here := ((s.core core).l1Line (lineOf addr)).any fun (l : L1Line) => l.key == key
      let away := some (homeDie addr, (sliceOf s.ildom addr mode num).1)
      match kind with
      | .load _ => if here || (s.rdcHit (dieOf core) (lineOf addr) key).isSome then none else away
      | .store _ => if here then none else away
      | _ => away

/-- The places to which an operation's requests go beyond its die. -/
def Sys.crossing (s : Sys) (core : Nat) (o : Op) : List (Nat × Nat) :=
  match o.kind with
  | .load _ | .store _ | .atom _ _ | .acqr | .relw _ _ => (o.acc.bind (s.accessCrossing core o.kind)).toList
  | .kvap cs => cs.filterMap fun c => s.accessCrossing core o.kind c.1
  | _ => []

/-- An operation has been sent on its way: a release word goes when what it releases is done, an append when it leaves the port. -/
def Sys.underway (s : Sys) (t : Thread) (p : Panel) (l : Launch) (o : Op) : Bool :=
  match o.kind, o.acc with
  | .relw _ mask, _ => t.writesDone o.id && (mask &&& obsX == 0 || t.tilesDone o.id)
  | .atom _ _, some a => !a.bin || !s.atPort t p l o a
  | _, _ => true

/-- One source unit's traffic to one destination unit over the bridge, or to one peer, keeps its order (R344, R464): an earlier
request of the core to the same place goes first. -/
def Sys.behind (s : Sys) (t : Thread) (o : Op) : Bool :=
  let dests := s.crossing t.core o
  !dests.isEmpty && s.threads.any fun u => u.core == t.core && (match s.homeOf u with
    | some (p, l) => p.phase != .out && u.ops.any fun e =>
        e.id < o.id && s.underway u p l e && (s.crossing u.core e).any dests.contains
    | none => false)

/-- What a core's caches are to write back for an observer mask goes over the bridge, which trains (R258, R344). -/
def Sys.pushHeld (s : Sys) (core : Nat) (mask : BitVec 6) : Bool :=
  s.bridge.training && mask != 0
    && ((s.core core).l1.any (fun l => l.dirty != 0 && homeDie (l.line * 128) != dieOf core)
      || (mask &&& obsS != 0 && s.l2.any fun l => l.dirty && homeDie (l.line * 128) != dieOf core))

def opReady (s : Sys) (t : Thread) (p : Panel) (l : Launch) (o : Op) : Bool :=
  p.phase != .out && !(t.ops.any fun e => e.id < o.id && e.meets o) && !s.behind t o
    && (match o.kind with
      | .load _ | .store _ => o.acc.any fun a => !s.routeHeld l t.core a
      | .acqr => (o.acc.any fun a => !s.routeHeld l t.core a) && !s.pushHeld t.core obsC
      | .atom _ _ => o.acc.any fun a => !a.bin && !s.routeHeld l t.core a
      | .relw _ mask => (o.acc.any fun a => !s.routeHeld l t.core a) && s.underway t p l o && !s.pushHeld t.core mask
      | .kvap cs => cs.all fun c => !s.routeHeld l t.core c.1
      | .aqst stack _ => !(s.bridge.training && stack / 8 != dieOf t.core)
      | .lds _ | .sts | .pqry _ | .landing _ _ => true
      | .tkwait _ _ | .bbawait _ | .tile _ | .deferred _ | .dead _ _ => false)

/-! ## Reading and writing -/

/-- A line a load reads: none if it is poisoned (R470). -/
def Tx.loadNat (tx : Tx s0) (core : Nat) (travelling : Bool) (addr key mode num n : Nat) (through ro : Bool) :
    Option Nat × Tx s0 :=
  let line := lineOf addr
  if tx.sys.poisoned addr then (none, tx)
  else if travelling && !ro then
    let tx := tx.dropL1 core line
    let (d, tx) := tx.fetchLine (dieOf core) line key mode num
    (some (ofLeBytes (lineBytes d addr n)), tx)
  else
    let (l, tx) := tx.fillL1 core line key mode num through ro
    (some (ofLeBytes (lineBytes l.data.toNat addr n)), tx)

/-- A core is about to read a line at its home: its own dirty bytes go there, and neither its L1 nor its die's remote-data cache
keeps an older copy, which a later load would return (R350); the L2 line of another key goes (R264). -/
def Tx.homeAgain (tx : Tx s0) (core line key : Nat) : Tx s0 :=
  ((tx.dropL1 core line).rekey line key).mod fun s =>
    let d := s.die (dieOf core)
    s.setDie (dieOf core) { d with rdc := d.rdc.filter fun r => r.line != line }

/-- What an atomic returns when a peer gave its old value. -/
def peerOld (op : AtomOp) (old x : Nat) : Nat :=
  match op with
  | .add64 => old % 2 ^ 64
  | .cas => old % 2 ^ 32 + (if old % 2 ^ 32 = x % 2 ^ 32 then 2 ^ 32 else 0)
  | _ => old % 2 ^ 32

def Info.ofAccess (a : Access) (write : Bool) : Info := ⟨a.slot, a.offset, write⟩

/-- A store or a release word that cannot be performed: its late report (R475). -/
def Tx.lateOp (tx : Tx s0) (t : Thread) (p : Panel) (l : Launch) (o : Op) (a : Access) (code : Byte) (off : Nat) : Tx s0 :=
  (tx.addLate t p l ⟨code, lowWord off, o.pc, o.flag, a.slot, a.offset, false, true⟩).finishOp t o

/-- The writes of a `KVAP` (R418): a chunk that meets a live tag is left out and reported. -/
def Tx.kvapChunks (tx : Tx s0) (t : Thread) (p : Panel) (l : Launch) (o : Op) : List (Access × List Byte) → Tx s0
  | [] => tx.finishOp t o
  | (a, bs) :: rest =>
    match a.target with
    | .peer _ => tx.kvapChunks t p l o rest
    | .home addr key mode num _ =>
      match a.liveTack tx.sys with
      | some off => (tx.addLate t p l ⟨tTACKST, lowWord off, o.pc, none, a.slot, a.offset, false, true⟩).kvapChunks t p l o rest
      | none =>
        ((tx.dropL1 t.core (lineOf addr)).writeFrom t.core (lineOf addr) key mode num true
          (ofLeBytes bs * 2 ^ (8 * (addr % 128))) (byteMask addr bs.length)).kvapChunks t p l o rest

/-- The entry of a stack's error log as a partition reads it (R419). -/
def Sys.logEntry (s : Sys) (part stack index : Nat) : List Word :=
  let e := match ((s.stack stack).log.find? fun e => e.1 == index).map (·.2) with
    | some ws => ws
    | none => [0, 0, 0, 0]
  if bits (wnat e 0) 26 3 = part then e else [0, 0, 0, e.getD 3 0]

/-- The value of a `PQRY` when it is served (R392). -/
def Sys.pqryValue (s : Sys) (t : Thread) (l : Launch) (sel : Nat) : Nat :=
  match sel with
  | 0 => (s.parcels.filter fun q => q.isMessage && q.phase == .spool t.core).length * 2 ^ 16 + s.spoolUse t.core
  | 1 => if l.travelling then
      (match t.piece with
        | some k => (l.holders.getD k []).length % 256 * 256 + k % 256
        | none => 0)
    else 0xFF
  | 2 => s.logical l.part t.core
  | 3 => if l.travelling then t.travels % 2 ^ 32 else 0
  | _ => (s.panels.filter fun p => p.launch == l.key && p.handlerOf.isSome && p.core == t.core).length

/-- One operation ends (R267). -/
def Tx.completeOp (tx : Tx s0) (t : Thread) (p : Panel) (l : Launch) (o : Op) (reply : PeerReply) : Tx s0 :=
  match o.kind, o.acc with
  | .load signed, some a =>
    match a.target, reply with
    | .peer _, .refused => tx.opTrap t p l o tBUFOWNER (lowWord a.offset) (Info.ofAccess a false)
    | .peer _, .data d => tx.finishWith t o (extendLoad signed a.size (d.toNat % 2 ^ (8 * a.size)))
    | .home addr key mode num through, _ =>
      match tx.loadNat t.core l.travelling addr key mode num a.size through a.ro with
      | (none, tx) => tx.terminate l.key 0x13
      | (some v, tx) => tx.finishWith t o (extendLoad signed a.size v)
  | .store d, some a =>
    match a.target, reply with
    | .peer _, .refused => tx.lateOp t p l o a tBUFOWNER a.offset
    | .peer _, .data _ => tx.finishOp t o
    | .home _ _ _ _ _, _ =>
      match tx.storeTo t.core l.travelling a (leBytes a.size d.toNat) with
      | (some off, tx) => tx.lateOp t p l o a tTACKST off
      | (none, tx) => tx.finishOp t o
  | .lds d, _ => tx.finishWith t o d.toNat
  | .sts, _ => tx.finishOp t o
  | .atom op x, some a =>
    match a.target, reply with
    | .peer _, .refused =>
      if o.dst.isEmpty then tx.lateOp t p l o a tBUFOWNER a.offset
      else tx.opTrap t p l o tBUFOWNER (lowWord a.offset) (Info.ofAccess a true)
    | .peer _, .data d => tx.finishWith t o (peerOld op d.toNat x.toNat)
    | .home addr _ _ _ _, _ =>
      if tx.sys.poisoned addr then tx.terminate l.key 0x13
      else match a.liveTack tx.sys with
      | some off =>
        if o.dst.isEmpty then tx.lateOp t p l o a tTACKST off
        else tx.opTrap t p l o tTACKST (lowWord off) (Info.ofAccess a true)
      | none =>
        let (v, tx) := tx.atHome t.core a fun m => atomResult op m x.toNat
        tx.finishWith t o v
  | .landing ws _, _ => tx.updThread t.panel t.tid fun u => (u.putEach ws).finish o
  | .acqr, some a =>
    match a.target, reply with
    | .peer _, .refused => tx.opTrap t p l o tBUFOWNER (lowWord a.offset) (Info.ofAccess a false)
    | .peer _, .data d => (tx.acquire t.core obsC).finishWith t o (d.toNat % 2 ^ 32)
    | .home addr key _ _ _, _ =>
      if tx.sys.poisoned addr then tx.terminate l.key 0x13
      else
        let tx := tx.homeAgain t.core (lineOf addr) key
        let v := tx.st.homeNat addr 4 key
        (tx.acquire t.core obsC).finishWith t o v
  | .relw data mask, some a =>
    let tx := tx.release t.core mask
    match a.target, reply with
    | .peer _, .refused => tx.lateOp t p l o a tBUFOWNER a.offset
    | .peer _, .data _ => tx.finishOp t o
    | .home _ _ _ _ _, _ =>
      match a.liveTack tx.sys with
      | some off => tx.lateOp t p l o a tTACKST off
      | none => (tx.atHome t.core a fun _ => (0, data.toNat)).2.finishOp t o
  | .kvap cs, _ => tx.kvapChunks t p l o cs
  | .aqst stack index, _ => tx.finishWith t o (ofLeBytes (bytesOfWords (tx.sys.logEntry l.part stack index)))
  | .pqry sel, _ => tx.finishWith t o (tx.sys.pqryValue t l sel)
  | _, _ => tx

/-- An operation of a thread, with all it needs. -/
def Sys.opOf (s : Sys) (panel tid op : Nat) : Option (Thread × Panel × Launch × Op) :=
  match s.thread? panel tid with
  | none => none
  | some t =>
    match s.homeOf t, t.ops.find? fun o => o.id == op with
    | some (p, l), some o => some (t, p, l, o)
    | _, _ => none

/-- `MEMORY_OP_COMPLETE`. -/
def execMemoryOpComplete (panel tid op : Nat) (reply : PeerReply) (s : State) : Host.Outcome State Fault Refusal :=
  match s.sys.opOf panel tid op with
  | some (t, p, l, o) => eventStep s (opReady s.sys t p l o) fun tx => tx.completeOp t p l o (s.sys.peerReply l o reply)
  | none => .next s

/-! ## Late reports and walks -/

/-- The report a thread takes now. -/
def lateDue (s : Sys) (t : Thread) (p : Panel) (l : Launch) : Option Late :=
  if p.lets t.tid && !l.out then latePoint s t p l else none

/-- `LATE_REPORT` (R475, R287): the trap is taken before the instruction at its point. -/
def execLateReport (panel tid : Nat) (s : State) : Host.Outcome State Fault Refusal :=
  match s.sys.thread? panel tid with
  | none => .next s
  | some t =>
    match s.sys.homeOf t with
    | none => .next s
    | some (p, l) =>
      match lateDue s.sys t p l with
      | none => .next s
      | some e =>
        let t := { t with late := t.late.erase e, pend := none }
        let tx := (Tx.start s).mod fun s => s.setThread t
        (tx.raiseAt t e.code e.value ⟨e.slot, e.offset, e.write⟩ e.pc).done

/-- Walkers of a die (R249). -/
def walkers : Nat := 1024

/-- A walk that a walker of its die serves: they take the walks in order of arrival, and one of a table that may lie behind a
bridge in training waits (R249, R344). -/
def Sys.walking (s : Sys) (w : Walk) : Bool :=
  let die := dieOf w.core
  w.failed.isNone
    && (((s.walks.filter fun x => x.failed.isNone && dieOf x.core == die).take walkers).any fun x => x.key == w.key)
    && !(s.bridge.training && (s.part? w.part).any fun p => p.onDie (1 - die))

/-- Every walker of a die has a walk (R249). -/
def Sys.walkersBusy (s : Sys) : Bool :=
  (List.range 2).any fun die => (s.walks.filter fun w => w.failed.isNone && dieOf w.core == die).length ≥ walkers

/-- The walk of a prefetch has been made: the line comes if the access is now good (R276). -/
def Tx.prefetchWalked (tx : Tx s0) (w : Walk) (level slot off : Nat) : Tx s0 :=
  match tx.sys.thread? w.panel w.tid with
  | none => tx
  | some t =>
    match tx.sys.homeOf t with
    | none => tx
    | some (p, l) =>
      match checkAccess tx.st { portOf p l t with core := w.core } slot off 1 1 rRd false with
      | .ok a => tx.prefetch w.core level l.travelling a
      | _ => tx

/-- `PAGE_WALK_COMPLETE` (R249, R250, R443); of a table in a poisoned line the launch ends (R470). -/
def execPageWalkComplete (walk : Nat) (s : State) : Host.Outcome State Fault Refusal :=
  match s.sys.walks.find? fun w => w.key == walk && s.sys.walking w with
  | none => .next s
  | some w =>
    let drop (tx : Tx s) : Tx s := tx.mod fun s => { s with walks := s.walks.filter fun x => x.key != walk }
    let found := ((s.sys.part? w.part).map fun p => Sys2Proof.Machine.walk s p w.va).getD .bad
    match w.pref, found with
    | some _, .hole | some _, .spoiled => (drop (Tx.start s)).done
    | some (level, slot, off), _ =>
      (drop (((Tx.start s).walkNow w.part w.core w.va w.right).2.prefetchWalked w level slot off)).done
    | none, .spoiled => (match (s.sys.panel? w.panel).bind s.sys.launchOf with
      | some l => (drop (Tx.start s)).terminate l.key 0x13
      | none => drop (Tx.start s)).done
    | none, _ =>
      match (Tx.start s).walkNow w.part w.core w.va w.right with
      | (some _, tx) => (drop tx).done
      | (none, tx) => (tx.mod fun s =>
          { s with walks := s.walks.map fun x => if x.key = walk then { x with failed := some true } else x }).done

/-! ## Waits on objects -/

/-- Where a tack lies, with nothing changed. -/
def State.tackAt (st : State) (r : TackRef) : Loc × Tx st := (Tx.start st).locate r rRd

/-- The peer at which a tack lies, and what a fault record says of it. -/
def TackRef.device : TackRef → Nat
  | .mem _ _ d _ => Decl.peer d
  | _ => 0

def TackRef.info (l : Launch) : TackRef → Info
  | .mem _ _ d off => ⟨(l.decls.findIdx? (· == d)).getD 0, off, false⟩
  | _ => Info.none

/-- A peer answers a wait: when it chooses, or never again once it is lost (R464). -/
def Sys.peerAnswers (s : Sys) (l : Launch) (device : Nat) : Bool :=
  s.peerLost l device || (Config.freeBool s.nonce && !s.peerCut l device)

/-- A `TKWAIT` that can complete: its tack is dead, or its phase differs. -/
def tkwaitReady (st : State) (l : Launch) (die : Nat) (tack : TackRef) (ph : Bool) : Bool :=
  let r := st.tackAt tack
  match r.1 with
  | .away => st.sys.peerAnswers l tack.device
  | .mem a _ m n => !st.sys.homeHeld die a m n && (!r.2.tackLive r.1 || TackWord.phase (r.2.tackRead r.1) != ph)
  | loc => !r.2.tackLive loc || TackWord.phase (r.2.tackRead loc) != ph

/-- The first waiter of a bobbin, in order of arrival. -/
def firstWaiter (s : Sys) (a : Access) (op : Nat) : Bool :=
  !s.threads.any fun t => t.ops.any fun o => match o.kind with
    | .bbawait b => b.target == a.target && o.id < op
        && ((s.panel? t.panel).any fun p => p.phase != .out)
    | _ => false

def bbawaitReady (st : State) (l : Launch) (die : Nat) (a : Access) (op : Nat) : Bool :=
  match a.target with
  | .peer d => st.sys.peerAnswers l d
  | .home addr key mode num _ =>
    let w := st.objWords (.mem addr key 0 0) 16
    !st.sys.homeHeld die addr mode num && (!st.sys.tagged (wordIx addr) || (Bobbin.write w != Bobbin.read w && firstWaiter st.sys a op))

/-- The wait on an object can end. -/
def waitOver (st : State) (t : Thread) (p : Panel) (l : Launch) (o : Op) : Bool :=
  p.phase != .out && !st.sys.pushHeld t.core obsC && (match o.kind with
    | .tkwait tack ph => tkwaitReady st l (dieOf t.core) tack ph
    | .bbawait a => bbawaitReady st l (dieOf t.core) a o.id
    | .dead _ _ => true
    | _ => false)

/-- An object in a poisoned line (R470). -/
def Loc.spoiled (s : Sys) : Loc → Bool
  | .mem addr _ _ _ => s.poisoned addr
  | _ => false

/-- It ends: the acquire and the result, or the trap of an object that is dead (R306, R307). -/
def Tx.waitEnd (tx : Tx s0) (t : Thread) (p : Panel) (l : Launch) (o : Op) : Tx s0 :=
  match o.kind with
  | .tkwait tack ph =>
    let (loc, tx) := tx.locate tack rRd
    let w := tx.tackRead loc
    if loc.spoiled tx.sys then tx.terminate l.key 0x13
    else if loc = .away && tx.sys.peerFails l tack.device then tx.opTrap t p l o tBUFOWNER tack.value (tack.info l)
    else if loc != .away && !tx.tackLive loc then tx.opTrap t p l o tTKMISUSE tack.value Info.none
    else
      let v := if loc = .away then TackWord.make (!ph) (TackWord.arrivals w) (TackWord.bytes w) else w
      (tx.acquire t.core obsC).finishWith t o v
  | .bbawait a =>
    match a.target with
    | .peer d =>
      if tx.sys.peerFails l d then tx.opTrap t p l o tBUFOWNER (lowWord a.offset) (Info.ofAccess a true)
      else (tx.acquire t.core obsC).finishWith t o (Config.freeNat tx.sys.nonce % 2 ^ 64)
    | .home addr _ _ _ _ =>
      if tx.sys.poisoned addr then tx.terminate l.key 0x13
      else if !tx.sys.tagged (wordIx addr) then tx.opTrap t p l o tBBMISUSE (lowWord a.offset) Info.none
      else
        let w := tx.st.objWords a.loc 16
        let n := Bobbin.read w
        let tx := tx.objWrite a.loc 28 [BitVec.ofNat 32 (n + 1)]
        (tx.acquire t.core obsC).finishWith t o (n % max 1 (Bobbin.maxSlots w) + n * 2 ^ 32)
  | .dead code value => tx.opTrap t p l o code value Info.none
  | _ => tx

/-- `TKWAIT_COMPLETE` (R306). -/
def execTkwaitComplete (panel tid op : Nat) (s : State) : Host.Outcome State Fault Refusal :=
  match s.sys.opOf panel tid op with
  | some (t, p, l, o) => eventStep s (waitOver s t p l o) fun tx => tx.waitEnd t p l o
  | none => .next s

/-- `BBAWAIT_COMPLETE` (R307). -/
def execBbawaitComplete (panel tid op : Nat) (s : State) : Host.Outcome State Fault Refusal :=
  match s.sys.opOf panel tid op with
  | some (t, p, l, o) => eventStep s (waitOver s t p l o) fun tx => tx.waitEnd t p l o
  | none => .next s

/-- A word as a core reads it at its home: its own dirty bytes are there by then (R265). -/
def State.ownNat (st : State) (core addr key n : Nat) : Nat :=
  ((Tx.start st).homeAgain core (lineOf addr) key).st.homeNat addr n key

/-- No operation of the thread on the bytes of an access is unfinished (R265). -/
def Thread.clearOf (t : Thread) (a : Access) : Bool := !t.ops.any fun o => o.spans.any (spansMeet a.span)

/-- The count has reached the target (R366). -/
def countMet (c b : Nat) : Bool := (c + 2 ^ 64 - b) % 2 ^ 64 < 2 ^ 63

/-- A held instruction of a thread, with all it needs. -/
def Sys.pendOf (s : Sys) (panel tid : Nat) : Option (Thread × Panel × Launch × Pend) :=
  match s.thread? panel tid with
  | none => none
  | some t =>
    match s.homeOf t, t.pend with
    | some (p, l), some x => some (t, p, l, x)
    | _, _ => none

/-- The thread goes on with its result written. -/
def Tx.release_ (tx : Tx s0) (t : Thread) (dst : List Nat) (v : Nat) : Tx s0 :=
  (tx.pushDest t dst v).mod fun s => s.setThread { (t.putNat dst v) with pend := none }

/-- The shuttle and the word that a held instruction took (R97). -/
def Thread.heldPop (t : Thread) : Option (Nat × Word) :=
  match t.pend with
  | some (.wait _ _ _ _ x) => x
  | _ => none

/-- A held instruction ends in a trap that names it. -/
def Tx.raisePend (tx : Tx s0) (t : Thread) (p : Panel) (code : Byte) (value : Word) (i : Info) : Tx s0 :=
  (tx.unpop p t.heldPop).raiseAt { t with pend := none } code value i t.pendAt

def acqReady (st : State) (t : Thread) (p : Panel) (l : Launch) (a : Access) (target : DWord) : Bool :=
  p.lets t.tid && t.clearOf a && !st.sys.pushHeld t.core obsC && match a.target with
    | .peer d => st.sys.peerAnswers l d
    | .home addr key mode num through =>
      !st.sys.routeHeld l t.core { a with target := .home addr key mode num through }
        && countMet (st.ownNat t.core addr key 8) target.toNat

/-- `ACQ_SATISFIED` (R366). -/
def execAcqSatisfied (panel tid : Nat) (s : State) : Host.Outcome State Fault Refusal :=
  match s.sys.pendOf panel tid with
  | some (t, p, l, .acq a dst target) =>
    eventStep s (acqReady s t p l a target) fun tx =>
      match a.target with
      | .peer d =>
        if tx.sys.peerFails l d then tx.raisePend t p tBUFOWNER (lowWord a.offset) (Info.ofAccess a false)
        else (tx.acquire t.core obsC).release_ t dst ((target.toNat + Config.freeNat tx.sys.nonce % 2 ^ 63) % 2 ^ 64)
      | .home addr key _ _ _ =>
        if tx.sys.poisoned addr then tx.terminate l.key 0x13 else
        let v := tx.st.ownNat t.core addr key 8
        ((tx.homeAgain t.core (lineOf addr) key).acquire t.core obsC).release_ t dst v
  | _ => .next s

def waitReady (st : State) (t : Thread) (p : Panel) (l : Launch) (a : Access) (value : Word) (ends : Nat) : Bool :=
  p.lets t.tid && t.clearOf a && !st.sys.routeHeld l t.core a && ((st.sys.die (dieOf t.core)).cyc ≥ ends || match a.target with
    | .peer _ => Config.freeBool st.sys.nonce
    | .home addr key _ _ _ => st.ownNat t.core addr key 4 != value.toNat)

/-- `WAIT_DONE` (R452). -/
def execWaitDone (panel tid : Nat) (s : State) : Host.Outcome State Fault Refusal :=
  match s.sys.pendOf panel tid with
  | some (t, p, l, .wait a dst value ends _) =>
    eventStep s (waitReady s t p l a value ends) fun tx =>
      match a.target with
      | .peer d =>
        if tx.sys.peerFails l d then tx.raisePend t p tBUFOWNER (lowWord a.offset) (Info.ofAccess a false)
        else
          let v := Config.freeNat tx.sys.nonce % 2 ^ 32
          let early := (tx.sys.die (dieOf t.core)).cyc < ends
          tx.release_ t dst (if early && v == value.toNat then (v + 1) % 2 ^ 32 else v)
      | .home addr key _ _ _ =>
        if tx.sys.poisoned addr then tx.terminate l.key 0x13
        else (tx.homeAgain t.core (lineOf addr) key).release_ t dst (tx.st.ownNat t.core addr key 4)
  | _ => .next s

/-! ## Releases -/

/-- Every write that a release waits for is done (R353, R363). -/
def Thread.releasable (t : Thread) (mask : BitVec 6) : Bool :=
  t.writesDone (2 ^ 256) && (mask &&& obsX == 0 || t.tilesDone (2 ^ 256))

/-- What the thread has issued may end: its panel runs, or comes to rest after it (R360). -/
def Panel.mayEnd (p : Panel) (tid : Nat) : Bool := p.lets tid || (p.phase == .stopping && p.batch.isNone && p.ahead.isNone)

/-- What a release waits for is done (R363, R367, R305); FENCE rel, REL and an arrival wait for writes, and a load before them may
still be outstanding (R352, assumption log 209). -/
def releaseReady (s : Sys) (t : Thread) (p : Panel) (l : Launch) : Pend → Bool
  | .fence order mask => p.mayEnd t.tid && t.releasable mask && (order == 1 || t.readsDone (2 ^ 256))
      && !s.pushHeld t.core (mask ||| obsC)
  | .rel obj mask _ _ => p.mayEnd t.tid && t.releasable mask && t.clearOf obj && !s.routeHeld l t.core obj
      && !s.pushHeld t.core mask
  | .tkarr _ mask => p.mayEnd t.tid && (mask == 0 || t.releasable mask) && !s.pushHeld t.core mask
  | _ => false

/-- The tile requests that a release of the thread under way waits for: those older than a bound; none where it waits for none. -/
def Thread.releaseBound (t : Thread) : Nat :=
  let pend := match t.pend with
    | some (.fence _ mask) | some (.rel _ mask _ _) | some (.tkarr _ mask) => if mask &&& obsX == 0 then 0 else 2 ^ 256
    | _ => 0
  t.ops.foldl (fun m o => match o.kind with
    | .relw _ mask => if mask &&& obsX == 0 then m else max m o.id
    | _ => m) pend

/-- A request can end while its panel comes to rest: it and the earlier ones of its seam are not held, and wait for no copy. -/
def Sys.reqEnds (s : Sys) (r : Req) : Bool :=
  s.reqs.all fun q => !(q.panel == r.panel && q.seam == r.seam && q.key ≤ r.key && !q.granted)
    || (q.held.isNone && !(s.cmds.any fun c => q.after.contains c.key))

/-- The requests of the thread's release under way can all end. -/
def Sys.releaseEnds (s : Sys) (t : Thread) : Bool :=
  t.ops.all fun o => match o.kind with
    | .tile k => o.id ≥ t.releaseBound || (s.req? k).all s.reqEnds
    | _ => true

/-- A release under way of a thread of its panel waits for a request, or for a later one of its seam (R360). -/
def Sys.releaseNeeds (s : Sys) (r : Req) : Bool :=
  (s.threadsOf r.panel).any fun t => s.releaseEnds t && t.ops.any fun o => match o.kind with
    | .tile k => o.id < t.releaseBound && (s.req? k).any fun q => q.seam == r.seam && r.key ≤ q.key
    | _ => false

/-- A release in progress that its panel's switch-out waits for (R360). One that waits for a tile request which is held, or waits
for copies, or behind a late report, which the thread takes first (R475), is issued again on resume. -/
def Sys.releasing (s : Sys) (t : Thread) (p : Panel) : Bool :=
  p.mayEnd t.tid && t.late.isEmpty && s.releaseEnds t && (match t.pend with
    | some (.fence _ _) | some (.rel _ _ _ _) | some (.tkarr _ _) => true
    | _ => false)

def Target.isHome : Target → Bool
  | .home _ _ _ _ _ => true
  | .peer _ => false

/-- The peer of a target refuses it. -/
def Target.refused (s : Sys) (l : Launch) : Target → Bool
  | .peer d => s.peerFails l d
  | .home _ _ _ _ _ => false

/-- `RELEASE_COMPLETE`: the end of a `FENCE`, a `REL` or a `TKARR` (R353, R363, R367, R305). -/
def execReleaseComplete (panel tid : Nat) (s : State) : Host.Outcome State Fault Refusal :=
  match s.sys.pendOf panel tid with
  | none => .next s
  | some (t, p, l, x) =>
    eventStep s (releaseReady s.sys t p l x && (lateDue s.sys t p l).isNone) fun tx =>
      let go (tx : Tx s) : Tx s := tx.release_ t [] 0
      match x with
      | .fence order mask =>
        let tx := tx.release t.core mask
        go (if order = 1 then tx else tx.acquire t.core mask)
      | .rel obj mask regions _ =>
        if obj.target.refused tx.sys l then tx.raisePend t p tBUFOWNER (lowWord obj.offset) (Info.ofAccess obj true)
        else if obj.target.spoiled tx.sys then tx.terminate l.key 0x13
        else if obj.target.isHome && tx.tackLive obj.loc then tx.raisePend t p tTACKST (lowWord obj.offset) Info.none
        else
          let tx := tx.releaseIn t.core mask regions
          go (tx.atHome t.core obj fun m => (m, (m + 1) % 2 ^ 64)).2
      | .tkarr tack mask => go ((tx.release t.core mask).tackEvent tack .arrive)
      | _ => tx

/-! ## `INVAL` and interleave switches -/

/-- An access that went through a translation of the range. -/
def Access.through (a : Access) (l : Launch) (base n : Nat) : Bool :=
  let d := l.decl a.slot
  !Decl.pinned d && (match a.target with
    | .home _ _ _ _ _ => pageIn base n ((Decl.base d + (Decl.place d a.offset).2) / 65536)
    | .peer _ => false)

/-- A write of a thread that went through a translation of the range. -/
def Op.through (o : Op) (l : Launch) (base n : Nat) : Bool :=
  o.kind.writes && (match o.kind with
    | .kvap cs => cs.any fun c => c.1.through l base n
    | _ => o.acc.any fun a => a.through l base n)

/-- A `REL` under way that writes its object through a translation of the range (R367). -/
def Thread.relThrough (t : Thread) (l : Launch) (base n before : Nat) : Bool :=
  match t.pend with
  | some (.rel obj _ _ id) => id < before && obj.through l base n
  | _ => false

def invalReady (s : Sys) (p : Panel) (l : Launch) (t : Thread) (kind : Nat) (quad : List Word) (before : Nat) : Bool :=
  let q := quad.map (·.toNat)
  p.lets t.tid && (kind != 0 || (!((s.part? l.part).any fun x => x.cores.any fun c => s.pushHeld c.2 obsC)
    && !s.threads.any fun u => match s.homeOf u with
      | some (_, la) => la.part == l.part && (u.relThrough la (invalBase q) (invalLen q) before
          || u.ops.any fun o => o.id < before && o.through la (invalBase q) (invalLen q))
      | none => false))

/-- Kind 1: an L2 line that a ranged write-back takes. -/
def invalTakes (p : Partition) (q : List Nat) (x : L2Line) : Bool :=
  x.dirty && p.hasKey x.key && homeDie (x.line * 128) == bits (q.getD 0 0) 16 1 && (q.getD 0 0).testBit x.slice
    && (q.getD 1 0 == 0xFFFFFFFF || x.domain == some (q.getD 1 0))

/-- Every line of some key IDs is written back and dropped from every cache of the package (R451 kind 2). -/
def Tx.dropKeys (tx : Tx s0) (mine : Nat → Bool) : Tx s0 :=
  let tx := tx.each tx.sys.cores fun tx c =>
    tx.each (List.map L1Line.line (c.l1.filter fun x => mine x.key)) fun tx line => tx.dropL1 c.id line
  let tx := tx.each (List.map L2Line.line (tx.sys.l2.filter fun x => mine x.key)) fun tx line => tx.dropL2 line
  tx.mod fun s => { s with
    stks := s.stks.map fun k => { k with llc := k.llc.filter fun line => !(s.lineKey line).any mine }
    dies := s.dies.map fun d => { d with rdc := d.rdc.filter fun r => !mine r.key } }

/-- A `BBAWAIT` whose bobbin was reached through a translation of the range is to reach it through the leaf as it now stands; one
that has no page any more ends as on a word that is no live bobbin (assumption log 193). -/
def Tx.bobbinsAgain (tx : Tx s0) (part base n before : Nat) : Tx s0 :=
  tx.each tx.sys.threads fun tx t =>
    match tx.sys.homeOf t with
    | none => tx
    | some (p, l) =>
      if l.part ≠ part then tx
      else tx.each t.ops fun tx o =>
        match o.kind with
        | .bbawait a =>
          if o.id < before && a.through l base n then
            let (place, tx) := tx.engineAddr part p.key t.core (l.decl a.slot) a.offset rW
            let kind := match place, a.target with
              | some (addr, key, mode, num), .home _ _ _ _ thr => OpKind.bbawait { a with target := .home addr key mode num thr }
              | _, _ => .dead tBBMISUSE (lowWord a.offset)
            tx.updThread t.panel t.tid fun u => { u with ops := u.ops.map fun e => if e.id = o.id then { e with kind := kind } else e }
          else tx
        | _ => tx

/-- `INVAL_COMPLETE` (R451). -/
def execInvalComplete (panel tid : Nat) (s : State) : Host.Outcome State Fault Refusal :=
  match s.sys.pendOf panel tid with
  | some (t, p, l, .inval kind quad before) =>
    eventStep s (invalReady s.sys p l t kind quad before) fun tx =>
      let q := quad.map (·.toNat)
      let tx := tx.release_ t [] 0
      if kind = 0 then
        let cores := ((tx.sys.part? l.part).map (·.cores)).getD []
        let tx := (tx.each cores fun tx c => tx.release c.2 obsC).bobbinsAgain l.part (invalBase q) (invalLen q) before
        tx.mod (updPart l.part fun x => { x with ptgen := x.ptgen + 1 })
      else if kind = 1 then
        match tx.sys.part? l.part with
        | some x => tx.each (List.map L2Line.line (tx.sys.l2.filter (invalTakes x q))) fun tx k => tx.pushLine k
        | none => tx
      else
        tx.dropKeys fun k => k == q.getD 0 0
  | _ => .next s

/-- A line that a switch writes back: tagged with the domain, and the new mask gives it another slice (R253). -/
def switchTakes (ildom : List Word) (n : Nat) (old : Word) (x : L2Line) : Bool :=
  let die := homeDie (x.line * 128)
  x.domain == some n && domainHalf old die != domainHalf (ildom.getD n 0) die && (sliceOf ildom (x.line * 128) 2 n).1 != x.slice

/-- `INTERLEAVE_SWITCH_END` (R253): the held requests proceed and the `CSRW` is complete. -/
def execInterleaveSwitchEnd (panel tid : Nat) (s : State) : Host.Outcome State Fault Refusal :=
  match s.sys.pendOf panel tid with
  | some (t, p, _, .ildom n old) =>
    eventStep s (p.mayEnd t.tid) fun tx =>
      (tx.each (List.map L2Line.line (tx.sys.l2.filter (switchTakes tx.sys.ildom n old))) fun tx k =>
        tx.dropL2 k).release_ t [] 0
  | _ => .next s

/-! ## Binning appends (R340 to R343) -/

/-- Panels of the launch's overflow yoke. -/
def Sys.overflowPanels (s : Sys) (l : Launch) : List Panel :=
  (s.panelsOf l.key).filter fun p => (s.yokeOf p).any (·.overflow)

def appendReady (s : Sys) (t : Thread) (p : Panel) (l : Launch) (o : Op) : Bool :=
  match o.kind, o.acc with
  | .atom .add _, some a => a.bin && !s.atPort t p l o a && !s.routeHeld l t.core a && !s.behind t o
      && !(t.ops.any fun e => e.id < o.id && e.meets o)
  | _, _ => false

/-- Length of the bin memory. -/
def Launch.binLength (l : Launch) (a : Access) : Nat := Decl.len (l.decl a.slot)

/-- The first append that fails raises the event. -/
def Overflow.raise (v : Overflow) (old x : Word) : Overflow :=
  match v with
  | .none => .pending old x
  | v => v

/-- An append is no longer deferred. -/
def Tx.undefer (tx : Tx s0) (launch : Nat) (e : Nat × Nat × Nat) : Tx s0 :=
  tx.mod fun s => s.mapLaunches fun la => if la.key = launch then { la with deferred := la.deferred.filter (· != e) } else la

/-- One append at the home L2; one that was deferred before keeps its place in the order if it fails again. -/
def Tx.append (tx : Tx s0) (t : Thread) (p : Panel) (l : Launch) (o : Op) (a : Access) (x : Nat) : Tx s0 :=
  match a.target with
  | .peer _ => tx
  | .home addr key _ _ _ =>
    let e := (t.panel, t.tid, o.id)
    let tx := tx.dropL1 t.core (lineOf addr)
    if tx.sys.poisoned addr then tx.terminate l.key 0x13
    else
      match a.liveTack tx.sys with
      | some off => (tx.opTrap t p l o tTACKST (lowWord off) (Info.ofAccess a true)).undefer l.key e
      | none =>
        let old := tx.st.homeNat addr 4 key
        if old + x ≤ l.binLength a then
          let (v, tx) := tx.atHome t.core a fun m => atomResult .add m x
          (tx.finishWith t o v).undefer l.key e
        else if (tx.sys.yokeOf p).any (·.overflow) then
          (tx.opTrap t p l o tBUFBND (BitVec.ofNat 32 old) (Info.ofAccess a true)).undefer l.key e
        else
          let tx := tx.updThread t.panel t.tid fun u =>
            { u with ops := u.ops.map fun e => if e.id = o.id then { e with kind := .deferred (BitVec.ofNat 64 x) } else e }
          tx.mod fun s => s.mapLaunches fun la => if la.key = l.key then { la with
            deferred := if la.deferred.contains e then la.deferred else la.deferred ++ [e]
            overflow := la.overflow.raise (BitVec.ofNat 32 old) (BitVec.ofNat 32 x) } else la

/-- `BINNING_APPEND` (R340). -/
def execBinningAppend (panel tid op : Nat) (s : State) : Host.Outcome State Fault Refusal :=
  match s.sys.opOf panel tid op with
  | some (t, p, l, o) =>
    match o.kind, o.acc with
    | .atom .add x, some a => eventStep s (appendReady s.sys t p l o) fun tx => tx.append t p l o a x.toNat
    | _, _ => .next s
  | none => .next s

/-- Deferred appends are tested again, in their order; those that are withdrawn, or stand at the port again, wait. -/
def Tx.retest (tx : Tx s0) : List (Nat × Nat × Nat) → Tx s0
  | [] => tx
  | (panel, tid, op) :: rest =>
    let tx := match tx.sys.opOf panel tid op with
      | some (t, p, l, o) =>
        match o.kind, o.acc with
        | .deferred x, some a => if tx.sys.withdrawn p.key then tx else tx.append t p l o a x.toNat
        | _, _ => tx
      | none => tx
    tx.retest rest

/-- Appends that a switch-out withdrew stand at the port again, to be posted in their order (R343). -/
def Sys.postAgain (s : Sys) (es : List (Nat × Nat × Nat)) : Sys :=
  let again (t : Thread) (o : Op) : Op := match o.kind with
    | .deferred x => if es.contains (t.panel, t.tid, o.id) then { o with kind := .atom .add x } else o
    | _ => o
  { s with threads := s.threads.map fun t => { t with ops := t.ops.map (again t) } }

def Overflow.isLive : Overflow → Bool
  | .live _ _ => true
  | _ => false

/-- The overflow yoke has run to its end: every thread has exited with nothing outstanding. -/
def replayReady (s : Sys) (l : Launch) : Bool :=
  l.overflow.isLive && (let ps := s.overflowPanels l
    !ps.isEmpty && ps.all fun (p : Panel) => p.phase != .out && p.phase != .placed
      && (s.threadsOf p.key).all fun t => t.phase == .exited && t.ops.isEmpty)

/-- `DEFERRED_APPEND_REPLAY` (R342). -/
def execDeferredAppendReplay (launch : Nat) (s : State) : Host.Outcome State Fault Refusal :=
  match s.sys.launch? launch with
  | none => .next s
  | some l =>
    eventStep s (replayReady s.sys l) fun tx =>
      let cores := ((tx.sys.overflowPanels l).map (·.core)).eraseDups
      let tx := tx.each cores fun tx c => tx.release c visAll
      let tx := tx.mod fun s => s.mapLaunches fun la => if la.key = launch then { la with overflow := .none } else la
      tx.retest l.deferred

end Sys2Proof.Machine
end

