-- ==== Sys2Proof/Machine/CopyEvents.lean ====
section
/-! DEFINITION. The copy unit's events: start, slot claim, chunk delivery, scout fault, completion (R277 to R288, R292, R295,
R433). -/

namespace Sys2Proof.Machine

variable {s0 : State}

/-! ## Queues -/

/-- A command is at the head of its channel (R277). -/
def Cmd.atHead (s : Sys) (c : Cmd) : Bool :=
  ((s.queue c.cluster c.chan).head?.map (·.key)) == some c.key

/-- A command of the head of its channel that may go on: not held; one that stops with its panel goes on
only to the chunk boundary while the panel is being switched out, or its launch terminated. -/
def Cmd.runs (s : Sys) (c : Cmd) : Bool :=
  c.atHead s && !c.held && (c.midChunk || !((s.launch? c.launch).any (·.ending.isSome)))
    && !(c.stops && c.delivered % 4096 == 0 && (s.panel? c.panel).any fun p => p.phase == .stopping)

/-- The thread that issued a command. -/
def Sys.issuer (s : Sys) (c : Cmd) : Option Thread := s.thread? c.panel c.tid

/-! ## Start -/

def cmdStartReady (s : Sys) (c : Cmd) : Bool :=
  c.runs s && !c.started && (c.total == 0 || (match s.issuer c with
    | some t => t.writesDone c.key
    | none => true))

/-! ## Bobbins (R295) -/

/-- The bobbin that a command fills, where its words lie. -/
def Tx.bobbinAt (tx : Tx s0) (l : Launch) (c : Cmd) : Loc × Tx s0 :=
  let d := l.decl (handleSlot c.denseAddr)
  if Decl.peer d ≠ 0 then (.away, tx)
  else match tx.engineAddr l.part c.panel (engineCore c.cluster) d (handleOff c.denseAddr) (rRd + rW + rA) with
    | (some (a, k, m, n), tx) => (.mem a k m n, tx)
    | (none, tx) => (.none, tx)

/-- The slot pointer that a claim takes, where one may be claimed. -/
def claimable (st : State) (l : Launch) (c : Cmd) : Option Nat :=
  match ((Tx.start st).bobbinAt l c).1 with
  | .mem a k m n =>
    let w := st.objWords (.mem a k m n) 16
    if st.sys.tagged (wordIx a) && Bobbin.diff (Bobbin.claim w) (Bobbin.released w) < Bobbin.active w
    then some (Bobbin.claim w) else none
  | .away => if Config.freeBool st.sys.nonce then some (Config.freeNat st.sys.nonce % 2 ^ 32) else none
  | _ => none

def slotClaimReady (st : State) (c : Cmd) : Bool :=
  c.runs st.sys && c.started && c.dense == 3 && c.slot.isNone && c.total != 0
    && (match st.sys.launch? c.launch with
      | some l => (claimable st l c).isSome
      | none => false)

/-- `BOBBIN_SLOT_CLAIM`. -/
def execBobbinSlotClaim (cmd : Nat) (s : State) : Host.Outcome State Fault Refusal :=
  match s.sys.cmd? cmd with
  | none => .next s
  | some c =>
    match s.sys.launch? c.launch with
    | none => .next s
    | some l =>
      match claimable s l c with
      | none => .next s
      | some p =>
        eventStep s (slotClaimReady s c) fun tx =>
          let (loc, tx) := tx.bobbinAt l c
          let now := match loc with
            | .mem a _ _ _ => (tx.sys.die (homeDie a)).cyc
            | _ => 0
          let tx := match loc with
            | .mem _ _ _ _ => tx.objWrite loc 20 [BitVec.ofNat 32 (p + 1)]
            | _ => tx
          tx.mod fun s => s.setCmd { c with slot := some (p, now) }

/-- Declaration and first offset of the slot that a command fills. -/
def State.slotPlace (st : State) (l : Launch) (c : Cmd) : Option (Nat × Nat) :=
  match ((Tx.start st).bobbinAt l c).1, c.slot with
  | .mem a k m n, some (p, _) =>
    let w := st.objWords (.mem a k m n) 16
    some (handleSlot (dnat w 0), handleOff (dnat w 0) + p % max 1 (Bobbin.maxSlots w) * Bobbin.slotBytes w)
  | _, _ => none

/-! ## Faults of a command (R286, R433) -/

/-- What an element's move touches in memory: slot, offset, rights. -/
def Cmd.touches (st : State) (l : Launch) (c : Cmd) (e : Nat) : List (Nat × Nat × Nat) :=
  (c.memSlot, c.memOff e, if c.out then rW else rRd) ::
    (if c.dense = 3 then
      match st.slotPlace l c with
      | some (sl, o) => [(sl, o + c.denseOff e, rW)]
      | none => []
    else [])

/-- Why an element cannot move: code, slot, offset, write; a peer may refuse it, and does once it is lost (R243, R464). -/
def Cmd.failure (st : State) (l : Launch) (c : Cmd) (e : Nat) : Option (Byte × Nat × Nat × Bool) :=
  (c.touches st l e).findSome? fun x =>
    if Decl.peer (l.decl x.1) ≠ 0 then
      (if st.sys.peerFails l (Decl.peer (l.decl x.1)) then some (tBUFOWNER, x.1, x.2.1, isWrite x.2.2) else none)
    else (st.reach l.part c.panel (engineCore c.cluster) (l.decl x.1) x.2.1 x.2.2).map fun code => (code, x.1, x.2.1, isWrite x.2.2)

/-- Element at which the present chunk ends. -/
def Cmd.chunkEnd (c : Cmd) : Nat := min c.total ((c.delivered / 4096 + 1) * 4096) / c.elem

def Cmd.nextElem (c : Cmd) : Nat := c.delivered / c.elem

/-- Virtual page of an element's memory side. -/
def Cmd.pageAt (l : Launch) (c : Cmd) (e : Nat) : Nat :=
  let d := l.decl c.memSlot
  (Decl.base d + (Decl.place d (c.memOff e)).2) / 65536

/-- The scout pass: the first element that fails among those of the chunk that is next, and of as many pages after it
as the scout distance gives, in box order. -/
def Cmd.scoutFrom (st : State) (l : Launch) (c : Cmd) : Nat → Nat → List Nat → Option (Nat × Byte × Nat × Nat × Bool)
  | 0, _, _ => none
  | fuel + 1, e, seen =>
    if e * c.elem ≥ c.total then none
    else
      let page := c.pageAt l e
      let ahead := e ≥ c.chunkEnd && !seen.contains page
      let n := seen.length
      if ahead && n ≥ c.scout then none
      else
        match c.failure st l e with
        | some f => some (e, f)
        | none => c.scoutFrom st l fuel (e + 1) (if ahead then page :: seen else seen)

def Cmd.scoutFault (st : State) (l : Launch) (c : Cmd) : Option (Nat × Byte × Nat × Nat × Bool) :=
  c.scoutFrom st l (c.total / c.elem - c.nextElem) c.nextElem []

/-- Is a command under way, with its slot claimed? Suspended by its ticket, it moves up to its boundary only, until an `RFT`
answers (R286, R433). -/
def Cmd.moving (s : Sys) (c : Cmd) : Bool :=
  c.runs s && c.started && (c.dense != 3 || c.slot.isSome) && c.delivered < (if c.ticket.isSome then c.halt else c.total)

def scoutReady (st : State) (c : Cmd) : Bool :=
  c.moving st.sys && c.ticket.isNone && (match st.sys.launch? c.launch with
    | some l => (c.scoutFault st l).isSome
    | none => false)

/-- `SCOUT_FAULT`: one record with the copy's own ticket. -/
def execScoutFault (cmd : Nat) (s : State) : Host.Outcome State Fault Refusal :=
  match s.sys.cmd? cmd with
  | none => .next s
  | some c =>
    match s.sys.launch? c.launch with
    | none => .next s
    | some l =>
      match c.scoutFault s l with
      | none => .next s
      | some (e, code, slot, off, write) =>
        eventStep s (scoutReady s c) fun tx =>
          let d := l.decl slot
          let va := Decl.base d + (Decl.place d off).2
          let p := tx.sys.panel? c.panel
          let core := match tx.sys.issuer c with
            | some t => tx.sys.logical l.part t.core
            | none => tx.sys.logical l.part ((p.map (·.core)).getD 0)
          let r : RecordInfo :=
            { code := code, source := 1, batchIx := 0, last := true, launch := l.id, pid := (p.map (·.pid)).getD 0, tid := c.tid,
              core := core, chan := c.chan, pc := c.pc, value := lowWord off, slot := slot,
              offset := if code = tPGFLT then va / 65536 * 65536 else off, write := write }
          let (k, tx) := tx.postTicket l.part r (.cmd c.key) l.key
          tx.mod fun s => s.setCmd { c with ticket := some k, halt := e * c.elem / 4096 * 4096 }

/-! ## Delivery (R280, R282, R284, R285, R287) -/

/-- Bytes of one element, read from its source; none: its line is poisoned (R470). -/
def Tx.copyRead (tx : Tx s0) (l : Launch) (c : Cmd) (e : Nat) : Option (List Byte) × Tx s0 :=
  if c.out then
    let a := c.denseOff e
    if c.dense = 2 then
      (match (tx.sys.panel? c.panel).bind tx.sys.yokeOf with
        | some y => some (Mem.getBytes y.region (TileRec.base (y.tiles.getD c.tile 0) * 8192 + a) c.elem)
        | none => some (List.replicate c.elem 0), tx)
    else
      (match (tx.sys.panel? c.panel).bind tx.sys.scratchPanel with
        | some q => some (Mem.getBytes q.scratch a c.elem)
        | none => some (List.replicate c.elem 0), tx)
  else
    let d := l.decl c.memSlot
    if Decl.peer d ≠ 0 then (some ((List.range c.elem).map fun i => BitVec.ofNat 8 (Config.freeAt tx.sys.nonce (e * c.elem + i))), tx)
    else
      match tx.engineAddr l.part c.panel (engineCore c.cluster) d (c.memOff e) rRd with
      | (none, tx) => (some (List.replicate c.elem 0), tx)
      | (some (a, k, _, _), tx) => if tx.sys.poisoned a then (none, tx) else (some (tx.st.homeBytes a c.elem k), tx)

/-- Bytes with those of live words left out: runs to write. -/
def unsuppressed (live : Nat → Bool) (a : Nat) (bs : List Byte) : List (Nat × Byte) :=
  ((List.range bs.length).map fun i => (a + i, bs.getD i 0)).filter fun x => !live (wordIx x.1)

/-- A copy's write to memory (R280): every cache drops the line, and the bytes are written at the home. -/
def Tx.copyToMem (tx : Tx s0) (l : Launch) (c : Cmd) (slot off : Nat) (bs : List Byte) : Option Nat × Tx s0 :=
  let d := l.decl slot
  if Decl.peer d ≠ 0 then (none, tx)
  else
    match tx.engineAddr l.part c.panel (engineCore c.cluster) d off rW with
    | (none, tx) => (none, tx)
    | (some (a, k, m, n), tx) =>
      let through := Decl.kind d == 1 || Decl.kind d == 2
      let tx := tx.dropLine (lineOf a)
      match tx.sys.liveIn a bs.length with
      | none => (none, tx.homeWrite a k m n through bs)
      | some w =>
        (some (8 * w), tx.each (unsuppressed tx.sys.tagged a bs) fun tx x => tx.homeWrite x.1 k m n through [x.2])
          |>.map (fun o => o.map fun x => off + x - a) id

/-- A copy's write to a scratchpad (R256, R287). -/
def Tx.copyToScratch (tx : Tx s0) (q : Panel) (a : Nat) (bs : List Byte) : Option Nat × Tx s0 :=
  match (touched a bs.length).find? q.stags.contains with
  | none => (none, tx.mod fun s => s.setPanel { q with scratch := Mem.putBytes q.scratch a bs })
  | some w =>
    (some (8 * w - a), tx.mod fun s => s.setPanel { q with
      scratch := (unsuppressed q.stags.contains a bs).foldl (fun m x => Mem.putBytes m x.1 [x.2]) q.scratch })

/-- A copy's write to a tile of a yoke. A target of a multicast has its own record of that number: what falls outside its
tile is dropped (assumption log 73). -/
def Tx.copyToTile (tx : Tx s0) (c : Cmd) (yoke a : Nat) (bs : List Byte) : Tx s0 :=
  match tx.sys.yoke? yoke with
  | none => tx
  | some y =>
    let q := y.tiles.getD c.tile 0
    let at_ := TileRec.base q * 8192 + a
    let bs := bs.take (TileRec.size q * 8192 - a)
    if !TileRec.live q then tx
    else (tx.mod fun s => s.setYoke { y with region := Mem.putBytes y.region at_ bs }).imageData (.yoke yoke) at_ bs

/-- One element moves; the memory-side offset of a live word that its write met. -/
def Tx.copyElem (tx : Tx s0) (l : Launch) (c : Cmd) (e : Nat) : Option (Option Nat × Tx s0) :=
  match tx.copyRead l c e with
  | (none, _) => none
  | (some bs, tx) =>
    if c.out then some (tx.copyToMem l c c.memSlot (c.memOff e) bs)
    else if c.op = 1 then some (none, tx.each c.yokes fun tx y => tx.copyToTile c y (c.denseOff e) bs)
    else if c.dense = 2 then
      some (none, match (tx.sys.panel? c.panel).bind (·.yoke) with
        | some y => tx.copyToTile c y (c.denseOff e) bs
        | none => tx)
    else if c.dense = 3 then
      match tx.st.slotPlace l c with
      | some (sl, o) =>
        let r := tx.copyToMem l c sl (o + c.denseOff e) bs
        some (r.1.map fun x => c.memOff e + (x - (o + c.denseOff e)), r.2)
      | none => some (none, tx)
    else
      match (tx.sys.panel? c.panel).bind tx.sys.scratchPanel with
      | some q =>
        let r := tx.copyToScratch q (c.denseOff e) bs
        some (r.1.map fun x => c.memOff e + x, r.2)
      | none => some (none, tx)

/-- Elements in box order; none: a poisoned line was met. -/
def Tx.copyRun (tx : Tx s0) (l : Launch) (c : Cmd) : List Nat → Option Nat → Option (Option Nat × Tx s0)
  | [], hit => some (hit, tx)
  | e :: es, hit =>
    match tx.copyElem l c e with
    | none => none
    | some (h, tx) => tx.copyRun l c es (hit.orElse fun _ => h)

/-- Addresses at home of the elements that a delivery up to `last` writes to memory. -/
def Cmd.writesTo (st : State) (l : Launch) (c : Cmd) (last : Nat) : List Nat :=
  ((List.range (last - c.nextElem)).flatMap fun i => ((c.touches st l (c.nextElem + i)).filter fun x => isWrite x.2.2).filterMap fun x =>
    if Decl.peer (l.decl x.1) ≠ 0 then none
    else (((Tx.start st).engineAddr l.part c.panel (engineCore c.cluster) (l.decl x.1) x.2.1 rW).1).map (·.1)).eraseDups

/-- Poisoned lines that the delivery writes whole: their poison goes (R470). -/
def Cmd.cures (st : State) (l : Launch) (c : Cmd) (last : Nat) : List Nat :=
  if st.sys.poisonLines.isEmpty then []
  else
    let ws := c.writesTo st l last
    st.sys.poisonLines.filter fun k => (ws.filter fun a => lineOf a == k).length * c.elem == 128 && (st.sys.liveIn (k * 128) 128).isNone

/-- How far the next delivery goes: to the end of the chunk, or, at the unit's choice and where no line is poisoned, less far. -/
def Cmd.deliverTo (s : Sys) (c : Cmd) : Nat :=
  let n := c.chunkEnd - c.nextElem
  if n ≤ 1 ∨ s.poisonLines ≠ [] ∨ Config.freeBool s.nonce = true then c.chunkEnd else c.nextElem + 1 + Config.freeNat s.nonce % n

/-- A request of an element's move waits at an interleave switch, at the bridge, or for a peer that is cut off (R253, R344, R464). -/
def Cmd.waitsRoute (st : State) (l : Launch) (c : Cmd) (e : Nat) : Bool :=
  (c.touches st l e).any fun x =>
    let d := l.decl x.1
    if Decl.peer d ≠ 0 then st.sys.peerCut l (Decl.peer d) && !st.sys.peerLost l (Decl.peer d)
    else match ((Tx.start st).engineAddr l.part c.panel (engineCore c.cluster) d x.2.1 x.2.2).1 with
      | some (a, _, m, n) => st.sys.homeHeld (c.cluster / 36) a m n
      | none => false

def deliveryReady (st : State) (c : Cmd) : Bool :=
  c.moving st.sys && (match st.sys.launch? c.launch with
    | some l => (List.range (c.chunkEnd - c.nextElem)).all fun i =>
        (c.failure st l (c.nextElem + i)).isNone && !c.waitsRoute st l (c.nextElem + i)
    | none => false)

/-- `COPY_CHUNK_DELIVERY`. -/
def execCopyChunkDelivery (cmd : Nat) (s : State) : Host.Outcome State Fault Refusal :=
  match s.sys.cmd? cmd with
  | none => .next s
  | some c =>
    match s.sys.launch? c.launch with
    | none => .next s
    | some l =>
      eventStep s (deliveryReady s c) fun tx =>
        let last := min c.chunkEnd (c.deliverTo tx.sys)
        let cured := c.cures s l last
        let tx := tx.mod fun s => { s with poisonLines := s.poisonLines.filter fun k => !cured.contains k }
        match tx.copyRun l c ((List.range (last - c.nextElem)).map fun i => c.nextElem + i) c.suppressed with
        | none => tx.terminate l.key 0x13
        | some (hit, tx) =>
          let n := last * c.elem - c.delivered
          let tx := tx.tackEvents c.tacks (.deliver n)
          tx.mod fun s => s.setCmd { c with delivered := last * c.elem, suppressed := hit }

/-! ## Completion -/

/-- A command at the head of its channel has delivered all it had. -/
def cmdDoneReady (s : Sys) (c : Cmd) : Bool := c.runs s && c.started && c.delivered == c.total

/-- Pointers of the slots of a bobbin that commands still fill, but for one. -/
def Tx.openSlots (tx : Tx s0) (loc : Loc) (but : Option Nat) : List Nat :=
  (tx.sys.cmds.filter fun x => some x.key != but && x.dense == 3).filterMap fun x =>
    match x.slot, tx.sys.launch? x.launch with
    | some (p, _), some lx => if (((Tx.start tx.st).bobbinAt lx x).1).same loc then some p else none
    | _, _ => none

/-- A filled slot (R295): the write pointer passes the slots that are complete, and the latency is averaged. -/
def Tx.slotFilled (tx : Tx s0) (l : Launch) (c : Cmd) : Tx s0 :=
  match c.slot with
  | none => tx
  | some (_, at_) =>
    match tx.bobbinAt l c with
    | (.mem a k m n, tx) =>
      let loc := Loc.mem a k m n
      let w := tx.st.objWords loc 16
      let others := tx.openSlots loc (some c.key)
      let claim := Bobbin.claim w
      let oldest := others.foldl (fun best p => if Bobbin.diff claim p > Bobbin.diff claim best then p else best) claim
      let now := (tx.sys.die (homeDie a)).cyc
      let lat := Bobbin.average (wnat w 9) (Bobbin.diff (now % 2 ^ 32) (at_ % 2 ^ 32))
      (tx.objWrite loc 24 [BitVec.ofNat 32 oldest]).objWrite loc 36 [BitVec.ofNat 32 lat]
    | (_, tx) => tx

/-- What a suppressed write leaves for the issuing thread (R287). -/
def Tx.reportSuppressed (tx : Tx s0) (l : Launch) (c : Cmd) : Tx s0 :=
  match c.suppressed with
  | none => tx
  | some off =>
    let lost (tx : Tx s0) : Tx s0 :=
      tx.mod fun s => s.mapLaunches fun x => if x.key = l.key then { x with suppressed := true } else x
    match tx.sys.issuer c with
    | none => lost tx
    | some t =>
      if t.phase = .exited then lost tx
      else tx.updThread t.panel t.tid fun u => { u with late := u.late ++ [⟨tTACKST, lowWord off, c.pc, none, 0, 0, true, true⟩] }

/-- The command leaves its channel with its arrival. -/
def Tx.endCmd (tx : Tx s0) (l : Launch) (c : Cmd) : Tx s0 :=
  let tx := tx.slotFilled l c
  let tx := tx.tackEvents c.tacks .arrive
  let tx := tx.reportSuppressed l c
  tx.mod fun s => { s with cmds := dropKey Cmd.key c.key s.cmds }

/-- `COPY_COMMAND_START` (R277, R279, R292): the release Y, and the command is its channel's current one; one of zero
extent arrives and is over. -/
def execCopyCommandStart (cmd : Nat) (s : State) : Host.Outcome State Fault Refusal :=
  match s.sys.cmd? cmd with
  | none => .next s
  | some c =>
    match s.sys.launch? c.launch with
    | none => .next s
    | some l =>
      eventStep s (cmdStartReady s.sys c) fun tx =>
        if c.total = 0 then tx.endCmd l c
        else
          let tx := match tx.sys.issuer c with
            | some t => tx.release t.core 0b010000#6
            | none => tx
          tx.mod fun s => s.setCmd { c with started := true }

/-- `COPY_COMMAND_COMPLETE`. -/
def execCopyCommandComplete (cmd : Nat) (s : State) : Host.Outcome State Fault Refusal :=
  match s.sys.cmd? cmd with
  | none => .next s
  | some c =>
    match s.sys.launch? c.launch with
    | none => .next s
    | some l => eventStep s (cmdDoneReady s.sys c) fun tx => tx.endCmd l c

end Sys2Proof.Machine
end

