-- ==== Sys2Proof/Machine/Faults.lean ====
section
/-! DEFINITION. The events of faults: the end of run-ahead (R432), a record reaching the fault ring (R429), and the reset of a
core (R438). -/

namespace Sys2Proof.Machine

variable {s0 : State}

/-! ## Run-ahead -/

/-- A run-ahead thread that can issue no more, whatever completes. -/
def stuck (s : Sys) (t : Thread) : Bool :=
  match s.homeOf t with
  | none => true
  | some (p, l) =>
    t.phase != .ready || (t.ops.isEmpty && (!threadReady s (fun _ _ _ _ => false) t p l || shuttleStalls s t p l))

/-- Run-ahead ends: a condition of R432 has come, or none of its threads can go on (assumption log 41). -/
def aheadOver (s : Sys) (p : Panel) : Bool :=
  match p.ahead with
  | none => false
  | some a => !a.saved.isEmpty && (a.ended || a.tids.all fun tid => match s.thread? p.key tid with
      | some t => stuck s t
      | none => true)

/-- Record i of a batch of n, with its ticket (R431). -/
def FaultRec.inBatch (r : FaultRec) (i n ticket : Nat) : FaultRec :=
  let w0 := (r.words.getD 0 0).toNat
  let w0 := w0 + i % 64 * 2 ^ 15 + (if i + 1 = n then 2 ^ 21 else 0)
  ⟨(r.words.set 0 (BitVec.ofNat 32 w0)).set 1 (BitVec.ofNat 32 ticket)⟩

/-- The batch is posted, the checkpoint restored whole, and the panel waits (R432 steps 4 and 5). -/
def Tx.closeAhead (tx : Tx s0) (p : Panel) (l : Launch) (a : RunAhead) : Tx s0 :=
  let (k, tx) := tx.openTicket l.part tPGFLT (.batch p.key) l.key
  let recs := (List.range a.records.length).map fun i => (a.records.getD i ⟨[]⟩).inBatch i a.records.length k
  let tx := tx.mod (updPart l.part fun x => { x with faults := x.faults ++ recs })
  let tx := tx.notice (.supervisorFault l.part tPGFLT)
  tx.mod fun s =>
    let s := { s.setPanel { p with masks := if a.saved.isEmpty then p.masks else a.savedMasks, ahead := none, batch := some k } with
      walks := s.walks.filter fun w => w.pref.isSome || w.panel != p.key }
    a.saved.foldl (fun s t => s.setThread t) s

/-- `RUN_AHEAD_END`. -/
def execRunAheadEnd (panel : Nat) (s : State) : Host.Outcome State Fault Refusal :=
  match s.sys.panel? panel with
  | none => .next s
  | some p =>
    match p.ahead, s.sys.launchOf p with
    | some a, some l => eventStep s (aheadOver s.sys p) fun tx => tx.closeAhead p l a
    | _, _ => .next s

/-! ## The fault ring -/

/-- Records that a ring holds. -/
def ringSlots (d : List Word) : Nat := (Decl.len d - 64) / 64

/-- A word of the ring at its home. -/
def State.ringWord (st : State) (part : Nat) (d : List Word) (off : Nat) : Option Nat :=
  ((Tx.start st).engineAddr part 0 288 d off rRd).1.map fun r => st.homeNat r.1 4 r.2.1

/-- The ring has room. -/
def ringReady (st : State) (p : Partition) : Bool :=
  !p.faults.isEmpty && !p.ring.isEmpty && ringSlots p.ring != 0
    && (match st.ringWord p.num p.ring 0, st.ringWord p.num p.ring 4 with
      | some w, some r => Bobbin.diff w r < ringSlots p.ring
      | _, _ => false)

/-- Bytes at an offset of a declaration, written by the device itself at their home. -/
def Tx.deviceWrite (tx : Tx s0) (part : Nat) (d : List Word) (off : Nat) (bs : List Byte) : Tx s0 :=
  match tx.engineAddr part 0 288 d off rW with
  | (some (a, k, m, n), tx) => tx.homeBytesAt k m n bs a
  | (none, tx) => tx

/-- `FAULT_RECORD_POST`: the record, then the write pointer (R429). -/
def execFaultRecordPost (part : Nat) (s : State) : Host.Outcome State Fault Refusal :=
  match s.sys.part? part with
  | none => .next s
  | some p =>
    match p.faults, s.ringWord part p.ring 0 with
    | r :: rest, some w =>
      eventStep s (ringReady s p) fun tx =>
        let tx := tx.deviceWrite part p.ring (64 + 64 * (w % ringSlots p.ring)) (bytesOfWords r.words)
        let tx := tx.deviceWrite part p.ring 0 (leBytes 4 (w + 1))
        tx.mod (updPart part fun p => { p with faults := rest })
    | _, _ => .next s

/-! ## Core reset -/

/-- What a core loses (R438): its panels with their scratchpads, and the threads on it but those that are switched out. -/
def Sys.resetCore (s : Sys) (core : Nat) : Sys :=
  let gone := s.panels.filter fun p => p.core == core && p.phase != .out
  let keys := gone.map (·.key)
  { s with
    panels := s.panels.filter fun p => !keys.contains p.key
    threads := s.threads.filter fun t => (t.core != core || (s.panel? t.panel).any fun p => p.phase == .out) && !keys.contains t.panel
    walks := s.walks.filter fun w => w.core != core && !keys.contains w.panel
    lost := s.lost ++ (gone.filter fun p => p.handlerOf.isNone).map fun p => ⟨p.key, p.launch, false⟩
    cores := dropKey Core.id core s.cores }

/-- `CORE_RESET`; the lines of its L1 go home first (R258). -/
def execCoreReset (core : Nat) (s : State) : Host.Outcome State Fault Refusal :=
  (((Tx.start s).each ((s.sys.core core).l1.map (·.line)) fun tx line => tx.dropL1 core line).mod fun s => s.resetCore core).done

end Sys2Proof.Machine
end

