-- ==== Sys2Proof/Machine/StackEvents.lean ====
section
/-! DEFINITION. The stack units' events: posting, result records, sweep slots (R398 to R406, R412 to R417, R420), and the
rows of a stack: refresh, slack, scrub, throttle (R407 to R410). -/

namespace Sys2Proof.Machine

variable {s0 : State}

/-! ## Posting -/

/-- The stack that a sweep is posted to: its hierarchy's (R420). -/
def Sweep.stack (q : Sweep) : Nat := nthSet 16 (Decl.mask q.top) 0

/-- The panel of a query runs: a switched-out one has its queries cancelled (R406). -/
def Sys.queryLives (s : Sys) (panel : Nat) : Bool := (s.panel? panel).any fun p => p.phase == .running

/-- What goes from a stack to the other die, or there from a die, waits while the bridge trains (R344). -/
def Sys.acrossHeld (s : Sys) (stack other : Nat) : Bool := s.bridge.training && stack / 8 != other

/-- Some of the bytes that a stack is to write lie on the other die, and the bridge trains. -/
def Sys.resultHeld (s : Sys) (stack : Nat) (d : List Word) (off n : Nat) : Bool :=
  Decl.peer d == 0 && (List.range (cdiv n 64)).any fun i => s.acrossHeld stack ((Decl.place d (off + 64 * i)).1 / 8)

/-- A query is to be handed to a stack's query port, which the bridge lets pass. -/
def Query.postReady (s : Sys) (q : Query) (stack : Nat) : Bool :=
  q.unposted.contains stack && s.queryLives q.panel && !s.acrossHeld stack (dieOf (4 * q.cluster))

/-- A sweep is to be handed to its stack's query port. -/
def Sweep.postReady (s : Sys) (q : Sweep) (stack : Nat) : Bool :=
  !q.posted && q.stack == stack && s.queryLives q.panel && !s.acrossHeld stack (dieOf (4 * q.cluster))

/-- `QUERY_POST` (R415): the query or sweep reaches one stack's query port, and its scan begins. -/
def execQueryPost (query stack : Nat) (s : State) : Host.Outcome State Fault Refusal :=
  match s.sys.query? query, s.sys.sweep? query with
  | some q, _ =>
    eventStep s (q.postReady s.sys stack) fun tx =>
      tx.mod fun x => x.setQuery { q with unposted := q.unposted.filter (· != stack), posted := q.posted ++ [(stack, s.mem)] }
  | none, some q =>
    eventStep s (q.postReady s.sys stack) fun tx => tx.mod fun x => x.setSweep { q with posted := true, start := s.mem }
  | none, none => .next s

/-! ## Bytes that a stack unit writes (R358, R402) -/

/-- Pieces of 64 bytes of a range, with the failure of the first that cannot be written. -/
def State.rangeFailure (st : State) (part panel : Nat) (d : List Word) (off n : Nat) : Option (Byte × Nat) :=
  (List.range (cdiv n 64)).findSome? fun i =>
    (st.reach part panel 288 d (off + 64 * i) rW).map fun c => (c, off + 64 * i)

/-- A piece written at its home: every cache drops its line; bytes of a live tack are left alone. -/
def Tx.stackPiece (tx : Tx s0) (part panel : Nat) (d : List Word) (off : Nat) (bs : List Byte) : Tx s0 :=
  if Decl.peer d ≠ 0 then tx
  else match tx.engineAddr part panel 288 d off rW with
  | (none, tx) => tx
  | (some (a, k, m, n), tx) =>
    let through := Decl.kind d == 1 || Decl.kind d == 2
    (tx.dropLine (lineOf a)).each (unsuppressed tx.sys.tagged a bs) fun tx x => tx.homeWrite x.1 k m n through [x.2]

def Tx.stackWrite (tx : Tx s0) (part panel : Nat) (d : List Word) (off : Nat) (bs : List Byte) : Tx s0 :=
  tx.each (List.range (cdiv bs.length 64)) fun tx i => tx.stackPiece part panel d (off + 64 * i) ((bs.drop (64 * i)).take 64)

/-- A write that could not be made: a record that expects no answer (R402). -/
def Tx.unwritten (tx : Tx s0) (part : Nat) (launch : Word) (pid tid slot : Nat) (d : List Word) (code : Byte) (off : Nat) :
    Tx s0 :=
  let va := Decl.base d + (Decl.place d off).2
  tx.postRecord part { RecordInfo.of code 3 launch with
    pid := pid, tid := tid, value := lowWord off, slot := slot
    offset := if code = tPGFLT then va / 65536 * 65536 else off, write := true } noTicket

/-! ## Queries -/

/-- Parameters of a query's scan (R417). -/
def Query.args (q : Query) (l : Launch) : ScanArgs :=
  { part := q.part, launch := l.id, panel := q.panel, shelf := q.shelf, head := bits (wnat q.desc 6) 22 8, scale := wnat q.desc 7
    first := wnat q.desc 8, horizon := wnat q.desc 9, q := q.q.map fun x => bf16.val x.toNat }

/-- Index of a stack in a shelf's set. -/
def stackIndex (d : List Word) (stack : Nat) : Nat := popCount stack (Decl.mask d)

/-- A stack's record of a query may be written: its bytes pass the bridge. -/
def Query.resultReady (s : Sys) (q : Query) (stack : Nat) : Bool :=
  let z := resultStride (Decl.dim q.shelf)
  s.queryLives q.panel
    && !s.resultHeld stack q.result (handleOff (dnat q.desc 2) + stackIndex q.shelf stack * z) z

/-- `STACK_RESULT_WRITE` (R399 to R403): the scan's record is written and counts; the last one arrives. -/
def execStackResultWrite (query stack : Nat) (s : State) : Host.Outcome State Fault Refusal :=
  match s.sys.query? query with
  | none => .next s
  | some q =>
    match s.sys.launch? q.launch, q.posted.find? fun e => e.1 == stack with
    | some l, some (_, start) =>
      eventStep s (q.resultReady s.sys stack) fun tx =>
        let n := Decl.dim q.shelf
        let z := resultStride n
        let sigma := stackIndex q.shelf stack
        let off := handleOff (dnat q.desc 2) + sigma * z
        let slot := handleSlot (dnat q.desc 2)
        let c : Chunks := ⟨s.mem, start, s.sys, Decl.key q.shelf⟩
        let x := scanStack (q.args l) c sigma (s.sys.stack stack)
        let tx := tx.mod fun s => s.setStack stack x.stack
        let pid := ((tx.sys.panel? q.panel).map (·.pid)).getD 0
        let tx := match tx.st.rangeFailure q.part q.panel q.result off z with
          | some (code, o) => tx.unwritten q.part l.id pid q.tid slot q.result code o
          | none => tx.stackWrite q.part q.panel q.result off (bytesOfWords (x.words n))
        let tx := tx.tackEvents q.tack.toList (.deliver z)
        let left := q.posted.filter fun e => e.1 != stack
        if left.isEmpty && q.unposted.isEmpty then
          (tx.mod fun s => { s with queries := dropKey Query.key q.key s.queries }).tackEvents q.tack.toList .arrive
        else tx.mod fun s => s.setQuery { q with posted := left, doneStacks := q.doneStacks ++ [stack] }
    | _, _ => .next s

/-! ## Sweeps -/

/-- Errors of the rows that a walk has read (R404): every one is logged, and a corrected one moves its row (R407); true: at a row that
cannot be corrected the walk is lost. -/
def Stack.meetRows (k : Stack) (part : Nat) (launch : Word) : List (Nat × Nat × Option Bool) → Bool × Stack
  | [] => (false, k)
  | (_, _, none) :: rest => k.meetRows part launch rest
  | (bank, row, some correctable) :: rest =>
    let k := (k.logError (if correctable then 0 else 1) part bank row 0xFFFFFFFF launch).2
    if correctable then (k.hasten bank row).meetRows part launch rest else (true, k)

/-- Bank rows of nodes, each once, with what a read of the node meets there. -/
def nodeRows (s : Sys) (k : Stack) (part panel : Nat) (top : List Word) (nodes : List Nat) : List (Nat × Nat × Option Bool) :=
  (nodes.filterMap fun n => (stackAddr s part panel top (128 * n)).map fun a => (bankOf a, rowOf a, s.rowFault k a 128)).eraseDups

/-- The bobbin of a sweep. -/
def Tx.sweepBobbin (tx : Tx s0) (q : Sweep) : Loc × Tx s0 :=
  if Decl.peer q.bobbin ≠ 0 then (.away, tx)
  else match tx.engineAddr q.part q.panel 288 q.bobbin (handleOff (dnat q.desc 2)) (rRd + rW + rA) with
    | (some (a, k, m, n), tx) => (.mem a k m n, tx)
    | (none, tx) => (.none, tx)

/-- Entries that a slot holds. -/
def slotEntries (slotBytes : Nat) : Nat := (slotBytes - 16) / 16

/-- Bytes of a slot (R414). -/
def sweepSlot (q : Sweep) (entries : List (Nat × DWord)) (last : Bool) : List Byte :=
  let n (x : Nat) : Word := BitVec.ofNat 32 x
  bytesOfWords ([n entries.length,
    n ((if last then 2 ^ 31 else 0) + (if q.overflow then 2 ^ 30 else 0) + (if q.badNode then 2 ^ 29 else 0)), 0, 0]
    ++ entries.flatMap fun e => [n e.1, 0, n e.2.toNat, n (e.2.toNat / 2 ^ 32)])

/-- What a sweep does next. -/
inductive SweepMove where
  /-- the walk of an item ends -/
  | walk (item : Nat)
  /-- a slot is filled with so many entries; the last one or not -/
  | slot (entries : Nat) (last : Bool)
  /-- the last slot has advanced the write pointer: the tack arrives -/
  | done
  deriving DecidableEq, Repr

/-- One of a list of items, freely. -/
def pickItem (nonce : Nat) (l : List Nat) : Option Nat :=
  match l with
  | [] => none
  | [x] => some x
  | x :: rest => some ((x :: rest).getD (Config.freeNat nonce % (rest.length + 1)) x)

/-- The bobbin of a sweep, or its next slot, lies on the other die, and the bridge trains. -/
def Sweep.slotHeld (s : Sys) (q : Sweep) (addr : Nat) (bob : List Word) : Bool :=
  let slot := dnat bob 0
  s.acrossHeld q.stack (homeDie addr)
    || (s.launch? q.launch).any fun l => s.resultHeld q.stack (l.decl (handleSlot slot))
      (handleOff slot + Bobbin.claim bob % max 1 (Bobbin.maxSlots bob) * Bobbin.slotBytes bob) (Bobbin.slotBytes bob)

/-- The move that is due. -/
def Sweep.move (st : State) (q : Sweep) : Option SweepMove :=
  if !q.posted || !st.sys.queryLives q.panel then none
  else
    match ((Tx.start st).sweepBobbin q).1 with
    | .mem a k m n =>
      let w := st.objWords (.mem a k m n) 16
      let room := st.sys.tagged (wordIx a) && Bobbin.diff (Bobbin.claim w) (Bobbin.released w) < Bobbin.active w
        && !q.slotHeld st.sys a w
      let cap := slotEntries (Bobbin.slotBytes w)
      let have_ := q.pendingEntries.length
      match q.lastSlot with
      | some p => if Bobbin.diff (Bobbin.write w) (p + 1) < 2 ^ 31 then some .done else none
      | none =>
        match pickItem st.sys.nonce q.left with
        | some i => if have_ ≥ cap ∧ cap ≠ 0 then (if room then some (.slot cap false) else none) else some (.walk i)
        | none => if !room then none else if have_ > cap then some (.slot cap false) else some (.slot have_ true)
    | .away =>
      match q.lastSlot, pickItem st.sys.nonce q.left with
      | some _, _ => some .done
      | none, some i => some (.walk i)
      | none, none => some (.slot q.pendingEntries.length true)
    | _ => none

/-- An item's walk ends: its entries join those to be written, in its own order (R412, R414). -/
def Tx.sweepWalk (tx : Tx s0) (q : Sweep) (l : Launch) (i : Nat) : Tx s0 :=
  let c : Chunks := ⟨tx.st.mem, q.start, tx.sys, Decl.key q.top⟩
  let x := walkItem c q.part q.panel q.top ((wnat q.desc 6).testBit 29) (q.items.getD i [])
  let k := tx.sys.stack q.stack
  match k.meetRows q.part l.id (nodeRows tx.sys k q.part q.panel q.top x.nodes) with
  | (true, k) => (tx.mod fun s => s.setStack q.stack k).terminate l.key 0x13
  | (false, k) =>
    let mine := x.found.map fun p => (i, p)
    (tx.mod fun s => s.setStack q.stack k).mod fun s => s.setSweep { q with
      left := q.left.filter (· != i)
      pendingEntries := weave s.nonce (q.pendingEntries.length + mine.length) q.pendingEntries mine
      overflow := q.overflow || x.overflow, badNode := q.badNode || x.bad }

/-- A slot is claimed, filled and complete (R295, R414). -/
def Tx.sweepFill (tx : Tx s0) (q : Sweep) (l : Launch) (n : Nat) (last : Bool) : Tx s0 :=
  match tx.sweepBobbin q with
  | (.mem a k m b, tx) =>
    let loc := Loc.mem a k m b
    let w := tx.st.objWords loc 16
    let p := Bobbin.claim w
    let slot := handleSlot (dnat w 0)
    let d := l.decl slot
    let off := handleOff (dnat w 0) + p % max 1 (Bobbin.maxSlots w) * Bobbin.slotBytes w
    let bs := sweepSlot q (q.pendingEntries.take n) last
    let pid := ((tx.sys.panel? q.panel).map (·.pid)).getD 0
    let tx := match tx.st.rangeFailure q.part q.panel d off bs.length with
      | some (code, o) => tx.unwritten q.part l.id pid q.tid slot d code o
      | none => tx.stackWrite q.part q.panel d off bs
    let claim := (p + 1) % 2 ^ 32
    let others := tx.openSlots loc none
    let oldest := others.foldl (fun best x => if Bobbin.diff claim x > Bobbin.diff claim best then x else best) claim
    let lat := Bobbin.average (wnat w 9) (Config.freeNat tx.sys.nonce % 2 ^ 32)
    let tx := (tx.objWrite loc 20 [BitVec.ofNat 32 claim, BitVec.ofNat 32 oldest]).objWrite loc 36 [BitVec.ofNat 32 lat]
    tx.mod fun s => s.setSweep { q with
      pendingEntries := q.pendingEntries.drop n, lastSlot := if last then some p else none }
  | (_, tx) => tx.mod fun s => s.setSweep { q with
      pendingEntries := q.pendingEntries.drop n, lastSlot := if last then some 0 else none }

/-- `SWEEP_RESULT_WRITE`. -/
def execSweepResultWrite (query : Nat) (s : State) : Host.Outcome State Fault Refusal :=
  match s.sys.sweep? query with
  | none => .next s
  | some q =>
    match s.sys.launch? q.launch, q.move s with
    | some l, some (.walk i) => ((Tx.start s).sweepWalk q l i).done
    | some l, some (.slot n last) => ((Tx.start s).sweepFill q l n last).done
    | some _, some .done =>
      (((Tx.start s).mod fun s => { s with sweeps := dropKey Sweep.key q.key s.sweeps }).tackEvents q.tack.toList .arrive).done
    | _, _ => .next s

/-! ## Rows (R407 to R410) -/

/-- Slack of a retention class, in cycles (R408). -/
def slackCycles (ms : Nat) : Nat := if ms = 32 then 4800000 else if ms = 64 then 9600000 else 19200000

/-- A scan is under way in a stack. -/
def Sys.scanning (s : Sys) (stack : Nat) : Bool :=
  (s.queries.any fun q => q.posted.any fun e => e.1 == stack) || s.sweeps.any fun q => q.posted && q.stack == stack

def Stack.undefer (k : Stack) (bank row : Nat) : Stack :=
  { k with deferred := k.deferred.filter fun e => !(e.1 == bank && e.2.1 == row) }

/-- `ROW_REFRESH` (R407, R408): the row is refreshed, or a scan that holds its bank defers it (assumption log 116). -/
def execRowRefresh (stack bank row : Nat) (s : State) : Host.Outcome State Fault Refusal :=
  ((Tx.start s).mod fun x =>
    let k := x.stack stack
    let known := k.deferred.any fun e => e.1 == bank && e.2.1 == row
    if !known && x.scanning stack && Config.freeBool x.nonce then
      x.setStack stack { k with deferred := (bank, row, (x.die (stack / 8)).cyc) :: k.deferred }
    else x.setStack stack (k.undefer bank row)).done

/-- `REFRESH_SLACK_EXPIRY` (R408): the scan pauses and the refresh runs. -/
def execRefreshSlackExpiry (stack bank row : Nat) (s : State) : Host.Outcome State Fault Refusal :=
  let k := s.sys.stack stack
  eventStep s (k.deferred.any fun e => e.1 == bank && e.2.1 == row
      && (s.sys.die (stack / 8)).cyc ≥ e.2.2 + slackCycles (k.classAt bank row)) fun tx =>
    tx.mod fun s => s.setStack stack (k.undefer bank row)

/-- Lines of a bank row. -/
def rowLines (stack bank row : Nat) : List Nat :=
  (List.range 8).map fun i => lineOf (stack * 2 ^ 36 + row * 2 ^ 20 + bank * 1024) + i

/-- `SCRUB_ROW` (R404, R407, R409, R470): the row is read, corrected and written back; what cannot be corrected is
poisoned. -/
def execScrubRow (stack bank row : Nat) (s : State) : Host.Outcome State Fault Refusal :=
  ((Tx.start s).mod fun x =>
    let k := { x.stack stack with scrub := (bank, row) }
    match k.errorAt bank row with
    | none => x.setStack stack k
    | some correctable =>
      let k := (k.logError (if correctable then 2 else 3) 0 bank row 0xFFFFFFFF 0).2
      if correctable then
        let k := k.hasten bank row
        let errors := k.errors.filter fun e => !(e.1 == bank && e.2.1 == row)
        x.setStack stack { k with errors := errors }
      else { x.setStack stack k with
        poisonLines := x.poisonLines ++ (rowLines stack bank row).filter fun l => !x.poisonLines.contains l }).done

/-- `STACK_THROTTLE` (R410): the limit of active thimbles and testers moves by 16, never below 16. -/
def execStackThrottle (stack : Nat) (lower : Bool) (s : State) : Host.Outcome State Fault Refusal :=
  ((Tx.start s).mod fun x =>
    let k := x.stack stack
    x.setStack stack { k with limit := if lower then max 16 (k.limit - 16) else min 192 (k.limit + 16) }).done

end Sys2Proof.Machine
end

