-- ==== Sys2Proof/Machine/TravelEvents.lean ====
section
/-! DEFINITION. The events of travelling threads and active messages (R370 to R388). -/

namespace Sys2Proof.Machine

variable {s0 : State}

/-! ## Departure (R372, R375) -/

/-- Of the threads of its stitch that still depart, it has the lowest `%tid` (R374). -/
def departFirst (s : Sys) (t : Thread) : Bool :=
  match t.phase with
  | .departing _ _ _ _ g _ => !s.threads.any fun u => u.core == t.core && (u.tid < t.tid || (u.tid == t.tid && u.panel < t.panel))
      && (match u.phase with
        | .departing _ _ _ _ h _ => h == g
        | _ => false)
  | _ => false

/-- Everything a departing thread waits for is over (step 4), and its turn has come. -/
def departReady (s : Sys) (t : Thread) (p : Panel) : Bool :=
  t.ops.isEmpty && t.late.isEmpty && p.phase == .running && p.batch.isNone && p.ahead.isNone && departFirst s t

/-- What a parcel carries to a target (R82, R86). -/
def carriedBy (m : Marker) (target : Nat) (t : Thread) : BitVec 8 × List Nat :=
  match m.entryAt target with
  | some e => (e.preds, e.carry)
  | none => if t.fresh then (0, List.range 8) else (0, [])

/-- The header of a travel parcel (R375). -/
def travelHeader (target : Nat) (prio : Byte) (preds : BitVec 8) (n : Nat) (l : Launch) (p : Panel) (t : Thread) (piece source : Nat) :
    List Word :=
  let w (x : Nat) : Word := BitVec.ofNat 32 x
  [w target, w (2 ^ 24 + prio.toNat * 2 ^ 16 + (t.p &&& preds).toNat * 2 ^ 8 + n), l.id, w p.pid,
   w (t.tid * 2 ^ 21 + t.rotbase * 2 ^ 14 + t.rotstep * 2 ^ 7 + t.repidx % 64 * 2), w (piece * 2 ^ 24 + t.rnd.toNat * 2 ^ 5 + t.fflags.toNat),
   w source, w (t.travels + 1)]

/-- A parcel's overflow entry (R381): offset in the overflow area. -/
def Launch.overflowEntry (l : Launch) (q : Parcel) : Nat :=
  320 * (wnat q.header 3 * l.threads + bits (wnat q.header 4) 21 11)

/-- The overflow area. -/
def Launch.overflowArea (l : Launch) : List Word := ((l.kind3).map l.decl).getD Decl.empty

/-- The 320 bytes of a parcel's entry. -/
def Parcel.bytes (q : Parcel) : List Byte :=
  let bs := bytesOfWords (q.header ++ q.carried)
  bs ++ List.replicate (320 - bs.length) 0

/-- A parcel is written to its overflow entry (R378, R380); an area at a peer takes it over the link (assumption log 174). -/
def Tx.spill (tx : Tx s0) (l : Launch) (q : Parcel) : Tx s0 := tx.stackWrite l.part q.src.1 l.overflowArea (l.overflowEntry q) q.bytes

/-- Bytes of a declaration as the device reads them at their homes. -/
def State.deviceRead (st : State) (part panel : Nat) (d : List Word) (off n : Nat) : List Byte :=
  (List.range (cdiv n 64)).flatMap fun i =>
    match ((Tx.start st).engineAddr part panel 288 d (off + 64 * i) rRd).1 with
    | some (a, k, _, _) => st.homeBytes a (min 64 (n - 64 * i)) k
    | none => List.replicate (min 64 (n - 64 * i)) 0

/-- A parcel read back from its overflow entry. A message has none; a peer gives back what it was sent (assumption log 174). -/
def State.unspill (st : State) (l : Launch) (q : Parcel) : Parcel :=
  if q.isMessage || Decl.peer l.overflowArea != 0 then q
  else
  let ws := wordsOf (st.deviceRead l.part q.src.1 l.overflowArea (l.overflowEntry q) 320)
  { q with header := ws.take 8, carried := (ws.drop 8).take (min 64 (wnat ws 1 % 128)) }

/-- A parcel goes to a core or waits for its piece; `group` is the stitch whose parcels count (R374). -/
def Tx.sendParcel (tx : Tx s0) (l : Launch) (q : Parcel) (src : Nat) (group : Option Nat) : Tx s0 :=
  match chooseHolder tx.sys l (bits (wnat q.header 5) 24 8) src group with
  | some c => tx.mod fun s => { s with parcels := s.parcels ++ [{ q with phase := .net c }] }
  | none => (tx.spill l q).mod fun s => { s with parcels := s.parcels ++ [{ q with phase := .waiting }] }

/-- Steps 5 to 8 of R372. -/
def Tx.formParcel (tx : Tx s0) (t : Thread) (p : Panel) (l : Launch) (m : Marker) (target : Nat) (prio : Byte)
    (writes : List (Nat × Word)) (rotbase group : Nat) (ret : Bool) : Tx s0 :=
  let core := t.core
  let tx := tx.release core obsC
  let t := { ((if ret then t.return_ else t).setVs writes) with rotbase := rotbase }
  let (preds, carry) := carriedBy m target t
  let regs := carry.map fun k => t.getV (physReg p.regs p.band t.rotbase k)
  let piece := (m.pieceAt target).getD 0
  let header := travelHeader target prio preds carry.length l p t piece (tx.sys.logical l.part core)
  let q : Parcel := ⟨tx.fresh, l.key, header, regs, .waiting, none, group, (p.key, t.tid)⟩
  (tx.take.mod fun s => s.setThread { t with phase := .flying, tseam := none, fresh := false }).sendParcel l q core (some group)

/-- `TRAVEL_DEPARTURE`. -/
def execTravelDeparture (panel tid : Nat) (s : State) : Host.Outcome State Fault Refusal :=
  match s.sys.thread? panel tid with
  | none => .next s
  | some t =>
    match t.phase, s.sys.homeOf t with
    | .departing target prio writes rotbase group ret, some (p, l) =>
      match (s.sys.objectOf l).bind (·.marker) with
      | some m => eventStep s (departReady s.sys t p && !l.out) fun tx => tx.formParcel t p l m target prio writes rotbase group ret
      | none => .next s
    | _, _ => .next s

/-! ## Arrival (R371, R376, R379, R380) -/

/-- A change of one parcel; `last` puts it behind the others. -/
def Sys.moveParcel (s : Sys) (q : Parcel) : Sys := { s with parcels := dropKey Parcel.key q.key s.parcels ++ [q] }

/-- A core has parcels that it has spilled. -/
def Sys.spilledAt (s : Sys) (core : Nat) : Bool := s.parcels.any fun q => q.phase == .spilled core

/-- The physical core of a logical one. -/
def Sys.physical (s : Sys) (part logical : Nat) : Nat :=
  match (s.part? part).bind fun p => p.l2p.find? fun e => e.1 == logical with
  | some e => e.2.1 * 144 + e.2.2
  | none => 0

/-- Source and destination core of a parcel in the network that crosses the bridge. -/
def Sys.overBridge (s : Sys) (q : Parcel) : Option (Nat × Nat) :=
  match q.phase, s.launch? q.launch with
  | .net core, some l =>
    let src := s.physical l.part (wnat q.header 6 % 512)
    if dieOf src = dieOf core then none else some (src, core)
  | _, _ => none

/-- The network may deliver a parcel: no training of the bridge holds it, and what the same core sent to the same core over the
bridge before it has arrived (R344). -/
def Sys.delivers (s : Sys) (q : Parcel) : Bool :=
  match s.overBridge q with
  | none => true
  | some d => !s.bridge.training && !((s.parcels.takeWhile fun r => r.key != q.key).any fun r => s.overBridge r == some d)

/-- `PARCEL_ARRIVAL` (R380): into the spool, or, where that is full or others wait behind it, to the overflow entry. -/
def execParcelArrival (parcel : Nat) (s : State) : Host.Outcome State Fault Refusal :=
  match s.sys.parcel? parcel with
  | none => .next s
  | some q =>
    match q.phase, s.sys.launch? q.launch with
    | .net core, some l =>
      eventStep s (!q.isMessage && s.sys.delivers q) fun tx =>
        if tx.sys.spoolUse core < 256 && !tx.sys.spilledAt core then tx.mod fun s => s.moveParcel { q with phase := .spool core }
        else (tx.spill l q).mod fun s => s.moveParcel { q with phase := .spilled core }
    | _, _ => .next s

/-- The oldest parcel that a core has spilled. -/
def Sys.oldestSpilled (s : Sys) (core : Nat) : Option Parcel := s.parcels.find? fun q => q.phase == .spilled core

/-- `OVERFLOW_READBACK` (R380). -/
def execOverflowReadback (core : Nat) (s : State) : Host.Outcome State Fault Refusal :=
  match s.sys.oldestSpilled core with
  | none => .next s
  | some q =>
    match s.sys.launch? q.launch with
    | none => .next s
    | some l => eventStep s (s.sys.spoolUse core < 256) fun tx =>
        tx.mod fun x => x.setParcel { (s.unspill l q) with phase := .spool core }

/-- The oldest travel parcel of a core, in its spool or linked behind it. -/
def Sys.oldestTravel (s : Sys) (core : Nat) : Option Parcel :=
  s.parcels.find? fun q => !q.isMessage && (q.phase == .spool core || q.phase == .spilled core)

/-- Threads of travelling launches on a core; a panel that is switched out holds no place. -/
def Sys.travellersOn (s : Sys) (core : Nat) : List Thread :=
  s.threads.filter fun t => t.core == core && t.phase != .exited && t.phase != .flying
    && ((s.homeOf t).any fun h => h.2.travelling && h.1.phase != .out && h.1.handlerOf.isNone)

/-- Threads of panels that have still to start on a holder: their slots are taken (R86, R371). -/
def Sys.startersOn (s : Sys) (core : Nat) : Nat :=
  ((s.panels.filter fun p => p.core == core && p.phase == .placed && (s.launchOf p).any fun l => l.travelling && !l.out).map
    (·.nthr)).sum

/-- Bytes of register file that threads of a launch take each. -/
def regBytes (regs : Nat) : Nat := regs * 32

/-- Room for one more thread on a holder (R371). -/
def roomFor (s : Sys) (core : Nat) (l : Launch) : Bool :=
  let n := (s.travellersOn core).length + s.startersOn core
  n < 2048 && (n + 1) * regBytes l.regs ≤ 512 * 1024

/-- The lowest free place of a launch's travel seams on a core (R370). -/
def Sys.freeLane (s : Sys) (core launch : Nat) : Nat × Nat :=
  let taken := (s.threads.filter fun t => t.core == core && t.phase != .exited && t.phase != .flying
    && ((s.panel? t.panel).any fun p => p.launch == launch)).filterMap (·.tseam)
  ((List.range (taken.length + 1)).findSome? fun i =>
    if taken.contains (i / 64, i % 64) then none else some (i / 64, i % 64)).getD (taken.length / 64, taken.length % 64)

/-- Where a thread that enters a piece at an index starts (R76, R87, R88). -/
def startForm (s : Sys) (o : Option Object) (l : Launch) (core ix : Nat) (piece : Option Nat) : Option Native :=
  match o with
  | none => none
  | some o =>
    if !l.native || (s.core core).piecePortable then none
    else o.travelAt ix piece

/-- The thread that a parcel restores (R376). -/
def Thread.arrive (t : Thread) (p : Panel) (m : Marker) (q : Parcel) (core : Nat) (seam : Nat × Nat) (nat : Option Native) :
    Thread :=
  let target := wnat q.header 0
  let w1 := wnat q.header 1
  let w4 := wnat q.header 4
  let w5 := wnat q.header 5
  let rot := bits w4 14 7
  let carry := match m.entryAt target with
    | some e => e.carry
    | none => List.range 8
  let blank := { t with v := List.replicate t.v.length 0, link := (0, 0), rotbase := rot }
  let regs := (carry.zip q.carried).map fun e => (physReg p.regs p.band rot e.1, e.2)
  { (blank.setVs regs) with
    phase := .ready, pc := target, prio := BitVec.ofNat 8 (bits w1 16 8), p := BitVec.ofNat 8 (bits w1 8 8)
    f := List.replicate 12 0, rotstep := bits w4 7 7, repidx := bits w4 1 6, rnd := BitVec.ofNat 3 (bits w5 5 3)
    fflags := BitVec.ofNat 5 w5, hints := Hints.empty, nat := nat, lastPort := none, core := core, tseam := some seam
    travels := wnat q.header 7, piece := some (bits w5 24 8), fresh := false }

/-- Threads or parcels of a stitch have still to choose their holder, a parcel that has now become a thread apart (R374). -/
def Sys.choosing (s : Sys) (group parcel : Nat) : Bool :=
  s.threads.any (fun t => match t.phase with
    | .departing _ _ _ _ g _ => g == group
    | _ => false)
  || s.parcels.any fun q => q.key != parcel && !q.isMessage && q.group == group && q.phase == .waiting

/-- `SPOOL_PARCEL_TO_THREAD`. -/
def execSpoolParcelToThread (core : Nat) (s : State) : Host.Outcome State Fault Refusal :=
  match s.sys.oldestTravel core with
  | none => .next s
  | some q =>
    match s.sys.launch? q.launch, s.sys.thread? q.src.1 q.src.2, s.sys.panel? q.src.1 with
    | some l, some t, some p =>
      match (s.sys.objectOf l).bind (·.marker) with
      | none => .next s
      | some m =>
        eventStep s (q.phase == .spool core && roomFor s.sys core l && !l.out) fun tx =>
          let nat := startForm tx.sys (tx.sys.objectOf l) l core (wnat q.header 0) (some (bits (wnat q.header 5) 24 8))
          let u := t.arrive p m q core (tx.sys.freeLane core l.key) nat
          (tx.mod fun s => { s.setThread u with
            parcels := dropKey Parcel.key q.key s.parcels
            sent := (s.sent ++ [(q.group, core)]).filter fun e => s.choosing e.1 q.key }).acquire core obsC
    | _, _, _ => .next s

/-- `OCCUPANCY_REPORT` (R377). -/
def execOccupancyReport (core : Nat) (s : State) : Host.Outcome State Fault Refusal :=
  ((Tx.start s).mod fun s => s.setCore { s.core core with reported := s.spoolUse core }).done

/-! ## Waiting parcels (R378) -/

/-- The core to which a message that waits can leave: it takes a credit there (R387). Holders are ranked from the core that it
left (R377, R385). -/
def Sys.creditFor (s : Sys) (l : Launch) (q : Parcel) : Option Nat :=
  let core := if l.travelling then chooseHolder s l (bits (wnat q.header 5) 24 8) (s.physical l.part (wnat q.header 6 % 512)) none
    else ((q.dest.bind s.panel?).filter fun p => p.phase != .out).map (·.core)
  core.filter fun c => s.credit c q.src q.dest q.key

/-- Parcels of a launch that wait for a piece which has holders now, and messages that wait for a credit they can have. -/
def Sys.pinnedParcels (s : Sys) (l : Launch) : List Parcel :=
  s.parcels.filter fun q => q.launch == l.key && q.phase == .waiting
    && (if q.isMessage then (s.creditFor l q).isSome else !(l.holders.getD (bits (wnat q.header 5) 24 8) []).isEmpty)

/-- A parcel goes again to where it is to go now, behind the others; a message without a credit waits (R385, R387). -/
def Tx.sendAgain (tx : Tx s0) (l : Launch) (q : Parcel) (src : Nat) (group : Option Nat) : Tx s0 :=
  let tx := tx.mod fun s => { s with parcels := dropKey Parcel.key q.key s.parcels }
  if q.isMessage then
    let x := match tx.sys.creditFor l q with
      | some c => ParcelPhase.net c
      | none => .waiting
    tx.mod fun s => { s with parcels := s.parcels ++ [{ q with phase := x }] }
  else tx.sendParcel l q src group

/-- `PARCEL_SEND_ON_PIN`. -/
def execParcelSendOnPin (launch : Nat) (s : State) : Host.Outcome State Fault Refusal :=
  match s.sys.launch? launch with
  | none => .next s
  | some l =>
    eventStep s (!(s.sys.pinnedParcels l).isEmpty && !l.out) fun tx =>
      tx.each (tx.sys.pinnedParcels l) fun tx q =>
        let src := tx.sys.physical l.part (wnat q.header 6 % 512)
        tx.sendAgain l (tx.st.unspill l q) src (some q.group)

/-! ## Active messages (R386 to R388) -/

/-- On its way, or waiting to leave. -/
def ParcelPhase.before : ParcelPhase → Bool
  | .net _ | .waiting | .saved _ => true
  | _ => false

/-- `MESSAGE_ARRIVAL`: messages of one sender to one destination keep their order. -/
def messageReady (s : Sys) (q : Parcel) : Bool :=
  q.isMessage && (match q.phase with
    | .net _ => true
    | _ => false)
    && s.delivers q && !(s.parcels.any fun r => r.key < q.key && r.isMessage && r.src == q.src && r.dest == q.dest && r.phase.before)

def execMessageArrival (parcel : Nat) (s : State) : Host.Outcome State Fault Refusal :=
  match s.sys.parcel? parcel with
  | none => .next s
  | some q =>
    match q.phase with
    | .net core => eventStep s (messageReady s.sys q) fun tx => tx.mod fun s => s.moveParcel { q with phase := .spool core }
    | _ => .next s

/-- The oldest message of a core. -/
def Sys.oldestMessage (s : Sys) (core : Nat) : Option Parcel := s.parcels.find? fun q => q.isMessage && q.phase == .spool core

/-- Handler panels of a launch on a core. -/
def Sys.handlersOn (s : Sys) (core launch : Nat) : List Panel :=
  s.panels.filter fun p => p.core == core && p.launch == launch && p.handlerOf.isSome

/-- The handler panel and its thread that a message starts (R388). -/
def handlerOf (s : Sys) (l : Launch) (q : Parcel) (key core regs : Nat) : Panel × Thread :=
  let pid := wnat q.header 3
  let ix := wnat q.header 0
  let dest := q.dest.bind s.panel?
  let base := Panel.fresh key l.key none pid core (65 + 2 * key) 1 regs (min l.band regs) 1
    (if l.travelling then 0 else (dest.map (·.scratchLen)).getD 0)
  let t := Thread.newborn key 0 ix (BitVec.ofNat 8 (bits (wnat q.header 1) 16 8)) regs core
  let o := s.objectOf l
  ({ base with phase := .running, handlerOf := some (q.dest.getD 0), extents := (dest.map (·.extents)).getD l.extents },
   { (t.setVs ((List.range q.carried.length).map fun i => (physReg regs (min l.band regs) 0 i, q.carried.getD i 0))) with
     piece := if l.travelling then some (bits (wnat q.header 5) 24 8) else none
     nat := if l.travelling then startForm s o l core ix (some (bits (wnat q.header 5) 24 8)) else none })

def handlerReady (s : Sys) (core : Nat) (q : Parcel) : Bool :=
  (s.handlersOn core q.launch).length < 4 && (match s.launch? q.launch with
    | some l => !l.out && (l.travelling || ((q.dest.bind s.panel?).any fun p => p.phase == .running))
    | none => false)

/-- `HANDLER_PANEL_START`. -/
def execHandlerPanelStart (core : Nat) (s : State) : Host.Outcome State Fault Refusal :=
  match s.sys.oldestMessage core with
  | none => .next s
  | some q =>
    match s.sys.launch? q.launch with
    | none => .next s
    | some l =>
      eventStep s (handlerReady s.sys core q) fun tx =>
        let regs := match tx.sys.handler l (bits (wnat q.header 5) 16 8) with
          | some h => h.2.2
          | none => 8
        let r := handlerOf tx.sys l q tx.fresh core regs
        (tx.take.mod fun s => { s with
          panels := s.panels ++ [r.1], threads := s.threads ++ [r.2]
          parcels := dropKey Parcel.key q.key s.parcels }).acquire core obsC

end Sys2Proof.Machine
end

