-- ==== Sys2Proof/Machine/FrontEnd.lean ====
section
/-! DEFINITION. The launch front end: `LAUNCH_ARRIVAL` and `SIGNATURE_CHECK` (R25 to R29, R31, R32, R39, R43, R44, R46,
R67 to R71, R80 to R83, R457, R458). -/

namespace Sys2Proof.Machine

variable {s0 : State}

/-! ## Reading -/

/-- Bytes at virtual addresses of a partition, read through its tables (R25); none: one of them cannot be read. -/
def Tx.readVirt (tx : Tx s0) (part va n : Nat) : Option (List Byte) × Tx s0 :=
  (linePieces va n).foldl (fun (acc : Option (List Byte) × Tx s0) x =>
    match acc.1 with
    | none => acc
    | some bs => match acc.2.virtAddr part x.1 rRd with
      | (none, tx) => (none, tx)
      | (some (a, k, _, _), tx) => (some (bs ++ tx.st.homeBytes a x.2 k), tx)) (some [], tx)

/-- Bytes of host memory (R455); a read may fail. -/
def State.readHost (st : State) (addr n : Nat) : Option (List Byte) :=
  if Config.hostReadFails st.sys.nonce addr = true then none else some (Mem.getBytes st.hostMem addr n)

/-! ## Checks of the record (R28) -/

/-- A dependence word (R26). -/
def depOk (d : Nat) : Bool := bits d 52 10 == 0 && (if d.testBit 63 then d % 8 == 0 else bits d 32 20 == 0)

namespace Launch

/-- The dependences that are read. -/
def depsRead (l : Launch) : List Nat := (List.range (min 4 l.depCount)).map l.dep

/-- Reason 0x01: the record's own form. -/
def formOk (l : Launch) : Bool :=
  bits (l.w 0) 24 8 == 1 && bits (l.w 0) 16 8 == 1 && bits (l.w 0) 3 4 == 0 && bits (l.w 5) 26 6 == 0
    && bits (l.w 6) 0 11 == 0 && l.code < 2 ^ 52 && l.depsRead.all depOk

/-- Reason 0x05: registers, band, scratchpad. -/
def sizesOk (l : Launch) : Bool :=
  1 ≤ l.regs && l.regs ≤ 30 && l.band ≤ l.regs && l.band ≤ 16 && l.scratch ≤ 1024 * 256

/-- The record's class. -/
def recordClass (l : Launch) : Nat := bits (l.w 0) 0 3

/-- The checks of stage 1 that come before every later one, in table order: the first reason. -/
def earlyReason (s : Sys) (p : Partition) (bad : Bool) (l : Launch) : Option Nat :=
  if bad || !l.formOk then some 1
  else if l.id = 0 || s.idInUse l.part l.id then some 2
  else if (l.domain ≠ 0 ∧ !s.domains.any fun d => d.num == l.domain) ∨ (l.recordClass = 7 ∧ !p.deadline) then some 3
  else if bits (l.w 4) 12 4 ≥ 9 then some 4
  else if !l.sizesOk then some 5
  else if l.threads * l.regs * 32 > 512 * 1024 then some 6
  else none

end Launch

namespace TileRec

/-- Reserved fields of a record of size 0 are 0 (R310). -/
def reservedOk (q : QWord) : Bool := bits q.toNat 32 10 == 0 && bits q.toNat 64 4 == 0 && bits q.toNat 96 32 == 0

/-- One record of a launch's table (R311); two spare records may overlap. -/
def recordOk (units : Nat) (others : List QWord) (q : QWord) : Bool :=
  if size q = 0 then reservedOk q
  else fieldsOk q && areasOk q && placeOk q units (others.filter fun o => role q != 3 || role o != 3)

end TileRec

/-- Reason 0x08. -/
def tilesOk (l : Launch) : Bool :=
  l.tileCount ≤ 64 && l.units ≤ 256
    && (List.range l.tiles.length).all fun i => TileRec.recordOk l.units (l.tiles.eraseIdx i) (l.tiles.getD i 0)

namespace Decl

/-- 0xFFFF of a plain, shelf or spool declaration stands for every stack of the partition (R32). -/
def fixMask (p : Partition) (d : D) : D :=
  if valid d && kind d != 2 && mask d == 0xFFFF then
    d.set 5 (BitVec.ofNat 32 (p.stackMask.toNat * 2 ^ 16 + bits (wnat d 5) 0 16))
  else d

/-- The kind word and the length its kind fixes (R31, R395, R397). -/
def kindOk (d : D) : Bool :=
  if kind d = 1 then
    bits (wnat d 6) 0 15 == 0 && bits (wnat d 7) 28 4 == 0 && maxTokens d != 0 && 16 ≤ dim d
      && dim d % (if be4 d then 32 else 16) == 0
      && pinned d && base d % 2 ^ 21 == 0 && !hasA d && peer d == 0 && len d == stackCount d * shelfBytes d
  else if kind d = 2 then
    bits (wnat d 6) 4 28 == 0 && bits (wnat d 7) 24 8 == 0 && nodes d != 0 && mask d == 2 ^ bits (wnat d 6) 0 4
      && pinned d && base d % 2 ^ 21 == 0 && !hasA d && peer d == 0 && len d == 128 * nodes d
  else wnat d 6 == 0 && wnat d 7 == 0

/-- Does the slice number name a domain or slice (R31, R32, R252)? -/
def sliceOk (ildom : List Word) (d : D) : Bool :=
  if mode d = 2 then ildom.getD (num d) 0 != 0 else mode d == 3 || num d == 0

/-- The declaration checks (R32). A length of 0 and a base off a multiple of 256, which R31 excludes and R32 does not name,
fail them too (assumption log 168). -/
def ok (ildom : List Word) (p : Partition) (d : D) : Bool :=
  if !valid d then d.all (· == 0)
  else
    !reserved d && len d != 0 && base d % 256 == 0 && base d + len d ≤ 2 ^ 52
      && (hasRd d || hasW d || hasA d || hasX d) && !(ro d && (hasW d || hasA d)) && gran d ≤ 8
      && mask d != 0 && mask d &&& (65535 - p.stackMask.toNat) == 0
      && sliceOk ildom d && p.hasKey (key d) && kindOk d

end Decl

/-- Reason 0x09, but for what cannot be read. -/
def declsOk (ildom : List Word) (p : Partition) (l : Launch) : Bool :=
  let spool := (List.range l.decls.length).filter fun i => Decl.valid (l.decl i) && Decl.kind (l.decl i) == 3
  l.bufferCount ≤ 4096 && l.decls.all (Decl.ok ildom p) && spool.length ≤ 1
    && (!l.travelling || spool.any fun i => Decl.pinned (l.decl i) && Decl.hasRd (l.decl i) && Decl.hasW (l.decl i))

/-! ## The code object (R20 to R23, R68) -/

namespace CodeObj

/-- The 32-bit word at a byte offset. -/
def at_ (bs : List Byte) (o : Nat) : Nat := ofLeBytes ((bs.drop o).take 4)

def isTravelling (bs : List Byte) : Bool := (at_ bs 4).testBit 1
def hasNative (bs : List Byte) : Bool := (at_ bs 4).testBit 0
def bytes (bs : List Byte) : Nat := at_ bs 8
def entries (bs : List Byte) : Nat := bits (at_ bs 12) 24 8
def handlers (bs : List Byte) : Nat := bits (at_ bs 12) 16 8
def entryOff (bs : List Byte) : Nat := at_ bs 16
def handlerOff (bs : List Byte) : Nat := at_ bs 20
def markerOff (bs : List Byte) : Nat := at_ bs 24
def textOff (bs : List Byte) : Nat := at_ bs 28
def textBytes (bs : List Byte) : Nat := at_ bs 32
def nativeOff (bs : List Byte) : Nat := at_ bs 36
def nativeBytes (bs : List Byte) : Nat := at_ bs 40
def sigOff (bs : List Byte) : Nat := at_ bs 44

/-- Step 2: magic, version, reserved fields. -/
def headerOk (bs : List Byte) : Bool :=
  at_ bs 0 == 0x45504D58 && bits (at_ bs 4) 16 16 == 1 && bits (at_ bs 4) 2 14 == 0 && bits (at_ bs 12) 0 16 == 0
    && [48, 52, 56, 60].all (fun o => at_ bs o == 0)
    && (List.range (handlers bs)).all fun i =>
      bits (at_ bs (handlerOff bs + 8 * i)) 0 19 == 0 && at_ bs (handlerOff bs + 8 * i + 4) == 0

/-- Pieces and entry points of a marker at an offset (R80). -/
def pieceCount (bs : List Byte) (m : Nat) : Nat := bits (at_ bs (m + 4)) 24 8 + 1
def pointCount (bs : List Byte) (m : Nat) : Nat := bits (at_ bs (m + 4)) 12 12
def pieceOff (bs : List Byte) (m : Nat) : Nat := at_ bs (m + 8)
def pointOff (bs : List Byte) (m : Nat) : Nat := at_ bs (m + 12)

/-- Bytes of a marker: its header and its tables. -/
def markerBytes (bs : List Byte) (m : Nat) : Nat :=
  max 32 (max (pieceOff bs m + 16 * pieceCount bs m) (pointOff bs m + 48 * pointCount bs m))

/-- Offset and bytes of each section that is present. -/
def sections (bs : List Byte) : List (Nat × Nat) :=
  [(0, 64), (textOff bs, textBytes bs)]
    ++ (if entries bs = 0 then [] else [(entryOff bs, 8 * entries bs)])
    ++ (if handlers bs = 0 then [] else [(handlerOff bs, 8 * handlers bs)])
    ++ (if isTravelling bs then [(markerOff bs, markerBytes bs (markerOff bs))] else [])
    ++ (if hasNative bs then [(nativeOff bs, nativeBytes bs)] else [])

/-- Step 3: offsets and sections. -/
def sectionsOk (bs : List Byte) : Bool :=
  [entryOff bs, handlerOff bs, markerOff bs, textOff bs, nativeOff bs, sigOff bs].all (· % 64 == 0)
    && (handlers bs != 0 || handlerOff bs == 0) && (isTravelling bs || markerOff bs == 0)
    && (hasNative bs || (nativeOff bs == 0 && nativeBytes bs == 0))
    && ((sections bs).drop 1).all (fun x => x.1 != 0)
    && textBytes bs != 0 && textBytes bs % 4 == 0
    && (!hasNative bs || (nativeBytes bs != 0 && nativeBytes bs % 4 == 0))
    && (sections bs).all (fun x => x.1 + x.2 ≤ sigOff bs) && TileRec.apart (sections bs)
    && bytes bs == sigOff bs + 2456

def entry (bs : List Byte) (i : Nat) : Nat × Byte × Nat :=
  let w0 := at_ bs (entryOff bs + 8 * i)
  let w1 := at_ bs (entryOff bs + 8 * i + 4)
  (w0, BitVec.ofNat 8 (bits w1 24 8), bits w1 0 24)

def handler (bs : List Byte) (i : Nat) : Nat × Nat :=
  let w0 := at_ bs (handlerOff bs + 8 * i)
  (bits w0 24 8, bits w0 19 5)

/-- Step 4: entries and handlers. -/
def tablesOk (bs : List Byte) : Bool :=
  1 ≤ entries bs && handlers bs ≤ 64
    && (List.range (entries bs)).all (fun i => let e := entry bs i
      e.1 < textBytes bs / 4 && (e.2.2 == 0xFFFFFF || e.2.2 < nativeBytes bs / 4))
    && (List.range (handlers bs)).all fun i => let h := handler bs i
      h.1 < entries bs && 8 ≤ h.2 && h.2 ≤ 30

/-- The signature block (R23): signer identifier, signature. -/
def signer (bs : List Byte) : List Byte := (bs.drop (sigOff bs + 4)).take 32
def signature (bs : List Byte) : List Byte := (bs.drop (sigOff bs + 36)).take 2420

/-- Steps 2 to 7 of R68: the first that fails. -/
def failure (p : Partition) (bs : List Byte) : Option Nat :=
  if !headerOk bs then some 2
  else if !sectionsOk bs then some 3
  else if !tablesOk bs then some 4
  else if at_ bs (sigOff bs) ≠ 0x998 then some 5
  else match p.signers.find? fun x => x.ident == signer bs with
    | none => some 6
    | some x =>
      if Config.mldsaVerify x.key (Config.sha3 (bs.take (sigOff bs))) (signature bs) then none else some 7

/-! ### The marker (R80 to R83) -/

def piece (bs : List Byte) (m i : Nat) : Piece :=
  let a := m + pieceOff bs m + 16 * i
  { start := at_ bs a, words := bits (at_ bs (a + 4)) 0 15, rep := bits (at_ bs (a + 8)) 24 8
    nstart := bits (at_ bs (a + 8)) 0 24, nwords := bits (at_ bs (a + 12)) 0 15 }

/-- Registers that a carry mask names, ascending. -/
def carryOf (bs : List Byte) (a : Nat) : List Nat :=
  (List.range 240).filter fun k => (at_ bs (a + 8 + 4 * (k / 32))).testBit (k % 32)

def point (bs : List Byte) (m i : Nat) : PieceEntry :=
  let a := m + pointOff bs m + 48 * i
  { index := at_ bs a, piece := bits (at_ bs (a + 4)) 24 8, preds := BitVec.ofNat 8 (bits (at_ bs (a + 4)) 8 8)
    carry := carryOf bs a, native := bits (at_ bs (a + 40)) 0 24 }

/-- Reserved fields of the marker are 0. -/
def markerReserved (bs : List Byte) (m : Nat) : Bool :=
  bits (at_ bs (m + 4)) 0 12 == 0 && [16, 20, 24, 28].all (fun o => at_ bs (m + o) == 0)
    && (List.range (pieceCount bs m)).all (fun i => let a := m + pieceOff bs m + 16 * i
      bits (at_ bs (a + 4)) 15 17 == 0 && bits (at_ bs (a + 12)) 15 17 == 0)
    && (List.range (pointCount bs m)).all fun i => let a := m + pointOff bs m + 48 * i
      bits (at_ bs (a + 4)) 16 8 == 0 && bits (at_ bs (a + 4)) 0 8 == 0 && bits (at_ bs (a + 36)) 16 16 == 0
        && bits (at_ bs (a + 40)) 24 8 == 0 && at_ bs (a + 44) == 0

def pieceOk (text native : Nat) (p : Piece) : Bool :=
  1 ≤ p.words && p.words ≤ 16384 && p.nwords ≤ 16384 && p.rep != 0 && p.start + p.words ≤ text
    && (if p.nstart = 0xFFFFFF then p.nwords == 0 else p.nwords == 0 || p.nstart + p.nwords ≤ native)

def rising : List Nat → Bool
  | x :: y :: l => x < y && rising (y :: l)
  | _ => true

/-- The checks of R83 that need no launch. -/
def markerOk (bs : List Byte) (m : Nat) (ps : List Piece) (es : List PieceEntry) : Bool :=
  at_ bs m == 0x4D524B31 && pointCount bs m != 0 && pieceOff bs m % 16 == 0 && pointOff bs m % 16 == 0
    && markerReserved bs m && ps.all (pieceOk (textBytes bs / 4) (nativeBytes bs / 4))
    && TileRec.apart (ps.map fun p => (p.start, p.words)) && rising (es.map (·.index))
    && es.all fun e => e.carry.length ≤ 64 && (match ps[e.piece]? with
      | some p => p.start ≤ e.index && e.index < p.start + p.words
      | none => false)

def marker (bs : List Byte) : Option Marker :=
  if !isTravelling bs then none
  else
    let m := markerOff bs
    let ps := (List.range (pieceCount bs m)).map (piece bs m)
    let es := (List.range (pointCount bs m)).map (point bs m)
    some ⟨ps, es, markerOk bs m ps es⟩

/-! ### The entry in the verified-object table (R70, R75) -/

/-- The portable index that a word of supplied native text stands for: as the object's tables name it; where they do not,
the spec does not say how the device knows it (assumption log 23). -/
def suppliedIndex (key : Nat) (es : List (Nat × Byte × Nat)) (m : Option Marker) (n : Nat) : Nat :=
  match es.find? fun e => e.2.2 == n with
  | some e => e.1
  | none => match (m.bind fun m => m.entries.find? fun e => e.native == n) with
    | some e => e.index
    | none => Config.suppliedNativeIndex key n

def make (p : Partition) (key code : Nat) (copies : List Nat) (bs : List Byte) : Object :=
  let es := (List.range (entries bs)).map (entry bs)
  let m := marker bs
  let trusted := hasNative bs && p.signers.any fun x => x.ident == signer bs && x.nativeTrusted
  let supplied := wordsOf ((bs.drop (nativeOff bs)).take (nativeBytes bs))
  let snmap := if trusted then (List.range supplied.length).map (suppliedIndex key es m) else []
  { key := key, part := p.num, code := code, bytes := bytes bs, copies := copies, gorlux := [], textOff := textOff bs,
    nativeOff := nativeOff bs, entries := es,
    handlers := (List.range (handlers bs)).map (handler bs), marker := m,
    text := wordsOf ((bs.drop (textOff bs)).take (textBytes bs)), supplied := if trusted then supplied else [],
    trusted := trusted, native := if trusted then supplied else [], nmap := snmap, snmap := snmap,
    nativeOn := trusted, evict := false, used := key, entryLines := [], launched := none, gaveUp := false : Object }.refreshed

end CodeObj

/-! ## Room in the table (R66, R70) -/

def Sys.objectsOf (s : Sys) (part : Nat) : List Object := s.objects.filter fun o => o.part == part

/-- What is taken of a partition's code store: first address and bytes of each copy and of each text of Gorlux's (R68, R76). -/
def Sys.codeTaken (s : Sys) (part : Nat) : List (Nat × Nat) :=
  (s.objectsOf part).flatMap fun o => o.copies.map (fun a => (a, o.bytes)) ++ o.gorlux.map fun a => (a, 4 * o.native.length)

/-- The first free place for so many bytes in a die's half of the code store (assumption log 189). -/
def Sys.codeSpace (s : Sys) (p : Partition) (bytes die : Nat) : Option Nat :=
  freeSpace (p.codeStore.filter fun r => r.stack / 8 == die) (s.codeTaken p.num) bytes

/-- A place on each die of the partition; none: one of them has no room. -/
def Sys.codePlaces (s : Sys) (p : Partition) (bytes : Nat) : Option (List Nat) :=
  ([0, 1].filter p.onDie).foldr (fun d acc => (s.codeSpace p bytes d).bind fun a => acc.map fun l => a :: l) (some [])

/-- Bytes are written to places of the code store. -/
def Tx.putCode (tx : Tx s0) (p : Partition) (places : List Nat) (bs : List Byte) : Tx s0 :=
  tx.each places fun tx a => tx.each (List.range (cdiv bs.length 64)) fun tx i =>
    tx.homeWrite (a + 64 * i) p.tableKey 1 0 false ((bs.drop (64 * i)).take 64)

/-- An object of so many bytes may join the table: quota, capacity, and a full copy on each die (R68, R70). -/
def Sys.objectFits (s : Sys) (p : Partition) (bytes : Nat) : Bool :=
  (s.objectsOf p.num).length < p.objectQuota && s.objects.length < 1024 && (s.codePlaces p bytes).isSome

/-- The state with room made: the least recently used entries that no launch uses go. -/
def Sys.makeRoom (s : Sys) (p : Partition) (bytes : Nat) : Nat → Option Sys
  | 0 => if s.objectFits p bytes then some s else none
  | n + 1 =>
    if s.objectFits p bytes then some s
    else match leastBy Object.used ((s.objectsOf p.num).filter fun o => !s.objectUsed o) with
      | none => none
      | some o => (Sys.dropLines { s with objects := dropKey Object.key o.key s.objects }).makeRoom p bytes n

/-! ## Acceptance (R26, R43, R44) -/

/-- The head word of a queue passes every entry whose record is settled (R457). -/
def Sys.publishedHead (s : Sys) (q : Queue) : Word :=
  let open_ := s.launches.filterMap fun l => match l.source with
    | some (n, c) => if n = q.num ∧ l.phase = LaunchPhase.checking then some c else none
    | none => none
  open_.foldl (fun best c => if (q.head - c).toNat > (q.head - best).toNat then c else best) q.head

def Tx.publish (tx : Tx s0) (source : Option (Nat × Word)) : Tx s0 :=
  match source with
  | none => tx
  | some (n, _) => match tx.sys.queues.find? fun q => q.num == n with
    | none => tx
    | some q => tx.hostPoke (q.base + 32 * 2 ^ q.j) (leBytes 4 (tx.sys.publishedHead q).toNat)

/-- A dependence is met at acceptance. -/
def State.depMet (st : State) (l : Launch) (d : Nat) : Bool :=
  if d.testBit 63 then st.tackDepMet l.part d
  else d % 2 ^ 32 == l.id.toNat || !st.sys.idInUse l.part (BitVec.ofNat 32 d)

/-- The launch runs native (R87). -/
def nativeLaunch (l : Launch) (o : Object) : Bool :=
  l.travelling && o.travelNative

/-- All checks have passed. -/
def Tx.accept (tx : Tx s0) (l : Launch) (o : Object) : Tx s0 :=
  let st := tx.st
  let met := l.depsRead.map (st.depMet l)
  let l' : Launch := Launch.settle { l with
    phase := .held, object := some o.key, depsMet := met, native := nativeLaunch l o
    holders := match o.marker with
      | some m => if l.travelling then m.pieces.map fun _ => [] else []
      | none => [] }
  let tx := tx.mod fun s => (s.setLaunch l').setObject { o with
    used := s.serial, launched := if l.travelling then o.launched else some (o.launched.getD l.order) }
  let tx := if l.supervisor then
      tx.take.mod (updPart l.part fun p => { p with supervisor := some l.key, unsupervised := false })
    else tx.take
  tx.publish l.source

/-- A launch that fails leaves the front end. -/
def Tx.turnAway (tx : Tx s0) (l : Launch) (reason : Nat) : Tx s0 := (tx.reject l reason).publish l.source

/-- The checks of R83 that need the launch. -/
def Marker.takes (m : Marker) (s : Sys) (l : Launch) (o : Object) : Bool :=
  m.good && m.entries.all (fun e => e.carry.all fun k => k < l.regs * 8 || k ≥ 238)
    && (m.pieceAt (o.entries.getD l.entryIx (0, 0, 0)).1).isSome
    && m.pieces.length ≤ (((s.part? l.part).map (·.l2p)).getD []).length

/-- The checks that read the verified copy, in table order (R28). -/
def Tx.finishChecks (tx : Tx s0) (l : Launch) (o : Object) : Tx s0 :=
  let n := o.entries.length
  if l.entryIx ≥ n ∨ (l.trapEntry ≠ 0xFF ∧ l.trapEntry ≥ n) ∨ (l.eventEntry ≠ 0xFF ∧ l.eventEntry ≥ n) then tx.turnAway l 7
  else if l.fails.contains 8 then tx.turnAway l 8
  else if l.fails.contains 9 then tx.turnAway l 9
  else if (l.travelling && o.marker.isNone) || (o.marker.any fun m => !m.takes tx.sys l o) then tx.turnAway l 0x0B
  else if l.fails.contains 0x0C then tx.turnAway l 0x0C
  else tx.accept l o

/-- The object failed its check: 0x0A, unless an earlier check fails (R28). -/
def Launch.unsignedReason (l : Launch) : Nat := if l.fails.contains 8 then 8 else if l.fails.contains 9 then 9 else 0x0A

/-! ## Arrival (R39) -/

def Launch.ofRecord (key part cap : Nat) (ws : List Word) (supervisor : Bool) (source : Option (Nat × Word)) : Launch :=
  { key := key, part := part, id := ws.getD 1 0, record := ws, decls := [], tiles := [],
    phase := .checking, cls := min (bits (wnat ws 0) 0 3) cap, supervisor := supervisor, object := none, depsMet := [],
    fails := [], entry := true, order := key, walked := [], extents := [], nextYoke := 0, retired := 0, lastDie := 0,
    ran := false, lostMsg := false, suppressed := false, native := false, holders := [], mapped := false, out := false,
    overflow := .none, deferred := [], source := source, ending := none }

/-- Sixteen-byte records of a list of bytes. -/
def tilesOf (bs : List Byte) (n : Nat) : List QWord :=
  (List.range n).map fun i => BitVec.ofNat 128 (ofLeBytes ((bs.drop (16 * i)).take 16))

def declsOf (p : Partition) (bs : List Byte) (n : Nat) : List (List Word) :=
  (List.range n).map fun i => Decl.fixMask p (wordsOf ((bs.drop (32 * i)).take 32))

/-- The object of a launch's code address, if it is verified (R70). -/
def Sys.verified (s : Sys) (l : Launch) : Option Object := s.objects.find? fun o => o.part == l.part && o.code == l.code

/-- A record is checked (R28): what fails before 0x07 rejects at once; the rest waits for the verified copy. -/
def Tx.arrive (tx : Tx s0) (p : Partition) (ws : List Word) (cap : Nat) (bad supervisor : Bool)
    (source : Option (Nat × Word)) : Tx s0 :=
  let l := Launch.ofRecord tx.fresh p.num cap ws supervisor source
  let tx := tx.take
  match l.earlyReason tx.sys p bad with
  | some r => tx.turnAway l r
  | none =>
    let nd := min 4096 l.bufferCount
    let nt := min 64 l.tileCount
    let (ds, tx) := if nd = 0 then (some [], tx) else tx.readVirt p.num l.bufferAddr (32 * nd)
    let (ts, tx) := if nt = 0 then (some [], tx) else tx.readVirt p.num l.tileAddr (16 * nt)
    let l := { l with decls := declsOf p (ds.getD []) (if ds.isSome then nd else 0)
                      tiles := tilesOf (ts.getD []) (if ts.isSome then nt else 0) }
    let fails := (if ts.isSome && tilesOk l then [] else [8]) ++ (if ds.isSome && declsOk tx.sys.ildom p l then [] else [9])
      ++ (if l.travelling && l.tileCount != 0 then [0x0C] else [])
    let l := { l with fails := fails }
    let tx := tx.mod fun s => { s with launches := s.launches ++ [l] }
    match tx.sys.verified l with
    | some o => tx.finishChecks l o
    | none => tx

/-- Entries of the held table in use (R44). -/
def Sys.heldCount (s : Sys) : Nat := (s.launches.filter (·.entry)).length

def Sys.heldOf (s : Sys) (part : Nat) : Nat := (s.launches.filter fun l => l.entry && l.part == part).length

/-- The front end takes records of a partition (R430, R458, R461), its next supervisor's while it has none. -/
def Sys.takes (s : Sys) (part : Nat) (supervisor : Bool := false) : Bool :=
  match s.part? part with
  | some p => (supervisor || !p.unsupervised) && !p.tearing && s.heldOf part < p.heldQuota
  | none => false

/-- What the front end may take next. -/
inductive Offer where
  | queue (q : Queue)
  | stream (r : StreamRec)
  deriving DecidableEq, Repr

/-- The participants of the round robin, by number; the device stream comes after the queues. -/
def Sys.offers (s : Sys) : List (Nat × Offer) :=
  (sortBy Queue.num (s.queues.filter fun q => q.head != q.tail && s.takes q.part)).map (fun q => (q.num, Offer.queue q))
    ++ ((s.stream.find? fun r => s.takes r.part r.supervisor).map fun r => (4096, Offer.stream r)).toList

def Sys.nextOffer (s : Sys) : Option (Nat × Offer) :=
  if s.heldCount ≥ 4096 then none
  else (s.offers.find? fun x => x.1 ≥ s.rr).orElse fun _ => s.offers.head?

/-- One entry of a host queue (R457). Its record is read at any address (assumption log 171). -/
def Tx.takeEntry (tx : Tx s0) (q : Queue) (p : Partition) : Tx s0 :=
  let count := q.head
  let entry := tx.st.readHost (q.base + 32 * (count.toNat % 2 ^ q.j)) 32
  let e := wordsOf (entry.getD [])
  let tx := tx.mod fun s => { s with queues := putKey Queue.num { q with head := count + 1 } s.queues }
  let (rec_, tx) :=
    if entry.isNone then (none, tx)
    else if (wnat e 2).testBit 31 then tx.readVirt p.num (dnat e 0) 128
    else (tx.st.readHost (dnat e 0) 128, tx)
  match rec_ with
  | none => (tx.notice (.recordDropped q.num count)).publish (some (q.num, count))
  | some bs =>
    let bad := bits (wnat e 2) 0 31 != 0 || (e.drop 3).any (· != 0)
    tx.arrive p (wordsOf bs) 7 bad false (some (q.num, count))

/-- A device-side record (R298): the thread that submitted it goes on. -/
def Tx.takeStream (tx : Tx s0) (r : StreamRec) (p : Partition) : Tx s0 :=
  let tx := tx.mod fun s => { s with stream := dropKey StreamRec.key r.key s.stream }
  let tx := tx.each (tx.sys.threads.filter fun t => t.pend == some (.launch r.key)) fun tx t =>
    tx.mod fun s => s.setThread { t with pend := none }
  tx.arrive p r.words r.cap false r.supervisor none

/-- `LAUNCH_ARRIVAL`. -/
def execLaunchArrival (s : State) : Host.Outcome State Fault Refusal :=
  match s.sys.nextOffer with
  | none => .next s
  | some (n, x) =>
    let tx := (Tx.start s).mod fun s => { s with rr := n + 1 }
    (match x with
      | .queue q => match s.sys.part? q.part with
        | some p => tx.takeEntry q p
        | none => tx
      | .stream r => match s.sys.part? r.part with
        | some p => tx.takeStream r p
        | none => tx).done

/-! ## The signature check (R67 to R71) -/

/-- The object at a code address, read in one pass (R68 step 1). -/
def Tx.readObject (tx : Tx s0) (part code : Nat) : Option (List Byte) × Tx s0 :=
  if code % 64 ≠ 0 then (none, tx)
  else match tx.readVirt part code 64 with
    | (none, tx) => (none, tx)
    | (some h, tx) => tx.readVirt part code (max 64 (CodeObj.bytes h))

/-- The launches that wait for a check of one object. -/
def Sys.awaiting (s : Sys) (part code : Nat) : List Launch :=
  s.launches.filter fun l => l.phase == .checking && l.part == part && l.code == code

/-- A launch of an unsupervised partition is not accepted, its next supervisor apart (R430). -/
def Partition.admits (p : Partition) (l : Launch) : Bool := !p.unsupervised || l.supervisor

/-- The launches whose check one check of an object settles: those of an unsupervised partition wait (R430). -/
def Sys.settledBy (s : Sys) (p : Partition) (code : Nat) : List Launch := (s.awaiting p.num code).filter p.admits

/-- What a check comes to: the failing step, or the object's bytes and the table with room for it, no bytes for an object that is
in the table by now; none: it waits for room, or for a supervisor. -/
def checkObject (st : State) (l : Launch) : Option (Except Nat (List Byte × Sys)) :=
  match st.sys.part? l.part with
  | none => none
  | some p =>
    if !p.admits l then none
    else if (st.sys.verified l).isSome then some (.ok ([], st.sys))
    else match ((Tx.start st).readObject l.part l.code).1 with
    | none => some (.error 1)
    | some bs =>
      match CodeObj.failure p bs with
      | some n => some (.error n)
      | none => (st.sys.makeRoom p (CodeObj.bytes bs) st.sys.objects.length).map fun s => .ok (bs, s)

/-- The launch whose object is checked next: the first in order of acceptance that can be (R71). -/
def nextCheck (st : State) : Option Launch :=
  (sortBy Launch.order (st.sys.launches.filter fun l => l.phase == .checking)).find? fun l => (checkObject st l).isSome

/-- `SIGNATURE_CHECK`. -/
def execSignatureCheck (launch : Nat) (s : State) : Host.Outcome State Fault Refusal :=
  match nextCheck s with
  | none => .next s
  | some l =>
    match s.sys.part? l.part, checkObject s l with
    | some p, some r =>
      eventStep s (l.key == launch) fun tx =>
        match tx.sys.verified l with
        | some o => tx.each (tx.sys.settledBy p l.code) fun tx x => tx.finishChecks x o
        | none =>
        let tx := (tx.readObject l.part l.code).2
        match r with
        | .error n => tx.each (tx.sys.settledBy p l.code) fun tx x =>
            (tx.mod (updPart l.part fun p => { p with vlog := p.vlog ++ [(n, x.id)] })).turnAway x x.unsignedReason
        | .ok (bs, _) =>
          let tx := tx.mod fun s => (s.makeRoom p (CodeObj.bytes bs) s.objects.length).getD s
          let places := (tx.sys.codePlaces p (CodeObj.bytes bs)).getD []
          let o := CodeObj.make p tx.fresh l.code places bs
          let tx := (tx.putCode p places bs).take.mod fun s => { s with objects := s.objects ++ [o] }
          tx.each (tx.sys.settledBy p l.code) fun tx x => tx.finishChecks x ((tx.sys.object? o.key).getD o)
    | _, _ => .next s

end Sys2Proof.Machine
end

