-- ==== Sys2Proof/Machine/Place.lean ====
section
/-! DEFINITION. The scheduler: `EXTENT_WALK` (R62, R63), `GORLUX_TRANSLATION` (R76), `YOKE_PLACEMENT` (R45 to R61, R84 to
R90, R341), `PANEL_START` (R30, R42, R86). -/

namespace Sys2Proof.Machine

variable {s0 : State}

/-! ## Extents (R62 to R65) -/

/-- Pinned slots of this package. -/
def Launch.pinnedSlots (l : Launch) : List Nat :=
  (List.range l.decls.length).filter fun i => Decl.valid (l.decl i) && Decl.pinned (l.decl i) && Decl.peer (l.decl i) == 0

/-- Every pinned declaration is translated. -/
def Launch.translated (l : Launch) : Bool := l.pinnedSlots.all l.walked.contains

/-- Rights that a page must grant for a declaration. -/
def Decl.rights (d : List Word) : Nat :=
  (if hasRd d then rRd else 0) + (if hasW d then rW else 0) + (if hasA d then rA else 0)

/-- The pages of one declaration, walked in order; the address of the first page that fails, one whose table lies in a poisoned
line among them (assumption log 194). -/
def Tx.pinPages (tx : Tx s0) (p : Partition) (slot : Nat) (d : List Word) :
    List Nat → List PageMap → Except Nat (List PageMap) × Tx s0
  | [], acc => (.ok acc.reverse, tx)
  | page :: rest, acc =>
    let va := page * 65536
    match walk tx.st p va with
    | .hole => (.error va, tx.stop .stackHole)
    | .bad => (.error va, (tx.rekeyWalk p va).noticeDrop p va)
    | .spoiled => (.error va, tx)
    | .ok ad leaf =>
      if !Leaf.grants leaf (Decl.rights d) || (Decl.kind d == 1 && !Leaf.big leaf) then (.error va, tx)
      else ((tx.rekeyWalk p va).setAD p ad (isWrite (Decl.rights d))).pinPages p slot d rest (pageOf slot va leaf :: acc)

/-- A translation that a die's extent cache holds (R65); whether it still does is not fixed. -/
def Sys.cachedExtents (s : Sys) (p : Partition) (slot : Nat) (d : List Word) : Option (List PageMap) :=
  if Config.freeBool s.nonce = true then none
  else ((s.dies.flatMap (·.extents)).find? fun e => e.part == p.num && e.gen == p.ptgen.toNat && e.decl == d).map fun e =>
    e.pages.map fun m => { m with slot := slot }

/-- Each die's extent cache takes a translation; it holds 512. -/
def Sys.cacheExtents (s : Sys) (p : Partition) (d : List Word) (pages : List PageMap) : Sys :=
  { s with dies := s.dies.map fun x => { x with extents :=
      (⟨p.num, p.ptgen.toNat, d, pages⟩ :: x.extents.filter fun e => !(e.part == p.num && e.decl == d)).take 512 } }

/-- One declaration is translated. -/
def Tx.pinSlot (tx : Tx s0) (p : Partition) (slot : Nat) (d : List Word) : Except Nat (List PageMap) × Tx s0 :=
  match tx.sys.cachedExtents p slot d with
  | some pages => (.ok pages, tx)
  | none =>
    match tx.pinPages p slot d (Decl.pages d) [] with
    | (.ok pages, tx) => (.ok pages, tx.mod fun s => s.cacheExtents p d pages)
    | r => r

/-- All pinned declarations in slot order: the pages, or the slot and address of the first page that fails. -/
def Tx.pinAll (tx : Tx s0) (p : Partition) (l : Launch) : Except (Nat × Nat) (List PageMap) × Tx s0 :=
  l.pinnedSlots.foldl (fun (acc : Except (Nat × Nat) (List PageMap) × Tx s0) slot =>
    match acc.1 with
    | .error _ => acc
    | .ok pages => match acc.2.pinSlot p slot (l.decl slot) with
      | (.ok more, tx) => (.ok (pages ++ more), tx)
      | (.error va, tx) => (.error (slot, va), tx)) (.ok [], tx)

/-- Extents that pages need: runs that are contiguous on both sides (R62); a page of another key ID, slice mode or slice
number starts one of its own (assumption log 170). -/
def extentRuns : List PageMap → Nat
  | [] => 0
  | [_] => 1
  | a :: b :: l =>
    (if b.slot = a.slot ∧ b.vpage = a.vpage + 1 ∧ b.frame = a.frame + 65536 ∧ b.key = a.key ∧ b.mode = a.mode ∧ b.num = a.num
      then 0 else 1) + extentRuns (b :: l)

/-- A translation that R63 accepts; else the slot and address that a record names. -/
def pinVerdict : Except (Nat × Nat) (List PageMap) → Except (Nat × Nat) (List PageMap)
  | .ok pages => if extentRuns pages > 4096 then .error (0, 0) else .ok pages
  | .error e => .error e

def walkDue (l : Launch) : Bool := l.phase == .ready && !l.translated

/-- `EXTENT_WALK`: the pinned declarations are translated, or the launch fails with status 0x0D. -/
def execExtentWalk (launch : Nat) (s : State) : Host.Outcome State Fault Refusal :=
  match s.sys.launch? launch with
  | none => .next s
  | some l =>
    match s.sys.part? l.part with
    | none => .next s
    | some p =>
      eventStep s (walkDue l) fun tx =>
        match tx.pinAll p l with
        | (r, tx) => match pinVerdict r with
          | .error _ => tx.reject l 0x0D
          | .ok pages => tx.mod fun s => s.setLaunch { l with walked := l.pinnedSlots, extents := pages }

/-! ## Room (R58, R62) -/

/-- What a panel takes of a core. -/
structure Shape where
  threads : Nat
  regBytes : Nat
  scratch : Nat
  extents : Nat
  deriving DecidableEq, Repr

/-- What is in use on a core. -/
structure Room where
  core : Nat
  panels : Nat
  used : Shape
  deriving DecidableEq, Repr

def Shape.add (a b : Shape) : Shape :=
  ⟨a.threads + b.threads, a.regBytes + b.regBytes, a.scratch + b.scratch, a.extents + b.extents⟩

/-- What a panel holds of its core; extents count for each panel (assumption log 167). -/
def Panel.shape (p : Panel) : Shape := ⟨p.nthr, p.nthr * p.regs * 32, p.scratchLen, extentRuns p.extents⟩

/-- The shape of every panel of a launch. -/
def Launch.shape (l : Launch) : Shape := ⟨l.threads, l.threads * l.regs * 32, l.scratch, extentRuns l.extents⟩

/-- A panel holds room on its core: not a handler's, and not switched out. -/
def Sys.resides (s : Sys) (p : Panel) : Bool := p.handlerOf.isNone && (s.yokeOf p).any fun y => y.phase == .placed

def Sys.residents (s : Sys) (core : Nat) : List Panel := s.panels.filter fun p => p.core == core && s.resides p

def Sys.room (s : Sys) (core : Nat) : Room :=
  let ps := s.residents core
  ⟨core, ps.length, ps.foldl (fun a p => a.add p.shape) ⟨0, 0, 0, 0⟩⟩

/-- A panel fits a core (R58). -/
def Room.fits (r : Room) (x : Shape) : Bool :=
  let u := r.used.add x
  r.panels < 64 && u.threads ≤ 2048 && u.regBytes ≤ 512 * 1024 && u.scratch ≤ 256 * 1024

/-- The cores that panels are dealt to have free extents for them (R62, R63). -/
def Sys.extentsFree (s : Sys) (xs : List Shape) (cores : List Nat) : Bool :=
  cores.all fun c => (s.room c).used.extents + (((cores.zip xs).filter fun e => e.1 == c).map (·.2.extents)).sum ≤ 4096

def Room.take (r : Room) (x : Shape) : Room := ⟨r.core, r.panels + 1, r.used.add x⟩

/-- The state as it would be without some yokes; a travelling launch that loses them gives its cores up (R90). -/
def Sys.without (s : Sys) (ys : List Nat) : Sys :=
  let launches := (s.yokes.filter fun y => ys.contains y.key).map (·.launch)
  { s with
    yokes := s.yokes.filter fun y => !ys.contains y.key
    panels := s.panels.filter fun p => !(p.yoke.any ys.contains)
    cores := s.cores.map fun c => if c.piece.any (fun x => launches.contains x.1) then { c with piece := none } else c }

/-- The partition empty. -/
def Sys.emptied (s : Sys) : Sys := { s with yokes := [], panels := [], cores := [] }

/-- Each panel in turn goes to the core with fewest resident panels that it fits; ties to the first core (R60, R86). -/
def deal (rooms : List Room) : List Shape → Option (List Nat)
  | [] => some []
  | x :: rest =>
    match leastBy Room.panels (rooms.filter fun r => r.fits x) with
    | none => none
    | some r => (deal (rooms.map fun q => if q.core = r.core then q.take x else q) rest).map fun cs => r.core :: cs

/-- Clusters of a partition: logical number, working members in physical order (R53). -/
def Partition.clusters (p : Partition) : List (Nat × List Nat) :=
  ((p.cores.map fun e => e.1 / 4).eraseDups).map fun k => (k, sortBy id ((p.cores.filter fun e => e.1 / 4 == k).map (·.2)))

/-- Yokes on a cluster, but for those of travelling launches, which hold no place in it. -/
def Sys.yokesOn (s : Sys) (cluster : Nat) : List Yoke :=
  s.yokes.filter fun y => y.cluster == cluster && y.phase == .placed && !((s.launch? y.launch).any (·.travelling))

/-- The deal of a yoke's panels over one cluster, if it fits it (R58). -/
def fitCluster (s : Sys) (members : List Nat) (units : Nat) (xs : List Shape) : Option (List Nat) :=
  let ys := s.yokesOn (clusterOf (members.headD 0))
  if ys.length < 16 && (ys.map (·.units)).sum + units ≤ 256 then
    deal ((members.filter fun c => (s.core c).piece.isNone).map s.room) xs
  else none

/-- Load of a cluster, in twelfths of a panel a member (R59). -/
def Sys.load (s : Sys) (members : List Nat) : Nat := (members.map fun c => (s.residents c).length).sum * 12 / max 1 members.length

/-- The cluster of lowest load that a yoke fits, and its deal (R59). -/
def findCluster (s : Sys) (p : Partition) (units : Nat) (xs : List Shape) : Option (List Nat) :=
  let fits := p.clusters.filterMap fun k => (fitCluster s k.2 units xs).map fun d => (s.load k.2, k.1, d)
  (leastBy (fun f => f.1 * 2 ^ 16 + f.2.1) fits).map (·.2.2)

/-! ## Pinning (R84 to R86) -/

/-- Free cores of a partition, by logical number (R84). -/
def Sys.freeCores (s : Sys) (p : Partition) : List Nat :=
  (p.cores.map (·.2)).filter fun c => (s.core c).piece.isNone && !(s.panels.any fun q => q.core == c && (s.resides q || q.phase != .out))

/-- Further holders, one at a time, round-robin over the pieces that are still short (R85). -/
def moreHolders (reps : List Nat) : List Nat → Nat → List (List Nat) → List (List Nat)
  | [], _, hs => hs
  | c :: cs, k, hs =>
    let n := reps.length
    match ((List.range n).map fun i => (k + i) % n).find? fun i => (hs.getD i []).length < reps.getD i 0 with
    | none => hs
    | some i => moreHolders reps cs (i + 1) (hs.set i (hs.getD i [] ++ [c]))

def holdersOf (m : Marker) (free : List Nat) : Option (List (List Nat)) :=
  let n := m.pieces.length
  if free.length < n then none
  else some (moreHolders (m.pieces.map (·.rep)) (free.drop n) 0 ((free.take n).map fun c => [c]))

/-- Holders of every piece and the deal of the panels over them. -/
def pinPlan (s : Sys) (p : Partition) (m : Marker) (xs : List Shape) : Option (List (List Nat) × List Nat) :=
  (holdersOf m (s.freeCores p)).bind fun hs =>
    let cs := (p.cores.map (·.2)).filter fun c => hs.any fun h => h.contains c
    (deal (cs.map s.room) xs).map fun d => (hs, d)

/-- A map is free on both dies (R89). -/
def Sys.mapFree (s : Sys) (p : Partition) : Bool :=
  (s.launches.filter (·.mapped)).length < 32 && (s.launches.filter fun l => l.mapped && l.part == p.num).length < p.mapQuota

/-! ## Whose turn it is (R45, R51, R341) -/

/-- What waits for room. -/
inductive Want where
  | overflow (l : Launch)
  /-- an evicted yoke -/
  | again (l : Launch) (y : Yoke)
  /-- an evicted travelling launch -/
  | whole (l : Launch)
  /-- the next yoke of a launch -/
  | next (l : Launch)
  /-- a travelling launch not yet placed -/
  | travel (l : Launch)
  /-- a launch that would be ready but for its signature check, which does not change the order (R41) -/
  | checking (l : Launch)
  deriving DecidableEq, Repr

def Want.launch : Want → Launch
  | .overflow l | .again l _ | .whole l | .next l | .travel l | .checking l => l

/-- An overflow yoke is pending and the last one's panels have retired. -/
def Sys.overflowWanted (s : Sys) (l : Launch) : Bool :=
  (match l.overflow with
    | .pending _ _ => true
    | _ => false) && (s.overflowPanels l).isEmpty

/-- Class, highest first; evicted yokes before an overflow yoke, and that before those that have not started. What a launch's own
overflow yoke has evicted follows it, and goes with it before the overflow yokes of other launches (R51, R341, assumption
log 134); then age. -/
def Want.rank (s : Sys) (w : Want) : Nat :=
  let r := match w with
    | .again l y => if y.forOverflow && s.overflowWanted l then 1 else 0
    | .whole _ => 0
    | .overflow l => if s.yokes.any fun y => y.launch == l.key && y.forOverflow then 1 else 2
    | .next _ | .travel _ | .checking _ => 3
  let yid := match w with
    | .again _ y => y.yid + 1
    | _ => 0
  ((7 - w.launch.cls) * 4 + r) * 2 ^ 256 + w.launch.order * 2 ^ 64 + yid

/-- A launch whose object is to be checked and that no dependence holds. -/
def State.awaitsCheck (st : State) (l : Launch) : Bool := (checkObject st l).isSome && l.depsRead.all (st.depMet l)

def State.wantsOf (st : State) (l : Launch) : List Want :=
  let s := st.sys
  if l.ending.isSome then []
  else if l.phase = LaunchPhase.checking then (if st.awaitsCheck l then [.checking l] else [])
  else if l.phase = LaunchPhase.held then []
  else if l.travelling then
    (if l.phase = LaunchPhase.ready then [.travel l]
     else if l.out && (s.yokes.all fun y => y.launch != l.key || y.phase == .out) then [.whole l] else [])
  else
    (if s.overflowWanted l then [.overflow l] else [])
      ++ ((s.yokes.filter fun y => y.launch == l.key && y.phase == .out).map fun y => .again l y)
      ++ (if l.nextYoke < l.yokes then [.next l] else [])

/-- The first in a partition's order: it holds back all that come after it (R45). -/
def State.firstWant (st : State) (part : Nat) : Option Want :=
  leastBy (Want.rank st.sys) ((st.sys.launches.filter fun l => l.part == part).flatMap st.wantsOf)

/-! ## The plan -/

inductive Plan where
  | wait
  /-- it fits no cluster even with the partition empty (R61, R86) -/
  | fail (l : Launch)
  /-- a new yoke and the cores of its panels -/
  | fresh (l : Launch) (overflow : Bool) (cores : List Nat)
  | again (y : Yoke) (cores : List Nat)
  | pin (l : Launch) (holders : List (List Nat)) (cores : List Nat)
  /-- yokes to be switched out (R49, R341) -/
  | evict (yokes : List Nat)
  deriving DecidableEq, Repr

/-- Panels of the next yoke. -/
def Launch.nextPanels (l : Launch) : Nat := min l.perYoke (l.panels - l.nextYoke * l.perYoke)

/-- Live panels of a yoke, in panel order. -/
def Sys.yokePanels (s : Sys) (y : Yoke) : List Panel := sortBy Panel.pid (s.panels.filter fun p => p.yoke == some y.key)

/-- Panels of a travelling launch, in panel order. -/
def Sys.travelPanels (s : Sys) (l : Launch) : List Panel :=
  sortBy Panel.pid ((s.panelsOf l.key).filter fun p => p.handlerOf.isNone)

/-- What a want comes to in a state, if it fits. -/
def Want.place (w : Want) (s : Sys) (p : Partition) : Option Plan :=
  let yoke (units : Nat) (xs : List Shape) : Option (List Nat) := (findCluster s p units xs).filter (s.extentsFree xs)
  let pinned (l : Launch) (xs : List Shape) : Option Plan :=
    ((s.objectOf l).bind (·.marker)).bind fun m =>
      ((pinPlan s p m xs).filter fun x => s.extentsFree xs x.2).map fun x => .pin l x.1 x.2
  match w with
  | .overflow l => (yoke l.units (List.replicate l.perYoke l.shape)).map fun cs => .fresh l true cs
  | .next l => (yoke l.units (List.replicate l.nextPanels l.shape)).map fun cs => .fresh l false cs
  | .again _ y => (yoke y.units ((s.yokePanels y).map Panel.shape)).map fun cs => .again y cs
  | .travel l => if s.mapFree p then pinned l (List.replicate l.panels l.shape) else none
  | .whole l => pinned l ((s.travelPanels l).map Panel.shape)
  | .checking _ => none

/-- It could be placed in an empty partition (R61); asked of a launch that has placed nothing. Extents are no part of it
(R58, R63). -/
def Want.possible (w : Want) (s : Sys) (p : Partition) : Bool :=
  match w with
  | .next l => l.nextYoke != 0 || (findCluster s.emptied p l.units (List.replicate l.nextPanels l.shape)).isSome
  | .travel l => match (s.objectOf l).bind (·.marker) with
    | some m => (pinPlan s.emptied p m (List.replicate l.panels l.shape)).isSome
    | none => false
  | _ => true

/-- A yoke that is being switched out. -/
def Sys.leaving (s : Sys) (y : Yoke) : Bool :=
  y.phase == .placed && s.panels.any fun p => p.yoke == some y.key && (p.phase == .stopping || p.phase == .out)
    && ((s.launch? y.launch).any fun l => p.phase == .stopping || l.out)

/-- Yokes that a want may evict, in the order in which they go (R48, R49, R341). An evicted overflow yoke that returns evicts none
(assumption log 207). -/
def Want.victims (w : Want) (s : Sys) : List Yoke :=
  let l := w.launch
  let placed := s.yokes.filter fun y => y.phase == .placed && !s.leaving y
  match w with
  | .overflow _ =>
    if l.supervisor then [] else (sortBy Yoke.order (placed.filter fun y => y.launch == l.key && !y.overflow)).reverse
  | _ =>
    if l.cls ≠ 7 then []
    else
      let cand := placed.filterMap fun y => (s.launch? y.launch).bind fun x =>
        if x.part = l.part ∧ x.cls < 7 ∧ x.supervisor = false then some (x.cls, y) else none
      ((sortBy (fun x => (7 - x.1) * 2 ^ 128 + x.2.order) cand).reverse).map (·.2)

/-- A yoke with what goes with it: all of a travelling launch (R90). -/
def Sys.together (s : Sys) (y : Yoke) : List Nat :=
  if (s.launch? y.launch).any (·.travelling) then (s.yokes.filter fun z => z.launch == y.launch).map (·.key) else [y.key]

/-- The shortest run of victims after which the want fits. -/
def Want.evictTill (w : Want) (s : Sys) (p : Partition) : List Yoke → List Nat → Option (List Nat)
  | [], _ => none
  | y :: ys, gone =>
    let gone := if gone.contains y.key then gone else gone ++ s.together y
    if (w.place (s.without gone) p).isSome then some gone else w.evictTill s p ys gone

def Want.plan (w : Want) (s : Sys) (p : Partition) : Plan :=
  if (match w with
      | .next l | .travel l => !l.translated
      | .checking _ => true
      | _ => false) then .wait
  else if !w.possible s p then .fail w.launch
  else match w.place s p with
    | some plan => plan
    | none =>
      let s := s.without ((s.yokes.filter s.leaving).map (·.key))
      if (w.place s p).isSome then .wait
      else match w.evictTill s p (w.victims s) [] with
        | some ys => .evict ys
        | none => .wait

def planOf (st : State) (part : Nat) : Plan :=
  match st.firstWant part, st.sys.part? part with
  | some w, some p => w.plan st.sys p
  | _, _ => .wait

/-! ## Carrying it out -/

/-- The lowest panel slot of a core that neither a resident nor a panel just seated holds. -/
def Sys.slotBeside (s : Sys) (seated : List Panel) (core : Nat) : Nat :=
  let there := s.residents core ++ seated.filter fun p => p.core == core
  ((List.range 64).find? fun k => !there.any fun p => p.slot == k).getD 64

/-- The lowest panel slot that is free on a core. -/
def Sys.freeSlot (s : Sys) (core : Nat) : Nat := s.slotBeside [] core

/-- A panel of a launch is dealt to a core (R30, R60). -/
def Sys.addPanel (s : Sys) (l : Launch) (y : Yoke) (pid core : Nat) : Sys :=
  let p := Panel.fresh s.serial l.key (some y.key) pid core (s.freeSlot core) l.threads l.regs l.band (bits (l.w 4) 12 4) l.scratch
  { s with serial := s.serial + 1, panels := s.panels ++ [{ p with extents := l.extents }] }

/-- A yoke with its panels: (panel, core) pairs. -/
def Sys.addYoke (s : Sys) (l : Launch) (yid : Nat) (overflow : Bool) (panels : List (Nat × Nat)) : Sys :=
  let y := { Yoke.empty s.serial l.key yid (clusterOf ((panels.headD (0, 0)).2)) s.serial l.units l.tiles with overflow := overflow }
  panels.foldl (fun s x => s.addPanel l y x.1 x.2) { s with serial := s.serial + 1, yokes := s.yokes ++ [y] }

/-- Numbers from `a` on, paired with cores. -/
def pairFrom (a : Nat) (cores : List Nat) : List (Nat × Nat) :=
  (List.range cores.length).map fun i => (a + i, cores.getD i 0)

/-- A yoke that has not run before is placed. -/
def Sys.placeFresh (s : Sys) (l : Launch) (overflow : Bool) (cores : List Nat) : Sys :=
  if overflow then
    let l' := { l with overflow := match l.overflow with
      | .pending c x => .live c x
      | v => v }
    (s.setLaunch l').addYoke l' l.yokes true (pairFrom l.panels cores)
  else
    (s.setLaunch { l with phase := .live, nextYoke := l.nextYoke + 1 }).addYoke l l.nextYoke false
      (pairFrom (l.nextYoke * l.perYoke) cores)

/-- All the yokes that a launch has still to place, one after another; none: they do not all fit (R47). -/
def Sys.placeRest (p : Partition) (launch : Nat) : Nat → Sys → Option Sys
  | 0, s => some s
  | n + 1, s =>
    match s.launch? launch with
    | none => none
    | some l => match (Want.next l).place s p with
      | some (.fresh l false cores) => Sys.placeRest p launch n (s.placeFresh l false cores)
      | _ => none

/-- The next yoke of a launch is placed, and the whole launch with it where there is room (R47). -/
def Sys.placeNext (s : Sys) (l : Launch) (overflow : Bool) (cores : List Nat) : Sys :=
  let s' := s.placeFresh l overflow cores
  if overflow then s'
  else ((s.part? l.part).bind fun p => Sys.placeRest p l.key (l.yokes - (l.nextYoke + 1)) s').getD s'

/-- Panels that are switched out get the cores on which they resume. -/
def Sys.reseat (s : Sys) (ps : List (Panel × Nat)) : Sys :=
  (ps.foldl (fun (acc : Sys × List Panel) x =>
    let p := { x.1 with core := x.2, slot := acc.1.slotBeside acc.2 x.2 }
    (acc.1.setPanel p, p :: acc.2)) (s, [])).1

/-- An evicted yoke is placed again (R51). -/
def Sys.placeAgain (s : Sys) (y : Yoke) (cores : List Nat) : Sys :=
  let ps := (s.yokePanels y).zip cores
  let s := s.reseat ps
  { s.setYoke { y with phase := .placed, cluster := clusterOf (cores.headD 0), order := s.serial, forOverflow := false } with serial := s.serial + 1 }

/-- The pieces are pinned (R85); each takes its part of its core's store, and the oldest lines there give way (R87). -/
def Sys.pinPieces (s : Sys) (l : Launch) (holders : List (List Nat)) : Sys :=
  (List.range holders.length).foldl (fun s k => (holders.getD k []).foldl (fun s c =>
    let x := { s.core c with piece := some (l.key, k), piecePortable := s.portablePiece l.key k }
    s.setCore { x with istore := x.istore.drop (x.istore.length - s.storeRoom x) }) s) s

/-- A travelling launch is placed whole, or again after an eviction (R84 to R86, R90). -/
def Sys.placeTravel (s : Sys) (l : Launch) (holders : List (List Nat)) (cores : List Nat) : Sys :=
  let l' := { l with holders := holders, mapped := true, phase := .live, nextYoke := l.yokes }
  let s := (s.setLaunch l').pinPieces l' holders
  if l.out then
    let s := s.reseat ((s.travelPanels l).zip cores)
    { s with
      yokes := s.yokes.map fun y => if y.launch = l.key then { y with phase := .placed, order := s.serial } else y
      serial := s.serial + 1 }
  else
    (List.range l.yokes).foldl (fun s y =>
      s.addYoke l' y false (((pairFrom 0 cores).drop (y * l.perYoke)).take l.perYoke)) s

/-- A yoke is out when all its panels are. -/
def Sys.settleYoke (s : Sys) (y : Yoke) : Sys :=
  let ps := s.yokePanels y
  if !ps.isEmpty && ps.all fun (p : Panel) => p.phase == .out then s.setYoke { y with phase := .out } else s

/-- The parcels of a launch that is out are saved, those that were spilled included (R384). -/
def State.saveParcel (st : State) (l : Launch) (q : Parcel) : Parcel :=
  if q.launch ≠ l.key then q
  else match q.phase with
    | .spool c => { q with phase := .saved c }
    | .spilled c => { (st.unspill l q) with phase := .saved c }
    | _ => q

/-- Every piece is unpinned (R90). -/
def Sys.unpin (s : Sys) (l : Launch) : Sys :=
  { s.setLaunch { l with holders := l.holders.map fun _ => [] } with
    cores := s.cores.map fun c => if c.piece.any fun x => x.1 == l.key then { c with piece := none, piecePortable := false } else c }

/-- A travelling launch all of whose panels are out. -/
def Tx.settleTravel (tx : Tx s0) (l : Launch) : Tx s0 :=
  if l.travelling && l.out && (tx.sys.panelsOf l.key).all fun (p : Panel) => p.phase == .out then
    let st := tx.st
    tx.mod fun s => { s.unpin l with parcels := s.parcels.map (st.saveParcel l) }
  else tx

/-- Yokes are chosen for eviction: their panels stop, their handlers' with them (R49, R90, R341). -/
def Sys.beginEvict (s : Sys) (ys : List Nat) (forOverflow : Bool) : Sys :=
  let gone := (s.panels.filter fun p => p.yoke.any ys.contains).map (·.key)
  let stop (p : Panel) : Bool := (gone.contains p.key || p.handlerOf.any gone.contains) && p.phase != PanelPhase.out
  let launches := (s.yokes.filter fun y => ys.contains y.key).map (·.launch)
  let s := { s with
    panels := s.panels.map fun (p : Panel) => if stop p then { p with phase := .stopping } else p
    yokes := s.yokes.map fun (y : Yoke) => if ys.contains y.key then { y with forOverflow := forOverflow } else y
    launches := s.launches.map fun (l : Launch) => if l.travelling && launches.contains l.key then { l with out := true } else l }
  (s.yokes.filter fun (y : Yoke) => ys.contains y.key).foldl (fun (s : Sys) y => s.settleYoke y) s

/-- `YOKE_PLACEMENT`: the scheduler serves the first in a partition's order. -/
def execYokePlacement (part : Nat) (s : State) : Host.Outcome State Fault Refusal :=
  eventStep s true fun tx =>
    match planOf tx.st part with
    | .wait => tx
    | .fail l => tx.reject l 0x0E
    | .fresh l o cores => tx.mod fun s => s.placeNext l o cores
    | .again y cores => tx.mod fun s => s.placeAgain y cores
    | .pin l hs cores => tx.mod fun s => s.placeTravel l hs cores
    | .evict ys =>
      let own := match tx.st.firstWant part with
        | some (.overflow _) => true
        | _ => false
      let tx := tx.mod fun s => s.beginEvict ys own
      tx.each (tx.sys.launches.filter fun l => tx.sys.yokes.any fun y => ys.contains y.key && y.launch == l.key) Tx.settleTravel

/-! ## The start of a panel (R30, R42, R86) -/

/-- Where a thread that has not run before stands: index, priority, native index. -/
def Sys.startOf (s : Sys) (l : Launch) (p : Panel) : Nat × Byte × Nat :=
  s.entryOf l (if (s.yokeOf p).any (·.overflow) then l.eventEntry else l.entryIx)

/-- Registers at the start: the arguments, and v8 and v9 of an overflow yoke (R30, R341). -/
def Launch.startRegs (l : Launch) (overflow : Bool) : List (Nat × Word) :=
  (List.range 8).map (fun i => (i, l.arg i)) ++ (match overflow, l.overflow with
    | true, .live c x => [(8, c), (9, x)]
    | _, _ => [])

/-- One thread of a panel. -/
def Sys.newThread (s : Sys) (l : Launch) (p : Panel) (tid : Nat) : Thread :=
  let (ix, prio, native) := s.startOf l p
  let t := (Thread.newborn p.key tid ix prio p.regs p.core).setVs (l.startRegs ((s.yokeOf p).any (·.overflow)))
  if l.travelling then
    let piece := ((s.objectOf l).bind (·.marker)).bind fun m => m.pieceAt ix
    let here := match (s.core p.core).piece, piece with
      | some (k, n), some m => k == l.key && n == m
      | _, _ => false
    { t with tseam := some (s.freeLane p.core l.key), fresh := !here, piece := if here then piece else none
             nat := if here then startForm s (s.objectOf l) l p.core ix piece else none }
  else { t with nat := (s.objectOf l).bind fun o => o.startForm ix native }

/-- Panels start in the order of the deal, those of each die on their own (R42). -/
def startReady (s : Sys) (p : Panel) : Bool :=
  p.phase == .placed
    && ((s.panels.find? fun q => q.phase == .placed && dieOf q.core == dieOf p.core).map (·.key)) == some p.key

def Sys.startThreads (s : Sys) (l : Launch) (p : Panel) : Sys :=
  (List.range p.nthr).foldl (fun s tid => { s with threads := s.threads ++ [s.newThread l p tid] }) s

/-- `PANEL_START`; acquire C precedes the first instruction (R360). -/
def execPanelStart (panel : Nat) (s : State) : Host.Outcome State Fault Refusal :=
  match s.sys.panel? panel with
  | none => .next s
  | some p =>
    match s.sys.launchOf p with
    | none => .next s
    | some l => eventStep s (startReady s.sys p) fun tx =>
        (tx.mod fun s => ((s.setPanel { p with phase := .running }).startThreads l p).sendLine p.core l (s.startOf l p).1).acquire p.core obsC

end Sys2Proof.Machine
end

