-- ==== Sys2Proof/Machine/Gorlux.lean ====
section
/-! DEFINITION. Gorlux (R76): which object it takes, and the native text that it writes, whose effect is that of the portable
text (R24). -/

namespace Sys2Proof.Machine

/-! ## A text of the same effect (R24, assumption log 132) -/

/-- The offset of a direct branch, which counts the words of its own form (R74). -/
def branchField : Instr → Option (BitVec 16)
  | .bra _ o | .brc _ _ o | .brn _ _ o | .call _ o | .loop _ o => some o
  | _ => none

/-- An instruction without what depends on where it stands. -/
def placeless : Instr → Instr
  | .bra p _ => .bra p 0
  | .brc n p _ => .brc n p 0
  | .brn n p _ => .brn n p 0
  | .call p _ => .call p 0
  | .loop p _ => .loop p 0
  | .himm _ => .himm 0
  | i => i

/-- A word that ends its clause (R134, R449). -/
def endsClause : Instr → Bool
  | .bra _ _ | .brc _ _ _ | .brn _ _ _ | .call _ _ | .ret | .bri _ _ | .loop _ _ | .exit | .yield _ | .park _ _ | .trap _ | .svc _
  | .brk _ | .brkSet _ _ | .brkClr _ | .rft | .rftResume _ | .rftKill _ | .travel _ _ => true
  | _ => false

def instrAt (text : List Word) (k : Nat) : Option Instr := (text[k]?).bind fun w => (decode w).toOption

/-- The hint words that stand right before a word, the nearest first: at most four (R105). -/
def hintsBefore (text : List Word) : Nat → Nat → List Instr
  | 0, _ => []
  | _ + 1, 0 => []
  | n + 1, k + 1 => match instrAt text k with
    | some i => if isHint i then i :: hintsBefore text n k else []
    | none => []

def himmIn (hs : List Instr) : Option (BitVec 24) := hs.findSome? fun i => match i with
  | .himm m => some m
  | _ => none

/-- Where a direct branch at a word leads in its own form. -/
def branchTo (text : List Word) (k : Nat) (o : BitVec 16) : Int :=
  (k : Int) + 1 + branchOffset { Hints.empty with himm := himmIn (hintsBefore text 4 k) } o

/-- Word n of native text does what portable word k does: the same instruction, with a direct branch that leads to the clause of
the portable target, or out of both texts. -/
def sameWord (portable native : List Word) (map : List Nat) (n k : Nat) : Bool :=
  match instrAt native n, instrAt portable k with
  | some i, some j =>
    placeless i == placeless j && (match branchField i, branchField j with
      | some a, some b =>
        let x := branchTo native n a
        let y := branchTo portable k b
        if 0 ≤ y ∧ y < portable.length
        then decide (0 ≤ x ∧ x < native.length) && isHeader (native.getD x.toNat 0) && (map.getD x.toNat 0 : Int) == y
        else decide (x < 0 ∨ (native.length : Int) ≤ x)
      | _, _ => isHint i || himmIn (hintsBefore native 4 n) == himmIn (hintsBefore portable 4 k))
  | none, none => native[n]? == portable[k]?
  | _, _ => false

/-- A wait that is outstanding holds a word in portable form too (R73, assumption log 173). -/
def heldByWait : Instr → Bool
  | .waitf _ => true
  | i => afterAcquire i && !besideWait i

/-- The waits that count on flag 11 in native text that Gorlux writes. -/
def isWait : Instr → Bool
  | .tkwait _ _ _ _ | .bbawait _ _ => true
  | _ => false

/-- The decoded words of a text from one word on, so many. -/
def instrsAt (text : List Word) (k n : Nat) : List Instr := (List.range n).filterMap fun i => instrAt text (k + i)

/-- Registers that a text's waits write, as their words name them. -/
def waitRegs (text : List Word) : List Nat :=
  (instrsAt text 0 text.length).flatMap fun i => match i with
    | .tkwait d _ _ _ | .bbawait d _ => if d = 248 then [] else [d.toNat, d.toNat + 1]
    | _ => []

/-- A text can rotate the band (R95, R150): which registers its words name is then not known from them. -/
def rotates (text : List Word) : Bool :=
  (List.range text.length).any fun k => match instrAt text k with
    | some (.csrw _ n) => n == 0x201
    | some (.loop _ _) => (hintsBefore text 4 k).any fun h => match h with
      | .hopd _ m => m.getLsbD 0
      | _ => false
    | _ => false

/-- A word reads or writes what a wait of its text writes (R72), or may do so, for it repeats or the band rotates. -/
def touchesWait (text : List Word) (regs : List Nat) (k : Nat) : Bool :=
  match instrAt text k with
  | none => false
  | some i =>
    let hs := hintsBefore text 4 k
    let opd := hs.findSome? fun h => match h with
      | .hopd c m => some (⟨c, m⟩ : OpdHint)
      | _ => none
    let h : Hints := { Hints.empty with hopd := opd }
    let fm := form i h
    let link : List Nat := match i with
      | .call _ _ => [238, 239]
      | _ => []
    let named := (fm.ops ++ fm.srcs h).flatMap (fun o => (List.range o.n).map (o.f + ·)) ++ link
    regs != [] && !named.isEmpty && (rotates text || hs.any (fun h => match h with
        | .rep _ _ _ _ => true
        | _ => false) || named.any regs.contains)

/-- A clause's header waits on flags 0 to 10, and on flag 11, on which the waits for tacks and bobbins count, where the portable text
waits for them. Nothing in it follows an operation that counts on a flag, or comes between a hint word and its target: what it does
is done in the order of the portable text. -/
def clauseInOrder (native : List Word) (regs : List Nat) (n : Nat) : Bool :=
  match instrAt native n with
  | some (.clauseHeader w a b len _) =>
    let last := n + 1 + len.toNat
    let words := instrsAt native (n + 1) (len.toNat + 1)
    let waits := words.any heldByWait || (List.range (len.toNat + 1)).any fun i => touchesWait native regs (n + 1 + i)
    w == (if waits then 0xFFF else 0x7FF) && (if words.any isWait then a == 11 else a.toNat < 11) && b.toNat < 11
      && last < native.length && (last + 1 == native.length || isHeader (native.getD (last + 1) 0))
      && ((List.range (len.toNat + 1)).all fun i =>
        let k := n + 1 + i
        !isHeader (native.getD k 0) && (match instrAt native k with
          | some x => (k == last || !(endsClause x || classOf x != .none)) && !(k == last && isHint x)
              && (classOf x == .none || (hintsBefore native 4 k).all fun h => match h with
                | .rep _ _ _ _ => false
                | _ => true)
          | none => true))
  | _ => true

/-- Native text and its map that do what portable text does, word by word: all of it, in order, cut into clauses. -/
def sameEffect (portable native : List Word) (map : List Nat) : Bool :=
  map.length == native.length && isHeader (native.getD 0 0) && map.getD 0 1 == 0
    && (List.range native.length).all fun n =>
      let k := map.getD n 0
      let next := if isHeader (native.getD n 0) then k else k + 1
      (if n + 1 = native.length then next == portable.length else map.getD (n + 1) 0 == next)
        && (if isHeader (native.getD n 0) then clauseInOrder native (waitRegs native) n && n + 1 < native.length else sameWord portable native map n k)

/-! ## Which object (R76) -/

/-- No thread of an object's launches runs native. -/
def Sys.allPortable (s : Sys) (object : Nat) : Bool :=
  !s.threads.any fun t => t.nat.isSome && (match s.homeOf t with
    | some (_, l) => l.object == some object && !l.travelling
    | none => false)

/-- Objects on a die that wait for Gorlux, in order of their first accepted launch. -/
def Sys.gorluxQueue (s : Sys) (die : Nat) : List Object :=
  sortBy (fun o => o.launched.getD 0) (s.objects.filter fun o =>
    o.launched.isSome && !o.nativeOn && !o.gaveUp && (s.part? o.part).any fun p => p.onDie die)

/-- Gorlux of one of the dies is at an object: each takes one at a time, in order, so at most one object that is on the other die too
may be ahead of it. -/
def Sys.gorluxAt (s : Sys) (o : Object) : Bool :=
  [0, 1].any fun d =>
    let q := s.gorluxQueue d
    let ahead := q.takeWhile fun x => x.key != o.key
    q.any (fun x => x.key == o.key) && (ahead.isEmpty || ahead.length == 1 && ahead.all fun x =>
      (s.gorluxQueue (1 - d)).any fun y => y.key == x.key)

/-- Words of an object that comparators name: a clause must start at each, but for the target of a hint group (R445). -/
def Sys.comparatorsOf (s : Sys) (o : Object) (p : Partition) : List Nat :=
  (p.brk.filterMap id).filterMap fun c =>
    if c.index < o.text.length && s.launches.any (fun l => l.part == p.num && l.id == c.launch && l.object == some o.key)
    then some c.index else none

/-- Native text that Gorlux may write: it has the effect of the portable text, there is room beside the copy on each die, and every
thread and every instruction store is done with the text that was there (R79). -/
def gorluxOk (s : Sys) (o : Object) (p : Partition) (text : List Word) (map : List Nat) : Bool :=
  s.allPortable o.key && !(s.cores.any fun c => c.istore.any fun x => x.object == o.key && x.native && !x.travel)
    && sameEffect o.text text map
    && (s.comparatorsOf o p).all (fun k => (hintsBefore o.text 1 k) != [] || ((o.translated text map).nativeAt none k).isSome)
    && ((s.setObject { o with gorlux := [] }).codePlaces p (4 * text.length)).isSome

/-- `GORLUX_TRANSLATION`: the native text is complete; with no text, Gorlux gives the object up, which runs in portable form from
then on. -/
def execGorluxTranslation (object : Nat) (text : List Word) (map : List Nat) (s : State) :
    Host.Outcome State Fault Refusal :=
  match s.sys.object? object with
  | none => .next s
  | some o =>
    match s.sys.part? o.part with
    | none => .next s
    | some p => eventStep s (s.sys.gorluxAt o && (text.isEmpty || gorluxOk s.sys o p text map)) fun tx =>
        if text.isEmpty then tx.mod fun s => s.setObject { o with gaveUp := true }
        else
          let places := ((tx.sys.setObject { o with gorlux := [] }).codePlaces p (4 * text.length)).getD []
          (tx.putCode p places (bytesOfWords text)).mod fun s => s.setObject { (o.translated text map) with gorlux := places }

end Sys2Proof.Machine
end

