-- ==== Sys2Proof/Machine/Hints.lean ====
section
/-! DEFINITION. Hint words, clause headers, unassigned words (R98 to R101, R105 to R110, R114, R373). -/

namespace Sys2Proof.Machine

variable {s0 : State}

/-- A hint word may not be the last word of its clause, of the text, or of its piece (R105, R373). -/
def hintPlaceOk (s : Sys) (t : Thread) (l : Launch) : Bool :=
  (match t.nat with
    | some n => n.left > 1
    | none => t.pc + 1 < s.textWords l)
  && !(l.travelling && (match (s.objectOf l).bind (·.marker), t.piece with
    | some m, some k => match m.pieces[k]? with
      | some p => t.pc + 1 == p.start + p.words
      | none => false
    | _, _ => false))

/-- A hint word: it joins the group in progress; a second of its kind raises `ILLOP` on the group's first word (R105). -/
def hintWord (seen : Hints → Bool) (put : Hints → Hints) (s : State) : Host.Outcome State Fault Refusal :=
  ((Tx.start s).eachOf fun tx t _p l =>
    if seen t.hints || !hintPlaceOk tx.sys t l then tx.raise t tILLOP 0
    else tx.mod fun s => s.setThread ({ t with hints := put { t.hints with first := some t.self } }.past (s.nmapOf l))).done

def execHimm (i : BitVec 24) (s : State) : Host.Outcome State Fault Refusal :=
  hintWord (fun h => h.himm.isSome) (fun h => { h with himm := some i }) s

def execRep (c : BitVec 6) (d a b : BitVec 2) (s : State) : Host.Outcome State Fault Refusal :=
  hintWord (fun h => h.rep.isSome) (fun h => { h with rep := some ⟨c, d, a, b⟩ }) s

def execHmod (e : BitVec 1) (n : BitVec 3) (x t : BitVec 1) (r : BitVec 3) (f h b : BitVec 1) (o : BitVec 4) (s : State) :
    Host.Outcome State Fault Refusal :=
  hintWord (fun g => g.hmod.isSome)
    (fun g => { g with hmod := some ⟨e == 1, n, x == 1, t == 1, r, f == 1, h == 1, b == 1, o⟩ }) s

def execHopd (c : BitVec 8) (m : BitVec 16) (s : State) : Host.Outcome State Fault Refusal :=
  hintWord (fun h => h.hopd.isSome) (fun h => { h with hopd := some ⟨c, m⟩ }) s

/-- A set field names a flag or none (R99). -/
def setFieldOk (x : BitVec 4) : Bool := x.toNat < 12 || x == 15

/-- A clause header (R99); in portable text, or with a hint group in progress, it raises `ILLOP` (R72, R105). -/
def execClauseHeader (w : BitVec 12) (a b l : BitVec 4) (y : BitVec 1) (s : State) : Host.Outcome State Fault Refusal :=
  ((Tx.start s).eachOf fun tx t _p _la =>
    match t.nat with
    | none => tx.raise t tILLOP 0
    | some n =>
      if !(setFieldOk a && setFieldOk b) || t.hints.first.isSome then tx.raise t tILLOP 0
      else
        -- wait was tested before the issue (R133); yield is a preference of issue without architectural effect
        let _ := (w, y)
        tx.mod fun s => s.setThread { t with nat := some ⟨n.npc + 1, l.toNat + 1, a, b⟩ }).done

/-- A word that no rule decodes, or none (R98, R114). -/
def execUnassignedOpcode (s : State) : Host.Outcome State Fault Refusal :=
  ((Tx.start s).eachOf fun tx t _p _l => tx.raise t tILLOP 0).done

end Sys2Proof.Machine
end

