-- ==== Sys2Proof/Machine/Context.lean ====
section
/-! DEFINITION. The context images (R436, R437, R440 to R442): what is written to the context store of a panel, a yoke or a
travelling launch that is switched out. State keeps the records as well, and what happens to them meanwhile happens to the
image. -/

namespace Sys2Proof.Machine

variable {s0 : State}

def nat32 (n : Nat) : Word := BitVec.ofNat 32 n

/-- Words filled up with zeros to a multiple of 64 bytes. -/
def padded (ws : List Word) : List Word := ws ++ List.replicate (roundUp ws.length 16 - ws.length) 0

/-! ## Panel image -/

/-- Flags of 6 bits each from bit 0. -/
def flagWord (f : List Nat) (first n : Nat) : Word :=
  nat32 ((List.range n).map fun i => f.getD (first + i) 0 % 64 * 2 ^ (6 * i)).sum

/-- The state block of a thread record (R441). -/
def Thread.stateBlock (t : Thread) : List Word :=
  let b (c : Bool) : Nat := if c then 1 else 0
  let suspended := match t.phase with
    | .suspended _ => true
    | _ => false
  [nat32 t.pc,
   nat32 (t.prio.toNat * 2 ^ 24 + t.p.toNat * 2 ^ 16 + t.rnd.toNat * 2 ^ 13 + t.fflags.toNat * 2 ^ 8
     + b (t.phase == .exited) * 2 ^ 7 + b suspended * 2 ^ 6),
   nat32 (t.repidx * 2 ^ 16 + t.rotstep * 2 ^ 8 + t.rotbase),
   t.trapc, t.trapv, t.trappc, t.trapprio,
   flagWord t.f 0 5, flagWord t.f 5 5, flagWord t.f 10 2, 0, 0]

/-- State, then v0 to v(8n - 1), then v238 and v239 (R440). -/
def Thread.image (t : Thread) (regs : Nat) : List Word :=
  padded (t.stateBlock ++ (List.range (8 * regs)).map t.getV ++ [t.link.1, t.link.2])

def mask128 (m : BitVec 128) : List Word := (List.range 4).map fun i => nat32 (m.toNat / 2 ^ (32 * i))

/-- Sixteen masks of each seam: the enrolled and then the arrived set. -/
def Panel.seamImage (p : Panel) : List Word := p.masks.flatMap fun m => mask128 m.enrolled ++ mask128 m.arrived

/-- The allocation, then a bit for each of its 8-byte words. -/
def Panel.scratchImage (p : Panel) : List Word :=
  wordsOf (Mem.getBytes p.scratch 0 p.scratchLen)
    ++ (List.range (p.scratchLen / 256)).map fun i =>
      nat32 ((List.range 32).map fun k => if p.stags.contains (32 * i + k) then 2 ^ k else 0).sum

/-- A command record of 128 bytes. -/
def Cmd.image (c : Cmd) : List Word :=
  let b (x : Bool) : Nat := if x then 1 else 0
  let ws := c.desc ++ [nat32 c.delivered, nat32 (c.delivered / 2 ^ 32),
    nat32 (c.chan + b c.held * 8 + b c.ticket.isSome * 16 + b c.registered * 32), nat32 (c.ticket.getD noTicket), nat32 c.tid]
  ws ++ List.replicate (32 - ws.length) 0

/-- The word of an instruction, past the hint words of its group. -/
def pastHints (text : List Word) : Nat → Nat → Word
  | 0, _ => 0
  | fuel + 1, pc =>
    let w := text.getD pc 0
    if 0xF8 ≤ w.toNat / 2 ^ 24 ∧ w.toNat / 2 ^ 24 ≤ 0xFB then pastHints text fuel (pc + 1) else w

/-- The handle or address pair that names a tack. -/
def TackRef.pair (l : Launch) : TackRef → Nat
  | .mem _ _ d off => ((List.range l.decls.length).find? fun i => l.decl i == d).getD 0 * 2 ^ 52 + off
  | .scr _ addr => addr
  | .virt _ va => va

/-- A reissue entry of 32 bytes; none for an operation that is not issued again. -/
def Op.image (o : Op) (t : Thread) (l : Launch) (text : List Word) : List Word :=
  let entry (a b : Nat) : List Word :=
    [nat32 t.tid, pastHints text 8 o.pc, nat32 (o.flag.getD 0), nat32 a, nat32 (a / 2 ^ 32), nat32 b, nat32 (b / 2 ^ 32), 0]
  match o.kind with
  | .tkwait r ph => entry (r.pair l) (if ph then 1 else 0)
  | .bbawait a => entry (a.slot * 2 ^ 52 + a.offset) 0
  | _ => []

/-- The commands that are saved with a panel. -/
def Sys.savedCmds (s : Sys) (p : Panel) : List Cmd := s.cmds.filter fun c => c.panel == p.key && c.stops

/-- Where the scratchpad stands in a panel's image. -/
def panelImageData (p : Panel) : Nat :=
  64 + p.nthr * (4 * roundUp (14 + 8 * p.regs) 16) + 4 * (padded p.seamImage).length

/-- The image of a panel (R440). -/
def panelImage (s : Sys) (p : Panel) (l : Launch) : List Word :=
  let threads := (sortBy Thread.tid (s.threadsOf p.key)).flatMap fun t => t.image p.regs
  let seams := padded p.seamImage
  let scratch := padded p.scratchImage
  let cmds := (s.savedCmds p).flatMap Cmd.image
  let ops := (sortBy Thread.tid (s.threadsOf p.key)).flatMap fun t => t.ops.flatMap fun o => o.image t l (s.textOf l)
  let at1 := 64 + 4 * threads.length
  let at2 := at1 + 4 * seams.length
  let at3 := at2 + 4 * scratch.length
  let at4 := at3 + 4 * cmds.length
  let header :=
    [0x50435831, l.id, nat32 (p.pid % 2 ^ 24), nat32 (p.regs * 2 ^ 27 + p.band * 2 ^ 22 + p.scratchLen / 256 * 2 ^ 11 + p.seam * 2 ^ 7),
     nat32 (p.nthr - 1), 64, nat32 at1, nat32 at2, nat32 at3, nat32 at4, nat32 (at4 + 4 * (padded ops).length),
     nat32 (if p.batch.isSome then 2 ^ 31 else 0), nat32 (p.batch.getD noTicket), nat32 (cmds.length / 32), nat32 (ops.length / 8), 0]
  header ++ threads ++ seams ++ scratch ++ cmds ++ padded ops

/-! ## Launch image -/

/-- The parcels of a launch that are sent again, in their order: former spools by logical core (R385). -/
def Sys.savedParcels (s : Sys) (l : Launch) : List Parcel :=
  sortBy (fun q => match q.phase with
    | .saved c => s.logical l.part c
    | _ => 0) (s.parcels.filter fun q => q.launch == l.key && (match q.phase with
    | .saved _ => true
    | _ => false))

/-- The image of a travelling launch that is out (R384, R442): the former spools, spilled parcels among them, in their order, each
with the core it stood at; the links, which are the overflow entries in that order; the parcels that wait in the marker cache.
The form is the model's (assumption log 144). -/
def launchImage (s : Sys) (l : Launch) : List Word :=
  let saved := s.savedParcels l
  let waiting := s.parcels.filter fun q => q.launch == l.key && q.phase == .waiting
  let record (q : Parcel) : List Word :=
    padded ([nat32 (match q.phase with
      | .saved c => s.logical l.part c
      | _ => 0)] ++ wordsOf q.bytes)
  padded [nat32 saved.length, nat32 waiting.length, l.id] ++ saved.flatMap record
    ++ padded (saved.map fun q => nat32 (l.overflowEntry q / 320)) ++ waiting.flatMap record

/-! ## Yoke image -/

/-- A shuttle's 80 bytes: its configuration as the word of the SHCFG that makes it, its count, its words, the oldest first
(assumption log 144). -/
def Shuttle.image (n : Nat) (x : Shuttle) : List Word :=
  let config := match x.config with
    | some (p, c) => 0xDF800000 + n * 2 ^ 16 + p * 2 ^ 8 + c
    | none => 0xDF000000 + n * 2 ^ 16
  let ws := [nat32 config, nat32 x.words.length] ++ x.words
  ws ++ List.replicate (20 - ws.length) 0

/-- The operands of a request that its instruction word leaves to the engine: up to four numbers and a slot. -/
def ReqKind.words : ReqKind → List Word
  | .tld row col n => [nat32 row, nat32 col, nat32 n, 0] ++ mask128 0
  | .tst row col n rmode dith => [nat32 row, nat32 col, nat32 n, nat32 (rmode.toNat * 2 + dith.toNat)] ++ mask128 0
  | .tzero => List.replicate 8 0
  | .mma pre zc | .mmag pre zc => [nat32 zc.toNat, 0, 0, 0] ++ mask128 pre
  | .rast tlb extract => [nat32 (tlb.toNat * 2 + extract.toNat), 0, 0, 0] ++ mask128 0
  | .tcvt post dith => [nat32 dith.toNat, 0, 0, 0] ++ mask128 post

/-- What one lane gave to a request. -/
def LaneData.image (d : LaneData) : List Word :=
  [nat32 d.tid, nat32 d.lane, nat32 d.rnd.toNat, nat32 d.scatter, nat32 d.vals.length, nat32 (d.row.elim 0 fun r => r.length + 1)]
    ++ d.vals ++ wordsOf (d.row.getD [])

/-- A withdrawn request (R321, R442): 128 bytes with its instruction word, operands, seam, flag, tack and captured records, then
its lane data (assumption log 144). -/
def Req.image (s : Sys) (l : Launch) (r : Req) : List Word :=
  let op := (s.threadsOf r.panel).findSome? fun t => t.ops.find? fun o => o.kind == .tile r.key
  let tack := r.tack.elim 0 (·.pair l)
  let head :=
    [(op.map fun o => pastHints (s.textOf l) 8 o.pc).getD 0, nat32 (r.seam * 8 + (op.bind (·.flag)).getD 7), nat32 (if r.tack.isSome then 1 else 0),
      nat32 tack, nat32 (tack / 2 ^ 32)]
    ++ r.kind.words ++ mask128 r.x ++ mask128 r.y ++ mask128 r.z
    ++ [nat32 (r.xn + 64 * r.yn + 4096 * r.zn), nat32 (r.held.elim 0 fun h => 2 ^ 31 + h.1 * 2 ^ 16 + h.2), nat32 r.rows, nat32 r.lanes.length]
  head ++ List.replicate (32 - head.length) 0 ++ r.lanes.flatMap LaneData.image

/-- Where the region stands in a yoke's image. -/
def yokeImageData : Nat := 64 + 1024 + 14 * 16 + 8 * 80

/-- The image of a yoke (R442). -/
def yokeImage (s : Sys) (y : Yoke) (l : Launch) : List Word :=
  let reqs := s.reqs.filter fun r => r.yoke == y.key && !r.granted
  [0x59435831, l.id, nat32 y.yid, nat32 y.units, y.dphase.setWidth 32, if y.oflag then 1 else 0, nat32 reqs.length]
    ++ List.replicate 9 0 ++ y.tiles.flatMap mask128 ++ (y.pre.drop 1).flatMap mask128 ++ (y.post.drop 1).flatMap mask128
    ++ (List.range 8).flatMap (fun n => (y.shuttles.getD n ⟨none, []⟩).image n)
    ++ wordsOf (Mem.getBytes y.region 0 (y.units * 8192)) ++ reqs.flatMap fun r => padded (r.image s l)

/-! ## The context store -/

/-- Images of some owners go. -/
def Sys.dropImages (s : Sys) (part : Nat) (gone : ImageOf → Bool) : Sys :=
  updPart part (fun p => { p with images := p.images.filter fun i => !gone i.owner }) s

/-- An image is written to the context store in the place of an older one of its owner (R436 step 5); one that finds no room
there stands in the records alone (assumption log 144). -/
def Tx.keepImage (tx : Tx s0) (part : Nat) (owner : ImageOf) (data : Nat) (ws : List Word) : Tx s0 :=
  let tx := tx.mod fun s => s.dropImages part fun o => o == owner
  match tx.sys.part? part with
  | none => tx
  | some p =>
    let bytes := 4 * ws.length
    match freeSpace p.contextStore (p.images.map fun i => (i.addr, i.bytes)) bytes with
    | none => tx
    | some a =>
      let i : Image := ⟨owner, a, bytes, data⟩
      (tx.mod (updPart part fun p => { p with images := p.images ++ [i] })).imageWrite p i 0 (bytesOfWords ws)

end Sys2Proof.Machine
end

