-- ==== Sys2Proof/Machine/Preempt.lean ====
section
/-! DEFINITION. Switching out and resuming a panel (R64, R90, R321, R384, R385, R406, R436), and the retirement of panels and
launches (R466, R467). -/

namespace Sys2Proof.Machine

variable {s0 : State}

/-! ## What leaves with a panel -/

/-- A panel and the handler panels that were sent to it (R388). -/
def Sys.groupOf (s : Sys) (p : Panel) : List Panel :=
  s.panels.filter fun q => q.key == p.key || q.handlerOf == some p.key

/-- The launch keeps no parcel in the network. -/
def Sys.netEmpty (s : Sys) (launch : Nat) : Bool :=
  !s.parcels.any fun q => q.launch == launch && (match q.phase with
    | .net _ => true
    | _ => false)

/-- An operation that completes before the image is written (R436 step 2). An append that waits, for the list of deferred ones
is full or others are to be posted first, is saved, and so is a release word that waits for a held request. -/
def Op.finishesFirst (s : Sys) (t : Thread) (o : Op) : Bool :=
  match o.kind with
  | .relw _ mask => mask &&& obsX == 0 || s.releaseEnds t
  | .tkwait _ _ | .bbawait _ | .tile _ | .deferred _ => false
  | .atom _ _ => !(match s.homeOf t with
    | some (p, l) => o.acc.any fun a => a.bin && s.atPort t p l o a
    | none => false)
  | _ => true

/-- It has changed an interleave mask, and the switch of R253 goes on. -/
def Thread.switching (t : Thread) : Bool :=
  match t.pend with
  | some (.ildom _ _) => true
  | _ => false

/-- A chosen panel has come to its pre-emption points. -/
def switchReady (s : Sys) (p : Panel) (l : Launch) : Bool :=
  let keys := (s.groupOf p).map (·.key)
  p.phase == .stopping && p.handlerOf.isNone && l.ending.isNone
    && !(s.threads.any fun t => keys.contains t.panel && t.ops.any (·.finishesFirst s t))
    && !(s.threads.any fun t => keys.contains t.panel && (s.panel? t.panel).any (s.releasing t))
    && !(s.threads.any fun t => keys.contains t.panel && t.switching)
    && !(s.reqs.any fun r => keys.contains r.panel && r.granted)
    && !(s.cmds.any fun c => keys.contains c.panel && c.midChunk)
    && !(s.threads.any fun t => keys.contains t.panel && s.pushHeld t.core visAll)
    && (!l.travelling || s.netEmpty l.key)

/-- A thread between instructions, or between repeats (R436): what it had issued and not finished runs again, but for a `WAITF`,
which still waits. -/
def Thread.halted (s : Sys) (t : Thread) : Thread :=
  let (pc, pend) := match t.pend with
    | some (.waitf m) => (t.self, some (.waitf m))
    | some _ => (t.pendAt, none)
    | none => (t.self, none)
  { t with
    pc := pc, hints := Hints.empty, nat := (s.homeOf t).bind (fun h => t.restForm s h.2 pc), pend := pend
    phase := match t.phase with
      | .departing _ _ _ _ _ _ => .ready
      | x => x }

/-- A query waits to be posted again (R406). -/
def Query.withdrawn (q : Query) : Query := { q with unposted := q.unposted ++ q.posted.map (·.1), posted := [] }

/-- A sweep waits to be posted again (R414). -/
def Sweep.withdrawn (q : Sweep) : Sweep := { q with posted := false, start := [] }

/-- A message to a panel is saved with it. -/
def Parcel.savedWith (keys : List Nat) (q : Parcel) : Parcel :=
  if q.dest.any keys.contains then
    match q.phase with
    | .net c | .spool c => { q with phase := .saved c }
    | _ => q
  else q

/-- Everything of some panels comes to rest. -/
def Sys.halt (s : Sys) (keys : List Nat) (travelling : Bool) : Sys :=
  let mine (t : Thread) : Bool := keys.contains t.panel
  let submitted := s.threads.filterMap fun t => match t.pend with
    | some (.launch e) => if mine t then some e else none
    | _ => none
  { s with
    stream := s.stream.filter fun r => !submitted.contains r.key
    threads := s.threads.map fun t => if mine t then t.halted s else t
    walks := s.walks.filter fun w => !keys.contains w.panel
    queries := s.queries.map fun q => if keys.contains q.panel then q.withdrawn else q
    sweeps := s.sweeps.map fun q => if keys.contains q.panel then q.withdrawn else q
    reqs := s.reqs.map fun r => if keys.contains r.panel then { r with back := true } else r
    parcels := if travelling then s.parcels else s.parcels.map (Parcel.savedWith keys)
    panels := s.panels.map fun p => if keys.contains p.key then { p with phase := .out } else p }

/-- Yokes and launch are settled after a panel of a launch has gone. -/
def Tx.settle (tx : Tx s0) (p : Panel) : Tx s0 :=
  let tx := match tx.sys.yokeOf p with
    | some y => tx.mod fun s => s.settleYoke y
    | none => tx
  match tx.sys.launchOf p with
  | some l => tx.settleTravel l
  | none => tx

/-- A run-ahead under way stops, and its batch is posted (R436). -/
def Tx.stopAhead (tx : Tx s0) (p : Panel) (l : Launch) : Tx s0 :=
  match p.ahead with
  | some a => tx.closeAhead p l a
  | none => tx

/-- What its cancelled waits took from shuttles goes back, the last first (R97, R436). -/
def Tx.unpopHeld (tx : Tx s0) (p : Panel) : Tx s0 :=
  tx.each (sortBy Thread.tid (tx.sys.threadsOf p.key)).reverse fun tx t => tx.unpop p t.heldPop

/-- The images of what has been switched out (R436): the panel's, its handlers', and the yoke's and the launch's once they are out
whole. -/
def Tx.keepImages (tx : Tx s0) (p : Panel) (l : Launch) : Tx s0 :=
  let tx := tx.each (tx.sys.groupOf p) fun tx q => tx.keepImage l.part (.panel q.key) (panelImageData q) (panelImage tx.sys q l)
  let tx := match tx.sys.yokeOf p with
    | some y => if y.phase == .out then tx.keepImage l.part (.yoke y.key) yokeImageData (yokeImage tx.sys y l) else tx
    | none => tx
  if l.travelling && (tx.sys.panelsOf l.key).all (·.phase == .out) then tx.keepImage l.part (.launch l.key) 0 (launchImage tx.sys l) else tx

/-- A panel is switched out (R436). -/
def Tx.switchOut (tx : Tx s0) (p : Panel) (l : Launch) : Tx s0 :=
  let keys := (tx.sys.groupOf p).map (·.key)
  let cores := ((tx.sys.threads.filter fun t => keys.contains t.panel).map (·.core) ++ [p.core]).eraseDups
  let tx := tx.each (tx.sys.groupOf p) fun tx q => ((tx.stopAhead q l).discardHeld q.key).unpopHeld q
  let tx := tx.each cores fun tx c => tx.release c visAll
  ((tx.mod fun s => s.halt keys l.travelling).settle p).keepImages p l

/-- `PANEL_SWITCH_OUT`. -/
def execPanelSwitchOut (panel : Nat) (s : State) : Host.Outcome State Fault Refusal :=
  match s.sys.panel? panel with
  | none => .next s
  | some p =>
    match s.sys.launchOf p with
    | none => .next s
    | some l => eventStep s (switchReady s.sys p l) fun tx => tx.switchOut p l

/-! ## Resume -/

/-- The saved commands of a panel and its handlers find room in the queues of its cluster (R277, assumption log 140). -/
def Sys.queuesFit (s : Sys) (p : Panel) : Bool :=
  let keys := (s.groupOf p).map (·.key)
  (List.range 8).all fun chan => (s.queue (clusterOf p.core) chan).length
    + (s.cmds.filter fun c => keys.contains c.panel && c.stops && c.chan == chan).length ≤ 64

/-- Its yoke has been placed again, no answer is awaited, and its copies find room (R51, R64). -/
def resumeReady (s : Sys) (p : Panel) : Bool :=
  p.phase == .out && p.handlerOf.isNone && p.resumeTicket.isNone && s.queuesFit p
    && (match s.yokeOf p with
      | some y => y.phase == .placed && !((s.launchOf p).any (·.ending.isSome)) && !((s.yokePanels y).any fun (q : Panel) => q.phase == .stopping)
      | none => false)

/-- Fresh numbers for the operations that are issued again (R306, R436), in their order. -/
def reissue (k : Nat) : List Op → Nat × List Op
  | [] => (k, [])
  | o :: os =>
    let again := match o.kind with
      | .tkwait _ _ | .bbawait _ => true
      | _ => false
    let (k', os') := reissue (if again then k + 1 else k) os
    (k', (if again then { o with id := k } else o) :: os')

/-- The piece on whose holder a thread resumes: the one that holds its saved index (R385); a thread that has run past its
piece has still to leave it. -/
def Sys.seatPiece (s : Sys) (l : Launch) (t : Thread) : Option Nat :=
  if mustDepart s l t then t.piece
  else match ((s.objectOf l).bind (·.marker)).bind fun m => m.pieceAt t.pc with
    | some k => some k
    | none => t.piece

/-- Where a thread of a panel resumes: on its panel's core, or on a holder (R385). -/
def Sys.seat (s : Sys) (l : Launch) (core : Nat) (t : Thread) : Thread :=
  if !l.travelling then { t with core := core }
  else match s.seatPiece l t with
    | none => { t with core := core, tseam := t.tseam.map fun _ => s.freeLane core l.key }
    | some k =>
      match chooseHolder s l k t.core none with
      | some c => { t with core := c, piece := some k, tseam := t.tseam.map fun _ => s.freeLane c l.key }
      | none => { t with piece := some k }

/-- A thread comes back; one whose parcel is in flight, or that has exited, holds no place. -/
def Sys.seatThread (s : Sys) (l : Launch) (core : Nat) (t : Thread) : Sys :=
  match t.phase with
  | .flying | .exited => s.setThread { t with core := core }
  | _ =>
    let r := reissue s.serial t.ops
    { (s.setThread { t with tseam := none }).setThread ({ (s.seat l core t) with ops := r.2 }) with serial := r.1 }

/-- A panel's commands, requests and queries follow it to its cluster; commands go behind those of their channels. -/
def Sys.follow (s : Sys) (keys : List Nat) (core : Nat) : Sys :=
  let moves (c : Cmd) : Bool := keys.contains c.panel && c.stops
  { s with
    cmds := s.cmds.filter (fun c => !moves c) ++ (s.cmds.filter moves).map fun c => { c with cluster := clusterOf core }
    reqs := s.reqs.map fun r => if keys.contains r.panel then { r with core := core } else r
    queries := s.queries.map fun q => if keys.contains q.panel then { q with cluster := clusterOf core } else q
    sweeps := s.sweeps.map fun q => if keys.contains q.panel then { q with cluster := clusterOf core } else q }

/-- A message saved with a panel is to be sent again: it leaves when it has a credit (R387). -/
def Parcel.sentAgain (keys : List Nat) (q : Parcel) : Parcel :=
  if q.dest.any keys.contains then
    match q.phase with
    | .saved _ => { q with phase := .waiting }
    | _ => q
  else q

/-- A panel's records after its resume. -/
def Sys.restore (s : Sys) (p : Panel) (l : Launch) (extents : List PageMap) : Sys :=
  let started := !(s.threadsOf p.key).isEmpty
  let keys := (s.groupOf p).map (·.key)
  let s := s.follow keys p.core
  let s := { s with
    parcels := if l.travelling then s.parcels else s.parcels.map (Parcel.sentAgain keys)
    panels := s.panels.map fun (q : Panel) =>
      if q.key = p.key then { q with phase := (if started then .running else .placed), extents := extents }
      else if keys.contains q.key then { q with phase := .running, extents := extents, core := p.core } else q }
  let s := (s.threads.filter fun (t : Thread) => keys.contains t.panel).foldl (fun (s : Sys) t => s.seatThread l p.core t) s
  (s.repost (clusterOf p.core)).mapPanels fun (q : Panel) =>
    if q.handlerOf = some p.key then { q with core := ((s.thread? q.key 0).map (·.core)).getD q.core } else q

/-- A travelling launch runs again once each of its panels has resumed or waits for an answer (R64, R385). -/
def Tx.rejoin (tx : Tx s0) (l : Launch) : Tx s0 :=
  if l.travelling && l.out && (tx.sys.panelsOf l.key).all (fun (q : Panel) =>
      q.phase != .out || q.resumeTicket.isSome || q.handlerOf.isSome) then
    let tx := tx.mod fun s => (s.setLaunch { l with out := false }).dropImages l.part fun o => o == .launch l.key
    tx.each (tx.sys.savedParcels l) fun tx q =>
      tx.sendAgain { l with out := false } q
        (tx.sys.physical l.part (wnat q.header 6 % 512)) none
  else tx

/-- The failure of a translation on resume is posted (R64); the record's value is the page's offset from the base (assumption
log 186). -/
def Tx.resumeFault (tx : Tx s0) (p : Panel) (l : Launch) (slot va : Nat) : Tx s0 :=
  let r := { RecordInfo.of tPGFLT 2 l.id with
    pid := p.pid, value := lowWord (va - Decl.base (l.decl slot)), slot := slot, offset := va, write := isWrite (Decl.rights (l.decl slot)), core := tx.sys.logical l.part p.core }
  let (k, tx) := tx.postTicket l.part r (.panel p.key) l.key
  tx.mod fun s => s.setPanel { p with resumeTicket := some k }

/-- The core of a panel has extents free for its new translation: a panel that is out holds none (R62, R64). -/
def Sys.extentsFor (s : Sys) (p : Panel) (pages : List PageMap) : Bool :=
  let others := (s.residents p.core).filter fun q => q.key != p.key && q.phase != .out
  (others.map fun q => extentRuns q.extents).sum + extentRuns pages ≤ 4096

/-- Its translation as the tables stand fails, or fits its core (R64, assumption log 190). -/
def State.resumeFits (st : State) (p : Panel) : Bool :=
  match st.sys.launchOf p with
  | none => false
  | some l => match st.sys.part? l.part with
    | none => false
    | some q => match pinVerdict ((Tx.start st).pinAll q l).1 with
      | .error _ => true
      | .ok pages => st.sys.extentsFor p pages

/-- The images that a panel's resume reads (R436): its own, its handlers', its yoke's, its launch's. -/
def Sys.imagesOf (s : Sys) (p : Panel) (l : Launch) : List ImageOf :=
  .launch l.key :: (p.yoke.map ImageOf.yoke).toList ++ (s.groupOf p).map fun q => .panel q.key

/-- Some line of one of them is poisoned (R470). -/
def Sys.imagesSpoiled (s : Sys) (p : Panel) (l : Launch) : Bool :=
  ((s.imagesOf p l).filterMap s.image?).any fun x =>
    s.poisonLines.any fun k => x.2.addr < 128 * k + 128 && 128 * k < x.2.addr + x.2.bytes

/-- The images that are of no more use once a panel is back: a yoke's when none of its panels is out. -/
def Sys.dropRestored (s : Sys) (p : Panel) (l : Launch) : Sys :=
  let groups := (s.groupOf p).map fun q => ImageOf.panel q.key
  let yokeIn := !(s.panels.any fun q => p.yoke.isSome && q.yoke == p.yoke && q.phase == .out)
  s.dropImages l.part fun o => groups.contains o || (yokeIn && p.yoke.any fun y => o == .yoke y)

/-- A panel resumes (R436): translated again, restored, its operations issued again, then acquire C. An image in a poisoned line
ends the launch (R470, assumption log 144). -/
def Tx.resume (tx : Tx s0) (p : Panel) (l : Launch) (q : Partition) : Tx s0 :=
  if tx.sys.imagesSpoiled p l then tx.terminate l.key 0x13 else
  match tx.pinAll q l with
  | (r, tx) =>
    let tx := match pinVerdict r with
      | .error (slot, va) => tx.resumeFault p l slot va
      | .ok extents =>
        let tx := tx.mod fun s => (s.restore p l extents).dropRestored p l
        let mate (e : Nat × Nat × Nat) : Bool := e.1 == p.key || (p.yoke.isSome && (tx.sys.panel? e.1).any fun (q : Panel) => q.yoke == p.yoke)
        let tx := tx.mod fun s => if s.withdrawn p.key then s else s.postAgain (l.deferred.filter mate)
        let keys := List.map Panel.key (tx.sys.groupOf p)
        tx.each (List.map Thread.core (tx.sys.threads.filter fun t => keys.contains t.panel) ++ [p.core]).eraseDups fun tx c => tx.acquire c obsC
    match tx.sys.launch? l.key with
    | some l => tx.rejoin l
    | none => tx

/-- `PANEL_RESUME`. -/
def execPanelResume (panel : Nat) (s : State) : Host.Outcome State Fault Refusal :=
  match s.sys.panel? panel with
  | none => .next s
  | some p =>
    match s.sys.launchOf p with
    | none => .next s
    | some l =>
      match s.sys.part? l.part with
      | none => .next s
      | some q => eventStep s (resumeReady s.sys p && s.resumeFits p) fun tx => tx.resume p l q

/-! ## Retirement -/

/-- A panel that has nothing left to do (R466). -/
def retireReady (s : Sys) (p : Panel) (l : Launch) : Bool :=
  p.phase != .out && p.phase != .placed && l.ending.isNone && s.allExited p.key
    && (s.threadsOf p.key).all (fun t => t.ops.isEmpty)
    && !(s.cmds.any fun c => c.panel == p.key)
    && !(s.queries.any fun q => q.panel == p.key) && !(s.sweeps.any fun q => q.panel == p.key)
    && !(s.panels.any fun q => q.handlerOf == some p.key)
    && !(s.parcels.any fun q => q.dest == some p.key)
    && !((s.yokeOf p).any (·.overflow) && l.overflow.isLive)

/-- What a retired panel leaves: its launch counts it, and its yoke goes with its last panel. -/
def Sys.retirePanel (s : Sys) (p : Panel) (l : Launch) : Sys :=
  let last := !(s.panels.any fun q => q.key != p.key && q.yoke == p.yoke)
  let s := if p.handlerOf.isSome then s
    else s.setLaunch { l with retired := l.retired + 1, lastDie := dieOf p.core }
  { s with
    panels := dropKey Panel.key p.key s.panels
    threads := s.threads.filter fun t => t.panel != p.key
    walks := s.walks.filter fun w => w.panel != p.key
    yokes := if p.yoke.isSome && last then s.yokes.filter fun y => p.yoke != some y.key else s.yokes }

/-- `PANEL_RETIRE`. -/
def execPanelRetire (panel : Nat) (s : State) : Host.Outcome State Fault Refusal :=
  match s.sys.panel? panel with
  | none => .next s
  | some p =>
    match s.sys.launchOf p with
    | none => .next s
    | some l => eventStep s (retireReady s.sys p l) fun tx => (tx.mod fun s => s.retirePanel p l).settle p

/-- A launch that has run to its end (R467), or that is terminated and has come to its pre-emption points (R435). -/
def launchOver (s : Sys) (l : Launch) : Bool :=
  if l.ending.isSome then !s.unfinished l.key
  else l.phase == .live && l.nextYoke == l.yokes && (s.panelsOf l.key).isEmpty && l.deferred.isEmpty
    && l.overflow == .none && !(s.lost.any fun x => x.launch == l.key)

/-- `LAUNCH_RETIRE`. -/
def execLaunchRetire (launch : Nat) (s : State) : Host.Outcome State Fault Refusal :=
  match s.sys.launch? launch with
  | none => .next s
  | some l => eventStep s (launchOver s.sys l) fun tx => match l.ending with
    | some status => tx.finishEnd l status
    | none => tx.endLaunch l l.endStatus true

end Sys2Proof.Machine
end

