-- ==== Sys2Proof/Machine/Mailbox.lean ====
section
/-! DEFINITION. The host's mailbox commands and doorbells (R457, R459 to R465, R476, R69, R70, R13, R430). -/

namespace Sys2Proof.Machine

variable {s0 : State}

/-! ## The mailbox -/

def Tx.reply (tx : Tx s0) (fn status : Nat) (data : List Word) : Tx s0 :=
  tx.mod fun s => { s with replies := s.replies ++ [⟨fn, status, data⟩] }

/-- A command of a function's mailbox (R456, R459): function 0, or that of a partition, which names its own. Mailboxes
answer after bring-up (R473). -/
def mailbox (s : State) (fn : Nat) (vf : Bool) (part : Nat) (run : Nat → Tx s → Nat × List Word × Tx s) :
    Host.Outcome State Fault Refusal :=
  if !s.sys.booted || fn > 8 || (fn != 0 && (s.sys.part? (fn - 1)).isNone) then .next s
  else if fn != 0 && !vf then ((Tx.start s).reply fn 1 []).done
  else match run (if fn = 0 then part else fn - 1) (Tx.start s) with
    | (status, data, tx) => (tx.reply fn status data).done

/-- A command that only answers with a status. -/
def statusOnly (r : Nat × Tx s0) : Nat × List Word × Tx s0 := (r.1, [], r.2)

/-! ## Queues (R457) -/

/-- What the host writes in its own memory. -/
def Tx.hostWrites (tx : Tx s0) (ws : List Host.Cell) : Tx s0 := tx.each ws fun tx c => tx.hostPoke c.1 [c.2]

/-- `HOST_QUEUE_DOORBELL`. -/
def execHostQueueDoorbell (queue : Nat) (tail : Word) (writes : List Host.Cell) (s : State) :
    Host.Outcome State Fault Refusal :=
  let tx := (Tx.start s).hostWrites writes
  (match tx.sys.queues.find? fun (q : Queue) => q.num == queue with
    | none => tx
    | some q =>
      if (tail - tx.sys.publishedHead q).toNat > 2 ^ q.j then tx
      else tx.mod fun s => { s with queues := putKey Queue.num { q with tail := tail } s.queues }).done

/-- A queue is unbound: what its launches would write to its head word is not written. -/
def Sys.unbind (s : Sys) (mine : Queue → Bool) : Sys :=
  let gone := (s.queues.filter mine).map (·.num)
  { s with
    queues := s.queues.filter fun q => !mine q
    launches := s.launches.map fun l => if l.source.any (fun x => gone.contains x.1) then { l with source := none } else l }

/-- `QSET`. -/
def execQset (fn queue part base j : Nat) (s : State) : Host.Outcome State Fault Refusal :=
  mailbox s fn true part fun part tx => statusOnly (
    match tx.sys.queues.find? fun (q : Queue) => q.num == queue with
    | some q =>
      if j = 0 ∧ (fn = 0 ∨ q.part = part) then (0, tx.mod fun s => s.unbind fun x => x.num == queue) else (1, tx)
    | none =>
      if j = 0 then (0, tx)
      else if queue ≥ 4096 ∨ j < 4 ∨ j > 16 ∨ base % 64 ≠ 0 ∨ (tx.sys.part? part).isNone then (1, tx)
      else (0, tx.mod fun s => { s with queues := s.queues ++ [⟨queue, part, base, j, 0, 0⟩] }))

/-! ## Cancelling (R462) -/

/-- `now`: the command replies when it is done (R461). -/
def Tx.cancelLaunch (tx : Tx s0) (launch : Nat) (now : Bool) : Tx s0 :=
  match tx.sys.launch? launch with
  | none => tx
  | some l =>
    if l.phase ≠ .live then tx.turnAway l 0x12
    else if now then tx.terminateNow launch 0x12
    else if l.ending.isSome then tx else tx.terminate launch 0x12

/-- `CANCEL`. -/
def execCancel (fn part id : Nat) (s : State) : Host.Outcome State Fault Refusal :=
  mailbox s fn true part fun part tx => statusOnly (
    if (tx.sys.part? part).isNone then (1, tx)
    else (0, tx.each (tx.sys.launches.filter fun l => l.part == part && l.id.toNat == id) fun tx l => tx.cancelLaunch l.key false))

/-- Steps 1 and 2 of R461: queues unbound, submissions refused, launches cancelled, the supervisor's last. -/
def Tx.stopPartition (tx : Tx s0) (part : Nat) : Tx s0 :=
  let tx := tx.mod fun s =>
    let s := s.unbind fun q => q.part == part
    updPart part (fun p => { p with tearing := true }) { s with stream := s.stream.filter fun r => r.part != part }
  let mine := tx.sys.launches.filter fun l => l.part == part
  tx.each (List.map Launch.key (mine.filter fun l => !l.supervisor) ++ List.map Launch.key (mine.filter (·.supervisor)))
    fun tx k => tx.cancelLaunch k true

/-! ## Teardown (R461) -/

/-- The stacks of a mask. -/
def stacksOf (mask : BitVec 16) : List Nat := (List.range 16).filter fun k => mask.toNat.testBit k

/-- Step 5 for one stack: zeros under key ID 0. -/
def Tx.wipeStack (tx : Tx s0) (k : Nat) : Tx s0 :=
  let inside (line : Nat) : Bool := stackOf (line * 128) == k
  (tx.zero (k * 2 ^ 36) (2 ^ 36)).mod fun s =>
    { s.setStack k { s.stack k with wiped := true, errors := [], llc := [] } with
      lineKeys := s.lineKeys.filter fun e => !inside e.1
      poisonLines := s.poisonLines.filter fun x => !inside x
      l2 := s.l2.filter fun x => !inside x.line
      tags := s.tags.filter fun w => stackOf (w * 8) != k }

/-- The keys of a partition, written into every lining's table or cleared from it (R264, R460, R461). -/
def Sys.writeKeys (s : Sys) (p : Partition) (live : Bool) : Sys :=
  { s with stks := s.stks.map fun k =>
      { k with keys := k.keys.filter (fun x => !p.hasKey x) ++ (if live then (List.range p.keyCount).map (p.keyBase + ·) else []) } }

/-- Steps 3 to 6. -/
def Tx.clearPartition (tx : Tx s0) (p : Partition) : Tx s0 :=
  let tx := (tx.dropKeys p.hasKey).mod fun s => s.writeKeys p false
  let tx := tx.each (stacksOf p.stackMask) Tx.wipeStack
  tx.mod fun s => Sys.dropLines { s with
    parts := dropKey Partition.num p.num s.parts, objects := s.objects.filter fun o => o.part != p.num
    dies := s.dies.map fun d => { d with extents := d.extents.filter fun e => e.part != p.num } }

/-- `DESTROY`. -/
def execDestroy (fn part : Nat) (s : State) : Host.Outcome State Fault Refusal :=
  mailbox s fn false part fun part tx => statusOnly (
    match tx.sys.part? part with
    | none => (1, tx)
    | some p => (0, (tx.stopPartition part).clearPartition p))

/-! ## Creation (R460, R476) -/

/-- Does the fuse map show the core working (R54)? -/
def Sys.works (s : Sys) (die core : Nat) : Bool := (s.harv.getD (die * 5 + core / 32) 0).toNat.testBit (core % 32)

/-- The working cores of a physical cluster. -/
def Sys.workers (s : Sys) (die cluster : Nat) : List Nat :=
  ((List.range 4).map fun m => 4 * cluster + m).filter fun c => s.works die c

/-- The core table (R53, R57): working cores, each once, whole clusters, one for each logical cluster. -/
def Sys.tableOk (s : Sys) (t : List (Nat × Nat × Nat)) : Bool :=
  t.all (fun e => e.1 < 288 && e.2.1 < 2 && e.2.2 < 144 && s.works e.2.1 e.2.2)
    && (t.map (·.1)).eraseDups.length == t.length && (t.map (·.2)).eraseDups.length == t.length
    && t.all (fun e => t.all fun f => (e.1 / 4 == f.1 / 4) == ((e.2.1, e.2.2 / 4) == (f.2.1, f.2.2 / 4)))
    && t.all (fun e => (s.workers e.2.1 (e.2.2 / 4)).all fun c => t.any fun f => f.2 == (e.2.1, c))

/-- Physical clusters of a core table. -/
def clustersOf (t : List (Nat × Nat × Nat)) : List (Nat × Nat) := (t.map fun e => (e.2.1, e.2.2 / 4)).eraseDups

def sumOf {α : Type} (f : α → Nat) (l : List α) : Nat := (l.map f).sum

/-- Nothing that another partition owns, and quotas within the capacities (R66, R460). -/
def Sys.createOk (s : Sys) (a : CreateArgs) : Bool :=
  let others := s.parts
  a.part < 8 && (s.part? a.part).isNone && s.tableOk a.l2p
    && (others.all fun p => (clustersOf p.l2p).all fun c => !(clustersOf a.l2p).contains c)
    && (others.all fun p => p.stackMask &&& a.stackMask == 0)
    && ((stacksOf a.stackMask).all fun k => !(s.stack k).failed)
    && ((a.codeStore ++ a.contextStore).all fun r => a.stackMask.toNat.testBit r.stack)
    && 1 ≤ a.keyCount && a.keyBase + a.keyCount ≤ 8192
    && (others.all fun p => a.keyBase + a.keyCount ≤ p.keyBase || p.keyBase + p.keyCount ≤ a.keyBase)
    && sumOf Partition.heldQuota others + a.heldQuota ≤ 4096
    && sumOf Partition.objectQuota others + a.objectQuota ≤ 1024
    && sumOf Partition.mapQuota others + a.mapQuota ≤ 32
    && a.signers.length ≤ 8

/-- A partition as `CREATE` makes it. -/
def partitionOf (a : CreateArgs) : Partition :=
  { num := a.part, l2p := a.l2p, stackMask := a.stackMask, keyBase := a.keyBase, keyCount := a.keyCount
    rootStack := a.rootStack, rootLocal := a.rootLocal, codeStore := a.codeStore, contextStore := a.contextStore, images := []
    signers := a.signers, deadline := a.deadline, heldQuota := a.heldQuota, objectQuota := a.objectQuota
    mapQuota := a.mapQuota, supervisor := none, unsupervised := false, tearing := false, ring := [], ptgen := 0, l2pidx := 0
    brk := List.replicate 4 none, bindings := [], vlog := [], faults := [], tickets := []
    nextTicket := 1, tlb := [] }

namespace Bootstrap

/-- One entry of the list (R476). -/
def source (e : List Word) : Nat := dnat e 0
def key (e : List Word) : Nat := bits (wnat e 2) 16 13
def stack (e : List Word) : Nat := bits (wnat e 2) 0 4
def local_ (e : List Word) : Nat := bits (wnat e 4) 0 4 * 2 ^ 32 + wnat e 3
def bytes (e : List Word) : Nat := wnat e 5

def ok (p : Partition) (e : List Word) : Bool :=
  source e % 64 == 0 && bits (wnat e 2) 29 3 == 0 && bits (wnat e 2) 4 12 == 0 && bits (wnat e 4) 4 28 == 0
    && wnat e 6 == 0 && wnat e 7 == 0 && p.hasKey (key e) && p.owns (stack e) && local_ e % 64 == 0
    && bytes e % 64 == 0 && bytes e != 0 && local_ e + bytes e ≤ stackBytes

end Bootstrap

/-- The list as it stands in host memory; none: it cannot be read. -/
def State.bootList (st : State) (addr n : Nat) : Option (List (List Word)) :=
  (List.range n).foldr (fun i acc => match st.readHost (addr + 32 * i) 32, acc with
    | some bs, some l => some (wordsOf bs :: l)
    | _, _ => none) (some [])

/-- One entry is copied, in pieces of 64 bytes; none: a read of host memory failed. -/
def Tx.bootEntry (tx : Tx s0) (e : List Word) : Bool × Tx s0 :=
  (List.range (Bootstrap.bytes e / 64)).foldl (fun (acc : Bool × Tx s0) i =>
    if !acc.1 then acc
    else match acc.2.st.readHost (Bootstrap.source e + 64 * i) 64 with
      | none => (false, acc.2)
      | some bs =>
        (true, acc.2.homeWrite (Bootstrap.stack e * 2 ^ 36 + Bootstrap.local_ e + 64 * i) (Bootstrap.key e) 1 0 false bs))
    (true, tx)

def Tx.bootCopy (tx : Tx s0) (l : List (List Word)) : Bool × Tx s0 :=
  l.foldl (fun (acc : Bool × Tx s0) e => if acc.1 then acc.2.bootEntry e else acc) (true, tx)

/-- The fault ring that a supervisor record declares (R429): slot 4,095, valid and well-formed. -/
def Tx.ringOf (tx : Tx s0) (p : Partition) (ws : List Word) : Option (List Word) × Tx s0 :=
  let l := Launch.ofRecord 0 p.num 7 ws true none
  if l.bufferCount < 4096 then (none, tx)
  else match tx.readVirt p.num (l.bufferAddr + 32 * 4095) 32 with
    | (none, tx) => (none, tx)
    | (some bs, tx) =>
      let d := Decl.fixMask p (wordsOf bs)
      (if Decl.valid d && Decl.ok tx.sys.ildom p d then some d else none, tx)

/-- The record at a host physical address, with its ring. -/
def Tx.superRecord (tx : Tx s0) (p : Partition) (addr : Nat) : Option (List Word × List Word) × Tx s0 :=
  match tx.st.readHost addr 128 with
  | none => (none, tx)
  | some bs => match tx.ringOf p (wordsOf bs) with
    | (some d, tx) => (some (wordsOf bs, d), tx)
    | (none, tx) => (none, tx)

/-- A supervisor's record is taken, or waits in the device stream until the table and the quota have an entry for it (R44, R66,
assumption log 172). -/
def Tx.superArrive (tx : Tx s0) (p : Partition) (ws : List Word) : Tx s0 :=
  if tx.sys.heldCount < 4096 && tx.sys.takes p.num true then tx.arrive p ws 7 false true none
  else tx.take.mod fun s => { s with stream := s.stream ++ [⟨tx.fresh, p.num, 7, ws, true⟩] }

/-- `CREATE` once its arguments have passed. -/
def Tx.createPartition (tx : Tx s0) (a : CreateArgs) (list : List (List Word)) : Nat × Tx s0 :=
  let p := partitionOf a
  let tx := tx.mod fun s => { s.writeKeys p true with parts := insertBy Partition.num p s.parts }
  match tx.bootCopy list with
  | (false, tx) => (1, tx.clearPartition p)
  | (true, tx) => match tx.superRecord p a.superRecord with
    | (none, tx) => (1, tx.clearPartition p)
    | (some (ws, ring), tx) =>
      let tx := tx.mod (updPart p.num fun p => { p with ring := ring })
      (0, tx.superArrive { p with ring := ring } ws)

/-- `CREATE`. -/
def execCreate (fn : Nat) (args : CreateArgs) (s : State) : Host.Outcome State Fault Refusal :=
  mailbox s fn false args.part fun _ tx => statusOnly (
    let tx := tx.hostWrites args.writes
    match tx.st.bootList args.bootAddr (min args.bootCount 65536) with
    | none => (1, tx)
    | some l =>
      if tx.sys.createOk args && args.bootCount ≤ 65535 && l.all (Bootstrap.ok (partitionOf args))
      then tx.createPartition args l else (1, tx))

/-- A supervisor's record that has been given and is not yet accepted. -/
def Sys.superComing (s : Sys) (part : Nat) : Bool :=
  s.launches.any (fun l => l.supervisor && l.part == part) || s.stream.any fun r => r.supervisor && r.part == part

/-- `SUPER` (R430): a ring of at least 128 bytes; the partition keeps the old one. One supervisor at a time. -/
def execSuper (fn part record : Nat) (s : State) : Host.Outcome State Fault Refusal :=
  mailbox s fn false part fun part tx => statusOnly (
    match tx.sys.part? part with
    | none => (1, tx)
    | some p =>
      if !p.unsupervised || tx.sys.superComing part then (1, tx)
      else match tx.superRecord p record with
        | (none, tx) => (1, tx)
        | (some (ws, ring), tx) =>
          if Decl.len ring < 128 then (1, tx) else (0, tx.superArrive p ws))

/-! ## Objects, domains, logs -/

/-- `EVICT` (R70). -/
def execEvict (fn part code : Nat) (s : State) : Host.Outcome State Fault Refusal :=
  mailbox s fn true part fun part tx => statusOnly (
    if (tx.sys.part? part).isNone then (1, tx)
    else (0, tx.mod fun s => Sys.evictObjects { s with
      objects := s.objects.map fun o => if o.part = part ∧ o.code = code then { o with evict := true } else o }))

/-- `DOMAIN` (R13). -/
def execDomain (fn domain : Nat) (peers : List DomainPeer) (s : State) : Host.Outcome State Fault Refusal :=
  mailbox s fn false 0 fun _ tx => statusOnly (
    if domain = 0 ∨ domain > 255 then (1, tx)
    else (0, tx.mod fun s => { s with domains := ⟨domain, peers⟩ :: s.domains.filter fun d => d.num != domain }))

/-- `VLOG` (R69): step and launch ID of one entry. -/
def execVlog (fn part index : Nat) (s : State) : Host.Outcome State Fault Refusal :=
  mailbox s fn true part fun part tx =>
    match (tx.sys.part? part).bind fun p => p.vlog[index]? with
    | some e => (0, [BitVec.ofNat 32 e.1, e.2], tx)
    | none => (1, [], tx)

/-! ## Attestation (R463) -/

/-- A digest of 32 bytes as eight words. -/
def digest (bs : List Byte) : List Word :=
  let d := wordsOf ((Config.sha3 bs).take 32)
  d ++ List.replicate (8 - d.length) 0

/-- Owned physical clusters of a die, 64 bits. -/
def clusterBits (p : Partition) (die : Nat) : Nat :=
  ((clustersOf p.l2p).filter fun c => c.1 == die).foldl (fun n c => n ||| 2 ^ c.2) 0

/-- Bytes 0 to 167. -/
def attestHead (p : Partition) (nonce : List Word) : List Word :=
  let w (n : Nat) : Word := BitVec.ofNat 32 n
  [0x41545331, w (2 ^ 16 + p.num), 0, 0] ++ (List.range 8).map (fun i => nonce.getD i 0)
    ++ digest Config.firmware ++ digest (Config.signerSetBytes (p.signers.map fun x => (x.ident, x.nativeTrusted)))
    ++ digest Config.identityKey
    ++ [w (clusterBits p 0), w (clusterBits p 0 / 2 ^ 32), w (clusterBits p 1), w (clusterBits p 1 / 2 ^ 32),
        w (p.stackMask.toNat * 2 ^ 16 + p.keyBase % 2 ^ 13), w (p.keyCount % 2 ^ 14)]

/-- `ATTEST`. -/
def execAttest (fn part : Nat) (nonce : List Word) (s : State) : Host.Outcome State Fault Refusal :=
  mailbox s fn true part fun part tx =>
    match tx.sys.part? part with
    | none => (1, [], tx)
    | some p =>
      let head := attestHead p nonce
      let sig := wordsOf ((Config.identitySign (Config.sha3 (bytesOfWords head))).take 2420)
      (0, head ++ sig ++ List.replicate (605 - sig.length) 0, tx)

/-! ## The summary image (R465) -/

/-- Record of a partition number; zeros where there is none, or where the asker may not see it. -/
def State.summaryOf (st : State) (fn n : Nat) : List Word :=
  let w (n : Nat) : Word := BitVec.ofNat 32 n
  let b (c : Bool) : Nat := if c then 1 else 0
  match st.sys.part? n with
  | none => List.replicate 16 0
  | some p =>
    if fn ≠ 0 ∧ fn ≠ n + 1 then List.replicate 16 0
    else
      let live := (st.sys.launches.filter fun (l : Launch) => l.part == n && l.phase == .live).length
      [w (2 ^ 31 + b p.deadline * 2 ^ 30 + b p.tearing * 2 ^ 29 + b p.unsupervised * 2 ^ 28 + p.heldQuota % 2 ^ 13),
       w (st.sys.heldOf n % 2 ^ 13), w live, w ((st.ringWord n p.ring 0).getD 0), w (p.bindings.length % 2 ^ 13),
       w ((st.sys.objectsOf n).length % 2 ^ 11)] ++ List.replicate 10 0

def linkWords (l : Link) : List Word :=
  [BitVec.ofNat 32 l.retries,
   BitVec.ofNat 32 ((if l.up then 2 ^ 31 else 0) + l.peer % 256 * 2 ^ 23 + l.retrains % 2 ^ 23)]

def State.summary (st : State) (fn : Nat) : List Word :=
  let w (n : Nat) : Word := BitVec.ofNat 32 n
  [0x52535931, 720, w (st.sys.die 0).cyc, w (st.sys.die 1).cyc, w (st.sys.heldCount % 2 ^ 13)] ++ List.replicate 11 0
    ++ (List.range 8).flatMap (st.summaryOf fn)
    ++ (List.range 18).flatMap fun k => if fn = 0 then linkWords (st.sys.links.getD k Link.reset) else [0, 0]

/-- `RESYNC`; the count of corrected errors, for which the image has no place, comes with function 0's reply (R470, assumption
log 197). -/
def execResync (fn buffer : Nat) (s : State) : Host.Outcome State Fault Refusal :=
  mailbox s fn true 0 fun _ tx => (0, if fn = 0 then [BitVec.ofNat 32 s.sys.corrected] else [], tx.hostPoke buffer (bytesOfWords (s.summary fn)))

end Sys2Proof.Machine
end

