-- ==== Sys2Proof/Machine/MatrixEvents.lean ====
section
/-! DEFINITION. The matrix engine's events: the arbiter's grant (R319), the end of a request (R318), and the end of a
`FREE` (R327). -/

namespace Sys2Proof.Machine

variable {s0 : State}

/-! ## The arbiter -/

/-- The array serves passes, the transfer path the others (R319). -/
def Req.onArray (r : Req) : Bool :=
  match r.kind with
  | .mma _ _ | .mmag _ _ | .rast _ _ => true
  | _ => false

/-- Of one seam. -/
def Req.sameSeam (a b : Req) : Bool := a.panel == b.panel && a.seam == b.seam

/-- It stands in the table of 32: posted, or the first of those to be posted again, for which there is an entry (R321). -/
def Req.tabled (s : Sys) (r : Req) : Bool :=
  !r.back || (s.reqEntries r.cluster < 32 && ((s.reqs.find? (Req.waits s r.cluster)).map (·.key)) == some r.key)

/-- Eligible: in the table, not held, released past the commands it waits for (R303), every earlier request of its seam granted; and
its panel is not being switched out, but for what a release in progress waits for (R321, R360, assumption log 198). -/
def Req.eligible (s : Sys) (r : Req) : Bool :=
  !r.granted && r.tabled s && r.held.isNone && !(s.cmds.any fun c => r.after.contains c.key)
    && !(s.reqs.any fun q => q.sameSeam r && q.key < r.key && !q.granted)
    && (s.panel? r.panel).any fun p => p.phase == .running || (p.phase == .stopping && s.releaseNeeds r)

/-- Class of a request's launch. -/
def Req.cls (s : Sys) (r : Req) : Nat := ((s.launch? r.launch).map (·.cls)).getD 0

/-- The requests that compete with `r`. -/
def Sys.rivals (s : Sys) (r : Req) : List Req :=
  s.reqs.filter fun q => q.cluster == r.cluster && q.onArray == r.onArray && q.eligible s

/-- The arbiter's choice for a unit among requests in order of age: urgent first, oldest first; then the highest class, then the
oldest. -/
def Sys.choice (s : Sys) (rs : List Req) : Option Req :=
  match rs.find? fun q => q.passed ≥ 16 with
  | some q => some q
  | none =>
    let top := rs.foldl (fun m q => max m (q.cls s)) 0
    rs.find? fun q => q.cls s == top

def grantReady (s : Sys) (r : Req) : Bool := (s.choice (s.rivals r)).map (·.key) == some r.key

/-- `MATRIX_GRANT`; a dithered output takes its `%dphase` and advances it (R179). -/
def execMatrixGrant (req : Nat) (s : State) : Host.Outcome State Fault Refusal :=
  match s.sys.req? req with
  | none => .next s
  | some r =>
    eventStep s (grantReady s.sys r) fun tx =>
      let rivals := (tx.sys.rivals r).map (·.key)
      let again := tx.sys.reposts r.cluster (if r.back then 0 else 1)
      tx.mod fun s =>
        let phi := ((s.yoke? r.yoke).map (·.dphase)).getD 0
        let mark (q : Req) : Req :=
          if q.key = r.key then { q with granted := true, phi := phi }
          else { q with passed := if rivals.contains q.key then q.passed + 1 else q.passed, back := q.back && !again.contains q.key }
        let s := { s with reqs := s.reqs.map mark }
        let s := match s.panel? r.panel with
          | some p => s.setPanel { p with granted := p.granted.set r.seam (p.granted.getD r.seam 0 + 1) }
          | none => s
        match s.yoke? r.yoke with
        | some y => s.setYoke { y with granted := y.granted + 1, dphase := if r.dithered then y.dphase + 13 else y.dphase }
        | none => s

/-! ## Completion -/

/-- A granted request whose earlier requests of the seam have taken effect (R318). -/
def reqReady (s : Sys) (r : Req) : Bool := r.granted && !s.reqs.any fun q => q.sameSeam r && q.key < r.key

/-- Regions that a `TLD` may see: what granted requests of other seams are about to leave (R318). -/
def Sys.laterRegions (s : Sys) (r : Req) (y : Yoke) : List (List Host.Cell) :=
  match r.kind with
  | .tld _ _ _ =>
    (s.reqs.filter fun q => q.granted && q.yoke == y.key && !q.sameSeam r && q.target == some r.xn).map fun q =>
      (q.perform ⟨y.region, [], s.nonce⟩ q.phi.toNat).region
  | _ => []

/-- A request's end for one of its threads: results, flags, the operation over. -/
def Thread.reqDone (r : Req) (ran : Ran) (t : Thread) : Thread :=
  match t.ops.find? fun o => o.kind == .tile r.key with
  | none => t
  | some o =>
    let t := match ran.regs.find? fun e => e.1 == t.tid with
      | some e => t.putNat o.dst e.2
      | none => t
    { (t.finish o) with fflags := t.fflags ||| ran.fl }

/-- The region and `%oflag` after a request (R112). -/
def Yoke.after (y : Yoke) (ran : Ran) : Yoke := { y with region := ran.region, oflag := y.oflag || ran.miss }

/-- A request takes effect. -/
def Tx.performReq (tx : Tx s0) (r : Req) (y : Yoke) : Tx s0 :=
  let ran := r.perform ⟨y.region, tx.sys.laterRegions r y, tx.sys.nonce⟩ r.phi.toNat
  let tx := tx.mod fun s => { s.setYoke (y.after ran) with reqs := dropKey Req.key r.key s.reqs }
  let tids := (tx.sys.threadsOf r.panel).map (·.tid)
  let tx := tx.each tids fun tx tid => tx.updThread r.panel tid fun t => t.reqDone r ran
  tx.tackEvents r.tack.toList .arrive

/-- `MATRIX_REQUEST_COMPLETE`. -/
def execMatrixRequestComplete (req : Nat) (s : State) : Host.Outcome State Fault Refusal :=
  match s.sys.req? req with
  | none => .next s
  | some r =>
    match s.sys.yoke? r.yoke with
    | none => .next s
    | some y => eventStep s (reqReady s.sys r) fun tx => tx.performReq r y

/-! ## `FREE` -/

/-- Nothing that names the tile is unfinished (R327). -/
def freeReady (s : Sys) (t : Thread) (p : Panel) (y : Yoke) (n : Nat) : Bool :=
  p.lets t.tid && !(s.reqs.any fun r => r.names y.key n) && !(s.cmds.any fun c => s.tileCopy y n c)

/-- `FREE_RECORD_CLEAR`: the record is cleared, and every thread that holds this `FREE` goes on. -/
def execFreeRecordClear (panel tid : Nat) (s : State) : Host.Outcome State Fault Refusal :=
  match s.sys.pendOf panel tid with
  | some (t, p, _, .free n) =>
    match s.sys.yokeOf p with
    | none => .next s
    | some y =>
      eventStep s (freeReady s.sys t p y n) fun tx =>
        let tx := tx.mod fun s => s.setYoke (y.setTile n 0)
        tx.each ((tx.sys.threadsOf panel).filter fun u => u.pend == some (.free n) && u.pc == t.pc) fun tx u =>
          tx.mod fun s => s.setThread { u with pend := none }
  | _ => .next s

end Sys2Proof.Machine
end

