-- ==== Sys2Proof/Machine/Outside.lean ====
section
/-! DEFINITION. What reaches the package from outside and what goes wrong in it: the CXL.mem window (R455), peers' requests
(R243), the die bridge and the links (R344, R345, R464), errors (R470), heat (R472), power-on reset (R473). -/

namespace Sys2Proof.Machine

variable {s0 : State}

/-! ## The window of a partition (R455) -/

/-- The pieces of an access, each with its place if its page grants the rights: package address, key, mode and number. Every
page is walked before the access is made. -/
def Tx.windowSpans (tx : Tx s0) (part rights : Nat) :
    List (Nat × Nat) → List (Option (Nat × Nat × Nat × Nat) × Nat × Nat) × Tx s0
  | [] => ([], tx)
  | x :: xs => match tx.virtAddr part x.1 rights with
    | (a, tx) => match tx.windowSpans part rights xs with
      | (as, tx) => ((a, x) :: as, tx)

/-- The bytes of the pieces; none where one does not translate or its line is poisoned. -/
def State.spanBytes (st : State) : List (Option (Nat × Nat × Nat × Nat) × Nat × Nat) → Option (List Byte)
  | [] => some []
  | (none, _) :: _ => none
  | (some a, x) :: rest => if st.sys.poisoned a.1 then none else (st.spanBytes rest).map fun bs => st.homeBytes a.1 x.2 a.2.1 ++ bs

/-- Pieces of a write that starts at `va`, at their home L2; one that does not translate, or meets a live tack (R290), is not
performed. -/
def Tx.spanWrite (tx : Tx s0) (va : Nat) (bs : List Byte) : List (Option (Nat × Nat × Nat × Nat) × Nat × Nat) → Bool × Tx s0
  | [] => (true, tx)
  | (none, _) :: rest => (false, (tx.spanWrite va bs rest).2)
  | (some a, x) :: rest =>
    if (tx.sys.liveIn a.1 x.2).isSome then (false, (tx.spanWrite va bs rest).2)
    else (tx.homeWrite a.1 a.2.1 a.2.2.1 a.2.2.2 true ((bs.drop (x.1 - va)).take x.2)).spanWrite va bs rest

def Tx.windowRead (tx : Tx s0) (part va n : Nat) : Option (List Byte) × Tx s0 :=
  match tx.windowSpans part rRd (linePieces va n) with
  | (spans, tx) => (tx.st.spanBytes spans, tx)

def Tx.windowWrite (tx : Tx s0) (part va : Nat) (bs : List Byte) : Bool × Tx s0 :=
  match tx.windowSpans part rW (linePieces va bs.length) with
  | (spans, tx) => tx.spanWrite va bs spans

/-- `HOST_MEM_ACCESS`. -/
def execHostMemAccess (part va : Nat) (access : HostAccess) (s : State) : Host.Outcome State Fault Refusal :=
  if (s.sys.part? part).isNone then .next s
  else match access with
    | .read n =>
      let r := (Tx.start s).windowRead part va n
      (r.2.notice (.hostRead part va r.1)).done
    | .write bs =>
      let r := (Tx.start s).windowWrite part va bs
      (r.2.notice (.hostWritten part va r.1)).done

/-! ## Peers' requests (R243) -/

/-- The registration names the sender, and the partition is here. -/
def Sys.knowsPeer (s : Sys) (q : PeerRequest) : Bool :=
  (s.part? q.part).isSome && s.domains.any fun d => d.num == q.domain && d.peers.any fun p => p.device == q.device

/-- An atomic's operation by its opcode (R272). -/
def atomOf (op : Byte) : Option AtomOp :=
  match op.toNat with
  | 0x92 => some .add
  | 0x93 => some .mins
  | 0x94 => some .maxs
  | 0x95 => some .band
  | 0x96 => some .bor
  | 0x97 => some .bxor
  | 0x98 => some .xchg
  | 0x99 => some .cas
  | 0x9A => some .fadd
  | 0x9B => some .add64
  | _ => none

/-- Bytes and rights of a request. -/
def peerNeeds : PeerOp → Nat × Nat
  | .load b => (b, rRd)
  | .store d => (d.length, rW)
  | .atomic op _ => (if op = 0x9B then 8 else 4, rA)

/-- Interleave, translation and owner check at the receiving port, then the access at its home L2, within one line; none: it
failed. What the stack's owner check drops is told to the host (R244). -/
def Tx.servePeer (tx : Tx s0) (q : PeerRequest) : Option (List Byte) × Tx s0 :=
  let (n, rights) := peerNeeds q.op
  if !tx.sys.knowsPeer q || n = 0 || q.offset % 128 + n > 128 then (none, tx)
  else match tx.engineAddr q.part 0 288 q.decl q.offset rights with
    | (none, tx) => (none, tx)
    | (some (a, k, m, num), tx) =>
      let through := Decl.kind q.decl == 1 || Decl.kind q.decl == 2
      if !((tx.sys.part? q.part).any fun p => p.owns (stackOf a)) then (none, tx.notice (.requestDropped (stackOf a)))
      else if tx.sys.poisoned a then (none, tx)
      else match q.op with
        | .load b => (some (tx.st.homeBytes a b k), tx)
        | .store d => if (tx.sys.liveIn a n).isSome then (none, tx) else (some [], tx.homeWrite a k m num through d)
        | .atomic op x =>
          match atomOf op, tx.sys.liveIn a n with
          | some op, none =>
            let old := tx.st.homeNat a n k
            (some (leBytes n old), tx.homeWrite a k m num through (leBytes n (atomResult op old x.toNat).2))
          | _, _ => (none, tx)

/-- `PEER_REQUEST`. -/
def execPeerRequest (request : PeerRequest) (s : State) : Host.Outcome State Fault Refusal :=
  match (Tx.start s).servePeer request with
  | (r, tx) => (tx.notice (.peerAnswer request.device r)).done

/-! ## Links (R344, R345, R464) -/

/-- Cycles after which a link or a bridge that is down raises `LINKFLT`. -/
def linkPatience : Nat := 2400000

/-- `LINKFLT` of a partition: a record that names no thread and no launch (R422, R427). -/
def Tx.linkFault (tx : Tx s0) (part : Nat) : Tx s0 :=
  (tx.postTicket part (RecordInfo.of tLINKFLT 2 0) (.launch 0) 0).2

def Sys.updLink (s : Sys) (k : Nat) (f : Link → Link) : Sys :=
  { s with links := s.links.set k (f (s.links.getD k Link.reset)) }

/-- `FLIT_CRC_RETRY`: the flit is sent again, in its order; the retry counts. -/
def execFlitCrcRetry (link : Nat) (s : State) : Host.Outcome State Fault Refusal :=
  ((Tx.start s).mod fun s => s.updLink link fun l => { l with retries := min (2 ^ 32 - 1) (l.retries + 1) }).done

/-- `BRIDGE_RETRAIN_START`: traffic between the dies waits. -/
def execBridgeRetrainStart (s : State) : Host.Outcome State Fault Refusal :=
  eventStep s (!s.sys.bridge.training) fun tx => tx.mod fun s => { s with bridge := ⟨true, (s.die 0).cyc, false⟩ }

/-- The partition has cores or stacks on a die. -/
def Partition.reaches (p : Partition) (die : Nat) : Bool := p.onDie die || p.l2p.any fun e => e.2.1 == die

def bridgeOverdue (s : Sys) : Bool :=
  s.bridge.training && !s.bridge.raised && (s.die 0).cyc > s.bridge.since + linkPatience

/-- `LINKFLT` once, for every partition on both dies (R345). -/
def Tx.bridgeFault (tx : Tx s0) : Tx s0 :=
  let tx := tx.mod fun s => { s with bridge := { s.bridge with raised := true } }
  tx.each (tx.sys.parts.filter fun p => p.reaches 0 && p.reaches 1) fun tx p => tx.linkFault p.num

/-- `BRIDGE_RETRAIN_TIMEOUT`. -/
def execBridgeRetrainTimeout (s : State) : Host.Outcome State Fault Refusal :=
  eventStep s (bridgeOverdue s.sys) Tx.bridgeFault

/-- `BRIDGE_RETRAIN_END`: the traffic goes on in order; a retrain that lasted too long raises its fault. -/
def execBridgeRetrainEnd (s : State) : Host.Outcome State Fault Refusal :=
  let tx := Tx.start s
  let tx := if bridgeOverdue s.sys then tx.bridgeFault else tx
  (tx.mod fun s => { s with bridge := { s.bridge with training := false } }).done

/-- `ZIDOR_LINK_DOWN`. -/
def execZidorLinkDown (link : Nat) (s : State) : Host.Outcome State Fault Refusal :=
  eventStep s ((s.sys.links.getD link Link.reset).up) fun tx =>
    tx.mod fun s => s.updLink link fun l => { l with up := false, since := (s.die 0).cyc, raised := false }

def linkOverdue (s : Sys) (link : Nat) : Bool :=
  let l := s.links.getD link Link.reset
  link < 18 && !l.up && !l.raised && (s.die 0).cyc ≥ l.since + linkPatience

/-- A partition with a launch whose domain uses the link. -/
def Sys.usesLink (s : Sys) (link : Nat) (p : Partition) : Bool :=
  s.launches.any fun l => l.part == p.num && l.domain != 0
    && s.domains.any fun d => d.num == l.domain && d.peers.any fun q => q.links.getLsbD link

/-- A link that has stayed down too long raises `LINKFLT` (R464). -/
def Tx.linkLost (tx : Tx s0) (link : Nat) : Tx s0 :=
  let tx := tx.mod fun s => s.updLink link fun l => { l with raised := true }
  tx.each (tx.sys.parts.filter (tx.sys.usesLink link)) fun tx p => tx.linkFault p.num

/-- `ZIDOR_LINK_TRAINED`; one that was down too long raises its fault all the same. -/
def execZidorLinkTrained (link peer : Nat) (s : State) : Host.Outcome State Fault Refusal :=
  let tx := Tx.start s
  let tx := if linkOverdue s.sys link then tx.linkLost link else tx
  (tx.mod fun s => s.updLink link fun l =>
    { l with up := true, peer := peer, retrains := min (2 ^ 23 - 1) (l.retrains + 1), raised := false }).done

/-- `ZIDOR_LINK_DOWN_TIMEOUT`; accesses to a peer all of whose links are so lost then fail (R243, Complete.lean). -/
def execZidorLinkDownTimeout (link : Nat) (s : State) : Host.Outcome State Fault Refusal :=
  eventStep s (linkOverdue s.sys link) fun tx => tx.linkLost link

/-! ## Errors (R470) -/

def Tx.corrected (tx : Tx s0) : Tx s0 := tx.mod fun s => { s with corrected := s.corrected + 1 }

def Tx.poison (tx : Tx s0) (lines : List Nat) : Tx s0 :=
  tx.mod fun s => { s with poisonLines := s.poisonLines ++ lines.filter fun x => !s.poisonLines.contains x }

/-- Launches that may own a dirty line of a core: those of its stack's partition with a thread there. -/
def Sys.ownersOf (s : Sys) (core line : Nat) : List Nat :=
  ((s.threads.filter fun t => t.core == core).filterMap fun t => match s.homeOf t with
    | some (_, l) => match s.part? l.part with
      | some p => if p.owns (stackOf (line * 128)) then some l.key else none
      | none => none
    | none => none).eraseDups

/-- `ECC_ERROR`. -/
def execEccError (error : EccError) (s : State) : Host.Outcome State Fault Refusal :=
  let tx := Tx.start s
  (match error with
    | .coreStore panel true => if (tx.sys.panel? panel).isSome then tx.corrected else tx
    | .coreStore panel false => match tx.sys.panel? panel with
      | some p => tx.terminate p.launch 0x13
      | none => tx
    | .l1Clean core line =>
      if ((tx.sys.core core).l1Line line).any fun (l : L1Line) => l.dirty == 0 then (tx.dropL1 core line).corrected else tx
    | .l1Dirty core line c =>
      match (tx.sys.core core).l1Line line with
      | none => tx
      | some l =>
        if l.dirty = 0 then tx
        else if c then tx.corrected
        else
          let tx := tx.mod fun s => s.setCore { s.core core with l1 := dropKey L1Line.line line (s.core core).l1 }
          match pickItem tx.sys.nonce (tx.sys.ownersOf core line) with
          | some k => tx.terminate k 0x13
          | none => tx
    | .cache _ true => tx.corrected
    | .cache line false => tx.poison [line]
    | .flit => tx.corrected
    | .dram stack bank row c =>
      let tx := tx.mod fun s =>
        let k := s.stack stack
        s.setStack stack { k with errors := (bank, row, Config.freeNat s.nonce % 16, c) :: k.errors.filter fun e => !(e.1 == bank && e.2.1 == row) }
      if c then (tx.mod fun s => s.setStack stack ((s.stack stack).hasten bank row)).corrected
      else tx.poison (rowLines stack bank row)).done

/-! ## Heat (R472) -/

/-- `THERMAL_THROTTLE`: the matrix engines idle between passes. -/
def execThermalThrottle (s : State) : Host.Outcome State Fault Refusal :=
  ((Tx.start s).mod fun s => { s with hot := true }).done

/-- `THERMAL_THROTTLE_END`. -/
def execThermalThrottleEnd (s : State) : Host.Outcome State Fault Refusal :=
  ((Tx.start s).mod fun s => { s with hot := false }).done

/-- `THERMAL_SHUTDOWN`: every partition stops as by `DESTROY` steps 1 and 2, and function 0 reports. -/
def execThermalShutdown (s : State) : Host.Outcome State Fault Refusal :=
  let tx := (Tx.start s).each (s.sys.parts.map (·.num)) Tx.stopPartition
  ((tx.mod fun s => { s with shut := true }).notice .overheated).done

/-! ## Power-on reset (R473) -/

/-- The ten harvest words that the fuses give (R54). -/
def harvOf (fuses : List Word) : List Word :=
  (List.range 10).map fun i => if i % 5 = 4 then fuses.getD i 0 &&& 0xFFFF else fuses.getD i 0

/-- A stack after bring-up: training, retention classes, an empty error log. -/
def trainedStack (b : BringUp) (k : Nat) : Stack :=
  { Stack.reset with
    failed := b.failedStacks.contains k
    classes := (b.rowClasses.filter fun e => e.1 == k).map (·.2) }

/-- The package after power-on reset; what the host holds and what is to come stay. Firmware that fails its check leaves it in
reset, and no later step runs. Each die's `%cyc` starts from its own reset (R9). -/
def Sys.afterReset (s : Sys) (b : BringUp) : Sys :=
  let r := { State.reset.sys with agenda := s.agenda, nonce := s.nonce, serial := s.serial }
  if b.firmwareGood then { r with
    booted := true
    harv := harvOf b.fuses
    stks := (List.range 16).map (trainedStack b)
    dies := [{ Die.reset with cyc := Config.freeAt s.nonce 0 % 2 ^ 64 }, { Die.reset with cyc := Config.freeAt s.nonce 1 % 2 ^ 64 }] }
  else { r with notices := [.bringUpFailed 1] }

/-- `POWER_ON_RESET`. -/
def execPowerOnReset (bringUp : BringUp) (s : State) : Host.Outcome State Fault Refusal :=
  (((Tx.start s).zero 0 (2 ^ 40)).mod fun s => s.afterReset bringUp).done

end Sys2Proof.Machine
end

