-- ==== Sys2Proof/Machine/Dispatch.lean ====
section
/-! DEFINITION. One arm per row of the opcode table. -/

namespace Sys2Proof.Machine

def exec (i : Instr) (s : State) : Host.Outcome State Fault Refusal :=
  match i with
  | .add d a b => Sys2Proof.Machine.execAdd d a b s
  | .addi d a imm => Sys2Proof.Machine.execAddi d a imm s
  | .sub d a b => Sys2Proof.Machine.execSub d a b s
  | .add64 d a b => Sys2Proof.Machine.execAdd64 d a b s
  | .sub64 d a b => Sys2Proof.Machine.execSub64 d a b s
  | .mul d a b => Sys2Proof.Machine.execMul d a b s
  | .mulhs d a b => Sys2Proof.Machine.execMulhs d a b s
  | .mulhn d a b => Sys2Proof.Machine.execMulhn d a b s
  | .mac d a b => Sys2Proof.Machine.execMac d a b s
  | .mulw d a b => Sys2Proof.Machine.execMulw d a b s
  | .mins d a b => Sys2Proof.Machine.execMins d a b s
  | .maxs d a b => Sys2Proof.Machine.execMaxs d a b s
  | .minn d a b => Sys2Proof.Machine.execMinn d a b s
  | .maxn d a b => Sys2Proof.Machine.execMaxn d a b s
  | .absd d a b => Sys2Proof.Machine.execAbsd d a b s
  | .sel d a b => Sys2Proof.Machine.execSel d a b s
  | .and d a b => Sys2Proof.Machine.execAnd d a b s
  | .or d a b => Sys2Proof.Machine.execOr d a b s
  | .xor d a b => Sys2Proof.Machine.execXor d a b s
  | .andn d a b => Sys2Proof.Machine.execAndn d a b s
  | .orn d a b => Sys2Proof.Machine.execOrn d a b s
  | .xnor d a b => Sys2Proof.Machine.execXnor d a b s
  | .andi d a imm => Sys2Proof.Machine.execAndi d a imm s
  | .ori d a imm => Sys2Proof.Machine.execOri d a imm s
  | .xori d a imm => Sys2Proof.Machine.execXori d a imm s
  | .shl d a b => Sys2Proof.Machine.execShl d a b s
  | .shr d a b => Sys2Proof.Machine.execShr d a b s
  | .sra d a b => Sys2Proof.Machine.execSra d a b s
  | .rol d a b => Sys2Proof.Machine.execRol d a b s
  | .shli d a imm => Sys2Proof.Machine.execShli d a imm s
  | .shri d a imm => Sys2Proof.Machine.execShri d a imm s
  | .srai d a imm => Sys2Proof.Machine.execSrai d a imm s
  | .popc d a => Sys2Proof.Machine.execPopc d a s
  | .clz d a => Sys2Proof.Machine.execClz d a s
  | .ctz d a => Sys2Proof.Machine.execCtz d a s
  | .brev d a => Sys2Proof.Machine.execBrev d a s
  | .bswap d a => Sys2Proof.Machine.execBswap d a s
  | .bfx d a b => Sys2Proof.Machine.execBfx d a b s
  | .bfxs d a b => Sys2Proof.Machine.execBfxs d a b s
  | .bfi d a b => Sys2Proof.Machine.execBfi d a b s
  | .prmt d a b => Sys2Proof.Machine.execPrmt d a b s
  | .movi d imm => Sys2Proof.Machine.execMovi d imm s
  | .movhi d imm => Sys2Proof.Machine.execMovhi d imm s
  | .mov d a => Sys2Proof.Machine.execMov d a s
  | .icmps c m p a b => Sys2Proof.Machine.execIcmps c m p a b s
  | .icmpn c m p a b => Sys2Proof.Machine.execIcmpn c m p a b s
  | .icmpi c m p a imm => Sys2Proof.Machine.execIcmpi c m p a imm s
  | .plut c d l b a => Sys2Proof.Machine.execPlut c d l b a s
  | .p2v d => Sys2Proof.Machine.execP2v d s
  | .v2p a m => Sys2Proof.Machine.execV2p a m s
  | .idot4s d a b => Sys2Proof.Machine.execIdot4s d a b s
  | .idot4n d a b => Sys2Proof.Machine.execIdot4n d a b s
  | .faddF32 d a b => Sys2Proof.Machine.execFaddF32 d a b s
  | .fsubF32 d a b => Sys2Proof.Machine.execFsubF32 d a b s
  | .fmulF32 d a b => Sys2Proof.Machine.execFmulF32 d a b s
  | .fmacF32 d a b => Sys2Proof.Machine.execFmacF32 d a b s
  | .fmaF32 d a b => Sys2Proof.Machine.execFmaF32 d a b s
  | .fminF32 d a b => Sys2Proof.Machine.execFminF32 d a b s
  | .fmaxF32 d a b => Sys2Proof.Machine.execFmaxF32 d a b s
  | .fcmpF32 c m p a b => Sys2Proof.Machine.execFcmpF32 c m p a b s
  | .faddF64 d a b => Sys2Proof.Machine.execFaddF64 d a b s
  | .fsubF64 d a b => Sys2Proof.Machine.execFsubF64 d a b s
  | .fmulF64 d a b => Sys2Proof.Machine.execFmulF64 d a b s
  | .fmacF64 d a b => Sys2Proof.Machine.execFmacF64 d a b s
  | .fmaF64 d a b => Sys2Proof.Machine.execFmaF64 d a b s
  | .fminF64 d a b => Sys2Proof.Machine.execFminF64 d a b s
  | .fmaxF64 d a b => Sys2Proof.Machine.execFmaxF64 d a b s
  | .fcmpF64 c m p a b => Sys2Proof.Machine.execFcmpF64 c m p a b s
  | .paddH16x2 d a b => Sys2Proof.Machine.execPaddH16x2 d a b s
  | .pmulH16x2 d a b => Sys2Proof.Machine.execPmulH16x2 d a b s
  | .pmacH16x2 d a b => Sys2Proof.Machine.execPmacH16x2 d a b s
  | .paddBf16x2 d a b => Sys2Proof.Machine.execPaddBf16x2 d a b s
  | .pmulBf16x2 d a b => Sys2Proof.Machine.execPmulBf16x2 d a b s
  | .pmacBf16x2 d a b => Sys2Proof.Machine.execPmacBf16x2 d a b s
  | .dot2H16 d a b => Sys2Proof.Machine.execDot2H16 d a b s
  | .dot2Bf16 d a b => Sys2Proof.Machine.execDot2Bf16 d a b s
  | .dot4E4m3 d a b => Sys2Proof.Machine.execDot4E4m3 d a b s
  | .dot8E2m1 d a b => Sys2Proof.Machine.execDot8E2m1 d a b s
  | .fclass d a t => Sys2Proof.Machine.execFclass d a t s
  | .frcp d a => Sys2Proof.Machine.execFrcp d a s
  | .frsq d a => Sys2Proof.Machine.execFrsq d a s
  | .fsqrt d a => Sys2Proof.Machine.execFsqrt d a s
  | .fex2 d a => Sys2Proof.Machine.execFex2 d a s
  | .flg2 d a => Sys2Proof.Machine.execFlg2 d a s
  | .fsin d a => Sys2Proof.Machine.execFsin d a s
  | .fcos d a => Sys2Proof.Machine.execFcos d a s
  | .frcpsF64 d a => Sys2Proof.Machine.execFrcpsF64 d a s
  | .cvt d a t f => Sys2Proof.Machine.execCvt d a t f s
  | .cvti d a t f => Sys2Proof.Machine.execCvti d a t f s
  | .cvtf d a t f => Sys2Proof.Machine.execCvtf d a t f s
  | .pack d a b => Sys2Proof.Machine.execPack d a b s
  | .unpk d a => Sys2Proof.Machine.execUnpk d a s
  | .scale d a b => Sys2Proof.Machine.execScale d a b s
  | .logc d a b => Sys2Proof.Machine.execLogc d a b s
  | .frnd d a => Sys2Proof.Machine.execFrnd d a s
  | .shfl d a m => Sys2Proof.Machine.execShfl d a m s
  | .shflx d a m => Sys2Proof.Machine.execShflx d a m s
  | .bcst d a m => Sys2Proof.Machine.execBcst d a m s
  | .vote d a m => Sys2Proof.Machine.execVote d a m s
  | .ballot d a m => Sys2Proof.Machine.execBallot d a m s
  | .raddS32 d a m => Sys2Proof.Machine.execRaddS32 d a m s
  | .raddF32 d a m => Sys2Proof.Machine.execRaddF32 d a m s
  | .rminN32 d a m => Sys2Proof.Machine.execRminN32 d a m s
  | .rmaxN32 d a m => Sys2Proof.Machine.execRmaxN32 d a m s
  | .rminF32 d a m => Sys2Proof.Machine.execRminF32 d a m s
  | .rmaxF32 d a m => Sys2Proof.Machine.execRmaxF32 d a m s
  | .rminxN32 d a m => Sys2Proof.Machine.execRminxN32 d a m s
  | .scanS32 d a m => Sys2Proof.Machine.execScanS32 d a m s
  | .matchLanes d a m => Sys2Proof.Machine.execMatchLanes d a m s
  | .laneid d m => Sys2Proof.Machine.execLaneid d m s
  | .ldB8 d h o => Sys2Proof.Machine.execLdB8 d h o s
  | .ldS8 d h o => Sys2Proof.Machine.execLdS8 d h o s
  | .ldB16 d h o => Sys2Proof.Machine.execLdB16 d h o s
  | .ldS16 d h o => Sys2Proof.Machine.execLdS16 d h o s
  | .ldB32 d h o => Sys2Proof.Machine.execLdB32 d h o s
  | .ldB64 d h o => Sys2Proof.Machine.execLdB64 d h o s
  | .ldB128 d h o => Sys2Proof.Machine.execLdB128 d h o s
  | .stB8 d h o => Sys2Proof.Machine.execStB8 d h o s
  | .stB16 d h o => Sys2Proof.Machine.execStB16 d h o s
  | .stB32 d h o => Sys2Proof.Machine.execStB32 d h o s
  | .stB64 d h o => Sys2Proof.Machine.execStB64 d h o s
  | .stB128 d h o => Sys2Proof.Machine.execStB128 d h o s
  | .ldsB32 d h o => Sys2Proof.Machine.execLdsB32 d h o s
  | .ldsB64 d h o => Sys2Proof.Machine.execLdsB64 d h o s
  | .ldsB128 d h o => Sys2Proof.Machine.execLdsB128 d h o s
  | .stsB32 d h o => Sys2Proof.Machine.execStsB32 d h o s
  | .stsB64 d h o => Sys2Proof.Machine.execStsB64 d h o s
  | .stsB128 d h o => Sys2Proof.Machine.execStsB128 d h o s
  | .atomAdd d h o => Sys2Proof.Machine.execAtomAdd d h o s
  | .atomMins d h o => Sys2Proof.Machine.execAtomMins d h o s
  | .atomMaxs d h o => Sys2Proof.Machine.execAtomMaxs d h o s
  | .atomAnd d h o => Sys2Proof.Machine.execAtomAnd d h o s
  | .atomOr d h o => Sys2Proof.Machine.execAtomOr d h o s
  | .atomXor d h o => Sys2Proof.Machine.execAtomXor d h o s
  | .atomXchg d h o => Sys2Proof.Machine.execAtomXchg d h o s
  | .atomCas d h o => Sys2Proof.Machine.execAtomCas d h o s
  | .atomFadd d h o => Sys2Proof.Machine.execAtomFadd d h o s
  | .atomAdd64 d h o => Sys2Proof.Machine.execAtomAdd64 d h o s
  | .hmk d a b => Sys2Proof.Machine.execHmk d a b s
  | .hadd d a b => Sys2Proof.Machine.execHadd d a b s
  | .hqry d a sel => Sys2Proof.Machine.execHqry d a sel s
  | .pref l h o => Sys2Proof.Machine.execPref l h o s
  | .bra p o => Sys2Proof.Machine.execBra p o s
  | .call p o => Sys2Proof.Machine.execCall p o s
  | .ret => Sys2Proof.Machine.execRet s
  | .bri p a => Sys2Proof.Machine.execBri p a s
  | .exit => Sys2Proof.Machine.execExit s
  | .yield p => Sys2Proof.Machine.execYield p s
  | .loop p o => Sys2Proof.Machine.execLoop p o s
  | .waitf f => Sys2Proof.Machine.execWaitf f s
  | .brc n p o => Sys2Proof.Machine.execBrc n p o s
  | .brn n p o => Sys2Proof.Machine.execBrn n p o s
  | .enrol j => Sys2Proof.Machine.execEnrol j s
  | .park p j => Sys2Proof.Machine.execPark p j s
  | .strike j => Sys2Proof.Machine.execStrike j s
  | .jqry d sel j => Sys2Proof.Machine.execJqry d sel j s
  | .nop => Sys2Proof.Machine.execNop s
  | .resv n a => Sys2Proof.Machine.execResv n a s
  | .free n => Sys2Proof.Machine.execFree n s
  | .tset n a => Sys2Proof.Machine.execTset n a s
  | .tld x r c n => Sys2Proof.Machine.execTld x r c n s
  | .tst x r c n => Sys2Proof.Machine.execTst x r c n s
  | .tzero x => Sys2Proof.Machine.execTzero x s
  | .mma x y z p c => Sys2Proof.Machine.execMma x y z p c s
  | .mmag x y z p c => Sys2Proof.Machine.execMmag x y z p c s
  | .rast x y z t e => Sys2Proof.Machine.execRast x y z t e s
  | .mpost sel a => Sys2Proof.Machine.execMpost sel a s
  | .mpre sel a => Sys2Proof.Machine.execMpre sel a s
  | .tcvt x y q => Sys2Proof.Machine.execTcvt x y q s
  | .mqry d x sel => Sys2Proof.Machine.execMqry d x sel s
  | .cpy c a h => Sys2Proof.Machine.execCpy c a h s
  | .cpym c a h => Sys2Proof.Machine.execCpym c a h s
  | .cpys c a h => Sys2Proof.Machine.execCpys c a h s
  | .binc t a b => Sys2Proof.Machine.execBinc t a b s
  | .binp t m => Sys2Proof.Machine.execBinp t m s
  | .hrel m => Sys2Proof.Machine.execHrel m s
  | .launch a => Sys2Proof.Machine.execLaunch a s
  | .tkinit sel a b => Sys2Proof.Machine.execTkinit sel a b s
  | .tkexp sel a b => Sys2Proof.Machine.execTkexp sel a b s
  | .tkarr sel a o => Sys2Proof.Machine.execTkarr sel a o s
  | .tkwait d a sel p => Sys2Proof.Machine.execTkwait d a sel p s
  | .tkkill sel a => Sys2Proof.Machine.execTkkill sel a s
  | .bbinit a b => Sys2Proof.Machine.execBbinit a b s
  | .bbawait d a => Sys2Proof.Machine.execBbawait d a s
  | .bbrel a => Sys2Proof.Machine.execBbrel a s
  | .shcfg e n p c => Sys2Proof.Machine.execShcfg e n p c s
  | .aqp a => Sys2Proof.Machine.execAqp a s
  | .kvap d a b => Sys2Proof.Machine.execKvap d a b s
  | .aqst d a sel => Sys2Proof.Machine.execAqst d a sel s
  | .trq a => Sys2Proof.Machine.execTrq a s
  | .psend h a b => Sys2Proof.Machine.execPsend h a b s
  | .travel p a => Sys2Proof.Machine.execTravel p a s
  | .pqry d sel => Sys2Proof.Machine.execPqry d sel s
  | .fence r o => Sys2Proof.Machine.execFence r o s
  | .bind d a b => Sys2Proof.Machine.execBind d a b s
  | .unbind a => Sys2Proof.Machine.execUnbind a s
  | .acq d a b => Sys2Proof.Machine.execAcq d a b s
  | .rel a o => Sys2Proof.Machine.execRel a o s
  | .acqr d h o => Sys2Proof.Machine.execAcqr d h o s
  | .relw d h o => Sys2Proof.Machine.execRelw d h o s
  | .trap n => Sys2Proof.Machine.execTrap n s
  | .svc n => Sys2Proof.Machine.execSvc n s
  | .rft => Sys2Proof.Machine.execRft s
  | .rftResume a => Sys2Proof.Machine.execRftResume a s
  | .rftKill a => Sys2Proof.Machine.execRftKill a s
  | .brk imm => Sys2Proof.Machine.execBrk imm s
  | .brkSet k a => Sys2Proof.Machine.execBrkSet k a s
  | .brkClr k => Sys2Proof.Machine.execBrkClr k s
  | .csrr d sel => Sys2Proof.Machine.execCsrr d sel s
  | .csrrCyc d => Sys2Proof.Machine.execCsrrCyc d s
  | .csrw d sel => Sys2Proof.Machine.execCsrw d sel s
  | .csrwIldom d n => Sys2Proof.Machine.execCsrwIldom d n s
  | .csrwOflag d => Sys2Proof.Machine.execCsrwOflag d s
  | .invalTranslation a => Sys2Proof.Machine.execInvalTranslation a s
  | .invalWriteback a => Sys2Proof.Machine.execInvalWriteback a s
  | .invalKey a => Sys2Proof.Machine.execInvalKey a s
  | .wait d a b => Sys2Proof.Machine.execWait d a b s
  | .himm imm => Sys2Proof.Machine.execHimm imm s
  | .rep c d a b => Sys2Proof.Machine.execRep c d a b s
  | .hmod e n sel t r f h b o => Sys2Proof.Machine.execHmod e n sel t r f h b o s
  | .hopd c m => Sys2Proof.Machine.execHopd c m s
  | .clauseHeader w a b l y => Sys2Proof.Machine.execClauseHeader w a b l y s
  | .runAheadEnd panel => Sys2Proof.Machine.execRunAheadEnd panel s
  | .interleaveSwitchEnd panel tid => Sys2Proof.Machine.execInterleaveSwitchEnd panel tid s
  | .hostQueueDoorbell queue tail writes => Sys2Proof.Machine.execHostQueueDoorbell queue tail writes s
  | .launchArrival => Sys2Proof.Machine.execLaunchArrival s
  | .signatureCheck launch => Sys2Proof.Machine.execSignatureCheck launch s
  | .extentWalk launch => Sys2Proof.Machine.execExtentWalk launch s
  | .gorluxTranslation object text map => Sys2Proof.Machine.execGorluxTranslation object text map s
  | .yokePlacement part => Sys2Proof.Machine.execYokePlacement part s
  | .panelStart panel => Sys2Proof.Machine.execPanelStart panel s
  | .panelSwitchOut panel => Sys2Proof.Machine.execPanelSwitchOut panel s
  | .panelResume panel => Sys2Proof.Machine.execPanelResume panel s
  | .memoryOpComplete panel tid op reply => Sys2Proof.Machine.execMemoryOpComplete panel tid op reply s
  | .lateReport panel tid => Sys2Proof.Machine.execLateReport panel tid s
  | .pageWalkComplete walk => Sys2Proof.Machine.execPageWalkComplete walk s
  | .binningAppend panel tid op => Sys2Proof.Machine.execBinningAppend panel tid op s
  | .deferredAppendReplay launch => Sys2Proof.Machine.execDeferredAppendReplay launch s
  | .copyCommandStart cmd => Sys2Proof.Machine.execCopyCommandStart cmd s
  | .bobbinSlotClaim cmd => Sys2Proof.Machine.execBobbinSlotClaim cmd s
  | .copyChunkDelivery cmd => Sys2Proof.Machine.execCopyChunkDelivery cmd s
  | .scoutFault cmd => Sys2Proof.Machine.execScoutFault cmd s
  | .copyCommandComplete cmd => Sys2Proof.Machine.execCopyCommandComplete cmd s
  | .tkwaitComplete panel tid op => Sys2Proof.Machine.execTkwaitComplete panel tid op s
  | .bbawaitComplete panel tid op => Sys2Proof.Machine.execBbawaitComplete panel tid op s
  | .acqSatisfied panel tid => Sys2Proof.Machine.execAcqSatisfied panel tid s
  | .waitDone panel tid => Sys2Proof.Machine.execWaitDone panel tid s
  | .matrixGrant req => Sys2Proof.Machine.execMatrixGrant req s
  | .matrixRequestComplete req => Sys2Proof.Machine.execMatrixRequestComplete req s
  | .freeRecordClear panel tid => Sys2Proof.Machine.execFreeRecordClear panel tid s
  | .travelDeparture panel tid => Sys2Proof.Machine.execTravelDeparture panel tid s
  | .parcelArrival parcel => Sys2Proof.Machine.execParcelArrival parcel s
  | .spoolParcelToThread core => Sys2Proof.Machine.execSpoolParcelToThread core s
  | .overflowReadback core => Sys2Proof.Machine.execOverflowReadback core s
  | .occupancyReport core => Sys2Proof.Machine.execOccupancyReport core s
  | .parcelSendOnPin launch => Sys2Proof.Machine.execParcelSendOnPin launch s
  | .messageArrival parcel => Sys2Proof.Machine.execMessageArrival parcel s
  | .handlerPanelStart core => Sys2Proof.Machine.execHandlerPanelStart core s
  | .queryPost query stack => Sys2Proof.Machine.execQueryPost query stack s
  | .stackResultWrite query stack => Sys2Proof.Machine.execStackResultWrite query stack s
  | .sweepResultWrite query => Sys2Proof.Machine.execSweepResultWrite query s
  | .rowRefresh stack bank row => Sys2Proof.Machine.execRowRefresh stack bank row s
  | .refreshSlackExpiry stack bank row => Sys2Proof.Machine.execRefreshSlackExpiry stack bank row s
  | .scrubRow stack bank row => Sys2Proof.Machine.execScrubRow stack bank row s
  | .stackThrottle stack lower => Sys2Proof.Machine.execStackThrottle stack lower s
  | .faultRecordPost part => Sys2Proof.Machine.execFaultRecordPost part s
  | .coreReset core => Sys2Proof.Machine.execCoreReset core s
  | .panelRetire panel => Sys2Proof.Machine.execPanelRetire panel s
  | .launchRetire launch => Sys2Proof.Machine.execLaunchRetire launch s
  | .hostMemAccess part va access => Sys2Proof.Machine.execHostMemAccess part va access s
  | .peerRequest request => Sys2Proof.Machine.execPeerRequest request s
  | .flitCrcRetry link => Sys2Proof.Machine.execFlitCrcRetry link s
  | .bridgeRetrainTimeout => Sys2Proof.Machine.execBridgeRetrainTimeout s
  | .zidorLinkDownTimeout link => Sys2Proof.Machine.execZidorLinkDownTimeout link s
  | .eccError error => Sys2Proof.Machine.execEccError error s
  | .thermalThrottle => Sys2Proof.Machine.execThermalThrottle s
  | .thermalShutdown => Sys2Proof.Machine.execThermalShutdown s
  | .powerOnReset bringUp => Sys2Proof.Machine.execPowerOnReset bringUp s
  | .create fn args => Sys2Proof.Machine.execCreate fn args s
  | .destroy fn part => Sys2Proof.Machine.execDestroy fn part s
  | .super fn part record => Sys2Proof.Machine.execSuper fn part record s
  | .qset fn queue part base j => Sys2Proof.Machine.execQset fn queue part base j s
  | .cancel fn part id => Sys2Proof.Machine.execCancel fn part id s
  | .evict fn part code => Sys2Proof.Machine.execEvict fn part code s
  | .domain fn domain peers => Sys2Proof.Machine.execDomain fn domain peers s
  | .vlog fn part index => Sys2Proof.Machine.execVlog fn part index s
  | .attest fn part nonce => Sys2Proof.Machine.execAttest fn part nonce s
  | .resync fn buffer => Sys2Proof.Machine.execResync fn buffer s
  | .unassignedOpcode => Sys2Proof.Machine.execUnassignedOpcode s
  | .releaseComplete panel tid => Sys2Proof.Machine.execReleaseComplete panel tid s
  | .invalComplete panel tid => Sys2Proof.Machine.execInvalComplete panel tid s
  | .bridgeRetrainStart => Sys2Proof.Machine.execBridgeRetrainStart s
  | .bridgeRetrainEnd => Sys2Proof.Machine.execBridgeRetrainEnd s
  | .zidorLinkDown link => Sys2Proof.Machine.execZidorLinkDown link s
  | .zidorLinkTrained link peer => Sys2Proof.Machine.execZidorLinkTrained link peer s
  | .thermalThrottleEnd => Sys2Proof.Machine.execThermalThrottleEnd s

end Sys2Proof.Machine
end

