-- ==== Sys2Proof/Machine/Due.lean ====
section
/-! DEFINITION. The events inside the package that may happen next in a state. What comes from outside, and what only time
or chance brings, stands in the agenda (assumption log 2). -/

namespace Sys2Proof.Machine

/-- What may happen inside the package, by the rows of the opcode table that it is (Laws/Events.lean). -/
inductive Event where
  | runAheadEnd (panel : Nat)
  | interleaveSwitchEnd (panel tid : Nat)
  | launchArrival
  | signatureCheck (launch : Nat)
  | extentWalk (launch : Nat)
  | yokePlacement (part : Nat)
  | panelStart (panel : Nat)
  | panelSwitchOut (panel : Nat)
  | panelResume (panel : Nat)
  | memoryOpComplete (panel tid op : Nat) (reply : PeerReply)
  | lateReport (panel tid : Nat)
  | pageWalkComplete (walk : Nat)
  | binningAppend (panel tid op : Nat)
  | deferredAppendReplay (launch : Nat)
  | copyCommandStart (cmd : Nat)
  | bobbinSlotClaim (cmd : Nat)
  | copyChunkDelivery (cmd : Nat)
  | scoutFault (cmd : Nat)
  | copyCommandComplete (cmd : Nat)
  | tkwaitComplete (panel tid op : Nat)
  | bbawaitComplete (panel tid op : Nat)
  | acqSatisfied (panel tid : Nat)
  | waitDone (panel tid : Nat)
  | matrixGrant (req : Nat)
  | matrixRequestComplete (req : Nat)
  | freeRecordClear (panel tid : Nat)
  | travelDeparture (panel tid : Nat)
  | parcelArrival (parcel : Nat)
  | spoolParcelToThread (core : Nat)
  | overflowReadback (core : Nat)
  | occupancyReport (core : Nat)
  | parcelSendOnPin (launch : Nat)
  | messageArrival (parcel : Nat)
  | handlerPanelStart (core : Nat)
  | queryPost (query stack : Nat)
  | stackResultWrite (query stack : Nat)
  | sweepResultWrite (query : Nat)
  | rowRefresh (stack bank row : Nat)
  | refreshSlackExpiry (stack bank row : Nat)
  | scrubRow (stack bank row : Nat)
  | faultRecordPost (part : Nat)
  | panelRetire (panel : Nat)
  | launchRetire (launch : Nat)
  | bridgeRetrainTimeout
  | zidorLinkDownTimeout (link : Nat)
  | releaseComplete (panel tid : Nat)
  | invalComplete (panel tid : Nat)
  deriving DecidableEq, Repr

/-- The meaning of the event's row. -/
def Event.run : Event → State → Host.Outcome State Fault Refusal
  | .runAheadEnd panel, s => execRunAheadEnd panel s
  | .interleaveSwitchEnd panel tid, s => execInterleaveSwitchEnd panel tid s
  | .launchArrival, s => execLaunchArrival s
  | .signatureCheck launch, s => execSignatureCheck launch s
  | .extentWalk launch, s => execExtentWalk launch s
  | .yokePlacement part, s => execYokePlacement part s
  | .panelStart panel, s => execPanelStart panel s
  | .panelSwitchOut panel, s => execPanelSwitchOut panel s
  | .panelResume panel, s => execPanelResume panel s
  | .memoryOpComplete panel tid op reply, s => execMemoryOpComplete panel tid op reply s
  | .lateReport panel tid, s => execLateReport panel tid s
  | .pageWalkComplete walk, s => execPageWalkComplete walk s
  | .binningAppend panel tid op, s => execBinningAppend panel tid op s
  | .deferredAppendReplay launch, s => execDeferredAppendReplay launch s
  | .copyCommandStart cmd, s => execCopyCommandStart cmd s
  | .bobbinSlotClaim cmd, s => execBobbinSlotClaim cmd s
  | .copyChunkDelivery cmd, s => execCopyChunkDelivery cmd s
  | .scoutFault cmd, s => execScoutFault cmd s
  | .copyCommandComplete cmd, s => execCopyCommandComplete cmd s
  | .tkwaitComplete panel tid op, s => execTkwaitComplete panel tid op s
  | .bbawaitComplete panel tid op, s => execBbawaitComplete panel tid op s
  | .acqSatisfied panel tid, s => execAcqSatisfied panel tid s
  | .waitDone panel tid, s => execWaitDone panel tid s
  | .matrixGrant req, s => execMatrixGrant req s
  | .matrixRequestComplete req, s => execMatrixRequestComplete req s
  | .freeRecordClear panel tid, s => execFreeRecordClear panel tid s
  | .travelDeparture panel tid, s => execTravelDeparture panel tid s
  | .parcelArrival parcel, s => execParcelArrival parcel s
  | .spoolParcelToThread core, s => execSpoolParcelToThread core s
  | .overflowReadback core, s => execOverflowReadback core s
  | .occupancyReport core, s => execOccupancyReport core s
  | .parcelSendOnPin launch, s => execParcelSendOnPin launch s
  | .messageArrival parcel, s => execMessageArrival parcel s
  | .handlerPanelStart core, s => execHandlerPanelStart core s
  | .queryPost query stack, s => execQueryPost query stack s
  | .stackResultWrite query stack, s => execStackResultWrite query stack s
  | .sweepResultWrite query, s => execSweepResultWrite query s
  | .rowRefresh stack bank row, s => execRowRefresh stack bank row s
  | .refreshSlackExpiry stack bank row, s => execRefreshSlackExpiry stack bank row s
  | .scrubRow stack bank row, s => execScrubRow stack bank row s
  | .faultRecordPost part, s => execFaultRecordPost part s
  | .panelRetire panel, s => execPanelRetire panel s
  | .launchRetire launch, s => execLaunchRetire launch s
  | .bridgeRetrainTimeout, s => execBridgeRetrainTimeout s
  | .zidorLinkDownTimeout link, s => execZidorLinkDownTimeout link s
  | .releaseComplete panel tid, s => execReleaseComplete panel tid s
  | .invalComplete panel tid, s => execInvalComplete panel tid s

/-! ## By kind -/

/-- Ends of one thread's operations. -/
def opsDue (st : State) (t : Thread) (p : Panel) (l : Launch) : List Event :=
  t.ops.filterMap fun o =>
    match o.kind with
    | .dead _ _ | .tkwait _ _ => if waitOver st t p l o then some (.tkwaitComplete t.panel t.tid o.id) else none
    | .bbawait _ => if waitOver st t p l o then some (.bbawaitComplete t.panel t.tid o.id) else none
    | _ =>
      if appendReady st.sys t p l o then some (.binningAppend t.panel t.tid o.id)
      else if opReady st.sys t p l o then some (.memoryOpComplete t.panel t.tid o.id (freeReply st.sys o))
      else none

/-- The end of what a thread has issued and still waits for. -/
def pendDue (st : State) (t : Thread) (p : Panel) (l : Launch) : List Event :=
  match t.pend with
  | some (.acq a _ target) => if acqReady st t p l a target then [.acqSatisfied t.panel t.tid] else []
  | some (.wait a _ value ends _) => if waitReady st t p l a value ends then [.waitDone t.panel t.tid] else []
  | some (.inval kind quad before) => if invalReady st.sys p l t kind quad before then [.invalComplete t.panel t.tid] else []
  | some (.ildom _ _) => if p.mayEnd t.tid then [.interleaveSwitchEnd t.panel t.tid] else []
  | some (.free n) =>
    (match st.sys.yokeOf p with
      | some y => if freeReady st.sys t p y n then [.freeRecordClear t.panel t.tid] else []
      | none => [])
  | some x => if releaseReady st.sys t p l x && (lateDue st.sys t p l).isNone then [.releaseComplete t.panel t.tid] else []
  | none => []

def threadDue (st : State) (t : Thread) : List Event :=
  match st.sys.homeOf t with
  | none => []
  | some (p, l) =>
    opsDue st t p l ++ pendDue st t p l
      ++ (if (lateDue st.sys t p l).isSome then [.lateReport t.panel t.tid] else [])
      ++ (match t.phase with
        | .departing _ _ _ _ _ _ => if departReady st.sys t p && !l.out then [.travelDeparture t.panel t.tid] else []
        | _ => [])

def panelDue (st : State) (p : Panel) : List Event :=
  let s := st.sys
  match s.launchOf p with
  | none => []
  | some l =>
    (if aheadOver s p then [.runAheadEnd p.key] else [])
      ++ (if startReady s p then [.panelStart p.key] else [])
      ++ (if switchReady s p l then [.panelSwitchOut p.key] else [])
      ++ (if resumeReady s p && st.resumeFits p then [.panelResume p.key] else [])
      ++ (if retireReady s p l then [.panelRetire p.key] else [])

def launchDue (s : Sys) (l : Launch) : List Event :=
  (if walkDue l then [.extentWalk l.key] else [])
    ++ (if replayReady s l then [.deferredAppendReplay l.key] else [])
    ++ (if !(s.pinnedParcels l).isEmpty && !l.out then [.parcelSendOnPin l.key] else [])
    ++ (if launchOver s l then [.launchRetire l.key] else [])

def cmdDue (st : State) (c : Cmd) : List Event :=
  (if cmdStartReady st.sys c then [.copyCommandStart c.key] else [])
    ++ (if slotClaimReady st c then [.bobbinSlotClaim c.key] else [])
    ++ (if deliveryReady st c then [.copyChunkDelivery c.key] else [])
    ++ (if scoutReady st c then [.scoutFault c.key] else [])
    ++ (if cmdDoneReady st.sys c then [.copyCommandComplete c.key] else [])

def reqDue (s : Sys) (r : Req) : List Event :=
  (if grantReady s r then [.matrixGrant r.key] else []) ++ (if reqReady s r then [.matrixRequestComplete r.key] else [])

def parcelDue (s : Sys) (q : Parcel) : List Event :=
  match q.phase with
  | .net _ => if q.isMessage then (if messageReady s q then [.messageArrival q.key] else []) else if s.delivers q then [.parcelArrival q.key] else []
  | _ => []

/-- Cores at which a parcel waits. -/
def parcelCores (s : Sys) : List Nat :=
  (s.parcels.filterMap fun q => match q.phase with
    | .spool c | .spilled c => some c
    | _ => none).eraseDups

def coreDue (s : Sys) (core : Nat) : List Event :=
  (match s.oldestTravel core with
    | some q => match s.launch? q.launch with
      | some l => if q.phase == .spool core && roomFor s core l && !l.out then [.spoolParcelToThread core] else []
      | none => []
    | none => [])
    ++ (if (s.oldestSpilled core).isSome && s.spoolUse core < 256 then [.overflowReadback core] else [])
    ++ (match s.oldestMessage core with
      | some q => if handlerReady s core q then [.handlerPanelStart core] else []
      | none => [])

/-- Holders whose occupancy has changed since they last reported it (R377). -/
def reportsDue (s : Sys) : List Event :=
  (s.cores.filter fun c => c.piece.isSome && c.reported != s.spoolUse c.id).map fun c => Event.occupancyReport c.id

def queryDue (st : State) : List Event :=
  (st.sys.queries.flatMap fun q =>
      ((q.unposted.filter (q.postReady st.sys)).map fun k => Event.queryPost q.key k)
        ++ ((q.posted.map (·.1)).filter (q.resultReady st.sys)).map fun k => Event.stackResultWrite q.key k)
    ++ st.sys.sweeps.flatMap fun q =>
      (if q.postReady st.sys q.stack then [.queryPost q.key q.stack] else [])
        ++ (if (q.move st).isSome then [.sweepResultWrite q.key] else [])

/-- Rows: a scrub of one with an error, the end of a deferred refresh's slack, and a refresh that a scan meets, of a row
chosen freely (R407 to R409). -/
def stackDue (s : Sys) (k : Nat) : List Event :=
  let x := s.stack k
  x.errors.map (fun e => Event.scrubRow k e.1 e.2.1)
    ++ (x.deferred.filter fun e => (s.die (k / 8)).cyc ≥ e.2.2 + slackCycles (x.classAt e.1 e.2.1)).map
      (fun e => Event.refreshSlackExpiry k e.1 e.2.1)
    ++ (if s.scanning k then
      [.rowRefresh k (Config.freeAt s.nonce (2 * k) % 1024) (Config.freeAt s.nonce (2 * k + 1) % 49152)] else [])

def partDue (st : State) (p : Partition) : List Event :=
  (if planOf st p.num != .wait then [.yokePlacement p.num] else [])
    ++ (if ringReady st p then [.faultRecordPost p.num] else [])

/-- What only passes of time bring, and the walks under way. -/
def walksAndClocks (s : Sys) : List Event :=
  ((s.walks.filter s.walking).map fun w => Event.pageWalkComplete w.key)
    ++ (List.range 16).flatMap (stackDue s)
    ++ (if bridgeOverdue s then [.bridgeRetrainTimeout] else [])
    ++ ((List.range 18).filter fun k => linkOverdue s k && s.parts.any (s.usesLink k)).map fun k => Event.zidorLinkDownTimeout k

/-- What may happen next inside the package. While all walkers of a die are busy, nothing goes on that might need one before its
turn: an engine's walk is made within its event (R249, assumption log 195). -/
def due (st : State) : List Event :=
  let s := st.sys
  if s.walkersBusy then walksAndClocks s
  else
    (if s.nextOffer.isSome then [.launchArrival] else [])
      ++ (match nextCheck st with
        | some l => [.signatureCheck l.key]
        | none => [])
      ++ s.parts.flatMap (partDue st) ++ s.launches.flatMap (launchDue s) ++ s.panels.flatMap (panelDue st)
      ++ s.threads.flatMap (threadDue st)
      ++ s.cmds.flatMap (cmdDue st) ++ s.reqs.flatMap (reqDue s) ++ s.parcels.flatMap (parcelDue s)
      ++ (parcelCores s).flatMap (coreDue s) ++ reportsDue s ++ queryDue st ++ walksAndClocks s

end Sys2Proof.Machine
end

