-- ==== Sys2Proof/Machine/Silent.lean ====
section
/-! DEFINITION. What the hardware may do at any time without a row of the opcode table: a cache lets a line go (R258, R351), and
an operation in native form has written some of its registers before it counts as complete (R102). -/

namespace Sys2Proof.Machine

variable {s0 : State}

inductive Silent where
  | evictL1 (core line : Nat)
  | evictL2 (line : Nat)
  | evictLlc (stack line : Nat)
  | evictRdc (die line : Nat)
  | land (panel tid op : Nat)
  | landRequest (req : Nat)
  deriving DecidableEq, Repr

/-- An operation whose registers a native thread may read, or write again, while it is outstanding (R102). -/
def Op.exposed (o : Op) : Bool :=
  !o.dst.isEmpty && o.dst.all (· < 240) && (match o.kind with
    | .load _ | .lds _ | .atom _ _ | .acqr | .aqst _ _ | .pqry _ | .tkwait _ _ | .bbawait _
    | .tile _ | .landing _ _ => true
    | _ => false)

/-- The thread after some registers of an operation have been written, freely chosen, the others being due with the same
result. `u` is the thread as the complete operation leaves it. -/
def Thread.halfWritten (t u : Thread) (o : Op) (nonce : Nat) : Thread :=
  let ws := o.dst.map fun k => (k, u.getV k)
  let first (e : Nat × Word) : Bool := Config.freeAt nonce e.1 % 2 == 1
  let rest := ws.filter fun e => !first e
  { t.putEach (ws.filter first) with
    ops := t.ops.map fun x => if x.id = o.id then { x with kind := .landing rest x.kind.acquires, acc := none, dst := rest.map (·.1) } else x }

/-- The operation is performed; where it comes to its end, not to a trap, its registers are written one by one (R102). -/
def Tx.land (tx : Tx s0) (t : Thread) (p : Panel) (l : Launch) (o : Op) : Tx s0 :=
  let r := match o.kind with
    | .tkwait _ _ | .bbawait _ => tx.waitEnd t p l o
    | _ => tx.completeOp t p l o (tx.sys.peerReply l o (freeReply tx.sys o))
  match r.sys.thread? t.panel t.tid with
  | some u =>
    if u = (t.putEach (o.dst.map fun k => (k, u.getV k))).finish o then r.mod fun s => s.setThread (t.halfWritten u o tx.sys.nonce)
    else r
  | none => r

/-- A thread that a request has completed, `t` before it: in native form the registers that it gives the thread, the elements of a
`TLD`, are written one by one. -/
def Thread.requestLands (t u : Thread) (req nonce : Nat) : Thread :=
  match t.ops.find? (fun o => o.kind == .tile req && o.exposed) with
  | some o => if t.nat.isSome then { (t.halfWritten u o nonce) with fflags := u.fflags } else u
  | none => u

def Tx.landRequest (tx : Tx s0) (r : Req) (y : Yoke) : Tx s0 :=
  let landed (u : Thread) : Thread := match tx.sys.thread? u.panel u.tid with
    | some t => t.requestLands u r.key tx.sys.nonce
    | none => u
  (tx.performReq r y).mod fun s => { s with threads := s.threads.map landed }

/-- Operations that may land now. -/
def landable (st : State) (t : Thread) : List Op :=
  match st.sys.homeOf t with
  | some (p, l) =>
    if t.nat.isSome && p.phase == .running && p.ahead.isNone then
      t.ops.filter fun o => o.exposed && (opReady st.sys t p l o || waitOver st t p l o)
    else []
  | none => []

def silents (st : State) : List Silent :=
  let s := st.sys
  (s.cores.flatMap fun c => (c.l1.filter fun x => !(s.bridge.training && x.dirty != 0 && homeDie (x.line * 128) != dieOf c.id)).map fun x =>
      Silent.evictL1 c.id x.line) ++ (s.l2.map fun x => Silent.evictL2 x.line)
    ++ ((List.range 16).flatMap fun k => (s.stack k).llc.map fun line => Silent.evictLlc k line)
    ++ ((List.range 2).flatMap fun d => (s.die d).rdc.map fun x => Silent.evictRdc d x.line)
    ++ (s.threads.flatMap fun t => (landable st t).map fun o => Silent.land t.panel t.tid o.id)
    ++ (s.reqs.filter fun r => reqReady s r).map fun r => Silent.landRequest r.key

def Silent.run (s : State) : Silent → Tx s
  | .evictL1 core line => (Tx.start s).dropL1 core line
  | .evictL2 line => (Tx.start s).dropL2 line
  | .evictLlc stack line => (Tx.start s).mod fun s =>
    s.setStack stack { s.stack stack with llc := (s.stack stack).llc.filter (· != line) }
  | .evictRdc die line => (Tx.start s).mod fun s =>
    let d := s.die die
    s.setDie die { d with rdc := d.rdc.filter fun r => r.line != line }
  | .land panel tid op =>
    match s.sys.opOf panel tid op with
    | some (t, p, l, o) => (Tx.start s).land t p l o
    | none => Tx.start s
  | .landRequest req =>
    match s.sys.req? req with
    | some r => match s.sys.yoke? r.yoke with
      | some y => (Tx.start s).landRequest r y
      | none => Tx.start s
    | none => Tx.start s

end Sys2Proof.Machine
end

