-- ==== Sys2Proof/Machine/Units.lean ====
section
/-! DEFINITION. The engine-full row of R122: whether the unit that receives an instruction can take it now. -/

namespace Sys2Proof.Machine

/-- The threads that issue with this one, it among them. -/
def Sys.withThread (s : Sys) (t : Thread) (p : Panel) (l : Launch) : List Standing :=
  let me : Standing := ⟨t, p, l⟩
  (s.standing t.core).filter fun x => x.seam == me.seam && x.t.place == t.place && x.t.joins t

/-- What the active threads of a stitch send does not all fit a queue of 64 (R278). Of a stitch with more than 64 active threads,
which never fits, the lower half issues by itself (`Sys.leftBehind`, assumption logs 117 and 118). -/
def stitchFull (s : Sys) (t : Thread) (p : Panel) (l : Launch) (used : Nat) : Bool :=
  let st := (s.withThread t p l).filter fun x => x.t.runs
  used + (if st.length ≤ 64 then st else st.filter fun x => p.laneOf x.t.tid < 64).length > 64

/-- The cluster's 32 request entries are in use (R316). -/
def requestsFull (s : Sys) (t : Thread) : Bool :=
  s.reqEntries (clusterOf t.core) ≥ 32
    || s.reqs.any fun r => r.back && (s.panel? t.panel).any fun p => p.yoke == some r.yoke

/-- A thread's message cannot leave: it has no destination core yet, or no credit there (R386, R387). -/
def messageStuck (s : Sys) (h a b : BitVec 8) (x : Standing) : Bool :=
  if !x.t.runs || (psendTrap s x.t x.p x.l h a b).isSome then false
  else match msgRoute s x.t x.p x.l (x.t.pair x.p b.toNat % 2 ^ 32) h.toNat with
    | .goes q core => !s.credit core (x.p.key, x.t.tid) (some q) s.serial
    | .gone => false
    | .wait => true

/-- No message of the stitch can leave. -/
def psendFull (s : Sys) (t : Thread) (p : Panel) (l : Launch) (h a b : BitVec 8) : Bool :=
  (s.withThread t p l).all (messageStuck s h a b)

/-- An operation of the thread that ends in an acquire holds the word: an `ACQR` (R362); in portable form, where no clause header
can wait, a `TKWAIT` or a `BBAWAIT` too, so that the form is not observed (R73, R347, assumption log 173). -/
def Thread.acquiring (t : Thread) (i : Instr) : Bool :=
  afterAcquire i && t.ops.any fun o => o.kind.acquires || (match o.kind with
    | .tkwait _ _ | .bbawait _ => t.nat.isNone && !besideWait i
    | _ => false)

/-- Every operation of the thread that writes is over. -/
def Thread.quiet (t : Thread) : Bool := t.writesDone (2 ^ 256)

/-- The unit that receives the instruction cannot accept it. -/
def unitFull (s : Sys) (i : Instr) (t : Thread) (p : Panel) (l : Launch) : Bool :=
  t.runs && formOk p.regs (form i t.hints) t.hints
    && (t.acquiring i || (match i with
      | .cpy c _ _ | .cpym c _ _ | .cpys c _ _ => stitchFull s t p l (s.queue (clusterOf t.core) c.toNat).length
      | .tld _ _ _ _ | .tst _ _ _ _ | .tzero _ | .mma _ _ _ _ _ | .mmag _ _ _ _ _ | .rast _ _ _ _ _ | .tcvt _ _ _ => requestsFull s t
      | .aqp _ | .trq _ => stitchFull s t p l (s.postsHeld (clusterOf t.core)) || !t.quiet || s.pushHeld t.core visAll
      | .fence r _ => r == 0 && (!t.readsDone (2 ^ 256) || s.pushHeld t.core obsC)
      | .bbrel _ => !t.readsDone (2 ^ 256)
      | .launch _ => !t.quiet || !t.tilesDone (2 ^ 256) || s.pushHeld t.core visAll
      | .psend h a b => psendFull s t p l h a b || !t.quiet || s.pushHeld t.core obsC
      | _ => false))

end Sys2Proof.Machine
end

