-- ==== Sys2Proof/Machine/Move.lean ====
section
/-! DEFINITION. What happens next (assumption logs 2, 4 and 6): the agenda first, then by turns an event that is due and
the issue of a stitch, chosen freely. -/

namespace Sys2Proof.Machine

inductive Move where
  /-- the head of the agenda -/
  | agenda (i : Instr) (s : State)
  /-- an event that is due -/
  | event (e : Event) (s : State)
  /-- the word of the stitch that `focus` names -/
  | word (i : Instr) (s : State)
  /-- a step that is whole without a word -/
  | whole (s : State) (f : Option Fault)
  deriving DecidableEq, Repr

/-- One of several, freely. -/
def freePick {α : Type} (n : Nat) : List α → Option α
  | [] => none
  | [x] => some x
  | x :: y :: l => some ((x :: y :: l).getD (Config.freeNat n % (l.length + 2)) x)

/-- The cores that can issue, with the stitch each issues next. -/
def issuable (s : Sys) : List (Nat × List Standing × CoreSched) :=
  ((s.threads.map (·.core)).eraseDups).filterMap fun c => (coreStitch s (unitFull s) c).map fun r => (c, r.1, r.2)

/-- The stitch that issues next: from the core that `turn` names, if it can; else from a core chosen freely. -/
def nextStitch (s : Sys) : Option (Nat × List Standing × CoreSched) :=
  let l := issuable s
  match l.find? fun r => r.1 + 2 == s.turn with
  | some r => some r
  | none => freePick s.nonce l

def issueMove (s : State) : Option Move :=
  (nextStitch s.sys).map fun r =>
    match issueStitch s r.1 r.2.1 r.2.2 with
    | .run i tx => .word i tx.st
    | .whole tx => .whole tx.st tx.halt

/-- Something that no row of the table names, chosen freely (assumption log 178). -/
def silentMove (s : State) : Option Move :=
  (freePick s.sys.nonce (silents s)).map fun x => .whole (x.run s).st (x.run s).halt

/-- An event that is due, chosen freely; or, as freely, something silent. -/
def eventMove (s : State) : Option Move :=
  let event := (freePick s.sys.nonce (due s)).map fun i => Move.event i s
  match (if s.sys.walkersBusy then none else silentMove s) with
  | none => event
  | some m => if Config.freeAt s.sys.nonce 2 % 2 = 1 then some m else event

/-- After the first issue, turns are free. -/
def State.turned (s : State) : State := ⟨s.mem, s.hostMem, { s.sys with turn := 1 }⟩

/-- A command that no mailbox knows is answered as one (R459). -/
def State.answerStray (s : State) : State :=
  ⟨s.mem, s.hostMem, { s.sys with
    strays := s.sys.strays.tail, replies := s.sys.replies ++ s.sys.strays.head?.toList.map fun fn => ⟨fn, 2, []⟩ }⟩

/-- The end of an interleave switch that goes on: nothing is served in between (R253, assumption log 196). -/
def Sys.switchEnd (s : Sys) : Option Event :=
  s.threads.findSome? fun t => match t.pend, s.panel? t.panel with
    | some (.ildom _ _), some p => if p.mayEnd t.tid then some (.interleaveSwitchEnd t.panel t.tid) else none
    | _, _ => none

def nextMove (s : State) : Move :=
  match s.sys.switchEnd, s.sys.agenda with
  | some e, _ => .event e s
  | none, i :: rest => .agenda i ⟨s.mem, s.hostMem, { s.sys with agenda := rest }⟩
  | none, [] =>
    if s.sys.shut then .whole s none
    else if s.sys.booted && !s.sys.strays.isEmpty then .whole s.answerStray none
    else
      let t := s.turned
      if s.sys.turn = 1 ∧ Config.freeBool s.sys.nonce = true then ((eventMove t).orElse fun _ => issueMove t).getD (.whole t none)
      else
        match issueMove s with
        | some (.word i u) => .word i u.turned
        | some (.whole u f) => .whole u.turned f
        | some u => u
        | none => (eventMove t).getD (.whole t none)

/-- Each die's cycle count goes on by an open amount of its own (R9), and the free values with it; where no cycle has passed, the
next issue falls in the same one (R126). -/
def State.tick (s : State) : State :=
  ⟨s.mem, s.hostMem, { s.sys with
    nonce := s.sys.nonce + 1
    dies := s.sys.dies.zipIdx.map fun x => { x.1 with cyc := (x.1.cyc + (Config.ticks s.sys.nonce x.2).getD 1) % 2 ^ 64 } }⟩

/-- The outcome of a step that is whole. -/
def outcomeOf (s : State) : Option Fault → Host.Outcome State Fault Refusal
  | none => .next s
  | some f => .fault f

end Sys2Proof.Machine
end

