-- ==== Sys2Proof/Machine/Step.lean ====
section
/-! DEFINITION. One step: the head of the agenda, or an event that is due, or the issue of one stitch. -/

namespace Sys2Proof.Machine

/-- Time passes after a step (assumption log 4). -/
def tickOutcome : Host.Outcome State Fault Refusal → Host.Outcome State Fault Refusal
  | .next s => .next s.tick
  | .fault f => .fault f
  | .refused r => .refused r

/-- One step of the package. -/
def step (s : State) : Host.Outcome State Fault Refusal :=
  match nextMove s with
  | .agenda i t => tickOutcome (exec i t)
  | .event e t => tickOutcome (e.run t)
  | .word i t => tickOutcome (exec i t)
  | .whole t f => tickOutcome (outcomeOf t f)

/-- `s` with a program whose first word is `w`, and its thread next to issue (assumption log 1). -/
def State.withFetchWord (s : State) (nbits w : Nat) : State :=
  ⟨s.mem, s.hostMem, s.sys.boot [BitVec.ofNat 32 (w % 2 ^ min nbits 32), 0]⟩

end Sys2Proof.Machine
end

