-- ==== Sys2Proof/Laws/PerInstr.lean ====
section
/-! SUPPORT. The family Round: the word of an instruction decodes to that instruction, one lemma for each constructor. -/

namespace Sys2Proof.Laws

/-- What the encoder writes, the decoder reads: an instruction word has a word, an event has none, and the word of a
well-formed instruction decodes to it. -/
def Round.Statement (i : Instr) : Prop :=
  (encode i).isSome = isWord i ∧ (wellFormed i = true → ∀ w, encode i = some w → decode w = .ok i)

/-- A field is read where its bits stand. -/
theorem fld_eq {w : Nat} (n lo : Nat) (x : BitVec w) (h : n / 2 ^ lo % 2 ^ w = x.toNat) : fld n lo w = x := by
  apply BitVec.eq_of_toNat_eq
  rw [fld, BitVec.toNat_ofNat, h]

/-! Words by their layout: opcode nibbles `g` and `k`, the fields' places, the reserved bits. -/

theorem asm1 (b : Nat) (f0 : Nat × Nat) : asm b [f0] = BitVec.ofNat 32 (b + f0.1 * 2 ^ f0.2) := rfl

theorem asm2 (b : Nat) (f0 f1 : Nat × Nat) : asm b [f0, f1] = BitVec.ofNat 32 (b + f0.1 * 2 ^ f0.2 + f1.1 * 2 ^ f1.2) := rfl

theorem asm3 (b : Nat) (f0 f1 f2 : Nat × Nat) : asm b [f0, f1, f2] = BitVec.ofNat 32 (b + f0.1 * 2 ^ f0.2 + f1.1 * 2 ^ f1.2 + f2.1 * 2 ^ f2.2) := rfl

theorem asm4 (b : Nat) (f0 f1 f2 f3 : Nat × Nat) : asm b [f0, f1, f2, f3] = BitVec.ofNat 32 (b + f0.1 * 2 ^ f0.2 + f1.1 * 2 ^ f1.2 + f2.1 * 2 ^ f2.2 + f3.1 * 2 ^ f3.2) := rfl

theorem asm5 (b : Nat) (f0 f1 f2 f3 f4 : Nat × Nat) : asm b [f0, f1, f2, f3, f4] = BitVec.ofNat 32 (b + f0.1 * 2 ^ f0.2 + f1.1 * 2 ^ f1.2 + f2.1 * 2 ^ f2.2 + f3.1 * 2 ^ f3.2 + f4.1 * 2 ^ f4.2) := rfl

theorem asm9 (b : Nat) (f0 f1 f2 f3 f4 f5 f6 f7 f8 : Nat × Nat) : asm b [f0, f1, f2, f3, f4, f5, f6, f7, f8] = BitVec.ofNat 32 (b + f0.1 * 2 ^ f0.2 + f1.1 * 2 ^ f1.2 + f2.1 * 2 ^ f2.2 + f3.1 * 2 ^ f3.2 + f4.1 * 2 ^ f4.2 + f5.1 * 2 ^ f5.2 + f6.1 * 2 ^ f6.2 + f7.1 * 2 ^ f7.2 + f8.1 * 2 ^ f8.2) := rfl

theorem word0 (g k : Nat) (hg : g < 16 ∧ k < 16) (base y : Nat) (hy : y = 0) (hb : base = g * 2 ^ 28 + k * 2 ^ 24 + y) (x0 : BitVec 8) (x1 : BitVec 8) (x2 : BitVec 8) :
    ∃ N, (asm base [(x0.toNat, 16), (x1.toNat, 8), (x2.toNat, 0)]).toNat = N
      ∧ bits N 28 4 = g
      ∧ bits N 24 4 = k
      ∧ fld N 16 8 = x0
      ∧ fld N 8 8 = x1
      ∧ fld N 0 8 = x2 := by
  subst hb
  have hx0 := x0.isLt
  have hx1 := x1.isLt
  have hx2 := x2.isLt
  have hn : (asm (g * 2 ^ 28 + k * 2 ^ 24 + y) [(x0.toNat, 16), (x1.toNat, 8), (x2.toNat, 0)]).toNat = g * 2 ^ 28 + k * 2 ^ 24 + y + x0.toNat * 2 ^ 16 + x1.toNat * 2 ^ 8 + x2.toNat * 2 ^ 0 := by
    rw [asm3, BitVec.toNat_ofNat]; apply Nat.mod_eq_of_lt; show g * 2 ^ 28 + k * 2 ^ 24 + y + x0.toNat * 2 ^ 16 + x1.toNat * 2 ^ 8 + x2.toNat * 2 ^ 0 < 2 ^ 32; omega
  generalize (asm (g * 2 ^ 28 + k * 2 ^ 24 + y) [(x0.toNat, 16), (x1.toNat, 8), (x2.toNat, 0)]).toNat = N at hn
  exact ⟨N, rfl, by simp only [bits]; omega, by simp only [bits]; omega, fld_eq _ _ _ (by omega), fld_eq _ _ _ (by omega), fld_eq _ _ _ (by omega)⟩

theorem word1 (g k : Nat) (hg : g < 16 ∧ k < 16) (base y : Nat) (hy : y = 0) (hb : base = g * 2 ^ 28 + k * 2 ^ 24 + y) (x0 : BitVec 8) (x1 : BitVec 8) :
    ∃ N, (asm base [(x0.toNat, 16), (x1.toNat, 8)]).toNat = N
      ∧ bits N 28 4 = g
      ∧ bits N 24 4 = k
      ∧ bits N 0 8 = 0
      ∧ fld N 16 8 = x0
      ∧ fld N 8 8 = x1 := by
  subst hb
  have hx0 := x0.isLt
  have hx1 := x1.isLt
  have hn : (asm (g * 2 ^ 28 + k * 2 ^ 24 + y) [(x0.toNat, 16), (x1.toNat, 8)]).toNat = g * 2 ^ 28 + k * 2 ^ 24 + y + x0.toNat * 2 ^ 16 + x1.toNat * 2 ^ 8 := by
    rw [asm2, BitVec.toNat_ofNat]; apply Nat.mod_eq_of_lt; show g * 2 ^ 28 + k * 2 ^ 24 + y + x0.toNat * 2 ^ 16 + x1.toNat * 2 ^ 8 < 2 ^ 32; omega
  generalize (asm (g * 2 ^ 28 + k * 2 ^ 24 + y) [(x0.toNat, 16), (x1.toNat, 8)]).toNat = N at hn
  exact ⟨N, rfl, by simp only [bits]; omega, by simp only [bits]; omega, by simp only [bits]; omega, fld_eq _ _ _ (by omega), fld_eq _ _ _ (by omega)⟩

theorem word2 (g k : Nat) (hg : g < 16 ∧ k < 16) (base y : Nat) (hy : y = 0) (hb : base = g * 2 ^ 28 + k * 2 ^ 24 + y) (x0 : BitVec 8) (x1 : BitVec 16) :
    ∃ N, (asm base [(x0.toNat, 16), (x1.toNat, 0)]).toNat = N
      ∧ bits N 28 4 = g
      ∧ bits N 24 4 = k
      ∧ fld N 16 8 = x0
      ∧ fld N 0 16 = x1 := by
  subst hb
  have hx0 := x0.isLt
  have hx1 := x1.isLt
  have hn : (asm (g * 2 ^ 28 + k * 2 ^ 24 + y) [(x0.toNat, 16), (x1.toNat, 0)]).toNat = g * 2 ^ 28 + k * 2 ^ 24 + y + x0.toNat * 2 ^ 16 + x1.toNat * 2 ^ 0 := by
    rw [asm2, BitVec.toNat_ofNat]; apply Nat.mod_eq_of_lt; show g * 2 ^ 28 + k * 2 ^ 24 + y + x0.toNat * 2 ^ 16 + x1.toNat * 2 ^ 0 < 2 ^ 32; omega
  generalize (asm (g * 2 ^ 28 + k * 2 ^ 24 + y) [(x0.toNat, 16), (x1.toNat, 0)]).toNat = N at hn
  exact ⟨N, rfl, by simp only [bits]; omega, by simp only [bits]; omega, fld_eq _ _ _ (by omega), fld_eq _ _ _ (by omega)⟩

theorem word3 (g k : Nat) (hg : g < 16 ∧ k < 16) (base y : Nat) (hy : y = 0) (hb : base = g * 2 ^ 28 + k * 2 ^ 24 + y) (x0 : BitVec 3) (x1 : BitVec 2) (x2 : BitVec 3) (x3 : BitVec 8) (x4 : BitVec 8) :
    ∃ N, (asm base [(x0.toNat, 21), (x1.toNat, 19), (x2.toNat, 16), (x3.toNat, 8), (x4.toNat, 0)]).toNat = N
      ∧ bits N 28 4 = g
      ∧ bits N 24 4 = k
      ∧ fld N 21 3 = x0
      ∧ fld N 19 2 = x1
      ∧ fld N 16 3 = x2
      ∧ fld N 8 8 = x3
      ∧ fld N 0 8 = x4 := by
  subst hb
  have hx0 := x0.isLt
  have hx1 := x1.isLt
  have hx2 := x2.isLt
  have hx3 := x3.isLt
  have hx4 := x4.isLt
  have hn : (asm (g * 2 ^ 28 + k * 2 ^ 24 + y) [(x0.toNat, 21), (x1.toNat, 19), (x2.toNat, 16), (x3.toNat, 8), (x4.toNat, 0)]).toNat = g * 2 ^ 28 + k * 2 ^ 24 + y + x0.toNat * 2 ^ 21 + x1.toNat * 2 ^ 19 + x2.toNat * 2 ^ 16 + x3.toNat * 2 ^ 8 + x4.toNat * 2 ^ 0 := by
    rw [asm5, BitVec.toNat_ofNat]; apply Nat.mod_eq_of_lt; show g * 2 ^ 28 + k * 2 ^ 24 + y + x0.toNat * 2 ^ 21 + x1.toNat * 2 ^ 19 + x2.toNat * 2 ^ 16 + x3.toNat * 2 ^ 8 + x4.toNat * 2 ^ 0 < 2 ^ 32; omega
  generalize (asm (g * 2 ^ 28 + k * 2 ^ 24 + y) [(x0.toNat, 21), (x1.toNat, 19), (x2.toNat, 16), (x3.toNat, 8), (x4.toNat, 0)]).toNat = N at hn
  exact ⟨N, rfl, by simp only [bits]; omega, by simp only [bits]; omega, fld_eq _ _ _ (by omega), fld_eq _ _ _ (by omega), fld_eq _ _ _ (by omega), fld_eq _ _ _ (by omega), fld_eq _ _ _ (by omega)⟩

theorem word4 (g k : Nat) (hg : g < 16 ∧ k < 16) (base y : Nat) (hy : y = 0) (hb : base = g * 2 ^ 28 + k * 2 ^ 24 + y) (x0 : BitVec 3) (x1 : BitVec 3) (x2 : BitVec 8) (x3 : BitVec 3) (x4 : BitVec 3) :
    ∃ N, (asm base [(x0.toNat, 20), (x1.toNat, 16), (x2.toNat, 8), (x3.toNat, 4), (x4.toNat, 0)]).toNat = N
      ∧ bits N 28 4 = g
      ∧ bits N 24 4 = k
      ∧ bits N 3 1 = 0
      ∧ bits N 7 1 = 0
      ∧ bits N 19 1 = 0
      ∧ bits N 23 1 = 0
      ∧ fld N 20 3 = x0
      ∧ fld N 16 3 = x1
      ∧ fld N 8 8 = x2
      ∧ fld N 4 3 = x3
      ∧ fld N 0 3 = x4 := by
  subst hb
  have hx0 := x0.isLt
  have hx1 := x1.isLt
  have hx2 := x2.isLt
  have hx3 := x3.isLt
  have hx4 := x4.isLt
  have hn : (asm (g * 2 ^ 28 + k * 2 ^ 24 + y) [(x0.toNat, 20), (x1.toNat, 16), (x2.toNat, 8), (x3.toNat, 4), (x4.toNat, 0)]).toNat = g * 2 ^ 28 + k * 2 ^ 24 + y + x0.toNat * 2 ^ 20 + x1.toNat * 2 ^ 16 + x2.toNat * 2 ^ 8 + x3.toNat * 2 ^ 4 + x4.toNat * 2 ^ 0 := by
    rw [asm5, BitVec.toNat_ofNat]; apply Nat.mod_eq_of_lt; show g * 2 ^ 28 + k * 2 ^ 24 + y + x0.toNat * 2 ^ 20 + x1.toNat * 2 ^ 16 + x2.toNat * 2 ^ 8 + x3.toNat * 2 ^ 4 + x4.toNat * 2 ^ 0 < 2 ^ 32; omega
  generalize (asm (g * 2 ^ 28 + k * 2 ^ 24 + y) [(x0.toNat, 20), (x1.toNat, 16), (x2.toNat, 8), (x3.toNat, 4), (x4.toNat, 0)]).toNat = N at hn
  exact ⟨N, rfl, by simp only [bits]; omega, by simp only [bits]; omega, by simp only [bits]; omega, by simp only [bits]; omega, by simp only [bits]; omega, by simp only [bits]; omega, fld_eq _ _ _ (by omega), fld_eq _ _ _ (by omega), fld_eq _ _ _ (by omega), fld_eq _ _ _ (by omega), fld_eq _ _ _ (by omega)⟩

theorem word5 (g k : Nat) (hg : g < 16 ∧ k < 16) (base y : Nat) (hy : y = 0) (hb : base = g * 2 ^ 28 + k * 2 ^ 24 + y) (x0 : BitVec 8) :
    ∃ N, (asm base [(x0.toNat, 16)]).toNat = N
      ∧ bits N 28 4 = g
      ∧ bits N 24 4 = k
      ∧ bits N 0 16 = 0
      ∧ fld N 16 8 = x0 := by
  subst hb
  have hx0 := x0.isLt
  have hn : (asm (g * 2 ^ 28 + k * 2 ^ 24 + y) [(x0.toNat, 16)]).toNat = g * 2 ^ 28 + k * 2 ^ 24 + y + x0.toNat * 2 ^ 16 := by
    rw [asm1, BitVec.toNat_ofNat]; apply Nat.mod_eq_of_lt; show g * 2 ^ 28 + k * 2 ^ 24 + y + x0.toNat * 2 ^ 16 < 2 ^ 32; omega
  generalize (asm (g * 2 ^ 28 + k * 2 ^ 24 + y) [(x0.toNat, 16)]).toNat = N at hn
  exact ⟨N, rfl, by simp only [bits]; omega, by simp only [bits]; omega, by simp only [bits]; omega, fld_eq _ _ _ (by omega)⟩

theorem word6 (g k : Nat) (hg : g < 16 ∧ k < 16) (base y : Nat) (hy : y = 0) (hb : base = g * 2 ^ 28 + k * 2 ^ 24 + y) (x0 : BitVec 8) (x1 : BitVec 8) :
    ∃ N, (asm base [(x0.toNat, 8), (x1.toNat, 0)]).toNat = N
      ∧ bits N 28 4 = g
      ∧ bits N 24 4 = k
      ∧ bits N 16 8 = 0
      ∧ fld N 8 8 = x0
      ∧ fld N 0 8 = x1 := by
  subst hb
  have hx0 := x0.isLt
  have hx1 := x1.isLt
  have hn : (asm (g * 2 ^ 28 + k * 2 ^ 24 + y) [(x0.toNat, 8), (x1.toNat, 0)]).toNat = g * 2 ^ 28 + k * 2 ^ 24 + y + x0.toNat * 2 ^ 8 + x1.toNat * 2 ^ 0 := by
    rw [asm2, BitVec.toNat_ofNat]; apply Nat.mod_eq_of_lt; show g * 2 ^ 28 + k * 2 ^ 24 + y + x0.toNat * 2 ^ 8 + x1.toNat * 2 ^ 0 < 2 ^ 32; omega
  generalize (asm (g * 2 ^ 28 + k * 2 ^ 24 + y) [(x0.toNat, 8), (x1.toNat, 0)]).toNat = N at hn
  exact ⟨N, rfl, by simp only [bits]; omega, by simp only [bits]; omega, by simp only [bits]; omega, fld_eq _ _ _ (by omega), fld_eq _ _ _ (by omega)⟩

theorem word7 (g k : Nat) (hg : g < 16 ∧ k < 16) (base y : Nat) (hy : y = 0) (hb : base = g * 2 ^ 28 + k * 2 ^ 24 + y) (x0 : BitVec 8) (x1 : BitVec 8) (x2 : BitVec 4) (x3 : BitVec 4) :
    ∃ N, (asm base [(x0.toNat, 16), (x1.toNat, 8), (x2.toNat, 4), (x3.toNat, 0)]).toNat = N
      ∧ bits N 28 4 = g
      ∧ bits N 24 4 = k
      ∧ fld N 16 8 = x0
      ∧ fld N 8 8 = x1
      ∧ fld N 4 4 = x2
      ∧ fld N 0 4 = x3 := by
  subst hb
  have hx0 := x0.isLt
  have hx1 := x1.isLt
  have hx2 := x2.isLt
  have hx3 := x3.isLt
  have hn : (asm (g * 2 ^ 28 + k * 2 ^ 24 + y) [(x0.toNat, 16), (x1.toNat, 8), (x2.toNat, 4), (x3.toNat, 0)]).toNat = g * 2 ^ 28 + k * 2 ^ 24 + y + x0.toNat * 2 ^ 16 + x1.toNat * 2 ^ 8 + x2.toNat * 2 ^ 4 + x3.toNat * 2 ^ 0 := by
    rw [asm4, BitVec.toNat_ofNat]; apply Nat.mod_eq_of_lt; show g * 2 ^ 28 + k * 2 ^ 24 + y + x0.toNat * 2 ^ 16 + x1.toNat * 2 ^ 8 + x2.toNat * 2 ^ 4 + x3.toNat * 2 ^ 0 < 2 ^ 32; omega
  generalize (asm (g * 2 ^ 28 + k * 2 ^ 24 + y) [(x0.toNat, 16), (x1.toNat, 8), (x2.toNat, 4), (x3.toNat, 0)]).toNat = N at hn
  exact ⟨N, rfl, by simp only [bits]; omega, by simp only [bits]; omega, fld_eq _ _ _ (by omega), fld_eq _ _ _ (by omega), fld_eq _ _ _ (by omega), fld_eq _ _ _ (by omega)⟩

theorem word8 (g k : Nat) (hg : g < 16 ∧ k < 16) (base y : Nat) (hy : y = 0) (hb : base = g * 2 ^ 28 + k * 2 ^ 24 + y) (x0 : BitVec 8) (x1 : BitVec 8) :
    ∃ N, (asm base [(x0.toNat, 16), (x1.toNat, 0)]).toNat = N
      ∧ bits N 28 4 = g
      ∧ bits N 24 4 = k
      ∧ bits N 8 8 = 0
      ∧ fld N 16 8 = x0
      ∧ fld N 0 8 = x1 := by
  subst hb
  have hx0 := x0.isLt
  have hx1 := x1.isLt
  have hn : (asm (g * 2 ^ 28 + k * 2 ^ 24 + y) [(x0.toNat, 16), (x1.toNat, 0)]).toNat = g * 2 ^ 28 + k * 2 ^ 24 + y + x0.toNat * 2 ^ 16 + x1.toNat * 2 ^ 0 := by
    rw [asm2, BitVec.toNat_ofNat]; apply Nat.mod_eq_of_lt; show g * 2 ^ 28 + k * 2 ^ 24 + y + x0.toNat * 2 ^ 16 + x1.toNat * 2 ^ 0 < 2 ^ 32; omega
  generalize (asm (g * 2 ^ 28 + k * 2 ^ 24 + y) [(x0.toNat, 16), (x1.toNat, 0)]).toNat = N at hn
  exact ⟨N, rfl, by simp only [bits]; omega, by simp only [bits]; omega, by simp only [bits]; omega, fld_eq _ _ _ (by omega), fld_eq _ _ _ (by omega)⟩

theorem word9 (g k : Nat) (hg : g < 16 ∧ k < 16) (base y : Nat) (hy : y = 0) (hb : base = g * 2 ^ 28 + k * 2 ^ 24 + y) (x0 : BitVec 12) :
    ∃ N, (asm base [(x0.toNat, 0)]).toNat = N
      ∧ bits N 28 4 = g
      ∧ bits N 24 4 = k
      ∧ bits N 12 12 = 0
      ∧ fld N 0 12 = x0 := by
  subst hb
  have hx0 := x0.isLt
  have hn : (asm (g * 2 ^ 28 + k * 2 ^ 24 + y) [(x0.toNat, 0)]).toNat = g * 2 ^ 28 + k * 2 ^ 24 + y + x0.toNat * 2 ^ 0 := by
    rw [asm1, BitVec.toNat_ofNat]; apply Nat.mod_eq_of_lt; show g * 2 ^ 28 + k * 2 ^ 24 + y + x0.toNat * 2 ^ 0 < 2 ^ 32; omega
  generalize (asm (g * 2 ^ 28 + k * 2 ^ 24 + y) [(x0.toNat, 0)]).toNat = N at hn
  exact ⟨N, rfl, by simp only [bits]; omega, by simp only [bits]; omega, by simp only [bits]; omega, fld_eq _ _ _ (by omega)⟩

theorem word10 (g k : Nat) (hg : g = 10 ∧ k = 8 ∨ g = 11 ∧ k = 0) (base y : Nat) (hy : y = 0) (hb : base = g * 2 ^ 28 + k * 2 ^ 24 + y) (x0 : BitVec 3) (x1 : BitVec 8) (x2 : BitVec 16) :
    ∃ N, (asm base [(x0.toNat, 24), (x1.toNat, 16), (x2.toNat, 0)]).toNat = N
      ∧ bits N 28 4 = g
      ∧ bits N 24 4 = k + x0.toNat
      ∧ fld N 24 3 = x0
      ∧ fld N 16 8 = x1
      ∧ fld N 0 16 = x2 := by
  subst hb
  have hx0 := x0.isLt
  have hx1 := x1.isLt
  have hx2 := x2.isLt
  have hn : (asm (g * 2 ^ 28 + k * 2 ^ 24 + y) [(x0.toNat, 24), (x1.toNat, 16), (x2.toNat, 0)]).toNat = g * 2 ^ 28 + k * 2 ^ 24 + y + x0.toNat * 2 ^ 24 + x1.toNat * 2 ^ 16 + x2.toNat * 2 ^ 0 := by
    rw [asm3, BitVec.toNat_ofNat]; apply Nat.mod_eq_of_lt; show g * 2 ^ 28 + k * 2 ^ 24 + y + x0.toNat * 2 ^ 24 + x1.toNat * 2 ^ 16 + x2.toNat * 2 ^ 0 < 2 ^ 32; omega
  generalize (asm (g * 2 ^ 28 + k * 2 ^ 24 + y) [(x0.toNat, 24), (x1.toNat, 16), (x2.toNat, 0)]).toNat = N at hn
  exact ⟨N, rfl, by simp only [bits]; omega, by simp only [bits]; omega, fld_eq _ _ _ (by omega), fld_eq _ _ _ (by omega), fld_eq _ _ _ (by omega)⟩

theorem word11 (g k : Nat) (hg : g < 16 ∧ k < 16) (base y : Nat) (hy : y = 0) (hb : base = g * 2 ^ 28 + k * 2 ^ 24 + y) (x0 : BitVec 4) :
    ∃ N, (asm base [(x0.toNat, 0)]).toNat = N
      ∧ bits N 28 4 = g
      ∧ bits N 24 4 = k
      ∧ bits N 4 20 = 0
      ∧ fld N 0 4 = x0 := by
  subst hb
  have hx0 := x0.isLt
  have hn : (asm (g * 2 ^ 28 + k * 2 ^ 24 + y) [(x0.toNat, 0)]).toNat = g * 2 ^ 28 + k * 2 ^ 24 + y + x0.toNat * 2 ^ 0 := by
    rw [asm1, BitVec.toNat_ofNat]; apply Nat.mod_eq_of_lt; show g * 2 ^ 28 + k * 2 ^ 24 + y + x0.toNat * 2 ^ 0 < 2 ^ 32; omega
  generalize (asm (g * 2 ^ 28 + k * 2 ^ 24 + y) [(x0.toNat, 0)]).toNat = N at hn
  exact ⟨N, rfl, by simp only [bits]; omega, by simp only [bits]; omega, by simp only [bits]; omega, fld_eq _ _ _ (by omega)⟩

theorem word12 (g k : Nat) (hg : g < 16 ∧ k < 16) (base y : Nat) (hy : y = 0) (hb : base = g * 2 ^ 28 + k * 2 ^ 24 + y) (x0 : BitVec 8) (x1 : BitVec 4) :
    ∃ N, (asm base [(x0.toNat, 16), (x1.toNat, 0)]).toNat = N
      ∧ bits N 28 4 = g
      ∧ bits N 24 4 = k
      ∧ bits N 4 12 = 0
      ∧ fld N 16 8 = x0
      ∧ fld N 0 4 = x1 := by
  subst hb
  have hx0 := x0.isLt
  have hx1 := x1.isLt
  have hn : (asm (g * 2 ^ 28 + k * 2 ^ 24 + y) [(x0.toNat, 16), (x1.toNat, 0)]).toNat = g * 2 ^ 28 + k * 2 ^ 24 + y + x0.toNat * 2 ^ 16 + x1.toNat * 2 ^ 0 := by
    rw [asm2, BitVec.toNat_ofNat]; apply Nat.mod_eq_of_lt; show g * 2 ^ 28 + k * 2 ^ 24 + y + x0.toNat * 2 ^ 16 + x1.toNat * 2 ^ 0 < 2 ^ 32; omega
  generalize (asm (g * 2 ^ 28 + k * 2 ^ 24 + y) [(x0.toNat, 16), (x1.toNat, 0)]).toNat = N at hn
  exact ⟨N, rfl, by simp only [bits]; omega, by simp only [bits]; omega, by simp only [bits]; omega, fld_eq _ _ _ (by omega), fld_eq _ _ _ (by omega)⟩

theorem word13 (g k : Nat) (hg : g < 16 ∧ k < 16) (base y : Nat) (hy : y = 0) (hb : base = g * 2 ^ 28 + k * 2 ^ 24 + y) (x0 : BitVec 8) (x1 : BitVec 1) (x2 : BitVec 4) :
    ∃ N, (asm base [(x0.toNat, 16), (x1.toNat, 8), (x2.toNat, 0)]).toNat = N
      ∧ bits N 28 4 = g
      ∧ bits N 24 4 = k
      ∧ bits N 4 4 = 0
      ∧ bits N 9 7 = 0
      ∧ fld N 16 8 = x0
      ∧ fld N 8 1 = x1
      ∧ fld N 0 4 = x2 := by
  subst hb
  have hx0 := x0.isLt
  have hx1 := x1.isLt
  have hx2 := x2.isLt
  have hn : (asm (g * 2 ^ 28 + k * 2 ^ 24 + y) [(x0.toNat, 16), (x1.toNat, 8), (x2.toNat, 0)]).toNat = g * 2 ^ 28 + k * 2 ^ 24 + y + x0.toNat * 2 ^ 16 + x1.toNat * 2 ^ 8 + x2.toNat * 2 ^ 0 := by
    rw [asm3, BitVec.toNat_ofNat]; apply Nat.mod_eq_of_lt; show g * 2 ^ 28 + k * 2 ^ 24 + y + x0.toNat * 2 ^ 16 + x1.toNat * 2 ^ 8 + x2.toNat * 2 ^ 0 < 2 ^ 32; omega
  generalize (asm (g * 2 ^ 28 + k * 2 ^ 24 + y) [(x0.toNat, 16), (x1.toNat, 8), (x2.toNat, 0)]).toNat = N at hn
  exact ⟨N, rfl, by simp only [bits]; omega, by simp only [bits]; omega, by simp only [bits]; omega, by simp only [bits]; omega, fld_eq _ _ _ (by omega), fld_eq _ _ _ (by omega), fld_eq _ _ _ (by omega)⟩

theorem word14 (g k : Nat) (hg : g < 16 ∧ k < 16) (base y : Nat) (hy : y = 0) (hb : base = g * 2 ^ 28 + k * 2 ^ 24 + y) (x0 : BitVec 6) (x1 : BitVec 8) :
    ∃ N, (asm base [(x0.toNat, 16), (x1.toNat, 8)]).toNat = N
      ∧ bits N 28 4 = g
      ∧ bits N 24 4 = k
      ∧ bits N 0 8 = 0
      ∧ bits N 22 2 = 0
      ∧ fld N 16 6 = x0
      ∧ fld N 8 8 = x1 := by
  subst hb
  have hx0 := x0.isLt
  have hx1 := x1.isLt
  have hn : (asm (g * 2 ^ 28 + k * 2 ^ 24 + y) [(x0.toNat, 16), (x1.toNat, 8)]).toNat = g * 2 ^ 28 + k * 2 ^ 24 + y + x0.toNat * 2 ^ 16 + x1.toNat * 2 ^ 8 := by
    rw [asm2, BitVec.toNat_ofNat]; apply Nat.mod_eq_of_lt; show g * 2 ^ 28 + k * 2 ^ 24 + y + x0.toNat * 2 ^ 16 + x1.toNat * 2 ^ 8 < 2 ^ 32; omega
  generalize (asm (g * 2 ^ 28 + k * 2 ^ 24 + y) [(x0.toNat, 16), (x1.toNat, 8)]).toNat = N at hn
  exact ⟨N, rfl, by simp only [bits]; omega, by simp only [bits]; omega, by simp only [bits]; omega, by simp only [bits]; omega, fld_eq _ _ _ (by omega), fld_eq _ _ _ (by omega)⟩

theorem word15 (g k : Nat) (hg : g < 16 ∧ k < 16) (base y : Nat) (hy : y = 0) (hb : base = g * 2 ^ 28 + k * 2 ^ 24 + y) (x0 : BitVec 6) :
    ∃ N, (asm base [(x0.toNat, 16)]).toNat = N
      ∧ bits N 28 4 = g
      ∧ bits N 24 4 = k
      ∧ bits N 0 16 = 0
      ∧ bits N 22 2 = 0
      ∧ fld N 16 6 = x0 := by
  subst hb
  have hx0 := x0.isLt
  have hn : (asm (g * 2 ^ 28 + k * 2 ^ 24 + y) [(x0.toNat, 16)]).toNat = g * 2 ^ 28 + k * 2 ^ 24 + y + x0.toNat * 2 ^ 16 := by
    rw [asm1, BitVec.toNat_ofNat]; apply Nat.mod_eq_of_lt; show g * 2 ^ 28 + k * 2 ^ 24 + y + x0.toNat * 2 ^ 16 < 2 ^ 32; omega
  generalize (asm (g * 2 ^ 28 + k * 2 ^ 24 + y) [(x0.toNat, 16)]).toNat = N at hn
  exact ⟨N, rfl, by simp only [bits]; omega, by simp only [bits]; omega, by simp only [bits]; omega, by simp only [bits]; omega, fld_eq _ _ _ (by omega)⟩

theorem word16 (g k : Nat) (hg : g < 16 ∧ k < 16) (base y : Nat) (hy : y = 0) (hb : base = g * 2 ^ 28 + k * 2 ^ 24 + y) (x0 : BitVec 6) (x1 : BitVec 6) (x2 : BitVec 6) (x3 : BitVec 3) :
    ∃ N, (asm base [(x0.toNat, 18), (x1.toNat, 12), (x2.toNat, 6), (x3.toNat, 3)]).toNat = N
      ∧ bits N 28 4 = g
      ∧ bits N 24 4 = k
      ∧ bits N 0 3 = 0
      ∧ fld N 18 6 = x0
      ∧ fld N 12 6 = x1
      ∧ fld N 6 6 = x2
      ∧ fld N 3 3 = x3 := by
  subst hb
  have hx0 := x0.isLt
  have hx1 := x1.isLt
  have hx2 := x2.isLt
  have hx3 := x3.isLt
  have hn : (asm (g * 2 ^ 28 + k * 2 ^ 24 + y) [(x0.toNat, 18), (x1.toNat, 12), (x2.toNat, 6), (x3.toNat, 3)]).toNat = g * 2 ^ 28 + k * 2 ^ 24 + y + x0.toNat * 2 ^ 18 + x1.toNat * 2 ^ 12 + x2.toNat * 2 ^ 6 + x3.toNat * 2 ^ 3 := by
    rw [asm4, BitVec.toNat_ofNat]; apply Nat.mod_eq_of_lt; show g * 2 ^ 28 + k * 2 ^ 24 + y + x0.toNat * 2 ^ 18 + x1.toNat * 2 ^ 12 + x2.toNat * 2 ^ 6 + x3.toNat * 2 ^ 3 < 2 ^ 32; omega
  generalize (asm (g * 2 ^ 28 + k * 2 ^ 24 + y) [(x0.toNat, 18), (x1.toNat, 12), (x2.toNat, 6), (x3.toNat, 3)]).toNat = N at hn
  exact ⟨N, rfl, by simp only [bits]; omega, by simp only [bits]; omega, by simp only [bits]; omega, fld_eq _ _ _ (by omega), fld_eq _ _ _ (by omega), fld_eq _ _ _ (by omega), fld_eq _ _ _ (by omega)⟩

theorem word17 (g k : Nat) (hg : g < 16 ∧ k < 16) (base y : Nat) (hy : y = 0) (hb : base = g * 2 ^ 28 + k * 2 ^ 24 + y) (x0 : BitVec 6) :
    ∃ N, (asm base [(x0.toNat, 18)]).toNat = N
      ∧ bits N 28 4 = g
      ∧ bits N 24 4 = k
      ∧ bits N 0 18 = 0
      ∧ fld N 18 6 = x0 := by
  subst hb
  have hx0 := x0.isLt
  have hn : (asm (g * 2 ^ 28 + k * 2 ^ 24 + y) [(x0.toNat, 18)]).toNat = g * 2 ^ 28 + k * 2 ^ 24 + y + x0.toNat * 2 ^ 18 := by
    rw [asm1, BitVec.toNat_ofNat]; apply Nat.mod_eq_of_lt; show g * 2 ^ 28 + k * 2 ^ 24 + y + x0.toNat * 2 ^ 18 < 2 ^ 32; omega
  generalize (asm (g * 2 ^ 28 + k * 2 ^ 24 + y) [(x0.toNat, 18)]).toNat = N at hn
  exact ⟨N, rfl, by simp only [bits]; omega, by simp only [bits]; omega, by simp only [bits]; omega, fld_eq _ _ _ (by omega)⟩

theorem word18 (g k : Nat) (hg : g < 16 ∧ k < 16) (base y : Nat) (hy : y = 0) (hb : base = g * 2 ^ 28 + k * 2 ^ 24 + y) (x0 : BitVec 6) (x1 : BitVec 6) (x2 : BitVec 6) (x3 : BitVec 3) (x4 : BitVec 1) :
    ∃ N, (asm base [(x0.toNat, 18), (x1.toNat, 12), (x2.toNat, 6), (x3.toNat, 1), (x4.toNat, 0)]).toNat = N
      ∧ bits N 28 4 = g
      ∧ bits N 24 4 = k
      ∧ bits N 4 2 = 0
      ∧ fld N 18 6 = x0
      ∧ fld N 12 6 = x1
      ∧ fld N 6 6 = x2
      ∧ fld N 1 3 = x3
      ∧ fld N 0 1 = x4 := by
  subst hb
  have hx0 := x0.isLt
  have hx1 := x1.isLt
  have hx2 := x2.isLt
  have hx3 := x3.isLt
  have hx4 := x4.isLt
  have hn : (asm (g * 2 ^ 28 + k * 2 ^ 24 + y) [(x0.toNat, 18), (x1.toNat, 12), (x2.toNat, 6), (x3.toNat, 1), (x4.toNat, 0)]).toNat = g * 2 ^ 28 + k * 2 ^ 24 + y + x0.toNat * 2 ^ 18 + x1.toNat * 2 ^ 12 + x2.toNat * 2 ^ 6 + x3.toNat * 2 ^ 1 + x4.toNat * 2 ^ 0 := by
    rw [asm5, BitVec.toNat_ofNat]; apply Nat.mod_eq_of_lt; show g * 2 ^ 28 + k * 2 ^ 24 + y + x0.toNat * 2 ^ 18 + x1.toNat * 2 ^ 12 + x2.toNat * 2 ^ 6 + x3.toNat * 2 ^ 1 + x4.toNat * 2 ^ 0 < 2 ^ 32; omega
  generalize (asm (g * 2 ^ 28 + k * 2 ^ 24 + y) [(x0.toNat, 18), (x1.toNat, 12), (x2.toNat, 6), (x3.toNat, 1), (x4.toNat, 0)]).toNat = N at hn
  exact ⟨N, rfl, by simp only [bits]; omega, by simp only [bits]; omega, by simp only [bits]; omega, fld_eq _ _ _ (by omega), fld_eq _ _ _ (by omega), fld_eq _ _ _ (by omega), fld_eq _ _ _ (by omega), fld_eq _ _ _ (by omega)⟩

theorem word19 (g k : Nat) (hg : g < 16 ∧ k < 16) (base y : Nat) (hy : y = 0) (hb : base = g * 2 ^ 28 + k * 2 ^ 24 + y) (x0 : BitVec 6) (x1 : BitVec 6) (x2 : BitVec 6) (x3 : BitVec 1) (x4 : BitVec 1) :
    ∃ N, (asm base [(x0.toNat, 18), (x1.toNat, 12), (x2.toNat, 6), (x3.toNat, 1), (x4.toNat, 0)]).toNat = N
      ∧ bits N 28 4 = g
      ∧ bits N 24 4 = k
      ∧ bits N 2 4 = 0
      ∧ fld N 18 6 = x0
      ∧ fld N 12 6 = x1
      ∧ fld N 6 6 = x2
      ∧ fld N 1 1 = x3
      ∧ fld N 0 1 = x4 := by
  subst hb
  have hx0 := x0.isLt
  have hx1 := x1.isLt
  have hx2 := x2.isLt
  have hx3 := x3.isLt
  have hx4 := x4.isLt
  have hn : (asm (g * 2 ^ 28 + k * 2 ^ 24 + y) [(x0.toNat, 18), (x1.toNat, 12), (x2.toNat, 6), (x3.toNat, 1), (x4.toNat, 0)]).toNat = g * 2 ^ 28 + k * 2 ^ 24 + y + x0.toNat * 2 ^ 18 + x1.toNat * 2 ^ 12 + x2.toNat * 2 ^ 6 + x3.toNat * 2 ^ 1 + x4.toNat * 2 ^ 0 := by
    rw [asm5, BitVec.toNat_ofNat]; apply Nat.mod_eq_of_lt; show g * 2 ^ 28 + k * 2 ^ 24 + y + x0.toNat * 2 ^ 18 + x1.toNat * 2 ^ 12 + x2.toNat * 2 ^ 6 + x3.toNat * 2 ^ 1 + x4.toNat * 2 ^ 0 < 2 ^ 32; omega
  generalize (asm (g * 2 ^ 28 + k * 2 ^ 24 + y) [(x0.toNat, 18), (x1.toNat, 12), (x2.toNat, 6), (x3.toNat, 1), (x4.toNat, 0)]).toNat = N at hn
  exact ⟨N, rfl, by simp only [bits]; omega, by simp only [bits]; omega, by simp only [bits]; omega, fld_eq _ _ _ (by omega), fld_eq _ _ _ (by omega), fld_eq _ _ _ (by omega), fld_eq _ _ _ (by omega), fld_eq _ _ _ (by omega)⟩

theorem word20 (g k : Nat) (hg : g < 16 ∧ k < 16) (base y : Nat) (hy : y = 0) (hb : base = g * 2 ^ 28 + k * 2 ^ 24 + y) (x0 : BitVec 3) (x1 : BitVec 8) :
    ∃ N, (asm base [(x0.toNat, 16), (x1.toNat, 8)]).toNat = N
      ∧ bits N 28 4 = g
      ∧ bits N 24 4 = k
      ∧ bits N 0 8 = 0
      ∧ bits N 19 5 = 0
      ∧ fld N 16 3 = x0
      ∧ fld N 8 8 = x1 := by
  subst hb
  have hx0 := x0.isLt
  have hx1 := x1.isLt
  have hn : (asm (g * 2 ^ 28 + k * 2 ^ 24 + y) [(x0.toNat, 16), (x1.toNat, 8)]).toNat = g * 2 ^ 28 + k * 2 ^ 24 + y + x0.toNat * 2 ^ 16 + x1.toNat * 2 ^ 8 := by
    rw [asm2, BitVec.toNat_ofNat]; apply Nat.mod_eq_of_lt; show g * 2 ^ 28 + k * 2 ^ 24 + y + x0.toNat * 2 ^ 16 + x1.toNat * 2 ^ 8 < 2 ^ 32; omega
  generalize (asm (g * 2 ^ 28 + k * 2 ^ 24 + y) [(x0.toNat, 16), (x1.toNat, 8)]).toNat = N at hn
  exact ⟨N, rfl, by simp only [bits]; omega, by simp only [bits]; omega, by simp only [bits]; omega, by simp only [bits]; omega, fld_eq _ _ _ (by omega), fld_eq _ _ _ (by omega)⟩

theorem word21 (g k : Nat) (hg : g < 16 ∧ k < 16) (base y : Nat) (hy : y = 0) (hb : base = g * 2 ^ 28 + k * 2 ^ 24 + y) (x0 : BitVec 6) (x1 : BitVec 6) (x2 : BitVec 3) :
    ∃ N, (asm base [(x0.toNat, 18), (x1.toNat, 12), (x2.toNat, 0)]).toNat = N
      ∧ bits N 28 4 = g
      ∧ bits N 24 4 = k
      ∧ bits N 3 9 = 0
      ∧ fld N 18 6 = x0
      ∧ fld N 12 6 = x1
      ∧ fld N 0 3 = x2 := by
  subst hb
  have hx0 := x0.isLt
  have hx1 := x1.isLt
  have hx2 := x2.isLt
  have hn : (asm (g * 2 ^ 28 + k * 2 ^ 24 + y) [(x0.toNat, 18), (x1.toNat, 12), (x2.toNat, 0)]).toNat = g * 2 ^ 28 + k * 2 ^ 24 + y + x0.toNat * 2 ^ 18 + x1.toNat * 2 ^ 12 + x2.toNat * 2 ^ 0 := by
    rw [asm3, BitVec.toNat_ofNat]; apply Nat.mod_eq_of_lt; show g * 2 ^ 28 + k * 2 ^ 24 + y + x0.toNat * 2 ^ 18 + x1.toNat * 2 ^ 12 + x2.toNat * 2 ^ 0 < 2 ^ 32; omega
  generalize (asm (g * 2 ^ 28 + k * 2 ^ 24 + y) [(x0.toNat, 18), (x1.toNat, 12), (x2.toNat, 0)]).toNat = N at hn
  exact ⟨N, rfl, by simp only [bits]; omega, by simp only [bits]; omega, by simp only [bits]; omega, fld_eq _ _ _ (by omega), fld_eq _ _ _ (by omega), fld_eq _ _ _ (by omega)⟩

theorem word22 (g k : Nat) (hg : g < 16 ∧ k < 16) (base y : Nat) (hy : y = 0) (hb : base = g * 2 ^ 28 + k * 2 ^ 24 + y) (x0 : BitVec 8) (x1 : BitVec 6) (x2 : BitVec 8) :
    ∃ N, (asm base [(x0.toNat, 16), (x1.toNat, 8), (x2.toNat, 0)]).toNat = N
      ∧ bits N 28 4 = g
      ∧ bits N 24 4 = k
      ∧ bits N 14 2 = 0
      ∧ fld N 16 8 = x0
      ∧ fld N 8 6 = x1
      ∧ fld N 0 8 = x2 := by
  subst hb
  have hx0 := x0.isLt
  have hx1 := x1.isLt
  have hx2 := x2.isLt
  have hn : (asm (g * 2 ^ 28 + k * 2 ^ 24 + y) [(x0.toNat, 16), (x1.toNat, 8), (x2.toNat, 0)]).toNat = g * 2 ^ 28 + k * 2 ^ 24 + y + x0.toNat * 2 ^ 16 + x1.toNat * 2 ^ 8 + x2.toNat * 2 ^ 0 := by
    rw [asm3, BitVec.toNat_ofNat]; apply Nat.mod_eq_of_lt; show g * 2 ^ 28 + k * 2 ^ 24 + y + x0.toNat * 2 ^ 16 + x1.toNat * 2 ^ 8 + x2.toNat * 2 ^ 0 < 2 ^ 32; omega
  generalize (asm (g * 2 ^ 28 + k * 2 ^ 24 + y) [(x0.toNat, 16), (x1.toNat, 8), (x2.toNat, 0)]).toNat = N at hn
  exact ⟨N, rfl, by simp only [bits]; omega, by simp only [bits]; omega, by simp only [bits]; omega, fld_eq _ _ _ (by omega), fld_eq _ _ _ (by omega), fld_eq _ _ _ (by omega)⟩

theorem word23 (g k : Nat) (hg : g < 16 ∧ k < 16) (base y : Nat) (hy : y = 0) (hb : base = g * 2 ^ 28 + k * 2 ^ 24 + y) (x0 : BitVec 3) (x1 : BitVec 8) (x2 : BitVec 1) :
    ∃ N, (asm base [(x0.toNat, 16), (x1.toNat, 8), (x2.toNat, 0)]).toNat = N
      ∧ bits N 28 4 = g
      ∧ bits N 24 4 = k
      ∧ bits N 1 7 = 0
      ∧ bits N 19 5 = 0
      ∧ fld N 16 3 = x0
      ∧ fld N 8 8 = x1
      ∧ fld N 0 1 = x2 := by
  subst hb
  have hx0 := x0.isLt
  have hx1 := x1.isLt
  have hx2 := x2.isLt
  have hn : (asm (g * 2 ^ 28 + k * 2 ^ 24 + y) [(x0.toNat, 16), (x1.toNat, 8), (x2.toNat, 0)]).toNat = g * 2 ^ 28 + k * 2 ^ 24 + y + x0.toNat * 2 ^ 16 + x1.toNat * 2 ^ 8 + x2.toNat * 2 ^ 0 := by
    rw [asm3, BitVec.toNat_ofNat]; apply Nat.mod_eq_of_lt; show g * 2 ^ 28 + k * 2 ^ 24 + y + x0.toNat * 2 ^ 16 + x1.toNat * 2 ^ 8 + x2.toNat * 2 ^ 0 < 2 ^ 32; omega
  generalize (asm (g * 2 ^ 28 + k * 2 ^ 24 + y) [(x0.toNat, 16), (x1.toNat, 8), (x2.toNat, 0)]).toNat = N at hn
  exact ⟨N, rfl, by simp only [bits]; omega, by simp only [bits]; omega, by simp only [bits]; omega, by simp only [bits]; omega, fld_eq _ _ _ (by omega), fld_eq _ _ _ (by omega), fld_eq _ _ _ (by omega)⟩

theorem word24 (g k : Nat) (hg : g < 16 ∧ k < 16) (base y : Nat) (hy : y = 0) (hb : base = g * 2 ^ 28 + k * 2 ^ 24 + y) (x0 : BitVec 8) :
    ∃ N, (asm base [(x0.toNat, 0)]).toNat = N
      ∧ bits N 28 4 = g
      ∧ bits N 24 4 = k
      ∧ bits N 8 16 = 0
      ∧ fld N 0 8 = x0 := by
  subst hb
  have hx0 := x0.isLt
  have hn : (asm (g * 2 ^ 28 + k * 2 ^ 24 + y) [(x0.toNat, 0)]).toNat = g * 2 ^ 28 + k * 2 ^ 24 + y + x0.toNat * 2 ^ 0 := by
    rw [asm1, BitVec.toNat_ofNat]; apply Nat.mod_eq_of_lt; show g * 2 ^ 28 + k * 2 ^ 24 + y + x0.toNat * 2 ^ 0 < 2 ^ 32; omega
  generalize (asm (g * 2 ^ 28 + k * 2 ^ 24 + y) [(x0.toNat, 0)]).toNat = N at hn
  exact ⟨N, rfl, by simp only [bits]; omega, by simp only [bits]; omega, by simp only [bits]; omega, fld_eq _ _ _ (by omega)⟩

theorem word25 (g k : Nat) (hg : g < 16 ∧ k < 16) (base y : Nat) (hy : y = 0) (hb : base = g * 2 ^ 28 + k * 2 ^ 24 + y) (x0 : BitVec 8) :
    ∃ N, (asm base [(x0.toNat, 8)]).toNat = N
      ∧ bits N 28 4 = g
      ∧ bits N 24 4 = k
      ∧ bits N 0 8 = 0
      ∧ bits N 16 8 = 0
      ∧ fld N 8 8 = x0 := by
  subst hb
  have hx0 := x0.isLt
  have hn : (asm (g * 2 ^ 28 + k * 2 ^ 24 + y) [(x0.toNat, 8)]).toNat = g * 2 ^ 28 + k * 2 ^ 24 + y + x0.toNat * 2 ^ 8 := by
    rw [asm1, BitVec.toNat_ofNat]; apply Nat.mod_eq_of_lt; show g * 2 ^ 28 + k * 2 ^ 24 + y + x0.toNat * 2 ^ 8 < 2 ^ 32; omega
  generalize (asm (g * 2 ^ 28 + k * 2 ^ 24 + y) [(x0.toNat, 8)]).toNat = N at hn
  exact ⟨N, rfl, by simp only [bits]; omega, by simp only [bits]; omega, by simp only [bits]; omega, by simp only [bits]; omega, fld_eq _ _ _ (by omega)⟩

theorem word26 (g k : Nat) (hg : g < 16 ∧ k < 16) (base y : Nat) (hy : y = 0) (hb : base = g * 2 ^ 28 + k * 2 ^ 24 + y) (x0 : BitVec 1) (x1 : BitVec 8) (x2 : BitVec 8) :
    ∃ N, (asm base [(x0.toNat, 16), (x1.toNat, 8), (x2.toNat, 0)]).toNat = N
      ∧ bits N 28 4 = g
      ∧ bits N 24 4 = k
      ∧ bits N 17 7 = 0
      ∧ fld N 16 1 = x0
      ∧ fld N 8 8 = x1
      ∧ fld N 0 8 = x2 := by
  subst hb
  have hx0 := x0.isLt
  have hx1 := x1.isLt
  have hx2 := x2.isLt
  have hn : (asm (g * 2 ^ 28 + k * 2 ^ 24 + y) [(x0.toNat, 16), (x1.toNat, 8), (x2.toNat, 0)]).toNat = g * 2 ^ 28 + k * 2 ^ 24 + y + x0.toNat * 2 ^ 16 + x1.toNat * 2 ^ 8 + x2.toNat * 2 ^ 0 := by
    rw [asm3, BitVec.toNat_ofNat]; apply Nat.mod_eq_of_lt; show g * 2 ^ 28 + k * 2 ^ 24 + y + x0.toNat * 2 ^ 16 + x1.toNat * 2 ^ 8 + x2.toNat * 2 ^ 0 < 2 ^ 32; omega
  generalize (asm (g * 2 ^ 28 + k * 2 ^ 24 + y) [(x0.toNat, 16), (x1.toNat, 8), (x2.toNat, 0)]).toNat = N at hn
  exact ⟨N, rfl, by simp only [bits]; omega, by simp only [bits]; omega, by simp only [bits]; omega, fld_eq _ _ _ (by omega), fld_eq _ _ _ (by omega), fld_eq _ _ _ (by omega)⟩

theorem word27 (g k : Nat) (hg : g < 16 ∧ k < 16) (base y : Nat) (hy : y = 0) (hb : base = g * 2 ^ 28 + k * 2 ^ 24 + y) (x0 : BitVec 1) (x1 : BitVec 8) (x2 : BitVec 6) :
    ∃ N, (asm base [(x0.toNat, 16), (x1.toNat, 8), (x2.toNat, 0)]).toNat = N
      ∧ bits N 28 4 = g
      ∧ bits N 24 4 = k
      ∧ bits N 6 2 = 0
      ∧ bits N 17 7 = 0
      ∧ fld N 16 1 = x0
      ∧ fld N 8 8 = x1
      ∧ fld N 0 6 = x2 := by
  subst hb
  have hx0 := x0.isLt
  have hx1 := x1.isLt
  have hx2 := x2.isLt
  have hn : (asm (g * 2 ^ 28 + k * 2 ^ 24 + y) [(x0.toNat, 16), (x1.toNat, 8), (x2.toNat, 0)]).toNat = g * 2 ^ 28 + k * 2 ^ 24 + y + x0.toNat * 2 ^ 16 + x1.toNat * 2 ^ 8 + x2.toNat * 2 ^ 0 := by
    rw [asm3, BitVec.toNat_ofNat]; apply Nat.mod_eq_of_lt; show g * 2 ^ 28 + k * 2 ^ 24 + y + x0.toNat * 2 ^ 16 + x1.toNat * 2 ^ 8 + x2.toNat * 2 ^ 0 < 2 ^ 32; omega
  generalize (asm (g * 2 ^ 28 + k * 2 ^ 24 + y) [(x0.toNat, 16), (x1.toNat, 8), (x2.toNat, 0)]).toNat = N at hn
  exact ⟨N, rfl, by simp only [bits]; omega, by simp only [bits]; omega, by simp only [bits]; omega, by simp only [bits]; omega, fld_eq _ _ _ (by omega), fld_eq _ _ _ (by omega), fld_eq _ _ _ (by omega)⟩

theorem word28 (g k : Nat) (hg : g < 16 ∧ k < 16) (base y : Nat) (hy : y = 0) (hb : base = g * 2 ^ 28 + k * 2 ^ 24 + y) (x0 : BitVec 8) (x1 : BitVec 8) (x2 : BitVec 1) (x3 : BitVec 1) :
    ∃ N, (asm base [(x0.toNat, 16), (x1.toNat, 8), (x2.toNat, 7), (x3.toNat, 6)]).toNat = N
      ∧ bits N 28 4 = g
      ∧ bits N 24 4 = k
      ∧ bits N 0 6 = 0
      ∧ fld N 16 8 = x0
      ∧ fld N 8 8 = x1
      ∧ fld N 7 1 = x2
      ∧ fld N 6 1 = x3 := by
  subst hb
  have hx0 := x0.isLt
  have hx1 := x1.isLt
  have hx2 := x2.isLt
  have hx3 := x3.isLt
  have hn : (asm (g * 2 ^ 28 + k * 2 ^ 24 + y) [(x0.toNat, 16), (x1.toNat, 8), (x2.toNat, 7), (x3.toNat, 6)]).toNat = g * 2 ^ 28 + k * 2 ^ 24 + y + x0.toNat * 2 ^ 16 + x1.toNat * 2 ^ 8 + x2.toNat * 2 ^ 7 + x3.toNat * 2 ^ 6 := by
    rw [asm4, BitVec.toNat_ofNat]; apply Nat.mod_eq_of_lt; show g * 2 ^ 28 + k * 2 ^ 24 + y + x0.toNat * 2 ^ 16 + x1.toNat * 2 ^ 8 + x2.toNat * 2 ^ 7 + x3.toNat * 2 ^ 6 < 2 ^ 32; omega
  generalize (asm (g * 2 ^ 28 + k * 2 ^ 24 + y) [(x0.toNat, 16), (x1.toNat, 8), (x2.toNat, 7), (x3.toNat, 6)]).toNat = N at hn
  exact ⟨N, rfl, by simp only [bits]; omega, by simp only [bits]; omega, by simp only [bits]; omega, fld_eq _ _ _ (by omega), fld_eq _ _ _ (by omega), fld_eq _ _ _ (by omega), fld_eq _ _ _ (by omega)⟩

theorem word29 (g k : Nat) (hg : g < 16 ∧ k < 16) (base y : Nat) (hy : y = 0) (hb : base = g * 2 ^ 28 + k * 2 ^ 24 + y) (x0 : BitVec 1) (x1 : BitVec 8) :
    ∃ N, (asm base [(x0.toNat, 16), (x1.toNat, 8)]).toNat = N
      ∧ bits N 28 4 = g
      ∧ bits N 24 4 = k
      ∧ bits N 0 8 = 0
      ∧ bits N 17 7 = 0
      ∧ fld N 16 1 = x0
      ∧ fld N 8 8 = x1 := by
  subst hb
  have hx0 := x0.isLt
  have hx1 := x1.isLt
  have hn : (asm (g * 2 ^ 28 + k * 2 ^ 24 + y) [(x0.toNat, 16), (x1.toNat, 8)]).toNat = g * 2 ^ 28 + k * 2 ^ 24 + y + x0.toNat * 2 ^ 16 + x1.toNat * 2 ^ 8 := by
    rw [asm2, BitVec.toNat_ofNat]; apply Nat.mod_eq_of_lt; show g * 2 ^ 28 + k * 2 ^ 24 + y + x0.toNat * 2 ^ 16 + x1.toNat * 2 ^ 8 < 2 ^ 32; omega
  generalize (asm (g * 2 ^ 28 + k * 2 ^ 24 + y) [(x0.toNat, 16), (x1.toNat, 8)]).toNat = N at hn
  exact ⟨N, rfl, by simp only [bits]; omega, by simp only [bits]; omega, by simp only [bits]; omega, by simp only [bits]; omega, fld_eq _ _ _ (by omega), fld_eq _ _ _ (by omega)⟩

theorem word30 (g k : Nat) (hg : g < 16 ∧ k < 16) (base y : Nat) (hy : y = 0) (hb : base = g * 2 ^ 28 + k * 2 ^ 24 + y) (x0 : BitVec 1) (x1 : BitVec 3) (x2 : BitVec 2) (x3 : BitVec 2) :
    ∃ N, (asm base [(x0.toNat, 23), (x1.toNat, 16), (x2.toNat, 8), (x3.toNat, 0)]).toNat = N
      ∧ bits N 28 4 = g
      ∧ bits N 24 4 = k
      ∧ bits N 2 6 = 0
      ∧ bits N 10 6 = 0
      ∧ bits N 19 4 = 0
      ∧ fld N 23 1 = x0
      ∧ fld N 16 3 = x1
      ∧ fld N 8 2 = x2
      ∧ fld N 0 2 = x3 := by
  subst hb
  have hx0 := x0.isLt
  have hx1 := x1.isLt
  have hx2 := x2.isLt
  have hx3 := x3.isLt
  have hn : (asm (g * 2 ^ 28 + k * 2 ^ 24 + y) [(x0.toNat, 23), (x1.toNat, 16), (x2.toNat, 8), (x3.toNat, 0)]).toNat = g * 2 ^ 28 + k * 2 ^ 24 + y + x0.toNat * 2 ^ 23 + x1.toNat * 2 ^ 16 + x2.toNat * 2 ^ 8 + x3.toNat * 2 ^ 0 := by
    rw [asm4, BitVec.toNat_ofNat]; apply Nat.mod_eq_of_lt; show g * 2 ^ 28 + k * 2 ^ 24 + y + x0.toNat * 2 ^ 23 + x1.toNat * 2 ^ 16 + x2.toNat * 2 ^ 8 + x3.toNat * 2 ^ 0 < 2 ^ 32; omega
  generalize (asm (g * 2 ^ 28 + k * 2 ^ 24 + y) [(x0.toNat, 23), (x1.toNat, 16), (x2.toNat, 8), (x3.toNat, 0)]).toNat = N at hn
  exact ⟨N, rfl, by simp only [bits]; omega, by simp only [bits]; omega, by simp only [bits]; omega, by simp only [bits]; omega, by simp only [bits]; omega, fld_eq _ _ _ (by omega), fld_eq _ _ _ (by omega), fld_eq _ _ _ (by omega), fld_eq _ _ _ (by omega)⟩

theorem word31 (g k : Nat) (hg : g < 16 ∧ k < 16) (base y : Nat) (hy : y = 0) (hb : base = g * 2 ^ 28 + k * 2 ^ 24 + y) (x0 : BitVec 8) (x1 : BitVec 8) (x2 : BitVec 4) :
    ∃ N, (asm base [(x0.toNat, 16), (x1.toNat, 8), (x2.toNat, 0)]).toNat = N
      ∧ bits N 28 4 = g
      ∧ bits N 24 4 = k
      ∧ bits N 4 4 = 0
      ∧ fld N 16 8 = x0
      ∧ fld N 8 8 = x1
      ∧ fld N 0 4 = x2 := by
  subst hb
  have hx0 := x0.isLt
  have hx1 := x1.isLt
  have hx2 := x2.isLt
  have hn : (asm (g * 2 ^ 28 + k * 2 ^ 24 + y) [(x0.toNat, 16), (x1.toNat, 8), (x2.toNat, 0)]).toNat = g * 2 ^ 28 + k * 2 ^ 24 + y + x0.toNat * 2 ^ 16 + x1.toNat * 2 ^ 8 + x2.toNat * 2 ^ 0 := by
    rw [asm3, BitVec.toNat_ofNat]; apply Nat.mod_eq_of_lt; show g * 2 ^ 28 + k * 2 ^ 24 + y + x0.toNat * 2 ^ 16 + x1.toNat * 2 ^ 8 + x2.toNat * 2 ^ 0 < 2 ^ 32; omega
  generalize (asm (g * 2 ^ 28 + k * 2 ^ 24 + y) [(x0.toNat, 16), (x1.toNat, 8), (x2.toNat, 0)]).toNat = N at hn
  exact ⟨N, rfl, by simp only [bits]; omega, by simp only [bits]; omega, by simp only [bits]; omega, fld_eq _ _ _ (by omega), fld_eq _ _ _ (by omega), fld_eq _ _ _ (by omega)⟩

theorem word32 (g k : Nat) (hg : g < 16 ∧ k < 16) (base y : Nat) (hy : y = 0) (hb : base = g * 2 ^ 28 + k * 2 ^ 24 + y) (x0 : BitVec 2) (x1 : BitVec 6) :
    ∃ N, (asm base [(x0.toNat, 6), (x1.toNat, 0)]).toNat = N
      ∧ bits N 28 4 = g
      ∧ bits N 24 4 = k
      ∧ bits N 8 16 = 0
      ∧ fld N 6 2 = x0
      ∧ fld N 0 6 = x1 := by
  subst hb
  have hx0 := x0.isLt
  have hx1 := x1.isLt
  have hn : (asm (g * 2 ^ 28 + k * 2 ^ 24 + y) [(x0.toNat, 6), (x1.toNat, 0)]).toNat = g * 2 ^ 28 + k * 2 ^ 24 + y + x0.toNat * 2 ^ 6 + x1.toNat * 2 ^ 0 := by
    rw [asm2, BitVec.toNat_ofNat]; apply Nat.mod_eq_of_lt; show g * 2 ^ 28 + k * 2 ^ 24 + y + x0.toNat * 2 ^ 6 + x1.toNat * 2 ^ 0 < 2 ^ 32; omega
  generalize (asm (g * 2 ^ 28 + k * 2 ^ 24 + y) [(x0.toNat, 6), (x1.toNat, 0)]).toNat = N at hn
  exact ⟨N, rfl, by simp only [bits]; omega, by simp only [bits]; omega, by simp only [bits]; omega, fld_eq _ _ _ (by omega), fld_eq _ _ _ (by omega)⟩

theorem word33 (g k : Nat) (hg : g < 16 ∧ k < 16) (base y : Nat) (hy : y = 0) (hb : base = g * 2 ^ 28 + k * 2 ^ 24 + y) (x0 : BitVec 8) (x1 : BitVec 6) :
    ∃ N, (asm base [(x0.toNat, 8), (x1.toNat, 0)]).toNat = N
      ∧ bits N 28 4 = g
      ∧ bits N 24 4 = k
      ∧ bits N 6 2 = 0
      ∧ bits N 16 8 = 0
      ∧ fld N 8 8 = x0
      ∧ fld N 0 6 = x1 := by
  subst hb
  have hx0 := x0.isLt
  have hx1 := x1.isLt
  have hn : (asm (g * 2 ^ 28 + k * 2 ^ 24 + y) [(x0.toNat, 8), (x1.toNat, 0)]).toNat = g * 2 ^ 28 + k * 2 ^ 24 + y + x0.toNat * 2 ^ 8 + x1.toNat * 2 ^ 0 := by
    rw [asm2, BitVec.toNat_ofNat]; apply Nat.mod_eq_of_lt; show g * 2 ^ 28 + k * 2 ^ 24 + y + x0.toNat * 2 ^ 8 + x1.toNat * 2 ^ 0 < 2 ^ 32; omega
  generalize (asm (g * 2 ^ 28 + k * 2 ^ 24 + y) [(x0.toNat, 8), (x1.toNat, 0)]).toNat = N at hn
  exact ⟨N, rfl, by simp only [bits]; omega, by simp only [bits]; omega, by simp only [bits]; omega, by simp only [bits]; omega, fld_eq _ _ _ (by omega), fld_eq _ _ _ (by omega)⟩

theorem word34 (g k : Nat) (hg : g < 16 ∧ k < 16) (base y : Nat) (hy : y = 0) (hb : base = g * 2 ^ 28 + k * 2 ^ 24 + y) (x0 : BitVec 16) :
    ∃ N, (asm base [(x0.toNat, 0)]).toNat = N
      ∧ bits N 28 4 = g
      ∧ bits N 24 4 = k
      ∧ bits N 16 8 = 0
      ∧ fld N 0 16 = x0 := by
  subst hb
  have hx0 := x0.isLt
  have hn : (asm (g * 2 ^ 28 + k * 2 ^ 24 + y) [(x0.toNat, 0)]).toNat = g * 2 ^ 28 + k * 2 ^ 24 + y + x0.toNat * 2 ^ 0 := by
    rw [asm1, BitVec.toNat_ofNat]; apply Nat.mod_eq_of_lt; show g * 2 ^ 28 + k * 2 ^ 24 + y + x0.toNat * 2 ^ 0 < 2 ^ 32; omega
  generalize (asm (g * 2 ^ 28 + k * 2 ^ 24 + y) [(x0.toNat, 0)]).toNat = N at hn
  exact ⟨N, rfl, by simp only [bits]; omega, by simp only [bits]; omega, by simp only [bits]; omega, fld_eq _ _ _ (by omega)⟩

theorem word35 (g k : Nat) (hg : g < 16 ∧ k < 16) (base y : Nat) (hy : y < 256) (hb : base = g * 2 ^ 28 + k * 2 ^ 24 + y * 2 ^ 0) (x0 : BitVec 8) :
    ∃ N, (asm base [(x0.toNat, 8)]).toNat = N
      ∧ bits N 28 4 = g
      ∧ bits N 24 4 = k
      ∧ bits N 0 8 = y
      ∧ bits N 16 8 = 0
      ∧ fld N 8 8 = x0 := by
  subst hb
  have hx0 := x0.isLt
  have hn : (asm (g * 2 ^ 28 + k * 2 ^ 24 + y * 2 ^ 0) [(x0.toNat, 8)]).toNat = g * 2 ^ 28 + k * 2 ^ 24 + y * 2 ^ 0 + x0.toNat * 2 ^ 8 := by
    rw [asm1, BitVec.toNat_ofNat]; apply Nat.mod_eq_of_lt; show g * 2 ^ 28 + k * 2 ^ 24 + y * 2 ^ 0 + x0.toNat * 2 ^ 8 < 2 ^ 32; omega
  generalize (asm (g * 2 ^ 28 + k * 2 ^ 24 + y * 2 ^ 0) [(x0.toNat, 8)]).toNat = N at hn
  exact ⟨N, rfl, by simp only [bits]; omega, by simp only [bits]; omega, by simp only [bits]; omega, by simp only [bits]; omega, fld_eq _ _ _ (by omega)⟩

theorem word36 (g k : Nat) (hg : g < 16 ∧ k < 16) (base y : Nat) (hy : y < 4) (hb : base = g * 2 ^ 28 + k * 2 ^ 24 + y * 2 ^ 22) (x0 : BitVec 2) (x1 : BitVec 8) :
    ∃ N, (asm base [(x0.toNat, 20), (x1.toNat, 8)]).toNat = N
      ∧ bits N 28 4 = g
      ∧ bits N 24 4 = k
      ∧ bits N 0 8 = 0
      ∧ bits N 16 4 = 0
      ∧ bits N 22 2 = y
      ∧ fld N 20 2 = x0
      ∧ fld N 8 8 = x1 := by
  subst hb
  have hx0 := x0.isLt
  have hx1 := x1.isLt
  have hn : (asm (g * 2 ^ 28 + k * 2 ^ 24 + y * 2 ^ 22) [(x0.toNat, 20), (x1.toNat, 8)]).toNat = g * 2 ^ 28 + k * 2 ^ 24 + y * 2 ^ 22 + x0.toNat * 2 ^ 20 + x1.toNat * 2 ^ 8 := by
    rw [asm2, BitVec.toNat_ofNat]; apply Nat.mod_eq_of_lt; show g * 2 ^ 28 + k * 2 ^ 24 + y * 2 ^ 22 + x0.toNat * 2 ^ 20 + x1.toNat * 2 ^ 8 < 2 ^ 32; omega
  generalize (asm (g * 2 ^ 28 + k * 2 ^ 24 + y * 2 ^ 22) [(x0.toNat, 20), (x1.toNat, 8)]).toNat = N at hn
  exact ⟨N, rfl, by simp only [bits]; omega, by simp only [bits]; omega, by simp only [bits]; omega, by simp only [bits]; omega, by simp only [bits]; omega, fld_eq _ _ _ (by omega), fld_eq _ _ _ (by omega)⟩

theorem word37 (g k : Nat) (hg : g < 16 ∧ k < 16) (base y : Nat) (hy : y < 4) (hb : base = g * 2 ^ 28 + k * 2 ^ 24 + y * 2 ^ 22) (x0 : BitVec 2) :
    ∃ N, (asm base [(x0.toNat, 20)]).toNat = N
      ∧ bits N 28 4 = g
      ∧ bits N 24 4 = k
      ∧ bits N 0 20 = 0
      ∧ bits N 22 2 = y
      ∧ fld N 20 2 = x0 := by
  subst hb
  have hx0 := x0.isLt
  have hn : (asm (g * 2 ^ 28 + k * 2 ^ 24 + y * 2 ^ 22) [(x0.toNat, 20)]).toNat = g * 2 ^ 28 + k * 2 ^ 24 + y * 2 ^ 22 + x0.toNat * 2 ^ 20 := by
    rw [asm1, BitVec.toNat_ofNat]; apply Nat.mod_eq_of_lt; show g * 2 ^ 28 + k * 2 ^ 24 + y * 2 ^ 22 + x0.toNat * 2 ^ 20 < 2 ^ 32; omega
  generalize (asm (g * 2 ^ 28 + k * 2 ^ 24 + y * 2 ^ 22) [(x0.toNat, 20)]).toNat = N at hn
  exact ⟨N, rfl, by simp only [bits]; omega, by simp only [bits]; omega, by simp only [bits]; omega, by simp only [bits]; omega, fld_eq _ _ _ (by omega)⟩

theorem word38 (g k : Nat) (hg : g < 16 ∧ k < 16) (base y : Nat) (hy : y < 65536) (hb : base = g * 2 ^ 28 + k * 2 ^ 24 + y * 2 ^ 0) (x0 : BitVec 8) :
    ∃ N, (asm base [(x0.toNat, 16)]).toNat = N
      ∧ bits N 28 4 = g
      ∧ bits N 24 4 = k
      ∧ bits N 0 16 = y
      ∧ fld N 16 8 = x0 := by
  subst hb
  have hx0 := x0.isLt
  have hn : (asm (g * 2 ^ 28 + k * 2 ^ 24 + y * 2 ^ 0) [(x0.toNat, 16)]).toNat = g * 2 ^ 28 + k * 2 ^ 24 + y * 2 ^ 0 + x0.toNat * 2 ^ 16 := by
    rw [asm1, BitVec.toNat_ofNat]; apply Nat.mod_eq_of_lt; show g * 2 ^ 28 + k * 2 ^ 24 + y * 2 ^ 0 + x0.toNat * 2 ^ 16 < 2 ^ 32; omega
  generalize (asm (g * 2 ^ 28 + k * 2 ^ 24 + y * 2 ^ 0) [(x0.toNat, 16)]).toNat = N at hn
  exact ⟨N, rfl, by simp only [bits]; omega, by simp only [bits]; omega, by simp only [bits]; omega, fld_eq _ _ _ (by omega)⟩

theorem word39 (g k : Nat) (hg : g < 16 ∧ k < 16) (base y : Nat) (hy : y < 4096) (hb : base = g * 2 ^ 28 + k * 2 ^ 24 + y * 2 ^ 4) (x0 : BitVec 8) (x1 : BitVec 4) :
    ∃ N, (asm base [(x0.toNat, 16), (x1.toNat, 0)]).toNat = N
      ∧ bits N 28 4 = g
      ∧ bits N 24 4 = k
      ∧ bits N 4 12 = y
      ∧ fld N 16 8 = x0
      ∧ fld N 0 4 = x1 := by
  subst hb
  have hx0 := x0.isLt
  have hx1 := x1.isLt
  have hn : (asm (g * 2 ^ 28 + k * 2 ^ 24 + y * 2 ^ 4) [(x0.toNat, 16), (x1.toNat, 0)]).toNat = g * 2 ^ 28 + k * 2 ^ 24 + y * 2 ^ 4 + x0.toNat * 2 ^ 16 + x1.toNat * 2 ^ 0 := by
    rw [asm2, BitVec.toNat_ofNat]; apply Nat.mod_eq_of_lt; show g * 2 ^ 28 + k * 2 ^ 24 + y * 2 ^ 4 + x0.toNat * 2 ^ 16 + x1.toNat * 2 ^ 0 < 2 ^ 32; omega
  generalize (asm (g * 2 ^ 28 + k * 2 ^ 24 + y * 2 ^ 4) [(x0.toNat, 16), (x1.toNat, 0)]).toNat = N at hn
  exact ⟨N, rfl, by simp only [bits]; omega, by simp only [bits]; omega, by simp only [bits]; omega, fld_eq _ _ _ (by omega), fld_eq _ _ _ (by omega)⟩

theorem word40 (g k : Nat) (hg : g < 16 ∧ k < 16) (base y : Nat) (hy : y = 0) (hb : base = g * 2 ^ 28 + k * 2 ^ 24 + y) (x0 : BitVec 24) :
    ∃ N, (asm base [(x0.toNat, 0)]).toNat = N
      ∧ bits N 28 4 = g
      ∧ bits N 24 4 = k
      ∧ fld N 0 24 = x0 := by
  subst hb
  have hx0 := x0.isLt
  have hn : (asm (g * 2 ^ 28 + k * 2 ^ 24 + y) [(x0.toNat, 0)]).toNat = g * 2 ^ 28 + k * 2 ^ 24 + y + x0.toNat * 2 ^ 0 := by
    rw [asm1, BitVec.toNat_ofNat]; apply Nat.mod_eq_of_lt; show g * 2 ^ 28 + k * 2 ^ 24 + y + x0.toNat * 2 ^ 0 < 2 ^ 32; omega
  generalize (asm (g * 2 ^ 28 + k * 2 ^ 24 + y) [(x0.toNat, 0)]).toNat = N at hn
  exact ⟨N, rfl, by simp only [bits]; omega, by simp only [bits]; omega, fld_eq _ _ _ (by omega)⟩

theorem word41 (g k : Nat) (hg : g < 16 ∧ k < 16) (base y : Nat) (hy : y = 0) (hb : base = g * 2 ^ 28 + k * 2 ^ 24 + y) (x0 : BitVec 6) (x1 : BitVec 2) (x2 : BitVec 2) (x3 : BitVec 2) :
    ∃ N, (asm base [(x0.toNat, 18), (x1.toNat, 16), (x2.toNat, 14), (x3.toNat, 12)]).toNat = N
      ∧ bits N 28 4 = g
      ∧ bits N 24 4 = k
      ∧ bits N 0 12 = 0
      ∧ fld N 18 6 = x0
      ∧ fld N 16 2 = x1
      ∧ fld N 14 2 = x2
      ∧ fld N 12 2 = x3 := by
  subst hb
  have hx0 := x0.isLt
  have hx1 := x1.isLt
  have hx2 := x2.isLt
  have hx3 := x3.isLt
  have hn : (asm (g * 2 ^ 28 + k * 2 ^ 24 + y) [(x0.toNat, 18), (x1.toNat, 16), (x2.toNat, 14), (x3.toNat, 12)]).toNat = g * 2 ^ 28 + k * 2 ^ 24 + y + x0.toNat * 2 ^ 18 + x1.toNat * 2 ^ 16 + x2.toNat * 2 ^ 14 + x3.toNat * 2 ^ 12 := by
    rw [asm4, BitVec.toNat_ofNat]; apply Nat.mod_eq_of_lt; show g * 2 ^ 28 + k * 2 ^ 24 + y + x0.toNat * 2 ^ 18 + x1.toNat * 2 ^ 16 + x2.toNat * 2 ^ 14 + x3.toNat * 2 ^ 12 < 2 ^ 32; omega
  generalize (asm (g * 2 ^ 28 + k * 2 ^ 24 + y) [(x0.toNat, 18), (x1.toNat, 16), (x2.toNat, 14), (x3.toNat, 12)]).toNat = N at hn
  exact ⟨N, rfl, by simp only [bits]; omega, by simp only [bits]; omega, by simp only [bits]; omega, fld_eq _ _ _ (by omega), fld_eq _ _ _ (by omega), fld_eq _ _ _ (by omega), fld_eq _ _ _ (by omega)⟩

theorem word42 (g k : Nat) (hg : g < 16 ∧ k < 16) (base y : Nat) (hy : y = 0) (hb : base = g * 2 ^ 28 + k * 2 ^ 24 + y) (x0 : BitVec 1) (x1 : BitVec 3) (x2 : BitVec 1) (x3 : BitVec 1) (x4 : BitVec 3) (x5 : BitVec 1) (x6 : BitVec 1) (x7 : BitVec 1) (x8 : BitVec 4) :
    ∃ N, (asm base [(x0.toNat, 23), (x1.toNat, 20), (x2.toNat, 19), (x3.toNat, 18), (x4.toNat, 15), (x5.toNat, 14), (x6.toNat, 13), (x7.toNat, 12), (x8.toNat, 8)]).toNat = N
      ∧ bits N 28 4 = g
      ∧ bits N 24 4 = k
      ∧ bits N 0 8 = 0
      ∧ fld N 23 1 = x0
      ∧ fld N 20 3 = x1
      ∧ fld N 19 1 = x2
      ∧ fld N 18 1 = x3
      ∧ fld N 15 3 = x4
      ∧ fld N 14 1 = x5
      ∧ fld N 13 1 = x6
      ∧ fld N 12 1 = x7
      ∧ fld N 8 4 = x8 := by
  subst hb
  have hx0 := x0.isLt
  have hx1 := x1.isLt
  have hx2 := x2.isLt
  have hx3 := x3.isLt
  have hx4 := x4.isLt
  have hx5 := x5.isLt
  have hx6 := x6.isLt
  have hx7 := x7.isLt
  have hx8 := x8.isLt
  have hn : (asm (g * 2 ^ 28 + k * 2 ^ 24 + y) [(x0.toNat, 23), (x1.toNat, 20), (x2.toNat, 19), (x3.toNat, 18), (x4.toNat, 15), (x5.toNat, 14), (x6.toNat, 13), (x7.toNat, 12), (x8.toNat, 8)]).toNat = g * 2 ^ 28 + k * 2 ^ 24 + y + x0.toNat * 2 ^ 23 + x1.toNat * 2 ^ 20 + x2.toNat * 2 ^ 19 + x3.toNat * 2 ^ 18 + x4.toNat * 2 ^ 15 + x5.toNat * 2 ^ 14 + x6.toNat * 2 ^ 13 + x7.toNat * 2 ^ 12 + x8.toNat * 2 ^ 8 := by
    rw [asm9, BitVec.toNat_ofNat]; apply Nat.mod_eq_of_lt; show g * 2 ^ 28 + k * 2 ^ 24 + y + x0.toNat * 2 ^ 23 + x1.toNat * 2 ^ 20 + x2.toNat * 2 ^ 19 + x3.toNat * 2 ^ 18 + x4.toNat * 2 ^ 15 + x5.toNat * 2 ^ 14 + x6.toNat * 2 ^ 13 + x7.toNat * 2 ^ 12 + x8.toNat * 2 ^ 8 < 2 ^ 32; omega
  generalize (asm (g * 2 ^ 28 + k * 2 ^ 24 + y) [(x0.toNat, 23), (x1.toNat, 20), (x2.toNat, 19), (x3.toNat, 18), (x4.toNat, 15), (x5.toNat, 14), (x6.toNat, 13), (x7.toNat, 12), (x8.toNat, 8)]).toNat = N at hn
  exact ⟨N, rfl, by simp only [bits]; omega, by simp only [bits]; omega, by simp only [bits]; omega, fld_eq _ _ _ (by omega), fld_eq _ _ _ (by omega), fld_eq _ _ _ (by omega), fld_eq _ _ _ (by omega), fld_eq _ _ _ (by omega), fld_eq _ _ _ (by omega), fld_eq _ _ _ (by omega), fld_eq _ _ _ (by omega), fld_eq _ _ _ (by omega)⟩

theorem word43 (g k : Nat) (hg : g = 15 ∧ k = 12) (base y : Nat) (hy : y = 0) (hb : base = g * 2 ^ 28 + k * 2 ^ 24 + y) (x0 : BitVec 12) (x1 : BitVec 4) (x2 : BitVec 4) (x3 : BitVec 4) (x4 : BitVec 1) :
    ∃ N, (asm base [(x0.toNat, 14), (x1.toNat, 10), (x2.toNat, 6), (x3.toNat, 2), (x4.toNat, 1)]).toNat = N
      ∧ bits N 28 4 = g
      ∧ bits N 24 4 = k + x0.toNat / 2 ^ 10
      ∧ bits N 0 1 = 0
      ∧ fld N 14 12 = x0
      ∧ fld N 10 4 = x1
      ∧ fld N 6 4 = x2
      ∧ fld N 2 4 = x3
      ∧ fld N 1 1 = x4 := by
  subst hb
  have hx0 := x0.isLt
  have hx1 := x1.isLt
  have hx2 := x2.isLt
  have hx3 := x3.isLt
  have hx4 := x4.isLt
  have hn : (asm (g * 2 ^ 28 + k * 2 ^ 24 + y) [(x0.toNat, 14), (x1.toNat, 10), (x2.toNat, 6), (x3.toNat, 2), (x4.toNat, 1)]).toNat = g * 2 ^ 28 + k * 2 ^ 24 + y + x0.toNat * 2 ^ 14 + x1.toNat * 2 ^ 10 + x2.toNat * 2 ^ 6 + x3.toNat * 2 ^ 2 + x4.toNat * 2 ^ 1 := by
    rw [asm5, BitVec.toNat_ofNat]; apply Nat.mod_eq_of_lt; show g * 2 ^ 28 + k * 2 ^ 24 + y + x0.toNat * 2 ^ 14 + x1.toNat * 2 ^ 10 + x2.toNat * 2 ^ 6 + x3.toNat * 2 ^ 2 + x4.toNat * 2 ^ 1 < 2 ^ 32; omega
  generalize (asm (g * 2 ^ 28 + k * 2 ^ 24 + y) [(x0.toNat, 14), (x1.toNat, 10), (x2.toNat, 6), (x3.toNat, 2), (x4.toNat, 1)]).toNat = N at hn
  exact ⟨N, rfl, by simp only [bits]; omega, by simp only [bits]; omega, by simp only [bits]; omega, fld_eq _ _ _ (by omega), fld_eq _ _ _ (by omega), fld_eq _ _ _ (by omega), fld_eq _ _ _ (by omega), fld_eq _ _ _ (by omega)⟩

theorem decode_0 {w : Word} {N : Nat} (e : w.toNat = N) (h : bits N 28 4 = 0) : decode w = decode0 N := by rw [decode, e, h]; rfl
theorem decode_1 {w : Word} {N : Nat} (e : w.toNat = N) (h : bits N 28 4 = 1) : decode w = decode1 N := by rw [decode, e, h]; rfl
theorem decode_2 {w : Word} {N : Nat} (e : w.toNat = N) (h : bits N 28 4 = 2) : decode w = decode2 N := by rw [decode, e, h]; rfl
theorem decode_3 {w : Word} {N : Nat} (e : w.toNat = N) (h : bits N 28 4 = 3) : decode w = decode3 N := by rw [decode, e, h]; rfl
theorem decode_4 {w : Word} {N : Nat} (e : w.toNat = N) (h : bits N 28 4 = 4) : decode w = decode4 N := by rw [decode, e, h]; rfl
theorem decode_5 {w : Word} {N : Nat} (e : w.toNat = N) (h : bits N 28 4 = 5) : decode w = decode5 N := by rw [decode, e, h]; rfl
theorem decode_6 {w : Word} {N : Nat} (e : w.toNat = N) (h : bits N 28 4 = 6) : decode w = decode6 N := by rw [decode, e, h]; rfl
theorem decode_7 {w : Word} {N : Nat} (e : w.toNat = N) (h : bits N 28 4 = 7) : decode w = decode7 N := by rw [decode, e, h]; rfl
theorem decode_8 {w : Word} {N : Nat} (e : w.toNat = N) (h : bits N 28 4 = 8) : decode w = decode8 N := by rw [decode, e, h]; rfl
theorem decode_9 {w : Word} {N : Nat} (e : w.toNat = N) (h : bits N 28 4 = 9) : decode w = decode9 N := by rw [decode, e, h]; rfl
theorem decode_A {w : Word} {N : Nat} (e : w.toNat = N) (h : bits N 28 4 = 10) : decode w = decodeA N := by rw [decode, e, h]; rfl
theorem decode_B {w : Word} {N : Nat} (e : w.toNat = N) (h : bits N 28 4 = 11) : decode w = decodeB N := by rw [decode, e, h]; rfl
theorem decode_C {w : Word} {N : Nat} (e : w.toNat = N) (h : bits N 28 4 = 12) : decode w = decodeC N := by rw [decode, e, h]; rfl
theorem decode_D {w : Word} {N : Nat} (e : w.toNat = N) (h : bits N 28 4 = 13) : decode w = decodeD N := by rw [decode, e, h]; rfl
theorem decode_E {w : Word} {N : Nat} (e : w.toNat = N) (h : bits N 28 4 = 14) : decode w = decodeE N := by rw [decode, e, h]; rfl

theorem decode_F {w : Word} {N : Nat} (e : w.toNat = N) (h : bits N 28 4 = 15) : decode w = decodeF N := by rw [decode, e, h]; rfl

namespace Round

theorem add (d : BitVec 8) (a : BitVec 8) (b : BitVec 8) : Statement (.add d a b) := by
  refine ⟨rfl, fun hw u h => ?_⟩
  cases h
  obtain ⟨N, hN, h1, h2, f0, f1, f2⟩ := word0 0 0 (by decide) 0 0 (by decide) rfl d a b
  rw [decode_0 hN h1, decode0, h2]
  rw [f0, f1, f2]
  rfl

theorem addi (d : BitVec 8) (a : BitVec 8) (i : BitVec 8) : Statement (.addi d a i) := by
  refine ⟨rfl, fun hw u h => ?_⟩
  cases h
  obtain ⟨N, hN, h1, h2, f0, f1, f2⟩ := word0 0 1 (by decide) 16777216 0 (by decide) rfl d a i
  rw [decode_0 hN h1, decode0, h2]
  rw [f0, f1, f2]
  rfl

theorem sub (d : BitVec 8) (a : BitVec 8) (b : BitVec 8) : Statement (.sub d a b) := by
  refine ⟨rfl, fun hw u h => ?_⟩
  cases h
  obtain ⟨N, hN, h1, h2, f0, f1, f2⟩ := word0 0 2 (by decide) 33554432 0 (by decide) rfl d a b
  rw [decode_0 hN h1, decode0, h2]
  rw [f0, f1, f2]
  rfl

theorem add64 (d : BitVec 8) (a : BitVec 8) (b : BitVec 8) : Statement (.add64 d a b) := by
  refine ⟨rfl, fun hw u h => ?_⟩
  cases h
  obtain ⟨N, hN, h1, h2, f0, f1, f2⟩ := word0 0 3 (by decide) 50331648 0 (by decide) rfl d a b
  rw [decode_0 hN h1, decode0, h2]
  rw [f0, f1, f2]
  rfl

theorem sub64 (d : BitVec 8) (a : BitVec 8) (b : BitVec 8) : Statement (.sub64 d a b) := by
  refine ⟨rfl, fun hw u h => ?_⟩
  cases h
  obtain ⟨N, hN, h1, h2, f0, f1, f2⟩ := word0 0 4 (by decide) 67108864 0 (by decide) rfl d a b
  rw [decode_0 hN h1, decode0, h2]
  rw [f0, f1, f2]
  rfl

theorem mul (d : BitVec 8) (a : BitVec 8) (b : BitVec 8) : Statement (.mul d a b) := by
  refine ⟨rfl, fun hw u h => ?_⟩
  cases h
  obtain ⟨N, hN, h1, h2, f0, f1, f2⟩ := word0 0 5 (by decide) 83886080 0 (by decide) rfl d a b
  rw [decode_0 hN h1, decode0, h2]
  rw [f0, f1, f2]
  rfl

theorem mulhs (d : BitVec 8) (a : BitVec 8) (b : BitVec 8) : Statement (.mulhs d a b) := by
  refine ⟨rfl, fun hw u h => ?_⟩
  cases h
  obtain ⟨N, hN, h1, h2, f0, f1, f2⟩ := word0 0 6 (by decide) 100663296 0 (by decide) rfl d a b
  rw [decode_0 hN h1, decode0, h2]
  rw [f0, f1, f2]
  rfl

theorem mulhn (d : BitVec 8) (a : BitVec 8) (b : BitVec 8) : Statement (.mulhn d a b) := by
  refine ⟨rfl, fun hw u h => ?_⟩
  cases h
  obtain ⟨N, hN, h1, h2, f0, f1, f2⟩ := word0 0 7 (by decide) 117440512 0 (by decide) rfl d a b
  rw [decode_0 hN h1, decode0, h2]
  rw [f0, f1, f2]
  rfl

theorem mac (d : BitVec 8) (a : BitVec 8) (b : BitVec 8) : Statement (.mac d a b) := by
  refine ⟨rfl, fun hw u h => ?_⟩
  cases h
  obtain ⟨N, hN, h1, h2, f0, f1, f2⟩ := word0 0 8 (by decide) 134217728 0 (by decide) rfl d a b
  rw [decode_0 hN h1, decode0, h2]
  rw [f0, f1, f2]
  rfl

theorem mulw (d : BitVec 8) (a : BitVec 8) (b : BitVec 8) : Statement (.mulw d a b) := by
  refine ⟨rfl, fun hw u h => ?_⟩
  cases h
  obtain ⟨N, hN, h1, h2, f0, f1, f2⟩ := word0 0 9 (by decide) 150994944 0 (by decide) rfl d a b
  rw [decode_0 hN h1, decode0, h2]
  rw [f0, f1, f2]
  rfl

theorem mins (d : BitVec 8) (a : BitVec 8) (b : BitVec 8) : Statement (.mins d a b) := by
  refine ⟨rfl, fun hw u h => ?_⟩
  cases h
  obtain ⟨N, hN, h1, h2, f0, f1, f2⟩ := word0 0 10 (by decide) 167772160 0 (by decide) rfl d a b
  rw [decode_0 hN h1, decode0, h2]
  rw [f0, f1, f2]
  rfl

theorem maxs (d : BitVec 8) (a : BitVec 8) (b : BitVec 8) : Statement (.maxs d a b) := by
  refine ⟨rfl, fun hw u h => ?_⟩
  cases h
  obtain ⟨N, hN, h1, h2, f0, f1, f2⟩ := word0 0 11 (by decide) 184549376 0 (by decide) rfl d a b
  rw [decode_0 hN h1, decode0, h2]
  rw [f0, f1, f2]
  rfl

theorem minn (d : BitVec 8) (a : BitVec 8) (b : BitVec 8) : Statement (.minn d a b) := by
  refine ⟨rfl, fun hw u h => ?_⟩
  cases h
  obtain ⟨N, hN, h1, h2, f0, f1, f2⟩ := word0 0 12 (by decide) 201326592 0 (by decide) rfl d a b
  rw [decode_0 hN h1, decode0, h2]
  rw [f0, f1, f2]
  rfl

theorem maxn (d : BitVec 8) (a : BitVec 8) (b : BitVec 8) : Statement (.maxn d a b) := by
  refine ⟨rfl, fun hw u h => ?_⟩
  cases h
  obtain ⟨N, hN, h1, h2, f0, f1, f2⟩ := word0 0 13 (by decide) 218103808 0 (by decide) rfl d a b
  rw [decode_0 hN h1, decode0, h2]
  rw [f0, f1, f2]
  rfl

theorem absd (d : BitVec 8) (a : BitVec 8) (b : BitVec 8) : Statement (.absd d a b) := by
  refine ⟨rfl, fun hw u h => ?_⟩
  cases h
  obtain ⟨N, hN, h1, h2, f0, f1, f2⟩ := word0 0 14 (by decide) 234881024 0 (by decide) rfl d a b
  rw [decode_0 hN h1, decode0, h2]
  rw [f0, f1, f2]
  rfl

theorem sel (d : BitVec 8) (a : BitVec 8) (b : BitVec 8) : Statement (.sel d a b) := by
  refine ⟨rfl, fun hw u h => ?_⟩
  cases h
  obtain ⟨N, hN, h1, h2, f0, f1, f2⟩ := word0 0 15 (by decide) 251658240 0 (by decide) rfl d a b
  rw [decode_0 hN h1, decode0, h2]
  rw [f0, f1, f2]
  rfl

theorem and (d : BitVec 8) (a : BitVec 8) (b : BitVec 8) : Statement (.and d a b) := by
  refine ⟨rfl, fun hw u h => ?_⟩
  cases h
  obtain ⟨N, hN, h1, h2, f0, f1, f2⟩ := word0 1 0 (by decide) 268435456 0 (by decide) rfl d a b
  rw [decode_1 hN h1, decode1, h2]
  rw [f0, f1, f2]
  rfl

theorem or (d : BitVec 8) (a : BitVec 8) (b : BitVec 8) : Statement (.or d a b) := by
  refine ⟨rfl, fun hw u h => ?_⟩
  cases h
  obtain ⟨N, hN, h1, h2, f0, f1, f2⟩ := word0 1 1 (by decide) 285212672 0 (by decide) rfl d a b
  rw [decode_1 hN h1, decode1, h2]
  rw [f0, f1, f2]
  rfl

theorem xor (d : BitVec 8) (a : BitVec 8) (b : BitVec 8) : Statement (.xor d a b) := by
  refine ⟨rfl, fun hw u h => ?_⟩
  cases h
  obtain ⟨N, hN, h1, h2, f0, f1, f2⟩ := word0 1 2 (by decide) 301989888 0 (by decide) rfl d a b
  rw [decode_1 hN h1, decode1, h2]
  rw [f0, f1, f2]
  rfl

theorem andn (d : BitVec 8) (a : BitVec 8) (b : BitVec 8) : Statement (.andn d a b) := by
  refine ⟨rfl, fun hw u h => ?_⟩
  cases h
  obtain ⟨N, hN, h1, h2, f0, f1, f2⟩ := word0 1 3 (by decide) 318767104 0 (by decide) rfl d a b
  rw [decode_1 hN h1, decode1, h2]
  rw [f0, f1, f2]
  rfl

theorem orn (d : BitVec 8) (a : BitVec 8) (b : BitVec 8) : Statement (.orn d a b) := by
  refine ⟨rfl, fun hw u h => ?_⟩
  cases h
  obtain ⟨N, hN, h1, h2, f0, f1, f2⟩ := word0 1 4 (by decide) 335544320 0 (by decide) rfl d a b
  rw [decode_1 hN h1, decode1, h2]
  rw [f0, f1, f2]
  rfl

theorem xnor (d : BitVec 8) (a : BitVec 8) (b : BitVec 8) : Statement (.xnor d a b) := by
  refine ⟨rfl, fun hw u h => ?_⟩
  cases h
  obtain ⟨N, hN, h1, h2, f0, f1, f2⟩ := word0 1 5 (by decide) 352321536 0 (by decide) rfl d a b
  rw [decode_1 hN h1, decode1, h2]
  rw [f0, f1, f2]
  rfl

theorem andi (d : BitVec 8) (a : BitVec 8) (i : BitVec 8) : Statement (.andi d a i) := by
  refine ⟨rfl, fun hw u h => ?_⟩
  cases h
  obtain ⟨N, hN, h1, h2, f0, f1, f2⟩ := word0 1 6 (by decide) 369098752 0 (by decide) rfl d a i
  rw [decode_1 hN h1, decode1, h2]
  rw [f0, f1, f2]
  rfl

theorem ori (d : BitVec 8) (a : BitVec 8) (i : BitVec 8) : Statement (.ori d a i) := by
  refine ⟨rfl, fun hw u h => ?_⟩
  cases h
  obtain ⟨N, hN, h1, h2, f0, f1, f2⟩ := word0 1 7 (by decide) 385875968 0 (by decide) rfl d a i
  rw [decode_1 hN h1, decode1, h2]
  rw [f0, f1, f2]
  rfl

theorem xori (d : BitVec 8) (a : BitVec 8) (i : BitVec 8) : Statement (.xori d a i) := by
  refine ⟨rfl, fun hw u h => ?_⟩
  cases h
  obtain ⟨N, hN, h1, h2, f0, f1, f2⟩ := word0 1 8 (by decide) 402653184 0 (by decide) rfl d a i
  rw [decode_1 hN h1, decode1, h2]
  rw [f0, f1, f2]
  rfl

theorem shl (d : BitVec 8) (a : BitVec 8) (b : BitVec 8) : Statement (.shl d a b) := by
  refine ⟨rfl, fun hw u h => ?_⟩
  cases h
  obtain ⟨N, hN, h1, h2, f0, f1, f2⟩ := word0 1 9 (by decide) 419430400 0 (by decide) rfl d a b
  rw [decode_1 hN h1, decode1, h2]
  rw [f0, f1, f2]
  rfl

theorem shr (d : BitVec 8) (a : BitVec 8) (b : BitVec 8) : Statement (.shr d a b) := by
  refine ⟨rfl, fun hw u h => ?_⟩
  cases h
  obtain ⟨N, hN, h1, h2, f0, f1, f2⟩ := word0 1 10 (by decide) 436207616 0 (by decide) rfl d a b
  rw [decode_1 hN h1, decode1, h2]
  rw [f0, f1, f2]
  rfl

theorem sra (d : BitVec 8) (a : BitVec 8) (b : BitVec 8) : Statement (.sra d a b) := by
  refine ⟨rfl, fun hw u h => ?_⟩
  cases h
  obtain ⟨N, hN, h1, h2, f0, f1, f2⟩ := word0 1 11 (by decide) 452984832 0 (by decide) rfl d a b
  rw [decode_1 hN h1, decode1, h2]
  rw [f0, f1, f2]
  rfl

theorem rol (d : BitVec 8) (a : BitVec 8) (b : BitVec 8) : Statement (.rol d a b) := by
  refine ⟨rfl, fun hw u h => ?_⟩
  cases h
  obtain ⟨N, hN, h1, h2, f0, f1, f2⟩ := word0 1 12 (by decide) 469762048 0 (by decide) rfl d a b
  rw [decode_1 hN h1, decode1, h2]
  rw [f0, f1, f2]
  rfl

theorem shli (d : BitVec 8) (a : BitVec 8) (i : BitVec 8) : Statement (.shli d a i) := by
  refine ⟨rfl, fun hw u h => ?_⟩
  cases h
  obtain ⟨N, hN, h1, h2, f0, f1, f2⟩ := word0 1 13 (by decide) 486539264 0 (by decide) rfl d a i
  rw [decode_1 hN h1, decode1, h2]
  rw [f0, f1, f2]
  rfl

theorem shri (d : BitVec 8) (a : BitVec 8) (i : BitVec 8) : Statement (.shri d a i) := by
  refine ⟨rfl, fun hw u h => ?_⟩
  cases h
  obtain ⟨N, hN, h1, h2, f0, f1, f2⟩ := word0 1 14 (by decide) 503316480 0 (by decide) rfl d a i
  rw [decode_1 hN h1, decode1, h2]
  rw [f0, f1, f2]
  rfl

theorem srai (d : BitVec 8) (a : BitVec 8) (i : BitVec 8) : Statement (.srai d a i) := by
  refine ⟨rfl, fun hw u h => ?_⟩
  cases h
  obtain ⟨N, hN, h1, h2, f0, f1, f2⟩ := word0 1 15 (by decide) 520093696 0 (by decide) rfl d a i
  rw [decode_1 hN h1, decode1, h2]
  rw [f0, f1, f2]
  rfl

theorem popc (d : BitVec 8) (a : BitVec 8) : Statement (.popc d a) := by
  refine ⟨rfl, fun hw u h => ?_⟩
  cases h
  obtain ⟨N, hN, h1, h2, c0, f0, f1⟩ := word1 2 0 (by decide) 536870912 0 (by decide) rfl d a
  rw [decode_2 hN h1, decode2, h2]
  rw [f0, f1]
  exact if_pos c0

theorem clz (d : BitVec 8) (a : BitVec 8) : Statement (.clz d a) := by
  refine ⟨rfl, fun hw u h => ?_⟩
  cases h
  obtain ⟨N, hN, h1, h2, c0, f0, f1⟩ := word1 2 1 (by decide) 553648128 0 (by decide) rfl d a
  rw [decode_2 hN h1, decode2, h2]
  rw [f0, f1]
  exact if_pos c0

theorem ctz (d : BitVec 8) (a : BitVec 8) : Statement (.ctz d a) := by
  refine ⟨rfl, fun hw u h => ?_⟩
  cases h
  obtain ⟨N, hN, h1, h2, c0, f0, f1⟩ := word1 2 2 (by decide) 570425344 0 (by decide) rfl d a
  rw [decode_2 hN h1, decode2, h2]
  rw [f0, f1]
  exact if_pos c0

theorem brev (d : BitVec 8) (a : BitVec 8) : Statement (.brev d a) := by
  refine ⟨rfl, fun hw u h => ?_⟩
  cases h
  obtain ⟨N, hN, h1, h2, c0, f0, f1⟩ := word1 2 3 (by decide) 587202560 0 (by decide) rfl d a
  rw [decode_2 hN h1, decode2, h2]
  rw [f0, f1]
  exact if_pos c0

theorem bswap (d : BitVec 8) (a : BitVec 8) : Statement (.bswap d a) := by
  refine ⟨rfl, fun hw u h => ?_⟩
  cases h
  obtain ⟨N, hN, h1, h2, c0, f0, f1⟩ := word1 2 4 (by decide) 603979776 0 (by decide) rfl d a
  rw [decode_2 hN h1, decode2, h2]
  rw [f0, f1]
  exact if_pos c0

theorem bfx (d : BitVec 8) (a : BitVec 8) (b : BitVec 8) : Statement (.bfx d a b) := by
  refine ⟨rfl, fun hw u h => ?_⟩
  cases h
  obtain ⟨N, hN, h1, h2, f0, f1, f2⟩ := word0 2 5 (by decide) 620756992 0 (by decide) rfl d a b
  rw [decode_2 hN h1, decode2, h2]
  rw [f0, f1, f2]
  rfl

theorem bfxs (d : BitVec 8) (a : BitVec 8) (b : BitVec 8) : Statement (.bfxs d a b) := by
  refine ⟨rfl, fun hw u h => ?_⟩
  cases h
  obtain ⟨N, hN, h1, h2, f0, f1, f2⟩ := word0 2 6 (by decide) 637534208 0 (by decide) rfl d a b
  rw [decode_2 hN h1, decode2, h2]
  rw [f0, f1, f2]
  rfl

theorem bfi (d : BitVec 8) (a : BitVec 8) (b : BitVec 8) : Statement (.bfi d a b) := by
  refine ⟨rfl, fun hw u h => ?_⟩
  cases h
  obtain ⟨N, hN, h1, h2, f0, f1, f2⟩ := word0 2 7 (by decide) 654311424 0 (by decide) rfl d a b
  rw [decode_2 hN h1, decode2, h2]
  rw [f0, f1, f2]
  rfl

theorem prmt (d : BitVec 8) (a : BitVec 8) (b : BitVec 8) : Statement (.prmt d a b) := by
  refine ⟨rfl, fun hw u h => ?_⟩
  cases h
  obtain ⟨N, hN, h1, h2, f0, f1, f2⟩ := word0 2 8 (by decide) 671088640 0 (by decide) rfl d a b
  rw [decode_2 hN h1, decode2, h2]
  rw [f0, f1, f2]
  rfl

theorem movi (d : BitVec 8) (i : BitVec 16) : Statement (.movi d i) := by
  refine ⟨rfl, fun hw u h => ?_⟩
  cases h
  obtain ⟨N, hN, h1, h2, f0, f1⟩ := word2 2 9 (by decide) 687865856 0 (by decide) rfl d i
  rw [decode_2 hN h1, decode2, h2]
  rw [f0, f1]
  rfl

theorem movhi (d : BitVec 8) (i : BitVec 16) : Statement (.movhi d i) := by
  refine ⟨rfl, fun hw u h => ?_⟩
  cases h
  obtain ⟨N, hN, h1, h2, f0, f1⟩ := word2 2 10 (by decide) 704643072 0 (by decide) rfl d i
  rw [decode_2 hN h1, decode2, h2]
  rw [f0, f1]
  rfl

theorem mov (d : BitVec 8) (a : BitVec 8) : Statement (.mov d a) := by
  refine ⟨rfl, fun hw u h => ?_⟩
  cases h
  obtain ⟨N, hN, h1, h2, c0, f0, f1⟩ := word1 2 11 (by decide) 721420288 0 (by decide) rfl d a
  rw [decode_2 hN h1, decode2, h2]
  rw [f0, f1]
  exact if_pos c0

theorem icmps (c : BitVec 3) (m : BitVec 2) (p : BitVec 3) (a : BitVec 8) (b : BitVec 8) : Statement (.icmps c m p a b) := by
  refine ⟨rfl, fun hw u h => ?_⟩
  cases h
  obtain ⟨N, hN, h1, h2, f0, f1, f2, f3, f4⟩ := word3 2 12 (by decide) 738197504 0 (by decide) rfl c m p a b
  rw [decode_2 hN h1, decode2, h2]
  rw [f0, f1, f2, f3, f4]
  rfl

theorem icmpn (c : BitVec 3) (m : BitVec 2) (p : BitVec 3) (a : BitVec 8) (b : BitVec 8) : Statement (.icmpn c m p a b) := by
  refine ⟨rfl, fun hw u h => ?_⟩
  cases h
  obtain ⟨N, hN, h1, h2, f0, f1, f2, f3, f4⟩ := word3 2 13 (by decide) 754974720 0 (by decide) rfl c m p a b
  rw [decode_2 hN h1, decode2, h2]
  rw [f0, f1, f2, f3, f4]
  rfl

theorem icmpi (c : BitVec 3) (m : BitVec 2) (p : BitVec 3) (a : BitVec 8) (i : BitVec 8) : Statement (.icmpi c m p a i) := by
  refine ⟨rfl, fun hw u h => ?_⟩
  cases h
  obtain ⟨N, hN, h1, h2, f0, f1, f2, f3, f4⟩ := word3 2 14 (by decide) 771751936 0 (by decide) rfl c m p a i
  rw [decode_2 hN h1, decode2, h2]
  rw [f0, f1, f2, f3, f4]
  rfl

theorem plut (c : BitVec 3) (d : BitVec 3) (l : BitVec 8) (b : BitVec 3) (a : BitVec 3) : Statement (.plut c d l b a) := by
  refine ⟨rfl, fun hw u h => ?_⟩
  cases h
  obtain ⟨N, hN, h1, h2, c0, c1, c2, c3, f0, f1, f2, f3, f4⟩ := word4 2 15 (by decide) 788529152 0 (by decide) rfl c d l b a
  rw [decode_2 hN h1, decode2, h2]
  rw [f0, f1, f2, f3, f4]
  exact if_pos ⟨c0, c1, c2, c3⟩

theorem p2v (d : BitVec 8) : Statement (.p2v d) := by
  refine ⟨rfl, fun hw u h => ?_⟩
  cases h
  obtain ⟨N, hN, h1, h2, c0, f0⟩ := word5 3 0 (by decide) 805306368 0 (by decide) rfl d
  rw [decode_3 hN h1, decode3, h2]
  rw [f0]
  exact if_pos c0

theorem v2p (a : BitVec 8) (m : BitVec 8) : Statement (.v2p a m) := by
  refine ⟨rfl, fun hw u h => ?_⟩
  cases h
  obtain ⟨N, hN, h1, h2, c0, f0, f1⟩ := word6 3 1 (by decide) 822083584 0 (by decide) rfl a m
  rw [decode_3 hN h1, decode3, h2]
  rw [f0, f1]
  exact if_pos c0

theorem idot4s (d : BitVec 8) (a : BitVec 8) (b : BitVec 8) : Statement (.idot4s d a b) := by
  refine ⟨rfl, fun hw u h => ?_⟩
  cases h
  obtain ⟨N, hN, h1, h2, f0, f1, f2⟩ := word0 3 2 (by decide) 838860800 0 (by decide) rfl d a b
  rw [decode_3 hN h1, decode3, h2]
  rw [f0, f1, f2]
  rfl

theorem idot4n (d : BitVec 8) (a : BitVec 8) (b : BitVec 8) : Statement (.idot4n d a b) := by
  refine ⟨rfl, fun hw u h => ?_⟩
  cases h
  obtain ⟨N, hN, h1, h2, f0, f1, f2⟩ := word0 3 3 (by decide) 855638016 0 (by decide) rfl d a b
  rw [decode_3 hN h1, decode3, h2]
  rw [f0, f1, f2]
  rfl

theorem faddF32 (d : BitVec 8) (a : BitVec 8) (b : BitVec 8) : Statement (.faddF32 d a b) := by
  refine ⟨rfl, fun hw u h => ?_⟩
  cases h
  obtain ⟨N, hN, h1, h2, f0, f1, f2⟩ := word0 4 0 (by decide) 1073741824 0 (by decide) rfl d a b
  rw [decode_4 hN h1, decode4, h2]
  rw [f0, f1, f2]
  rfl

theorem fsubF32 (d : BitVec 8) (a : BitVec 8) (b : BitVec 8) : Statement (.fsubF32 d a b) := by
  refine ⟨rfl, fun hw u h => ?_⟩
  cases h
  obtain ⟨N, hN, h1, h2, f0, f1, f2⟩ := word0 4 1 (by decide) 1090519040 0 (by decide) rfl d a b
  rw [decode_4 hN h1, decode4, h2]
  rw [f0, f1, f2]
  rfl

theorem fmulF32 (d : BitVec 8) (a : BitVec 8) (b : BitVec 8) : Statement (.fmulF32 d a b) := by
  refine ⟨rfl, fun hw u h => ?_⟩
  cases h
  obtain ⟨N, hN, h1, h2, f0, f1, f2⟩ := word0 4 2 (by decide) 1107296256 0 (by decide) rfl d a b
  rw [decode_4 hN h1, decode4, h2]
  rw [f0, f1, f2]
  rfl

theorem fmacF32 (d : BitVec 8) (a : BitVec 8) (b : BitVec 8) : Statement (.fmacF32 d a b) := by
  refine ⟨rfl, fun hw u h => ?_⟩
  cases h
  obtain ⟨N, hN, h1, h2, f0, f1, f2⟩ := word0 4 3 (by decide) 1124073472 0 (by decide) rfl d a b
  rw [decode_4 hN h1, decode4, h2]
  rw [f0, f1, f2]
  rfl

theorem fmaF32 (d : BitVec 8) (a : BitVec 8) (b : BitVec 8) : Statement (.fmaF32 d a b) := by
  refine ⟨rfl, fun hw u h => ?_⟩
  cases h
  obtain ⟨N, hN, h1, h2, f0, f1, f2⟩ := word0 4 4 (by decide) 1140850688 0 (by decide) rfl d a b
  rw [decode_4 hN h1, decode4, h2]
  rw [f0, f1, f2]
  rfl

theorem fminF32 (d : BitVec 8) (a : BitVec 8) (b : BitVec 8) : Statement (.fminF32 d a b) := by
  refine ⟨rfl, fun hw u h => ?_⟩
  cases h
  obtain ⟨N, hN, h1, h2, f0, f1, f2⟩ := word0 4 5 (by decide) 1157627904 0 (by decide) rfl d a b
  rw [decode_4 hN h1, decode4, h2]
  rw [f0, f1, f2]
  rfl

theorem fmaxF32 (d : BitVec 8) (a : BitVec 8) (b : BitVec 8) : Statement (.fmaxF32 d a b) := by
  refine ⟨rfl, fun hw u h => ?_⟩
  cases h
  obtain ⟨N, hN, h1, h2, f0, f1, f2⟩ := word0 4 6 (by decide) 1174405120 0 (by decide) rfl d a b
  rw [decode_4 hN h1, decode4, h2]
  rw [f0, f1, f2]
  rfl

theorem fcmpF32 (c : BitVec 3) (m : BitVec 2) (p : BitVec 3) (a : BitVec 8) (b : BitVec 8) : Statement (.fcmpF32 c m p a b) := by
  refine ⟨rfl, fun hw u h => ?_⟩
  cases h
  obtain ⟨N, hN, h1, h2, f0, f1, f2, f3, f4⟩ := word3 4 7 (by decide) 1191182336 0 (by decide) rfl c m p a b
  rw [decode_4 hN h1, decode4, h2]
  rw [f0, f1, f2, f3, f4]
  rfl

theorem faddF64 (d : BitVec 8) (a : BitVec 8) (b : BitVec 8) : Statement (.faddF64 d a b) := by
  refine ⟨rfl, fun hw u h => ?_⟩
  cases h
  obtain ⟨N, hN, h1, h2, f0, f1, f2⟩ := word0 4 8 (by decide) 1207959552 0 (by decide) rfl d a b
  rw [decode_4 hN h1, decode4, h2]
  rw [f0, f1, f2]
  rfl

theorem fsubF64 (d : BitVec 8) (a : BitVec 8) (b : BitVec 8) : Statement (.fsubF64 d a b) := by
  refine ⟨rfl, fun hw u h => ?_⟩
  cases h
  obtain ⟨N, hN, h1, h2, f0, f1, f2⟩ := word0 4 9 (by decide) 1224736768 0 (by decide) rfl d a b
  rw [decode_4 hN h1, decode4, h2]
  rw [f0, f1, f2]
  rfl

theorem fmulF64 (d : BitVec 8) (a : BitVec 8) (b : BitVec 8) : Statement (.fmulF64 d a b) := by
  refine ⟨rfl, fun hw u h => ?_⟩
  cases h
  obtain ⟨N, hN, h1, h2, f0, f1, f2⟩ := word0 4 10 (by decide) 1241513984 0 (by decide) rfl d a b
  rw [decode_4 hN h1, decode4, h2]
  rw [f0, f1, f2]
  rfl

theorem fmacF64 (d : BitVec 8) (a : BitVec 8) (b : BitVec 8) : Statement (.fmacF64 d a b) := by
  refine ⟨rfl, fun hw u h => ?_⟩
  cases h
  obtain ⟨N, hN, h1, h2, f0, f1, f2⟩ := word0 4 11 (by decide) 1258291200 0 (by decide) rfl d a b
  rw [decode_4 hN h1, decode4, h2]
  rw [f0, f1, f2]
  rfl

theorem fmaF64 (d : BitVec 8) (a : BitVec 8) (b : BitVec 8) : Statement (.fmaF64 d a b) := by
  refine ⟨rfl, fun hw u h => ?_⟩
  cases h
  obtain ⟨N, hN, h1, h2, f0, f1, f2⟩ := word0 4 12 (by decide) 1275068416 0 (by decide) rfl d a b
  rw [decode_4 hN h1, decode4, h2]
  rw [f0, f1, f2]
  rfl

theorem fminF64 (d : BitVec 8) (a : BitVec 8) (b : BitVec 8) : Statement (.fminF64 d a b) := by
  refine ⟨rfl, fun hw u h => ?_⟩
  cases h
  obtain ⟨N, hN, h1, h2, f0, f1, f2⟩ := word0 4 13 (by decide) 1291845632 0 (by decide) rfl d a b
  rw [decode_4 hN h1, decode4, h2]
  rw [f0, f1, f2]
  rfl

theorem fmaxF64 (d : BitVec 8) (a : BitVec 8) (b : BitVec 8) : Statement (.fmaxF64 d a b) := by
  refine ⟨rfl, fun hw u h => ?_⟩
  cases h
  obtain ⟨N, hN, h1, h2, f0, f1, f2⟩ := word0 4 14 (by decide) 1308622848 0 (by decide) rfl d a b
  rw [decode_4 hN h1, decode4, h2]
  rw [f0, f1, f2]
  rfl

theorem fcmpF64 (c : BitVec 3) (m : BitVec 2) (p : BitVec 3) (a : BitVec 8) (b : BitVec 8) : Statement (.fcmpF64 c m p a b) := by
  refine ⟨rfl, fun hw u h => ?_⟩
  cases h
  obtain ⟨N, hN, h1, h2, f0, f1, f2, f3, f4⟩ := word3 4 15 (by decide) 1325400064 0 (by decide) rfl c m p a b
  rw [decode_4 hN h1, decode4, h2]
  rw [f0, f1, f2, f3, f4]
  rfl

theorem paddH16x2 (d : BitVec 8) (a : BitVec 8) (b : BitVec 8) : Statement (.paddH16x2 d a b) := by
  refine ⟨rfl, fun hw u h => ?_⟩
  cases h
  obtain ⟨N, hN, h1, h2, f0, f1, f2⟩ := word0 5 0 (by decide) 1342177280 0 (by decide) rfl d a b
  rw [decode_5 hN h1, decode5, h2]
  rw [f0, f1, f2]
  rfl

theorem pmulH16x2 (d : BitVec 8) (a : BitVec 8) (b : BitVec 8) : Statement (.pmulH16x2 d a b) := by
  refine ⟨rfl, fun hw u h => ?_⟩
  cases h
  obtain ⟨N, hN, h1, h2, f0, f1, f2⟩ := word0 5 1 (by decide) 1358954496 0 (by decide) rfl d a b
  rw [decode_5 hN h1, decode5, h2]
  rw [f0, f1, f2]
  rfl

theorem pmacH16x2 (d : BitVec 8) (a : BitVec 8) (b : BitVec 8) : Statement (.pmacH16x2 d a b) := by
  refine ⟨rfl, fun hw u h => ?_⟩
  cases h
  obtain ⟨N, hN, h1, h2, f0, f1, f2⟩ := word0 5 2 (by decide) 1375731712 0 (by decide) rfl d a b
  rw [decode_5 hN h1, decode5, h2]
  rw [f0, f1, f2]
  rfl

theorem paddBf16x2 (d : BitVec 8) (a : BitVec 8) (b : BitVec 8) : Statement (.paddBf16x2 d a b) := by
  refine ⟨rfl, fun hw u h => ?_⟩
  cases h
  obtain ⟨N, hN, h1, h2, f0, f1, f2⟩ := word0 5 3 (by decide) 1392508928 0 (by decide) rfl d a b
  rw [decode_5 hN h1, decode5, h2]
  rw [f0, f1, f2]
  rfl

theorem pmulBf16x2 (d : BitVec 8) (a : BitVec 8) (b : BitVec 8) : Statement (.pmulBf16x2 d a b) := by
  refine ⟨rfl, fun hw u h => ?_⟩
  cases h
  obtain ⟨N, hN, h1, h2, f0, f1, f2⟩ := word0 5 4 (by decide) 1409286144 0 (by decide) rfl d a b
  rw [decode_5 hN h1, decode5, h2]
  rw [f0, f1, f2]
  rfl

theorem pmacBf16x2 (d : BitVec 8) (a : BitVec 8) (b : BitVec 8) : Statement (.pmacBf16x2 d a b) := by
  refine ⟨rfl, fun hw u h => ?_⟩
  cases h
  obtain ⟨N, hN, h1, h2, f0, f1, f2⟩ := word0 5 5 (by decide) 1426063360 0 (by decide) rfl d a b
  rw [decode_5 hN h1, decode5, h2]
  rw [f0, f1, f2]
  rfl

theorem dot2H16 (d : BitVec 8) (a : BitVec 8) (b : BitVec 8) : Statement (.dot2H16 d a b) := by
  refine ⟨rfl, fun hw u h => ?_⟩
  cases h
  obtain ⟨N, hN, h1, h2, f0, f1, f2⟩ := word0 5 6 (by decide) 1442840576 0 (by decide) rfl d a b
  rw [decode_5 hN h1, decode5, h2]
  rw [f0, f1, f2]
  rfl

theorem dot2Bf16 (d : BitVec 8) (a : BitVec 8) (b : BitVec 8) : Statement (.dot2Bf16 d a b) := by
  refine ⟨rfl, fun hw u h => ?_⟩
  cases h
  obtain ⟨N, hN, h1, h2, f0, f1, f2⟩ := word0 5 7 (by decide) 1459617792 0 (by decide) rfl d a b
  rw [decode_5 hN h1, decode5, h2]
  rw [f0, f1, f2]
  rfl

theorem dot4E4m3 (d : BitVec 8) (a : BitVec 8) (b : BitVec 8) : Statement (.dot4E4m3 d a b) := by
  refine ⟨rfl, fun hw u h => ?_⟩
  cases h
  obtain ⟨N, hN, h1, h2, f0, f1, f2⟩ := word0 5 8 (by decide) 1476395008 0 (by decide) rfl d a b
  rw [decode_5 hN h1, decode5, h2]
  rw [f0, f1, f2]
  rfl

theorem dot8E2m1 (d : BitVec 8) (a : BitVec 8) (b : BitVec 8) : Statement (.dot8E2m1 d a b) := by
  refine ⟨rfl, fun hw u h => ?_⟩
  cases h
  obtain ⟨N, hN, h1, h2, f0, f1, f2⟩ := word0 5 9 (by decide) 1493172224 0 (by decide) rfl d a b
  rw [decode_5 hN h1, decode5, h2]
  rw [f0, f1, f2]
  rfl

theorem fclass (d : BitVec 8) (a : BitVec 8) (t : BitVec 8) : Statement (.fclass d a t) := by
  refine ⟨rfl, fun hw u h => ?_⟩
  cases h
  obtain ⟨N, hN, h1, h2, f0, f1, f2⟩ := word0 5 10 (by decide) 1509949440 0 (by decide) rfl d a t
  rw [decode_5 hN h1, decode5, h2]
  rw [f0, f1, f2]
  rfl

theorem frcp (d : BitVec 8) (a : BitVec 8) : Statement (.frcp d a) := by
  refine ⟨rfl, fun hw u h => ?_⟩
  cases h
  obtain ⟨N, hN, h1, h2, c0, f0, f1⟩ := word1 6 0 (by decide) 1610612736 0 (by decide) rfl d a
  rw [decode_6 hN h1, decode6, h2]
  rw [f0, f1]
  exact if_pos c0

theorem frsq (d : BitVec 8) (a : BitVec 8) : Statement (.frsq d a) := by
  refine ⟨rfl, fun hw u h => ?_⟩
  cases h
  obtain ⟨N, hN, h1, h2, c0, f0, f1⟩ := word1 6 1 (by decide) 1627389952 0 (by decide) rfl d a
  rw [decode_6 hN h1, decode6, h2]
  rw [f0, f1]
  exact if_pos c0

theorem fsqrt (d : BitVec 8) (a : BitVec 8) : Statement (.fsqrt d a) := by
  refine ⟨rfl, fun hw u h => ?_⟩
  cases h
  obtain ⟨N, hN, h1, h2, c0, f0, f1⟩ := word1 6 2 (by decide) 1644167168 0 (by decide) rfl d a
  rw [decode_6 hN h1, decode6, h2]
  rw [f0, f1]
  exact if_pos c0

theorem fex2 (d : BitVec 8) (a : BitVec 8) : Statement (.fex2 d a) := by
  refine ⟨rfl, fun hw u h => ?_⟩
  cases h
  obtain ⟨N, hN, h1, h2, c0, f0, f1⟩ := word1 6 3 (by decide) 1660944384 0 (by decide) rfl d a
  rw [decode_6 hN h1, decode6, h2]
  rw [f0, f1]
  exact if_pos c0

theorem flg2 (d : BitVec 8) (a : BitVec 8) : Statement (.flg2 d a) := by
  refine ⟨rfl, fun hw u h => ?_⟩
  cases h
  obtain ⟨N, hN, h1, h2, c0, f0, f1⟩ := word1 6 4 (by decide) 1677721600 0 (by decide) rfl d a
  rw [decode_6 hN h1, decode6, h2]
  rw [f0, f1]
  exact if_pos c0

theorem fsin (d : BitVec 8) (a : BitVec 8) : Statement (.fsin d a) := by
  refine ⟨rfl, fun hw u h => ?_⟩
  cases h
  obtain ⟨N, hN, h1, h2, c0, f0, f1⟩ := word1 6 5 (by decide) 1694498816 0 (by decide) rfl d a
  rw [decode_6 hN h1, decode6, h2]
  rw [f0, f1]
  exact if_pos c0

theorem fcos (d : BitVec 8) (a : BitVec 8) : Statement (.fcos d a) := by
  refine ⟨rfl, fun hw u h => ?_⟩
  cases h
  obtain ⟨N, hN, h1, h2, c0, f0, f1⟩ := word1 6 6 (by decide) 1711276032 0 (by decide) rfl d a
  rw [decode_6 hN h1, decode6, h2]
  rw [f0, f1]
  exact if_pos c0

theorem frcpsF64 (d : BitVec 8) (a : BitVec 8) : Statement (.frcpsF64 d a) := by
  refine ⟨rfl, fun hw u h => ?_⟩
  cases h
  obtain ⟨N, hN, h1, h2, c0, f0, f1⟩ := word1 6 7 (by decide) 1728053248 0 (by decide) rfl d a
  rw [decode_6 hN h1, decode6, h2]
  rw [f0, f1]
  exact if_pos c0

theorem cvt (d : BitVec 8) (a : BitVec 8) (t : BitVec 4) (f : BitVec 4) : Statement (.cvt d a t f) := by
  refine ⟨rfl, fun hw u h => ?_⟩
  cases h
  obtain ⟨N, hN, h1, h2, f0, f1, f2, f3⟩ := word7 6 8 (by decide) 1744830464 0 (by decide) rfl d a t f
  rw [decode_6 hN h1, decode6, h2]
  rw [f0, f1, f2, f3]
  rfl

theorem cvti (d : BitVec 8) (a : BitVec 8) (t : BitVec 4) (f : BitVec 4) : Statement (.cvti d a t f) := by
  refine ⟨rfl, fun hw u h => ?_⟩
  cases h
  obtain ⟨N, hN, h1, h2, f0, f1, f2, f3⟩ := word7 6 9 (by decide) 1761607680 0 (by decide) rfl d a t f
  rw [decode_6 hN h1, decode6, h2]
  rw [f0, f1, f2, f3]
  rfl

theorem cvtf (d : BitVec 8) (a : BitVec 8) (t : BitVec 4) (f : BitVec 4) : Statement (.cvtf d a t f) := by
  refine ⟨rfl, fun hw u h => ?_⟩
  cases h
  obtain ⟨N, hN, h1, h2, f0, f1, f2, f3⟩ := word7 6 10 (by decide) 1778384896 0 (by decide) rfl d a t f
  rw [decode_6 hN h1, decode6, h2]
  rw [f0, f1, f2, f3]
  rfl

theorem pack (d : BitVec 8) (a : BitVec 8) (b : BitVec 8) : Statement (.pack d a b) := by
  refine ⟨rfl, fun hw u h => ?_⟩
  cases h
  obtain ⟨N, hN, h1, h2, f0, f1, f2⟩ := word0 6 11 (by decide) 1795162112 0 (by decide) rfl d a b
  rw [decode_6 hN h1, decode6, h2]
  rw [f0, f1, f2]
  rfl

theorem unpk (d : BitVec 8) (a : BitVec 8) : Statement (.unpk d a) := by
  refine ⟨rfl, fun hw u h => ?_⟩
  cases h
  obtain ⟨N, hN, h1, h2, c0, f0, f1⟩ := word1 6 12 (by decide) 1811939328 0 (by decide) rfl d a
  rw [decode_6 hN h1, decode6, h2]
  rw [f0, f1]
  exact if_pos c0

theorem scale (d : BitVec 8) (a : BitVec 8) (b : BitVec 8) : Statement (.scale d a b) := by
  refine ⟨rfl, fun hw u h => ?_⟩
  cases h
  obtain ⟨N, hN, h1, h2, f0, f1, f2⟩ := word0 6 13 (by decide) 1828716544 0 (by decide) rfl d a b
  rw [decode_6 hN h1, decode6, h2]
  rw [f0, f1, f2]
  rfl

theorem logc (d : BitVec 8) (a : BitVec 8) (b : BitVec 8) : Statement (.logc d a b) := by
  refine ⟨rfl, fun hw u h => ?_⟩
  cases h
  obtain ⟨N, hN, h1, h2, f0, f1, f2⟩ := word0 6 14 (by decide) 1845493760 0 (by decide) rfl d a b
  rw [decode_6 hN h1, decode6, h2]
  rw [f0, f1, f2]
  rfl

theorem frnd (d : BitVec 8) (a : BitVec 8) : Statement (.frnd d a) := by
  refine ⟨rfl, fun hw u h => ?_⟩
  cases h
  obtain ⟨N, hN, h1, h2, c0, f0, f1⟩ := word1 6 15 (by decide) 1862270976 0 (by decide) rfl d a
  rw [decode_6 hN h1, decode6, h2]
  rw [f0, f1]
  exact if_pos c0

theorem shfl (d : BitVec 8) (a : BitVec 8) (m : BitVec 8) : Statement (.shfl d a m) := by
  refine ⟨rfl, fun hw u h => ?_⟩
  cases h
  obtain ⟨N, hN, h1, h2, f0, f1, f2⟩ := word0 7 0 (by decide) 1879048192 0 (by decide) rfl d a m
  rw [decode_7 hN h1, decode7, h2]
  rw [f0, f1, f2]
  rfl

theorem shflx (d : BitVec 8) (a : BitVec 8) (m : BitVec 8) : Statement (.shflx d a m) := by
  refine ⟨rfl, fun hw u h => ?_⟩
  cases h
  obtain ⟨N, hN, h1, h2, f0, f1, f2⟩ := word0 7 1 (by decide) 1895825408 0 (by decide) rfl d a m
  rw [decode_7 hN h1, decode7, h2]
  rw [f0, f1, f2]
  rfl

theorem bcst (d : BitVec 8) (a : BitVec 8) (m : BitVec 8) : Statement (.bcst d a m) := by
  refine ⟨rfl, fun hw u h => ?_⟩
  cases h
  obtain ⟨N, hN, h1, h2, f0, f1, f2⟩ := word0 7 2 (by decide) 1912602624 0 (by decide) rfl d a m
  rw [decode_7 hN h1, decode7, h2]
  rw [f0, f1, f2]
  rfl

theorem vote (d : BitVec 8) (a : BitVec 8) (m : BitVec 8) : Statement (.vote d a m) := by
  refine ⟨rfl, fun hw u h => ?_⟩
  cases h
  obtain ⟨N, hN, h1, h2, f0, f1, f2⟩ := word0 7 3 (by decide) 1929379840 0 (by decide) rfl d a m
  rw [decode_7 hN h1, decode7, h2]
  rw [f0, f1, f2]
  rfl

theorem ballot (d : BitVec 8) (a : BitVec 8) (m : BitVec 8) : Statement (.ballot d a m) := by
  refine ⟨rfl, fun hw u h => ?_⟩
  cases h
  obtain ⟨N, hN, h1, h2, f0, f1, f2⟩ := word0 7 4 (by decide) 1946157056 0 (by decide) rfl d a m
  rw [decode_7 hN h1, decode7, h2]
  rw [f0, f1, f2]
  rfl

theorem raddS32 (d : BitVec 8) (a : BitVec 8) (m : BitVec 8) : Statement (.raddS32 d a m) := by
  refine ⟨rfl, fun hw u h => ?_⟩
  cases h
  obtain ⟨N, hN, h1, h2, f0, f1, f2⟩ := word0 7 5 (by decide) 1962934272 0 (by decide) rfl d a m
  rw [decode_7 hN h1, decode7, h2]
  rw [f0, f1, f2]
  rfl

theorem raddF32 (d : BitVec 8) (a : BitVec 8) (m : BitVec 8) : Statement (.raddF32 d a m) := by
  refine ⟨rfl, fun hw u h => ?_⟩
  cases h
  obtain ⟨N, hN, h1, h2, f0, f1, f2⟩ := word0 7 6 (by decide) 1979711488 0 (by decide) rfl d a m
  rw [decode_7 hN h1, decode7, h2]
  rw [f0, f1, f2]
  rfl

theorem rminN32 (d : BitVec 8) (a : BitVec 8) (m : BitVec 8) : Statement (.rminN32 d a m) := by
  refine ⟨rfl, fun hw u h => ?_⟩
  cases h
  obtain ⟨N, hN, h1, h2, f0, f1, f2⟩ := word0 7 7 (by decide) 1996488704 0 (by decide) rfl d a m
  rw [decode_7 hN h1, decode7, h2]
  rw [f0, f1, f2]
  rfl

theorem rmaxN32 (d : BitVec 8) (a : BitVec 8) (m : BitVec 8) : Statement (.rmaxN32 d a m) := by
  refine ⟨rfl, fun hw u h => ?_⟩
  cases h
  obtain ⟨N, hN, h1, h2, f0, f1, f2⟩ := word0 7 8 (by decide) 2013265920 0 (by decide) rfl d a m
  rw [decode_7 hN h1, decode7, h2]
  rw [f0, f1, f2]
  rfl

theorem rminF32 (d : BitVec 8) (a : BitVec 8) (m : BitVec 8) : Statement (.rminF32 d a m) := by
  refine ⟨rfl, fun hw u h => ?_⟩
  cases h
  obtain ⟨N, hN, h1, h2, f0, f1, f2⟩ := word0 7 9 (by decide) 2030043136 0 (by decide) rfl d a m
  rw [decode_7 hN h1, decode7, h2]
  rw [f0, f1, f2]
  rfl

theorem rmaxF32 (d : BitVec 8) (a : BitVec 8) (m : BitVec 8) : Statement (.rmaxF32 d a m) := by
  refine ⟨rfl, fun hw u h => ?_⟩
  cases h
  obtain ⟨N, hN, h1, h2, f0, f1, f2⟩ := word0 7 10 (by decide) 2046820352 0 (by decide) rfl d a m
  rw [decode_7 hN h1, decode7, h2]
  rw [f0, f1, f2]
  rfl

theorem rminxN32 (d : BitVec 8) (a : BitVec 8) (m : BitVec 8) : Statement (.rminxN32 d a m) := by
  refine ⟨rfl, fun hw u h => ?_⟩
  cases h
  obtain ⟨N, hN, h1, h2, f0, f1, f2⟩ := word0 7 11 (by decide) 2063597568 0 (by decide) rfl d a m
  rw [decode_7 hN h1, decode7, h2]
  rw [f0, f1, f2]
  rfl

theorem scanS32 (d : BitVec 8) (a : BitVec 8) (m : BitVec 8) : Statement (.scanS32 d a m) := by
  refine ⟨rfl, fun hw u h => ?_⟩
  cases h
  obtain ⟨N, hN, h1, h2, f0, f1, f2⟩ := word0 7 12 (by decide) 2080374784 0 (by decide) rfl d a m
  rw [decode_7 hN h1, decode7, h2]
  rw [f0, f1, f2]
  rfl

theorem matchLanes (d : BitVec 8) (a : BitVec 8) (m : BitVec 8) : Statement (.matchLanes d a m) := by
  refine ⟨rfl, fun hw u h => ?_⟩
  cases h
  obtain ⟨N, hN, h1, h2, f0, f1, f2⟩ := word0 7 13 (by decide) 2097152000 0 (by decide) rfl d a m
  rw [decode_7 hN h1, decode7, h2]
  rw [f0, f1, f2]
  rfl

theorem laneid (d : BitVec 8) (m : BitVec 8) : Statement (.laneid d m) := by
  refine ⟨rfl, fun hw u h => ?_⟩
  cases h
  obtain ⟨N, hN, h1, h2, c0, f0, f1⟩ := word8 7 14 (by decide) 2113929216 0 (by decide) rfl d m
  rw [decode_7 hN h1, decode7, h2]
  rw [f0, f1]
  exact if_pos c0

theorem ldB8 (d : BitVec 8) (h : BitVec 8) (o : BitVec 8) : Statement (.ldB8 d h o) := by
  refine ⟨rfl, fun hw u h => ?_⟩
  cases h
  obtain ⟨N, hN, h1, h2, f0, f1, f2⟩ := word0 8 0 (by decide) 2147483648 0 (by decide) rfl d h o
  rw [decode_8 hN h1, decode8, h2]
  rw [f0, f1, f2]
  rfl

theorem ldS8 (d : BitVec 8) (h : BitVec 8) (o : BitVec 8) : Statement (.ldS8 d h o) := by
  refine ⟨rfl, fun hw u h => ?_⟩
  cases h
  obtain ⟨N, hN, h1, h2, f0, f1, f2⟩ := word0 8 1 (by decide) 2164260864 0 (by decide) rfl d h o
  rw [decode_8 hN h1, decode8, h2]
  rw [f0, f1, f2]
  rfl

theorem ldB16 (d : BitVec 8) (h : BitVec 8) (o : BitVec 8) : Statement (.ldB16 d h o) := by
  refine ⟨rfl, fun hw u h => ?_⟩
  cases h
  obtain ⟨N, hN, h1, h2, f0, f1, f2⟩ := word0 8 2 (by decide) 2181038080 0 (by decide) rfl d h o
  rw [decode_8 hN h1, decode8, h2]
  rw [f0, f1, f2]
  rfl

theorem ldS16 (d : BitVec 8) (h : BitVec 8) (o : BitVec 8) : Statement (.ldS16 d h o) := by
  refine ⟨rfl, fun hw u h => ?_⟩
  cases h
  obtain ⟨N, hN, h1, h2, f0, f1, f2⟩ := word0 8 3 (by decide) 2197815296 0 (by decide) rfl d h o
  rw [decode_8 hN h1, decode8, h2]
  rw [f0, f1, f2]
  rfl

theorem ldB32 (d : BitVec 8) (h : BitVec 8) (o : BitVec 8) : Statement (.ldB32 d h o) := by
  refine ⟨rfl, fun hw u h => ?_⟩
  cases h
  obtain ⟨N, hN, h1, h2, f0, f1, f2⟩ := word0 8 4 (by decide) 2214592512 0 (by decide) rfl d h o
  rw [decode_8 hN h1, decode8, h2]
  rw [f0, f1, f2]
  rfl

theorem ldB64 (d : BitVec 8) (h : BitVec 8) (o : BitVec 8) : Statement (.ldB64 d h o) := by
  refine ⟨rfl, fun hw u h => ?_⟩
  cases h
  obtain ⟨N, hN, h1, h2, f0, f1, f2⟩ := word0 8 5 (by decide) 2231369728 0 (by decide) rfl d h o
  rw [decode_8 hN h1, decode8, h2]
  rw [f0, f1, f2]
  rfl

theorem ldB128 (d : BitVec 8) (h : BitVec 8) (o : BitVec 8) : Statement (.ldB128 d h o) := by
  refine ⟨rfl, fun hw u h => ?_⟩
  cases h
  obtain ⟨N, hN, h1, h2, f0, f1, f2⟩ := word0 8 6 (by decide) 2248146944 0 (by decide) rfl d h o
  rw [decode_8 hN h1, decode8, h2]
  rw [f0, f1, f2]
  rfl

theorem stB8 (d : BitVec 8) (h : BitVec 8) (o : BitVec 8) : Statement (.stB8 d h o) := by
  refine ⟨rfl, fun hw u h => ?_⟩
  cases h
  obtain ⟨N, hN, h1, h2, f0, f1, f2⟩ := word0 8 7 (by decide) 2264924160 0 (by decide) rfl d h o
  rw [decode_8 hN h1, decode8, h2]
  rw [f0, f1, f2]
  rfl

theorem stB16 (d : BitVec 8) (h : BitVec 8) (o : BitVec 8) : Statement (.stB16 d h o) := by
  refine ⟨rfl, fun hw u h => ?_⟩
  cases h
  obtain ⟨N, hN, h1, h2, f0, f1, f2⟩ := word0 8 8 (by decide) 2281701376 0 (by decide) rfl d h o
  rw [decode_8 hN h1, decode8, h2]
  rw [f0, f1, f2]
  rfl

theorem stB32 (d : BitVec 8) (h : BitVec 8) (o : BitVec 8) : Statement (.stB32 d h o) := by
  refine ⟨rfl, fun hw u h => ?_⟩
  cases h
  obtain ⟨N, hN, h1, h2, f0, f1, f2⟩ := word0 8 9 (by decide) 2298478592 0 (by decide) rfl d h o
  rw [decode_8 hN h1, decode8, h2]
  rw [f0, f1, f2]
  rfl

theorem stB64 (d : BitVec 8) (h : BitVec 8) (o : BitVec 8) : Statement (.stB64 d h o) := by
  refine ⟨rfl, fun hw u h => ?_⟩
  cases h
  obtain ⟨N, hN, h1, h2, f0, f1, f2⟩ := word0 8 10 (by decide) 2315255808 0 (by decide) rfl d h o
  rw [decode_8 hN h1, decode8, h2]
  rw [f0, f1, f2]
  rfl

theorem stB128 (d : BitVec 8) (h : BitVec 8) (o : BitVec 8) : Statement (.stB128 d h o) := by
  refine ⟨rfl, fun hw u h => ?_⟩
  cases h
  obtain ⟨N, hN, h1, h2, f0, f1, f2⟩ := word0 8 11 (by decide) 2332033024 0 (by decide) rfl d h o
  rw [decode_8 hN h1, decode8, h2]
  rw [f0, f1, f2]
  rfl

theorem ldsB32 (d : BitVec 8) (h : BitVec 8) (o : BitVec 8) : Statement (.ldsB32 d h o) := by
  refine ⟨rfl, fun hw u h => ?_⟩
  cases h
  obtain ⟨N, hN, h1, h2, f0, f1, f2⟩ := word0 8 12 (by decide) 2348810240 0 (by decide) rfl d h o
  rw [decode_8 hN h1, decode8, h2]
  rw [f0, f1, f2]
  rfl

theorem ldsB64 (d : BitVec 8) (h : BitVec 8) (o : BitVec 8) : Statement (.ldsB64 d h o) := by
  refine ⟨rfl, fun hw u h => ?_⟩
  cases h
  obtain ⟨N, hN, h1, h2, f0, f1, f2⟩ := word0 8 13 (by decide) 2365587456 0 (by decide) rfl d h o
  rw [decode_8 hN h1, decode8, h2]
  rw [f0, f1, f2]
  rfl

theorem ldsB128 (d : BitVec 8) (h : BitVec 8) (o : BitVec 8) : Statement (.ldsB128 d h o) := by
  refine ⟨rfl, fun hw u h => ?_⟩
  cases h
  obtain ⟨N, hN, h1, h2, f0, f1, f2⟩ := word0 8 14 (by decide) 2382364672 0 (by decide) rfl d h o
  rw [decode_8 hN h1, decode8, h2]
  rw [f0, f1, f2]
  rfl

theorem stsB32 (d : BitVec 8) (h : BitVec 8) (o : BitVec 8) : Statement (.stsB32 d h o) := by
  refine ⟨rfl, fun hw u h => ?_⟩
  cases h
  obtain ⟨N, hN, h1, h2, f0, f1, f2⟩ := word0 8 15 (by decide) 2399141888 0 (by decide) rfl d h o
  rw [decode_8 hN h1, decode8, h2]
  rw [f0, f1, f2]
  rfl

theorem stsB64 (d : BitVec 8) (h : BitVec 8) (o : BitVec 8) : Statement (.stsB64 d h o) := by
  refine ⟨rfl, fun hw u h => ?_⟩
  cases h
  obtain ⟨N, hN, h1, h2, f0, f1, f2⟩ := word0 9 0 (by decide) 2415919104 0 (by decide) rfl d h o
  rw [decode_9 hN h1, decode9, h2]
  rw [f0, f1, f2]
  rfl

theorem stsB128 (d : BitVec 8) (h : BitVec 8) (o : BitVec 8) : Statement (.stsB128 d h o) := by
  refine ⟨rfl, fun hw u h => ?_⟩
  cases h
  obtain ⟨N, hN, h1, h2, f0, f1, f2⟩ := word0 9 1 (by decide) 2432696320 0 (by decide) rfl d h o
  rw [decode_9 hN h1, decode9, h2]
  rw [f0, f1, f2]
  rfl

theorem atomAdd (d : BitVec 8) (h : BitVec 8) (o : BitVec 8) : Statement (.atomAdd d h o) := by
  refine ⟨rfl, fun hw u h => ?_⟩
  cases h
  obtain ⟨N, hN, h1, h2, f0, f1, f2⟩ := word0 9 2 (by decide) 2449473536 0 (by decide) rfl d h o
  rw [decode_9 hN h1, decode9, h2]
  rw [f0, f1, f2]
  rfl

theorem atomMins (d : BitVec 8) (h : BitVec 8) (o : BitVec 8) : Statement (.atomMins d h o) := by
  refine ⟨rfl, fun hw u h => ?_⟩
  cases h
  obtain ⟨N, hN, h1, h2, f0, f1, f2⟩ := word0 9 3 (by decide) 2466250752 0 (by decide) rfl d h o
  rw [decode_9 hN h1, decode9, h2]
  rw [f0, f1, f2]
  rfl

theorem atomMaxs (d : BitVec 8) (h : BitVec 8) (o : BitVec 8) : Statement (.atomMaxs d h o) := by
  refine ⟨rfl, fun hw u h => ?_⟩
  cases h
  obtain ⟨N, hN, h1, h2, f0, f1, f2⟩ := word0 9 4 (by decide) 2483027968 0 (by decide) rfl d h o
  rw [decode_9 hN h1, decode9, h2]
  rw [f0, f1, f2]
  rfl

theorem atomAnd (d : BitVec 8) (h : BitVec 8) (o : BitVec 8) : Statement (.atomAnd d h o) := by
  refine ⟨rfl, fun hw u h => ?_⟩
  cases h
  obtain ⟨N, hN, h1, h2, f0, f1, f2⟩ := word0 9 5 (by decide) 2499805184 0 (by decide) rfl d h o
  rw [decode_9 hN h1, decode9, h2]
  rw [f0, f1, f2]
  rfl

theorem atomOr (d : BitVec 8) (h : BitVec 8) (o : BitVec 8) : Statement (.atomOr d h o) := by
  refine ⟨rfl, fun hw u h => ?_⟩
  cases h
  obtain ⟨N, hN, h1, h2, f0, f1, f2⟩ := word0 9 6 (by decide) 2516582400 0 (by decide) rfl d h o
  rw [decode_9 hN h1, decode9, h2]
  rw [f0, f1, f2]
  rfl

theorem atomXor (d : BitVec 8) (h : BitVec 8) (o : BitVec 8) : Statement (.atomXor d h o) := by
  refine ⟨rfl, fun hw u h => ?_⟩
  cases h
  obtain ⟨N, hN, h1, h2, f0, f1, f2⟩ := word0 9 7 (by decide) 2533359616 0 (by decide) rfl d h o
  rw [decode_9 hN h1, decode9, h2]
  rw [f0, f1, f2]
  rfl

theorem atomXchg (d : BitVec 8) (h : BitVec 8) (o : BitVec 8) : Statement (.atomXchg d h o) := by
  refine ⟨rfl, fun hw u h => ?_⟩
  cases h
  obtain ⟨N, hN, h1, h2, f0, f1, f2⟩ := word0 9 8 (by decide) 2550136832 0 (by decide) rfl d h o
  rw [decode_9 hN h1, decode9, h2]
  rw [f0, f1, f2]
  rfl

theorem atomCas (d : BitVec 8) (h : BitVec 8) (o : BitVec 8) : Statement (.atomCas d h o) := by
  refine ⟨rfl, fun hw u h => ?_⟩
  cases h
  obtain ⟨N, hN, h1, h2, f0, f1, f2⟩ := word0 9 9 (by decide) 2566914048 0 (by decide) rfl d h o
  rw [decode_9 hN h1, decode9, h2]
  rw [f0, f1, f2]
  rfl

theorem atomFadd (d : BitVec 8) (h : BitVec 8) (o : BitVec 8) : Statement (.atomFadd d h o) := by
  refine ⟨rfl, fun hw u h => ?_⟩
  cases h
  obtain ⟨N, hN, h1, h2, f0, f1, f2⟩ := word0 9 10 (by decide) 2583691264 0 (by decide) rfl d h o
  rw [decode_9 hN h1, decode9, h2]
  rw [f0, f1, f2]
  rfl

theorem atomAdd64 (d : BitVec 8) (h : BitVec 8) (o : BitVec 8) : Statement (.atomAdd64 d h o) := by
  refine ⟨rfl, fun hw u h => ?_⟩
  cases h
  obtain ⟨N, hN, h1, h2, f0, f1, f2⟩ := word0 9 11 (by decide) 2600468480 0 (by decide) rfl d h o
  rw [decode_9 hN h1, decode9, h2]
  rw [f0, f1, f2]
  rfl

theorem hmk (d : BitVec 8) (a : BitVec 8) (b : BitVec 8) : Statement (.hmk d a b) := by
  refine ⟨rfl, fun hw u h => ?_⟩
  cases h
  obtain ⟨N, hN, h1, h2, f0, f1, f2⟩ := word0 9 12 (by decide) 2617245696 0 (by decide) rfl d a b
  rw [decode_9 hN h1, decode9, h2]
  rw [f0, f1, f2]
  rfl

theorem hadd (d : BitVec 8) (a : BitVec 8) (b : BitVec 8) : Statement (.hadd d a b) := by
  refine ⟨rfl, fun hw u h => ?_⟩
  cases h
  obtain ⟨N, hN, h1, h2, f0, f1, f2⟩ := word0 9 13 (by decide) 2634022912 0 (by decide) rfl d a b
  rw [decode_9 hN h1, decode9, h2]
  rw [f0, f1, f2]
  rfl

theorem hqry (d : BitVec 8) (a : BitVec 8) (s : BitVec 8) : Statement (.hqry d a s) := by
  refine ⟨rfl, fun hw u h => ?_⟩
  cases h
  obtain ⟨N, hN, h1, h2, f0, f1, f2⟩ := word0 9 14 (by decide) 2650800128 0 (by decide) rfl d a s
  rw [decode_9 hN h1, decode9, h2]
  rw [f0, f1, f2]
  rfl

theorem pref (l : BitVec 8) (h : BitVec 8) (o : BitVec 8) : Statement (.pref l h o) := by
  refine ⟨rfl, fun hw u h => ?_⟩
  cases h
  obtain ⟨N, hN, h1, h2, f0, f1, f2⟩ := word0 9 15 (by decide) 2667577344 0 (by decide) rfl l h o
  rw [decode_9 hN h1, decode9, h2]
  rw [f0, f1, f2]
  rfl

theorem bra (p : BitVec 8) (o : BitVec 16) : Statement (.bra p o) := by
  refine ⟨rfl, fun hw u h => ?_⟩
  cases h
  obtain ⟨N, hN, h1, h2, f0, f1⟩ := word2 10 0 (by decide) 2684354560 0 (by decide) rfl p o
  rw [decode_A hN h1, decodeA, h2]
  rw [f0, f1]
  rfl

theorem call (p : BitVec 8) (o : BitVec 16) : Statement (.call p o) := by
  refine ⟨rfl, fun hw u h => ?_⟩
  cases h
  obtain ⟨N, hN, h1, h2, f0, f1⟩ := word2 10 1 (by decide) 2701131776 0 (by decide) rfl p o
  rw [decode_A hN h1, decodeA, h2]
  rw [f0, f1]
  rfl

theorem ret : Statement .ret := ⟨rfl, fun _ _ h => by cases h; rfl⟩

theorem bri (p : BitVec 8) (a : BitVec 8) : Statement (.bri p a) := by
  refine ⟨rfl, fun hw u h => ?_⟩
  cases h
  obtain ⟨N, hN, h1, h2, c0, f0, f1⟩ := word1 10 3 (by decide) 2734686208 0 (by decide) rfl p a
  rw [decode_A hN h1, decodeA, h2]
  rw [f0, f1]
  exact if_pos c0

theorem exit : Statement .exit := ⟨rfl, fun _ _ h => by cases h; rfl⟩

theorem yield (p : BitVec 8) : Statement (.yield p) := by
  refine ⟨rfl, fun hw u h => ?_⟩
  cases h
  obtain ⟨N, hN, h1, h2, c0, f0⟩ := word5 10 5 (by decide) 2768240640 0 (by decide) rfl p
  rw [decode_A hN h1, decodeA, h2]
  rw [f0]
  exact if_pos c0

theorem loop (p : BitVec 8) (o : BitVec 16) : Statement (.loop p o) := by
  refine ⟨rfl, fun hw u h => ?_⟩
  cases h
  obtain ⟨N, hN, h1, h2, f0, f1⟩ := word2 10 6 (by decide) 2785017856 0 (by decide) rfl p o
  rw [decode_A hN h1, decodeA, h2]
  rw [f0, f1]
  rfl

theorem waitf (f : BitVec 12) : Statement (.waitf f) := by
  refine ⟨rfl, fun hw u h => ?_⟩
  cases h
  obtain ⟨N, hN, h1, h2, c0, f0⟩ := word9 10 7 (by decide) 2801795072 0 (by decide) rfl f
  rw [decode_A hN h1, decodeA, h2]
  rw [f0]
  exact if_pos c0

theorem brc (n : BitVec 3) (p : BitVec 8) (o : BitVec 16) : Statement (.brc n p o) := by
  refine ⟨rfl, fun hw u h => ?_⟩
  cases h
  obtain ⟨N, hN, h1, h2, f0, f1, f2⟩ := word10 10 8 (by decide) 2818572288 0 (by decide) rfl n p o
  have hn := n.isLt
  rw [decode_A hN h1, decodeA, h2, f0, f1, f2]
  clear h2
  generalize n.toNat = k at hn
  interval_cases k <;> rfl

theorem brn (n : BitVec 3) (p : BitVec 8) (o : BitVec 16) : Statement (.brn n p o) := by
  refine ⟨rfl, fun hw u h => ?_⟩
  cases h
  obtain ⟨N, hN, h1, h2, f0, f1, f2⟩ := word10 11 0 (by decide) 2952790016 0 (by decide) rfl n p o
  have hn := n.isLt
  rw [decode_B hN h1, decodeB, h2, f0, f1, f2]
  clear h2
  generalize n.toNat = k at hn
  interval_cases k <;> rfl

theorem enrol (j : BitVec 4) : Statement (.enrol j) := by
  refine ⟨rfl, fun hw u h => ?_⟩
  cases h
  obtain ⟨N, hN, h1, h2, c0, f0⟩ := word11 11 8 (by decide) 3087007744 0 (by decide) rfl j
  rw [decode_B hN h1, decodeB, h2]
  rw [f0]
  exact if_pos c0

theorem park (p : BitVec 8) (j : BitVec 4) : Statement (.park p j) := by
  refine ⟨rfl, fun hw u h => ?_⟩
  cases h
  obtain ⟨N, hN, h1, h2, c0, f0, f1⟩ := word12 11 9 (by decide) 3103784960 0 (by decide) rfl p j
  rw [decode_B hN h1, decodeB, h2]
  rw [f0, f1]
  exact if_pos c0

theorem strike (j : BitVec 4) : Statement (.strike j) := by
  refine ⟨rfl, fun hw u h => ?_⟩
  cases h
  obtain ⟨N, hN, h1, h2, c0, f0⟩ := word11 11 10 (by decide) 3120562176 0 (by decide) rfl j
  rw [decode_B hN h1, decodeB, h2]
  rw [f0]
  exact if_pos c0

theorem jqry (d : BitVec 8) (s : BitVec 1) (j : BitVec 4) : Statement (.jqry d s j) := by
  refine ⟨rfl, fun hw u h => ?_⟩
  cases h
  obtain ⟨N, hN, h1, h2, c0, c1, f0, f1, f2⟩ := word13 11 11 (by decide) 3137339392 0 (by decide) rfl d s j
  rw [decode_B hN h1, decodeB, h2]
  rw [f0, f1, f2]
  exact if_pos ⟨c0, c1⟩

theorem nop : Statement .nop := ⟨rfl, fun _ _ h => by cases h; rfl⟩

theorem resv (n : BitVec 6) (a : BitVec 8) : Statement (.resv n a) := by
  refine ⟨rfl, fun hw u h => ?_⟩
  cases h
  obtain ⟨N, hN, h1, h2, c0, c1, f0, f1⟩ := word14 12 0 (by decide) 3221225472 0 (by decide) rfl n a
  rw [decode_C hN h1, decodeC, h2]
  rw [f0, f1]
  exact if_pos ⟨c0, c1⟩

theorem free (n : BitVec 6) : Statement (.free n) := by
  refine ⟨rfl, fun hw u h => ?_⟩
  cases h
  obtain ⟨N, hN, h1, h2, c0, c1, f0⟩ := word15 12 1 (by decide) 3238002688 0 (by decide) rfl n
  rw [decode_C hN h1, decodeC, h2]
  rw [f0]
  exact if_pos ⟨c0, c1⟩

theorem tset (n : BitVec 6) (a : BitVec 8) : Statement (.tset n a) := by
  refine ⟨rfl, fun hw u h => ?_⟩
  cases h
  obtain ⟨N, hN, h1, h2, c0, c1, f0, f1⟩ := word14 12 2 (by decide) 3254779904 0 (by decide) rfl n a
  rw [decode_C hN h1, decodeC, h2]
  rw [f0, f1]
  exact if_pos ⟨c0, c1⟩

theorem tld (x : BitVec 6) (r : BitVec 6) (c : BitVec 6) (n : BitVec 3) : Statement (.tld x r c n) := by
  refine ⟨rfl, fun hw u h => ?_⟩
  cases h
  obtain ⟨N, hN, h1, h2, c0, f0, f1, f2, f3⟩ := word16 12 3 (by decide) 3271557120 0 (by decide) rfl x r c n
  rw [decode_C hN h1, decodeC, h2]
  rw [f0, f1, f2, f3]
  exact if_pos c0

theorem tst (x : BitVec 6) (r : BitVec 6) (c : BitVec 6) (n : BitVec 3) : Statement (.tst x r c n) := by
  refine ⟨rfl, fun hw u h => ?_⟩
  cases h
  obtain ⟨N, hN, h1, h2, c0, f0, f1, f2, f3⟩ := word16 12 4 (by decide) 3288334336 0 (by decide) rfl x r c n
  rw [decode_C hN h1, decodeC, h2]
  rw [f0, f1, f2, f3]
  exact if_pos c0

theorem tzero (x : BitVec 6) : Statement (.tzero x) := by
  refine ⟨rfl, fun hw u h => ?_⟩
  cases h
  obtain ⟨N, hN, h1, h2, c0, f0⟩ := word17 12 5 (by decide) 3305111552 0 (by decide) rfl x
  rw [decode_C hN h1, decodeC, h2]
  rw [f0]
  exact if_pos c0

theorem mma (x : BitVec 6) (y : BitVec 6) (z : BitVec 6) (p : BitVec 3) (c : BitVec 1) : Statement (.mma x y z p c) := by
  refine ⟨rfl, fun hw u h => ?_⟩
  cases h
  obtain ⟨N, hN, h1, h2, c0, f0, f1, f2, f3, f4⟩ := word18 12 6 (by decide) 3321888768 0 (by decide) rfl x y z p c
  rw [decode_C hN h1, decodeC, h2]
  rw [f0, f1, f2, f3, f4]
  exact if_pos c0

theorem mmag (x : BitVec 6) (y : BitVec 6) (z : BitVec 6) (p : BitVec 3) (c : BitVec 1) : Statement (.mmag x y z p c) := by
  refine ⟨rfl, fun hw u h => ?_⟩
  cases h
  obtain ⟨N, hN, h1, h2, c0, f0, f1, f2, f3, f4⟩ := word18 12 7 (by decide) 3338665984 0 (by decide) rfl x y z p c
  rw [decode_C hN h1, decodeC, h2]
  rw [f0, f1, f2, f3, f4]
  exact if_pos c0

theorem rast (x : BitVec 6) (y : BitVec 6) (z : BitVec 6) (t : BitVec 1) (e : BitVec 1) : Statement (.rast x y z t e) := by
  refine ⟨rfl, fun hw u h => ?_⟩
  cases h
  obtain ⟨N, hN, h1, h2, c0, f0, f1, f2, f3, f4⟩ := word19 12 8 (by decide) 3355443200 0 (by decide) rfl x y z t e
  rw [decode_C hN h1, decodeC, h2]
  rw [f0, f1, f2, f3, f4]
  exact if_pos c0

theorem mpost (s : BitVec 3) (a : BitVec 8) : Statement (.mpost s a) := by
  refine ⟨rfl, fun hw u h => ?_⟩
  cases h
  obtain ⟨N, hN, h1, h2, c0, c1, f0, f1⟩ := word20 12 9 (by decide) 3372220416 0 (by decide) rfl s a
  rw [decode_C hN h1, decodeC, h2]
  rw [f0, f1]
  exact if_pos ⟨c0, c1⟩

theorem mpre (s : BitVec 3) (a : BitVec 8) : Statement (.mpre s a) := by
  refine ⟨rfl, fun hw u h => ?_⟩
  cases h
  obtain ⟨N, hN, h1, h2, c0, c1, f0, f1⟩ := word20 12 10 (by decide) 3388997632 0 (by decide) rfl s a
  rw [decode_C hN h1, decodeC, h2]
  rw [f0, f1]
  exact if_pos ⟨c0, c1⟩

theorem tcvt (x : BitVec 6) (y : BitVec 6) (q : BitVec 3) : Statement (.tcvt x y q) := by
  refine ⟨rfl, fun hw u h => ?_⟩
  cases h
  obtain ⟨N, hN, h1, h2, c0, f0, f1, f2⟩ := word21 12 11 (by decide) 3405774848 0 (by decide) rfl x y q
  rw [decode_C hN h1, decodeC, h2]
  rw [f0, f1, f2]
  exact if_pos c0

theorem mqry (d : BitVec 8) (x : BitVec 6) (s : BitVec 8) : Statement (.mqry d x s) := by
  refine ⟨rfl, fun hw u h => ?_⟩
  cases h
  obtain ⟨N, hN, h1, h2, c0, f0, f1, f2⟩ := word22 12 12 (by decide) 3422552064 0 (by decide) rfl d x s
  rw [decode_C hN h1, decodeC, h2]
  rw [f0, f1, f2]
  exact if_pos c0

theorem cpy (c : BitVec 3) (a : BitVec 8) (h : BitVec 1) : Statement (.cpy c a h) := by
  refine ⟨rfl, fun hw u h => ?_⟩
  cases h
  obtain ⟨N, hN, h1, h2, c0, c1, f0, f1, f2⟩ := word23 13 0 (by decide) 3489660928 0 (by decide) rfl c a h
  rw [decode_D hN h1, decodeD, h2]
  rw [f0, f1, f2]
  exact if_pos ⟨c0, c1⟩

theorem cpym (c : BitVec 3) (a : BitVec 8) (h : BitVec 1) : Statement (.cpym c a h) := by
  refine ⟨rfl, fun hw u h => ?_⟩
  cases h
  obtain ⟨N, hN, h1, h2, c0, c1, f0, f1, f2⟩ := word23 13 1 (by decide) 3506438144 0 (by decide) rfl c a h
  rw [decode_D hN h1, decodeD, h2]
  rw [f0, f1, f2]
  exact if_pos ⟨c0, c1⟩

theorem cpys (c : BitVec 3) (a : BitVec 8) (h : BitVec 1) : Statement (.cpys c a h) := by
  refine ⟨rfl, fun hw u h => ?_⟩
  cases h
  obtain ⟨N, hN, h1, h2, c0, c1, f0, f1, f2⟩ := word23 13 2 (by decide) 3523215360 0 (by decide) rfl c a h
  rw [decode_D hN h1, decodeD, h2]
  rw [f0, f1, f2]
  exact if_pos ⟨c0, c1⟩

theorem binc (t : BitVec 8) (a : BitVec 8) (b : BitVec 8) : Statement (.binc t a b) := by
  refine ⟨rfl, fun hw u h => ?_⟩
  cases h
  obtain ⟨N, hN, h1, h2, f0, f1, f2⟩ := word0 13 3 (by decide) 3539992576 0 (by decide) rfl t a b
  rw [decode_D hN h1, decodeD, h2]
  rw [f0, f1, f2]
  rfl

theorem binp (t : BitVec 8) (m : BitVec 8) : Statement (.binp t m) := by
  refine ⟨rfl, fun hw u h => ?_⟩
  cases h
  obtain ⟨N, hN, h1, h2, c0, f0, f1⟩ := word6 13 4 (by decide) 3556769792 0 (by decide) rfl t m
  rw [decode_D hN h1, decodeD, h2]
  rw [f0, f1]
  exact if_pos c0

theorem hrel (m : BitVec 8) : Statement (.hrel m) := by
  refine ⟨rfl, fun hw u h => ?_⟩
  cases h
  obtain ⟨N, hN, h1, h2, c0, f0⟩ := word24 13 5 (by decide) 3573547008 0 (by decide) rfl m
  rw [decode_D hN h1, decodeD, h2]
  rw [f0]
  exact if_pos c0

theorem launch (a : BitVec 8) : Statement (.launch a) := by
  refine ⟨rfl, fun hw u h => ?_⟩
  cases h
  obtain ⟨N, hN, h1, h2, c0, c1, f0⟩ := word25 13 6 (by decide) 3590324224 0 (by decide) rfl a
  rw [decode_D hN h1, decodeD, h2]
  rw [f0]
  exact if_pos ⟨c0, c1⟩

theorem tkinit (s : BitVec 1) (a : BitVec 8) (b : BitVec 8) : Statement (.tkinit s a b) := by
  refine ⟨rfl, fun hw u h => ?_⟩
  cases h
  obtain ⟨N, hN, h1, h2, c0, f0, f1, f2⟩ := word26 13 7 (by decide) 3607101440 0 (by decide) rfl s a b
  rw [decode_D hN h1, decodeD, h2]
  rw [f0, f1, f2]
  exact if_pos c0

theorem tkexp (s : BitVec 1) (a : BitVec 8) (b : BitVec 8) : Statement (.tkexp s a b) := by
  refine ⟨rfl, fun hw u h => ?_⟩
  cases h
  obtain ⟨N, hN, h1, h2, c0, f0, f1, f2⟩ := word26 13 8 (by decide) 3623878656 0 (by decide) rfl s a b
  rw [decode_D hN h1, decodeD, h2]
  rw [f0, f1, f2]
  exact if_pos c0

theorem tkarr (s : BitVec 1) (a : BitVec 8) (o : BitVec 6) : Statement (.tkarr s a o) := by
  refine ⟨rfl, fun hw u h => ?_⟩
  cases h
  obtain ⟨N, hN, h1, h2, c0, c1, f0, f1, f2⟩ := word27 13 9 (by decide) 3640655872 0 (by decide) rfl s a o
  rw [decode_D hN h1, decodeD, h2]
  rw [f0, f1, f2]
  exact if_pos ⟨c0, c1⟩

theorem tkwait (d : BitVec 8) (a : BitVec 8) (s : BitVec 1) (p : BitVec 1) : Statement (.tkwait d a s p) := by
  refine ⟨rfl, fun hw u h => ?_⟩
  cases h
  obtain ⟨N, hN, h1, h2, c0, f0, f1, f2, f3⟩ := word28 13 10 (by decide) 3657433088 0 (by decide) rfl d a s p
  rw [decode_D hN h1, decodeD, h2]
  rw [f0, f1, f2, f3]
  exact if_pos c0

theorem tkkill (s : BitVec 1) (a : BitVec 8) : Statement (.tkkill s a) := by
  refine ⟨rfl, fun hw u h => ?_⟩
  cases h
  obtain ⟨N, hN, h1, h2, c0, c1, f0, f1⟩ := word29 13 11 (by decide) 3674210304 0 (by decide) rfl s a
  rw [decode_D hN h1, decodeD, h2]
  rw [f0, f1]
  exact if_pos ⟨c0, c1⟩

theorem bbinit (a : BitVec 8) (b : BitVec 8) : Statement (.bbinit a b) := by
  refine ⟨rfl, fun hw u h => ?_⟩
  cases h
  obtain ⟨N, hN, h1, h2, c0, f0, f1⟩ := word6 13 12 (by decide) 3690987520 0 (by decide) rfl a b
  rw [decode_D hN h1, decodeD, h2]
  rw [f0, f1]
  exact if_pos c0

theorem bbawait (d : BitVec 8) (a : BitVec 8) : Statement (.bbawait d a) := by
  refine ⟨rfl, fun hw u h => ?_⟩
  cases h
  obtain ⟨N, hN, h1, h2, c0, f0, f1⟩ := word1 13 13 (by decide) 3707764736 0 (by decide) rfl d a
  rw [decode_D hN h1, decodeD, h2]
  rw [f0, f1]
  exact if_pos c0

theorem bbrel (a : BitVec 8) : Statement (.bbrel a) := by
  refine ⟨rfl, fun hw u h => ?_⟩
  cases h
  obtain ⟨N, hN, h1, h2, c0, c1, f0⟩ := word25 13 14 (by decide) 3724541952 0 (by decide) rfl a
  rw [decode_D hN h1, decodeD, h2]
  rw [f0]
  exact if_pos ⟨c0, c1⟩

theorem shcfg (e : BitVec 1) (n : BitVec 3) (p : BitVec 2) (c : BitVec 2) : Statement (.shcfg e n p c) := by
  refine ⟨rfl, fun hw u h => ?_⟩
  cases h
  obtain ⟨N, hN, h1, h2, c0, c1, c2, f0, f1, f2, f3⟩ := word30 13 15 (by decide) 3741319168 0 (by decide) rfl e n p c
  rw [decode_D hN h1, decodeD, h2]
  rw [f0, f1, f2, f3]
  exact if_pos ⟨c0, c1, c2⟩

theorem aqp (a : BitVec 8) : Statement (.aqp a) := by
  refine ⟨rfl, fun hw u h => ?_⟩
  cases h
  obtain ⟨N, hN, h1, h2, c0, c1, f0⟩ := word25 14 0 (by decide) 3758096384 0 (by decide) rfl a
  rw [decode_E hN h1, decodeE, h2]
  rw [f0]
  exact if_pos ⟨c0, c1⟩

theorem kvap (d : BitVec 8) (a : BitVec 8) (b : BitVec 8) : Statement (.kvap d a b) := by
  refine ⟨rfl, fun hw u h => ?_⟩
  cases h
  obtain ⟨N, hN, h1, h2, f0, f1, f2⟩ := word0 14 1 (by decide) 3774873600 0 (by decide) rfl d a b
  rw [decode_E hN h1, decodeE, h2]
  rw [f0, f1, f2]
  rfl

theorem aqst (d : BitVec 8) (a : BitVec 8) (s : BitVec 4) : Statement (.aqst d a s) := by
  refine ⟨rfl, fun hw u h => ?_⟩
  cases h
  obtain ⟨N, hN, h1, h2, c0, f0, f1, f2⟩ := word31 14 2 (by decide) 3791650816 0 (by decide) rfl d a s
  rw [decode_E hN h1, decodeE, h2]
  rw [f0, f1, f2]
  exact if_pos c0

theorem trq (a : BitVec 8) : Statement (.trq a) := by
  refine ⟨rfl, fun hw u h => ?_⟩
  cases h
  obtain ⟨N, hN, h1, h2, c0, c1, f0⟩ := word25 14 3 (by decide) 3808428032 0 (by decide) rfl a
  rw [decode_E hN h1, decodeE, h2]
  rw [f0]
  exact if_pos ⟨c0, c1⟩

theorem psend (h : BitVec 8) (a : BitVec 8) (b : BitVec 8) : Statement (.psend h a b) := by
  refine ⟨rfl, fun hw u h => ?_⟩
  cases h
  obtain ⟨N, hN, h1, h2, f0, f1, f2⟩ := word0 14 4 (by decide) 3825205248 0 (by decide) rfl h a b
  rw [decode_E hN h1, decodeE, h2]
  rw [f0, f1, f2]
  rfl

theorem travel (p : BitVec 8) (a : BitVec 8) : Statement (.travel p a) := by
  refine ⟨rfl, fun hw u h => ?_⟩
  cases h
  obtain ⟨N, hN, h1, h2, c0, f0, f1⟩ := word1 14 5 (by decide) 3841982464 0 (by decide) rfl p a
  rw [decode_E hN h1, decodeE, h2]
  rw [f0, f1]
  exact if_pos c0

theorem pqry (d : BitVec 8) (s : BitVec 8) : Statement (.pqry d s) := by
  refine ⟨rfl, fun hw u h => ?_⟩
  cases h
  obtain ⟨N, hN, h1, h2, c0, f0, f1⟩ := word8 14 6 (by decide) 3858759680 0 (by decide) rfl d s
  rw [decode_E hN h1, decodeE, h2]
  rw [f0, f1]
  exact if_pos c0

theorem fence (r : BitVec 2) (o : BitVec 6) : Statement (.fence r o) := by
  refine ⟨rfl, fun hw u h => ?_⟩
  cases h
  obtain ⟨N, hN, h1, h2, c0, f0, f1⟩ := word32 14 8 (by decide) 3892314112 0 (by decide) rfl r o
  rw [decode_E hN h1, decodeE, h2]
  rw [f0, f1]
  exact if_pos c0

theorem bind (d : BitVec 8) (a : BitVec 8) (b : BitVec 8) : Statement (.bind d a b) := by
  refine ⟨rfl, fun hw u h => ?_⟩
  cases h
  obtain ⟨N, hN, h1, h2, f0, f1, f2⟩ := word0 14 9 (by decide) 3909091328 0 (by decide) rfl d a b
  rw [decode_E hN h1, decodeE, h2]
  rw [f0, f1, f2]
  rfl

theorem unbind (a : BitVec 8) : Statement (.unbind a) := by
  refine ⟨rfl, fun hw u h => ?_⟩
  cases h
  obtain ⟨N, hN, h1, h2, c0, c1, f0⟩ := word25 14 10 (by decide) 3925868544 0 (by decide) rfl a
  rw [decode_E hN h1, decodeE, h2]
  rw [f0]
  exact if_pos ⟨c0, c1⟩

theorem acq (d : BitVec 8) (a : BitVec 8) (b : BitVec 8) : Statement (.acq d a b) := by
  refine ⟨rfl, fun hw u h => ?_⟩
  cases h
  obtain ⟨N, hN, h1, h2, f0, f1, f2⟩ := word0 14 11 (by decide) 3942645760 0 (by decide) rfl d a b
  rw [decode_E hN h1, decodeE, h2]
  rw [f0, f1, f2]
  rfl

theorem rel (a : BitVec 8) (o : BitVec 6) : Statement (.rel a o) := by
  refine ⟨rfl, fun hw u h => ?_⟩
  cases h
  obtain ⟨N, hN, h1, h2, c0, c1, f0, f1⟩ := word33 14 12 (by decide) 3959422976 0 (by decide) rfl a o
  rw [decode_E hN h1, decodeE, h2]
  rw [f0, f1]
  exact if_pos ⟨c0, c1⟩

theorem acqr (d : BitVec 8) (h : BitVec 8) (o : BitVec 8) : Statement (.acqr d h o) := by
  refine ⟨rfl, fun hw u h => ?_⟩
  cases h
  obtain ⟨N, hN, h1, h2, f0, f1, f2⟩ := word0 14 13 (by decide) 3976200192 0 (by decide) rfl d h o
  rw [decode_E hN h1, decodeE, h2]
  rw [f0, f1, f2]
  rfl

theorem relw (d : BitVec 8) (h : BitVec 8) (o : BitVec 8) : Statement (.relw d h o) := by
  refine ⟨rfl, fun hw u h => ?_⟩
  cases h
  obtain ⟨N, hN, h1, h2, f0, f1, f2⟩ := word0 14 14 (by decide) 3992977408 0 (by decide) rfl d h o
  rw [decode_E hN h1, decodeE, h2]
  rw [f0, f1, f2]
  rfl

theorem trap (n : BitVec 16) : Statement (.trap n) := by
  refine ⟨rfl, fun hw u h => ?_⟩
  cases h
  obtain ⟨N, hN, h1, h2, c0, f0⟩ := word34 15 0 (by decide) 4026531840 0 (by decide) rfl n
  rw [decode_F hN h1, decodeF, h2]
  rw [f0]
  exact if_pos c0

theorem svc (n : BitVec 16) : Statement (.svc n) := by
  refine ⟨rfl, fun hw u h => ?_⟩
  cases h
  obtain ⟨N, hN, h1, h2, c0, f0⟩ := word34 15 1 (by decide) 4043309056 0 (by decide) rfl n
  rw [decode_F hN h1, decodeF, h2]
  rw [f0]
  exact if_pos c0

theorem rft : Statement .rft := ⟨rfl, fun _ _ h => by cases h; rfl⟩

theorem rftResume (a : BitVec 8) : Statement (.rftResume a) := by
  refine ⟨rfl, fun hw u h => ?_⟩
  cases h
  obtain ⟨N, hN, h1, h2, c0, c1, f0⟩ := word35 15 2 (by decide) 4060086273 1 (by decide) rfl a
  rw [decode_F hN h1, decodeF, h2]
  rw [f0]
  exact (if_neg (by simp only [bits] at c0 c1 ⊢; omega)).trans (if_pos ⟨c0, c1⟩)

theorem rftKill (a : BitVec 8) : Statement (.rftKill a) := by
  refine ⟨rfl, fun hw u h => ?_⟩
  cases h
  obtain ⟨N, hN, h1, h2, c0, c1, f0⟩ := word35 15 2 (by decide) 4060086274 2 (by decide) rfl a
  rw [decode_F hN h1, decodeF, h2]
  rw [f0]
  exact (if_neg (by simp only [bits] at c0 c1 ⊢; omega)).trans ((if_neg (by simp only [bits] at c0 c1 ⊢; omega)).trans (if_pos ⟨c0, c1⟩))

theorem brk (i : BitVec 8) : Statement (.brk i) := by
  refine ⟨rfl, fun hw u h => ?_⟩
  cases h
  obtain ⟨N, hN, h1, h2, c0, f0⟩ := word24 15 3 (by decide) 4076863488 0 (by decide) rfl i
  rw [decode_F hN h1, decodeF, h2]
  rw [f0]
  exact if_pos c0

theorem brkSet (k : BitVec 2) (a : BitVec 8) : Statement (.brkSet k a) := by
  refine ⟨rfl, fun hw u h => ?_⟩
  cases h
  obtain ⟨N, hN, h1, h2, c0, c1, c2, f0, f1⟩ := word36 15 3 (by decide) 4081057792 1 (by decide) rfl k a
  rw [decode_F hN h1, decodeF, h2]
  rw [f0, f1]
  exact (if_neg (by simp only [bits] at c0 c1 c2 ⊢; omega)).trans (if_pos ⟨c0, c1, c2⟩)

theorem brkClr (k : BitVec 2) : Statement (.brkClr k) := by
  refine ⟨rfl, fun hw u h => ?_⟩
  cases h
  obtain ⟨N, hN, h1, h2, c0, c1, f0⟩ := word37 15 3 (by decide) 4085252096 2 (by decide) rfl k
  rw [decode_F hN h1, decodeF, h2]
  rw [f0]
  exact (if_neg (by simp only [bits] at c0 c1 ⊢; omega)).trans ((if_neg (by simp only [bits] at c0 c1 ⊢; omega)).trans (if_pos ⟨c0, c1⟩))

theorem csrr (d : BitVec 8) (s : BitVec 16) : Statement (.csrr d s) := by
  refine ⟨rfl, fun hw u h => ?_⟩
  cases h
  obtain ⟨N, hN, h1, h2, f0, f1⟩ := word2 15 4 (by decide) 4093640704 0 (by decide) rfl d s
  rw [decode_F hN h1, decodeF, h2]
  rw [f0, f1]
  have n0 : ¬ bits N 0 16 = 8 := by
    have e := congrArg BitVec.toNat f1
    simp [wellFormed, BitVec.toNat_eq, fld, bits] at hw e ⊢
    omega
  exact if_neg n0

theorem csrrCyc (d : BitVec 8) : Statement (.csrrCyc d) := by
  refine ⟨rfl, fun hw u h => ?_⟩
  cases h
  obtain ⟨N, hN, h1, h2, c0, f0⟩ := word38 15 4 (by decide) 4093640712 8 (by decide) rfl d
  rw [decode_F hN h1, decodeF, h2]
  rw [f0]
  exact if_pos c0

theorem csrw (d : BitVec 8) (s : BitVec 16) : Statement (.csrw d s) := by
  refine ⟨rfl, fun hw u h => ?_⟩
  cases h
  obtain ⟨N, hN, h1, h2, f0, f1⟩ := word2 15 5 (by decide) 4110417920 0 (by decide) rfl d s
  rw [decode_F hN h1, decodeF, h2]
  rw [f0, f1]
  have n0 : ¬ bits N 0 16 = 259 := by
    have e := congrArg BitVec.toNat f1
    simp [wellFormed, BitVec.toNat_eq, fld, bits] at hw e ⊢
    omega
  have n1 : ¬ bits N 4 12 = 193 := by
    have e := congrArg BitVec.toNat f1
    simp [wellFormed, BitVec.toNat_eq, fld, bits] at hw e ⊢
    omega
  exact (if_neg n0).trans (if_neg n1)

theorem csrwIldom (d : BitVec 8) (n : BitVec 4) : Statement (.csrwIldom d n) := by
  refine ⟨rfl, fun hw u h => ?_⟩
  cases h
  obtain ⟨N, hN, h1, h2, c0, f0, f1⟩ := word39 15 5 (by decide) 4110421008 193 (by decide) rfl d n
  rw [decode_F hN h1, decodeF, h2]
  rw [f0, f1]
  exact (if_neg (by simp only [bits] at c0 ⊢; omega)).trans (if_pos c0)

theorem csrwOflag (d : BitVec 8) : Statement (.csrwOflag d) := by
  refine ⟨rfl, fun hw u h => ?_⟩
  cases h
  obtain ⟨N, hN, h1, h2, c0, f0⟩ := word38 15 5 (by decide) 4110418179 259 (by decide) rfl d
  rw [decode_F hN h1, decodeF, h2]
  rw [f0]
  exact if_pos c0

theorem invalTranslation (a : BitVec 8) : Statement (.invalTranslation a) := by
  refine ⟨rfl, fun hw u h => ?_⟩
  cases h
  obtain ⟨N, hN, h1, h2, c0, c1, f0⟩ := word25 15 6 (by decide) 4127195136 0 (by decide) rfl a
  rw [decode_F hN h1, decodeF, h2]
  rw [f0]
  exact if_pos ⟨c0, c1⟩

theorem invalWriteback (a : BitVec 8) : Statement (.invalWriteback a) := by
  refine ⟨rfl, fun hw u h => ?_⟩
  cases h
  obtain ⟨N, hN, h1, h2, c0, c1, f0⟩ := word35 15 6 (by decide) 4127195137 1 (by decide) rfl a
  rw [decode_F hN h1, decodeF, h2]
  rw [f0]
  exact (if_neg (by simp only [bits] at c0 c1 ⊢; omega)).trans (if_pos ⟨c0, c1⟩)

theorem invalKey (a : BitVec 8) : Statement (.invalKey a) := by
  refine ⟨rfl, fun hw u h => ?_⟩
  cases h
  obtain ⟨N, hN, h1, h2, c0, c1, f0⟩ := word35 15 6 (by decide) 4127195138 2 (by decide) rfl a
  rw [decode_F hN h1, decodeF, h2]
  rw [f0]
  exact (if_neg (by simp only [bits] at c0 c1 ⊢; omega)).trans ((if_neg (by simp only [bits] at c0 c1 ⊢; omega)).trans (if_pos ⟨c0, c1⟩))

theorem wait (d : BitVec 8) (a : BitVec 8) (b : BitVec 8) : Statement (.wait d a b) := by
  refine ⟨rfl, fun hw u h => ?_⟩
  cases h
  obtain ⟨N, hN, h1, h2, f0, f1, f2⟩ := word0 15 7 (by decide) 4143972352 0 (by decide) rfl d a b
  rw [decode_F hN h1, decodeF, h2]
  rw [f0, f1, f2]
  rfl

theorem himm (i : BitVec 24) : Statement (.himm i) := by
  refine ⟨rfl, fun hw u h => ?_⟩
  cases h
  obtain ⟨N, hN, h1, h2, f0⟩ := word40 15 8 (by decide) 4160749568 0 (by decide) rfl i
  rw [decode_F hN h1, decodeF, h2]
  rw [f0]
  rfl

theorem rep (c : BitVec 6) (d : BitVec 2) (a : BitVec 2) (b : BitVec 2) : Statement (.rep c d a b) := by
  refine ⟨rfl, fun hw u h => ?_⟩
  cases h
  obtain ⟨N, hN, h1, h2, c0, f0, f1, f2, f3⟩ := word41 15 9 (by decide) 4177526784 0 (by decide) rfl c d a b
  rw [decode_F hN h1, decodeF, h2]
  rw [f0, f1, f2, f3]
  exact if_pos c0

theorem hmod (e : BitVec 1) (n : BitVec 3) (s : BitVec 1) (t : BitVec 1) (r : BitVec 3) (f : BitVec 1) (h : BitVec 1) (b : BitVec 1) (o : BitVec 4) : Statement (.hmod e n s t r f h b o) := by
  refine ⟨rfl, fun hw u h => ?_⟩
  cases h
  obtain ⟨N, hN, h1, h2, c0, f0, f1, f2, f3, f4, f5, f6, f7, f8⟩ := word42 15 10 (by decide) 4194304000 0 (by decide) rfl e n s t r f h b o
  rw [decode_F hN h1, decodeF, h2]
  rw [f0, f1, f2, f3, f4, f5, f6, f7, f8]
  exact if_pos c0

theorem hopd (c : BitVec 8) (m : BitVec 16) : Statement (.hopd c m) := by
  refine ⟨rfl, fun hw u h => ?_⟩
  cases h
  obtain ⟨N, hN, h1, h2, f0, f1⟩ := word2 15 11 (by decide) 4211081216 0 (by decide) rfl c m
  rw [decode_F hN h1, decodeF, h2]
  rw [f0, f1]
  rfl

theorem clauseHeader (w : BitVec 12) (a : BitVec 4) (b : BitVec 4) (l : BitVec 4) (y : BitVec 1) : Statement (.clauseHeader w a b l y) := by
  refine ⟨rfl, fun hw u h => ?_⟩
  cases h
  obtain ⟨N, hN, h1, h2, c0, f0, f1, f2, f3, f4⟩ := word43 15 12 (by decide) 4227858432 0 (by decide) rfl w a b l y
  have hn : w.toNat / 2 ^ 10 < 4 := by omega
  obtain ⟨k, hk⟩ : ∃ k, w.toNat / 2 ^ 10 = k := ⟨_, rfl⟩
  rw [hk] at h2 hn
  rw [decode_F hN h1, decodeF, h2]
  interval_cases k <;> (show (if _ then _ else _) = _; rw [if_pos c0, f0, f1, f2, f3, f4])

theorem runAheadEnd (panel : Nat) : Statement (.runAheadEnd panel) := ⟨rfl, fun _ _ h => nomatch h⟩

theorem interleaveSwitchEnd (panel : Nat) (tid : Nat) : Statement (.interleaveSwitchEnd panel tid) := ⟨rfl, fun _ _ h => nomatch h⟩

theorem hostQueueDoorbell (queue : Nat) (tail : Word) (writes : List Host.Cell) : Statement (.hostQueueDoorbell queue tail writes) := ⟨rfl, fun _ _ h => nomatch h⟩

theorem launchArrival : Statement .launchArrival := ⟨rfl, fun _ _ h => nomatch h⟩

theorem signatureCheck (launch : Nat) : Statement (.signatureCheck launch) := ⟨rfl, fun _ _ h => nomatch h⟩

theorem extentWalk (launch : Nat) : Statement (.extentWalk launch) := ⟨rfl, fun _ _ h => nomatch h⟩

theorem gorluxTranslation (object : Nat) (text : List Word) (map : List Nat) : Statement (.gorluxTranslation object text map) := ⟨rfl, fun _ _ h => nomatch h⟩

theorem yokePlacement (part : Nat) : Statement (.yokePlacement part) := ⟨rfl, fun _ _ h => nomatch h⟩

theorem panelStart (panel : Nat) : Statement (.panelStart panel) := ⟨rfl, fun _ _ h => nomatch h⟩

theorem panelSwitchOut (panel : Nat) : Statement (.panelSwitchOut panel) := ⟨rfl, fun _ _ h => nomatch h⟩

theorem panelResume (panel : Nat) : Statement (.panelResume panel) := ⟨rfl, fun _ _ h => nomatch h⟩

theorem memoryOpComplete (panel : Nat) (tid : Nat) (op : Nat) (reply : PeerReply) : Statement (.memoryOpComplete panel tid op reply) := ⟨rfl, fun _ _ h => nomatch h⟩

theorem lateReport (panel : Nat) (tid : Nat) : Statement (.lateReport panel tid) := ⟨rfl, fun _ _ h => nomatch h⟩

theorem pageWalkComplete (walk : Nat) : Statement (.pageWalkComplete walk) := ⟨rfl, fun _ _ h => nomatch h⟩

theorem binningAppend (panel : Nat) (tid : Nat) (op : Nat) : Statement (.binningAppend panel tid op) := ⟨rfl, fun _ _ h => nomatch h⟩

theorem deferredAppendReplay (launch : Nat) : Statement (.deferredAppendReplay launch) := ⟨rfl, fun _ _ h => nomatch h⟩

theorem copyCommandStart (cmd : Nat) : Statement (.copyCommandStart cmd) := ⟨rfl, fun _ _ h => nomatch h⟩

theorem bobbinSlotClaim (cmd : Nat) : Statement (.bobbinSlotClaim cmd) := ⟨rfl, fun _ _ h => nomatch h⟩

theorem copyChunkDelivery (cmd : Nat) : Statement (.copyChunkDelivery cmd) := ⟨rfl, fun _ _ h => nomatch h⟩

theorem scoutFault (cmd : Nat) : Statement (.scoutFault cmd) := ⟨rfl, fun _ _ h => nomatch h⟩

theorem copyCommandComplete (cmd : Nat) : Statement (.copyCommandComplete cmd) := ⟨rfl, fun _ _ h => nomatch h⟩

theorem tkwaitComplete (panel : Nat) (tid : Nat) (op : Nat) : Statement (.tkwaitComplete panel tid op) := ⟨rfl, fun _ _ h => nomatch h⟩

theorem bbawaitComplete (panel : Nat) (tid : Nat) (op : Nat) : Statement (.bbawaitComplete panel tid op) := ⟨rfl, fun _ _ h => nomatch h⟩

theorem acqSatisfied (panel : Nat) (tid : Nat) : Statement (.acqSatisfied panel tid) := ⟨rfl, fun _ _ h => nomatch h⟩

theorem waitDone (panel : Nat) (tid : Nat) : Statement (.waitDone panel tid) := ⟨rfl, fun _ _ h => nomatch h⟩

theorem matrixGrant (req : Nat) : Statement (.matrixGrant req) := ⟨rfl, fun _ _ h => nomatch h⟩

theorem matrixRequestComplete (req : Nat) : Statement (.matrixRequestComplete req) := ⟨rfl, fun _ _ h => nomatch h⟩

theorem freeRecordClear (panel : Nat) (tid : Nat) : Statement (.freeRecordClear panel tid) := ⟨rfl, fun _ _ h => nomatch h⟩

theorem travelDeparture (panel : Nat) (tid : Nat) : Statement (.travelDeparture panel tid) := ⟨rfl, fun _ _ h => nomatch h⟩

theorem parcelArrival (parcel : Nat) : Statement (.parcelArrival parcel) := ⟨rfl, fun _ _ h => nomatch h⟩

theorem spoolParcelToThread (core : Nat) : Statement (.spoolParcelToThread core) := ⟨rfl, fun _ _ h => nomatch h⟩

theorem overflowReadback (core : Nat) : Statement (.overflowReadback core) := ⟨rfl, fun _ _ h => nomatch h⟩

theorem occupancyReport (core : Nat) : Statement (.occupancyReport core) := ⟨rfl, fun _ _ h => nomatch h⟩

theorem parcelSendOnPin (launch : Nat) : Statement (.parcelSendOnPin launch) := ⟨rfl, fun _ _ h => nomatch h⟩

theorem messageArrival (parcel : Nat) : Statement (.messageArrival parcel) := ⟨rfl, fun _ _ h => nomatch h⟩

theorem handlerPanelStart (core : Nat) : Statement (.handlerPanelStart core) := ⟨rfl, fun _ _ h => nomatch h⟩

theorem queryPost (query : Nat) (stack : Nat) : Statement (.queryPost query stack) := ⟨rfl, fun _ _ h => nomatch h⟩

theorem stackResultWrite (query : Nat) (stack : Nat) : Statement (.stackResultWrite query stack) := ⟨rfl, fun _ _ h => nomatch h⟩

theorem sweepResultWrite (query : Nat) : Statement (.sweepResultWrite query) := ⟨rfl, fun _ _ h => nomatch h⟩

theorem rowRefresh (stack : Nat) (bank : Nat) (row : Nat) : Statement (.rowRefresh stack bank row) := ⟨rfl, fun _ _ h => nomatch h⟩

theorem refreshSlackExpiry (stack : Nat) (bank : Nat) (row : Nat) : Statement (.refreshSlackExpiry stack bank row) := ⟨rfl, fun _ _ h => nomatch h⟩

theorem scrubRow (stack : Nat) (bank : Nat) (row : Nat) : Statement (.scrubRow stack bank row) := ⟨rfl, fun _ _ h => nomatch h⟩

theorem stackThrottle (stack : Nat) (lower : Bool) : Statement (.stackThrottle stack lower) := ⟨rfl, fun _ _ h => nomatch h⟩

theorem faultRecordPost (part : Nat) : Statement (.faultRecordPost part) := ⟨rfl, fun _ _ h => nomatch h⟩

theorem coreReset (core : Nat) : Statement (.coreReset core) := ⟨rfl, fun _ _ h => nomatch h⟩

theorem panelRetire (panel : Nat) : Statement (.panelRetire panel) := ⟨rfl, fun _ _ h => nomatch h⟩

theorem launchRetire (launch : Nat) : Statement (.launchRetire launch) := ⟨rfl, fun _ _ h => nomatch h⟩

theorem hostMemAccess (part : Nat) (va : Nat) (access : HostAccess) : Statement (.hostMemAccess part va access) := ⟨rfl, fun _ _ h => nomatch h⟩

theorem peerRequest (request : PeerRequest) : Statement (.peerRequest request) := ⟨rfl, fun _ _ h => nomatch h⟩

theorem flitCrcRetry (link : Nat) : Statement (.flitCrcRetry link) := ⟨rfl, fun _ _ h => nomatch h⟩

theorem bridgeRetrainTimeout : Statement .bridgeRetrainTimeout := ⟨rfl, fun _ _ h => nomatch h⟩

theorem zidorLinkDownTimeout (link : Nat) : Statement (.zidorLinkDownTimeout link) := ⟨rfl, fun _ _ h => nomatch h⟩

theorem eccError (error : EccError) : Statement (.eccError error) := ⟨rfl, fun _ _ h => nomatch h⟩

theorem thermalThrottle : Statement .thermalThrottle := ⟨rfl, fun _ _ h => nomatch h⟩

theorem thermalShutdown : Statement .thermalShutdown := ⟨rfl, fun _ _ h => nomatch h⟩

theorem powerOnReset (bringUp : BringUp) : Statement (.powerOnReset bringUp) := ⟨rfl, fun _ _ h => nomatch h⟩

theorem create (fn : Nat) (args : CreateArgs) : Statement (.create fn args) := ⟨rfl, fun _ _ h => nomatch h⟩

theorem destroy (fn : Nat) (part : Nat) : Statement (.destroy fn part) := ⟨rfl, fun _ _ h => nomatch h⟩

theorem super (fn : Nat) (part : Nat) (record : Nat) : Statement (.super fn part record) := ⟨rfl, fun _ _ h => nomatch h⟩

theorem qset (fn : Nat) (queue : Nat) (part : Nat) (base : Nat) (j : Nat) : Statement (.qset fn queue part base j) := ⟨rfl, fun _ _ h => nomatch h⟩

theorem cancel (fn : Nat) (part : Nat) (id : Nat) : Statement (.cancel fn part id) := ⟨rfl, fun _ _ h => nomatch h⟩

theorem evict (fn : Nat) (part : Nat) (code : Nat) : Statement (.evict fn part code) := ⟨rfl, fun _ _ h => nomatch h⟩

theorem domain (fn : Nat) (domain : Nat) (peers : List DomainPeer) : Statement (.domain fn domain peers) := ⟨rfl, fun _ _ h => nomatch h⟩

theorem vlog (fn : Nat) (part : Nat) (index : Nat) : Statement (.vlog fn part index) := ⟨rfl, fun _ _ h => nomatch h⟩

theorem attest (fn : Nat) (part : Nat) (nonce : List Word) : Statement (.attest fn part nonce) := ⟨rfl, fun _ _ h => nomatch h⟩

theorem resync (fn : Nat) (buffer : Nat) : Statement (.resync fn buffer) := ⟨rfl, fun _ _ h => nomatch h⟩

theorem unassignedOpcode : Statement .unassignedOpcode := ⟨rfl, fun _ _ h => nomatch h⟩

theorem releaseComplete (panel : Nat) (tid : Nat) : Statement (.releaseComplete panel tid) := ⟨rfl, fun _ _ h => nomatch h⟩

theorem invalComplete (panel : Nat) (tid : Nat) : Statement (.invalComplete panel tid) := ⟨rfl, fun _ _ h => nomatch h⟩

theorem bridgeRetrainStart : Statement .bridgeRetrainStart := ⟨rfl, fun _ _ h => nomatch h⟩

theorem bridgeRetrainEnd : Statement .bridgeRetrainEnd := ⟨rfl, fun _ _ h => nomatch h⟩

theorem zidorLinkDown (link : Nat) : Statement (.zidorLinkDown link) := ⟨rfl, fun _ _ h => nomatch h⟩

theorem zidorLinkTrained (link : Nat) (peer : Nat) : Statement (.zidorLinkTrained link peer) := ⟨rfl, fun _ _ h => nomatch h⟩

theorem thermalThrottleEnd : Statement .thermalThrottleEnd := ⟨rfl, fun _ _ h => nomatch h⟩

end Round

end Sys2Proof.Laws
end

