-- ==== Sys2Proof/Safety.lean ====
section
/-! DEFINITION. What a run never breaks, and the terms in which statements about one instruction are written: one thread
that issues alone, its operands and results, the trap it takes, states that differ in one part. -/

namespace Sys2Proof

/-! ## Shapes of memory words -/

open Machine in
/-- Handle, offset, size and right of a global load or store (R269, R270). -/
def Instr.globalShape : Instr → Option (BitVec 8 × BitVec 8 × Nat × Nat)
  | .ldB8 _ h o | .ldS8 _ h o => some (h, o, 1, rRd)
  | .ldB16 _ h o | .ldS16 _ h o => some (h, o, 2, rRd)
  | .ldB32 _ h o => some (h, o, 4, rRd)
  | .ldB64 _ h o => some (h, o, 8, rRd)
  | .ldB128 _ h o => some (h, o, 16, rRd)
  | .stB8 _ h o => some (h, o, 1, rW)
  | .stB16 _ h o => some (h, o, 2, rW)
  | .stB32 _ h o => some (h, o, 4, rW)
  | .stB64 _ h o => some (h, o, 8, rW)
  | .stB128 _ h o => some (h, o, 16, rW)
  | _ => none

/-- A load extends its sign. -/
def Instr.loadsSigned : Instr → Bool
  | .ldS8 _ _ _ | .ldS16 _ _ _ => true
  | _ => false

/-- Handle, offset and size of a scratchpad access, and whether it is a store (R271). -/
def Instr.scratchShape : Instr → Option (BitVec 8 × BitVec 8 × Nat × Bool)
  | .ldsB32 _ h o => some (h, o, 4, false)
  | .ldsB64 _ h o => some (h, o, 8, false)
  | .ldsB128 _ h o => some (h, o, 16, false)
  | .stsB32 _ h o => some (h, o, 4, true)
  | .stsB64 _ h o => some (h, o, 8, true)
  | .stsB128 _ h o => some (h, o, 16, true)
  | _ => none

open Machine in
/-- Operation, d, handle and offset of an atomic (R272). -/
def Instr.atomShape : Instr → Option (AtomOp × BitVec 8 × BitVec 8 × BitVec 8)
  | .atomAdd d h o => some (.add, d, h, o)
  | .atomMins d h o => some (.mins, d, h, o)
  | .atomMaxs d h o => some (.maxs, d, h, o)
  | .atomAnd d h o => some (.band, d, h, o)
  | .atomOr d h o => some (.bor, d, h, o)
  | .atomXor d h o => some (.bxor, d, h, o)
  | .atomXchg d h o => some (.xchg, d, h, o)
  | .atomCas d h o => some (.cas, d, h, o)
  | .atomFadd d h o => some (.fadd, d, h, o)
  | .atomAdd64 d h o => some (.add64, d, h, o)
  | _ => none

/-- The member mask of a cross-lane word and the decode checks it adds (R230 to R238). -/
def Instr.collective : Instr → Option (BitVec 8 × (Machine.Hints → Bool))
  | .shfl _ _ m | .ballot _ _ m | .raddS32 _ _ m | .raddF32 _ _ m | .rminN32 _ _ m | .rmaxN32 _ _ m | .rminF32 _ _ m
  | .rmaxF32 _ _ m | .rminxN32 _ _ m | .scanS32 _ _ m | .matchLanes _ _ m | .laneid _ m => some (m, fun _ => true)
  | .shflx _ _ m => some (m, fun h => bits (Machine.modeOf h) 14 2 != 3)
  | .bcst _ _ m => some (m, fun h => (Machine.modeOf h).testBit 15 || Machine.modeOf h == 0)
  | .vote _ _ m => some (m, fun h => Machine.modeOf h != 3)
  | _ => none

/-- Cross-lane words that can raise flags (R185, R190, R191). -/
def Instr.foldsFloats : Instr → Bool
  | .raddF32 _ _ _ | .rminF32 _ _ _ | .rmaxF32 _ _ _ => true
  | _ => false

/-- Kind, channel, descriptor pair and held bit of a copy word (R300). -/
def Instr.copyShape : Instr → Option (Nat × Nat × BitVec 8 × Bool)
  | .cpy c a h => some (0, c.toNat, a, h == 1)
  | .cpym c a h => some (1, c.toNat, a, h == 1)
  | .cpys c a h => some (2, c.toNat, a, h == 1)
  | _ => none

end Sys2Proof

namespace Sys2Proof.Machine

/-! ## The stitch -/

/-- No thread has just faulted and waits to run ahead (R432). -/
abbrev Sys.Calm (s : Sys) : Prop := ∀ p ∈ s.panels, (p.ahead.any fun a => a.saved.isEmpty) = false

/-- The issuing stitch is one thread, with its panel and its launch, and it does not run ahead. -/
abbrev State.Alone (s : State) (t : Thread) (p : Panel) (l : Launch) : Prop :=
  s.sys.focus = [(t.panel, t.tid)] ∧ s.sys.thread? t.panel t.tid = some t ∧ s.sys.homeOf t = some (p, l)
    ∧ p.ahead = none ∧ s.sys.Calm

/-- Every thread of the issuing stitch stands in the tables; the stitch names none twice and does not run ahead. -/
abbrev State.Whole (s : State) : Prop :=
  s.sys.focus ≠ [] ∧ s.sys.focus.Nodup ∧ s.sys.stitch.length = s.sys.focus.length ∧ (∀ x ∈ s.sys.stitch, x.2.1.ahead = none)
    ∧ s.sys.Calm

/-- The stitch as a list of panel and `%tid` pairs in place of the one that issues. -/
def State.focusOn (s : State) (ids : List (Nat × Nat)) : State := ⟨s.mem, s.hostMem, { s.sys with focus := ids }⟩

/-- The decode checks that follow the opcode pass (R115), the predicate test passes (R109), no operand is a shuttle. -/
abbrev Thread.Ready (t : Thread) (p : Panel) (i : Instr) : Prop :=
  wordOk i t p = true ∧ t.runs = true ∧ (form i t.hints).pops t.hints = [] ∧ (form i t.hints).pushes = []

/-! ## States that differ in one part -/

def State.withSys (s : State) (y : Sys) : State := ⟨s.mem, s.hostMem, y⟩
def State.withThread (s : State) (t : Thread) : State := s.withSys (s.sys.setThread t)

/-- Every thread of the stitch changed. -/
def State.withStitch (s : State) (g : Thread → Panel → Launch → Thread) : State :=
  s.withSys (s.sys.stitch.foldl (fun y x => y.setThread (g x.1 x.2.1 x.2.2)) s.sys)

/-- The thread goes on past the instruction (R107, R136). -/
def State.going (s : State) (t : Thread) (l : Launch) : State := s.withThread (t.advance (s.sys.nmapOf l))

/-- The thread holds its entry until the instruction it has issued is done. -/
def State.holding (s : State) (t : Thread) (l : Launch) (x : Pend) : State := s.withThread (t.held (s.sys.nmapOf l) x)

/-- One more key used. -/
def State.used (s : State) : State := s.withSys { s.sys with serial := s.sys.serial + 1 }

/-- The thread goes on with one more operation outstanding, which counts on its flag (R100). -/
def State.begun (s : State) (t : Thread) (l : Launch) (i : Instr) (kind : OpKind) (acc : Option Access) (dst : List Nat) : State :=
  s.used.going (t.begin_ ⟨s.sys.serial, kind, acc, dst, flagOf t (classOf i), t.self, none⟩) l

/-! ## Operands and results -/

/-- A 32-bit register field in the repeat that is next: z reads 0 (R93), the band renames (R95), `REP` steps (R107). -/
def Thread.src32 (t : Thread) (p : Panel) (f : BitVec 8) (st : Nat) : Word :=
  if f = 248 then 0 else t.getV (physReg p.regs p.band t.rotbase (f.toNat + stepOf t.hints st * t.repidx))

/-- A pair (R96): each register is renamed on its own. -/
def Thread.src64 (t : Thread) (p : Panel) (f : BitVec 8) (st : Nat) : DWord :=
  let k := f.toNat + stepOf t.hints st * t.repidx
  t.getV (physReg p.regs p.band t.rotbase (k + 1)) ++ t.getV (physReg p.regs p.band t.rotbase k)

/-- A 32-bit result: z discards it. -/
def Thread.put32 (t : Thread) (p : Panel) (f : BitVec 8) (x : Word) : Thread :=
  if f = 248 then t else t.setV (physReg p.regs p.band t.rotbase (f.toNat + stepOf t.hints 1 * t.repidx)) x

/-- A result for a pair. -/
def Thread.put64 (t : Thread) (p : Panel) (f : BitVec 8) (x : DWord) : Thread :=
  let k := f.toNat + stepOf t.hints 1 * t.repidx
  (t.setV (physReg p.regs p.band t.rotbase k) (x.setWidth 32)).setV (physReg p.regs p.band t.rotbase (k + 1))
    ((x >>> 32).setWidth 32)

/-- Predicate n written. -/
def Thread.putP (t : Thread) (n : BitVec 3) (v : Bool) : Thread :=
  { t with p := if v then t.p ||| predBit n.toNat else t.p &&& ~~~predBit n.toNat }

/-- The 32 bits that `f` gives. -/
def word32 (f : Nat → Bool) : Word := BitVec.ofNat 32 (bitsOf 32 f)

/-- The registers of the destination, none for z. -/
def Thread.dstRegs (t : Thread) (p : Panel) (i : Instr) : List Nat :=
  match (form i t.hints).dst with
  | some o => o.regs t p
  | none => []

/-! ## Arithmetic words -/

/-- The decode checks that an arithmetic word adds to its operand form; none: not an arithmetic word. -/
def laneCheck : Instr → Option (Thread → Bool)
  | .add _ _ _ | .addi _ _ _ | .sub _ _ _ => some fun t => modeOf t.hints % 2 == 0 || satOf t.hints
  | .shli _ _ i | .shri _ _ i | .srai _ _ i => some fun _ => i.toNat < 32
  | .movi _ _ => some fun t => (t.hints.himm.map BitVec.toNat).getD 0 < 2 ^ 16
  | .icmps c m _ _ _ | .icmpn c m _ _ _ => some fun _ => m != 3 && c.toNat < 6
  | .icmpi _ m _ _ _ | .fcmpF32 _ m _ _ _ | .fcmpF64 _ m _ _ _ => some fun _ => m != 3
  | .fclass _ _ t => some fun _ => t.toNat < 4
  | .cvt _ _ t f => some fun _ => t.toNat < 4 && f.toNat < 4 && t != f
  | .cvti _ _ t f | .cvtf _ _ t f => some fun _ => t.toNat < 4 && f.toNat < 4
  | .pack _ _ _ | .unpk _ _ => some fun t => packFmt (modeOf t.hints % 32)
  | .logc _ _ _ => some fun t => modeOf t.hints % 4 != 3
  | .hqry _ _ x => some fun t => t.stepped x 3 < 4
  | .add64 _ _ _ | .sub64 _ _ _ | .mul _ _ _ | .mulhs _ _ _ | .mulhn _ _ _ | .mac _ _ _ | .mulw _ _ _ | .mins _ _ _ | .maxs _ _ _
  | .minn _ _ _ | .maxn _ _ _ | .absd _ _ _ | .sel _ _ _ | .and _ _ _ | .or _ _ _ | .xor _ _ _ | .andn _ _ _ | .orn _ _ _
  | .xnor _ _ _ | .andi _ _ _ | .ori _ _ _ | .xori _ _ _ | .shl _ _ _ | .shr _ _ _ | .sra _ _ _ | .rol _ _ _ | .popc _ _
  | .clz _ _ | .ctz _ _ | .brev _ _ | .bswap _ _ | .bfx _ _ _ | .bfxs _ _ _ | .bfi _ _ _ | .prmt _ _ _ | .movhi _ _ | .mov _ _
  | .plut _ _ _ _ _ | .p2v _ | .v2p _ _ | .idot4s _ _ _ | .idot4n _ _ _
  | .faddF32 _ _ _ | .fsubF32 _ _ _ | .fmulF32 _ _ _ | .fmacF32 _ _ _ | .fmaF32 _ _ _ | .fminF32 _ _ _ | .fmaxF32 _ _ _
  | .faddF64 _ _ _ | .fsubF64 _ _ _ | .fmulF64 _ _ _ | .fmacF64 _ _ _ | .fmaF64 _ _ _ | .fminF64 _ _ _ | .fmaxF64 _ _ _
  | .paddH16x2 _ _ _ | .pmulH16x2 _ _ _ | .pmacH16x2 _ _ _ | .paddBf16x2 _ _ _ | .pmulBf16x2 _ _ _ | .pmacBf16x2 _ _ _
  | .dot2H16 _ _ _ | .dot2Bf16 _ _ _ | .dot4E4m3 _ _ _ | .dot8E2m1 _ _ _ | .frcp _ _ | .frsq _ _ | .fsqrt _ _ | .fex2 _ _
  | .flg2 _ _ | .fsin _ _ | .fcos _ _ | .frcpsF64 _ _ | .scale _ _ _ | .frnd _ _ | .hmk _ _ _ | .hadd _ _ _ => some fun _ => true
  | _ => none

/-- An arithmetic word whose decode checks pass for a thread (R115). -/
def laneOk (i : Instr) (t : Thread) (p : Panel) : Bool :=
  match laneCheck i with
  | some ok => wordOk i t p && ok t
  | none => false

/-- Predicates that an arithmetic word writes. -/
def predsWritten : Instr → BitVec 8
  | .icmps _ _ p _ _ | .icmpn _ _ p _ _ | .icmpi _ _ p _ _ | .fcmpF32 _ _ p _ _ | .fcmpF64 _ _ p _ _ => predBit p.toNat
  | .plut _ d _ _ _ => predBit d.toNat
  | .v2p _ m => m
  | _ => 0

/-- It can raise sticky flags (R185): floating-point words only. -/
def raisesFlags : Instr → Bool
  | .faddF32 _ _ _ | .fsubF32 _ _ _ | .fmulF32 _ _ _ | .fmacF32 _ _ _ | .fmaF32 _ _ _ | .fminF32 _ _ _ | .fmaxF32 _ _ _
  | .fcmpF32 _ _ _ _ _ | .faddF64 _ _ _ | .fsubF64 _ _ _ | .fmulF64 _ _ _ | .fmacF64 _ _ _ | .fmaF64 _ _ _ | .fminF64 _ _ _
  | .fmaxF64 _ _ _ | .fcmpF64 _ _ _ _ _ | .paddH16x2 _ _ _ | .pmulH16x2 _ _ _ | .pmacH16x2 _ _ _ | .paddBf16x2 _ _ _
  | .pmulBf16x2 _ _ _ | .pmacBf16x2 _ _ _ | .dot2H16 _ _ _ | .dot2Bf16 _ _ _ | .dot4E4m3 _ _ _ | .dot8E2m1 _ _ _ | .frcp _ _
  | .frsq _ _ | .fsqrt _ _ | .fex2 _ _ | .flg2 _ _ | .fsin _ _ | .fcos _ _ | .frcpsF64 _ _ | .cvt _ _ _ _ | .cvti _ _ _ _
  | .cvtf _ _ _ _ | .pack _ _ _ | .unpk _ _ | .scale _ _ _ | .frnd _ _ | .logc _ _ _ => true
  | _ => false

/-- One thread runs a word whose decode checks pass, and goes on with `f` of itself and its panel. -/
def Gives (i : Instr) (f : Thread → Panel → Thread) : Prop :=
  ∀ (s : State) (t : Thread) (p : Panel) (l : Launch), s.Alone t p l → t.Ready p i → laneOk i t p = true →
    exec i s = .next (s.going (f t p) l)

/-- It writes a 32-bit result to d, and nothing else changes but its place in the text. -/
def Gives32 (i : Instr) (d : BitVec 8) (x : Thread → Panel → Word) : Prop := Gives i fun t p => t.put32 p d (x t p)

def Gives64 (i : Instr) (d : BitVec 8) (x : Thread → Panel → DWord) : Prop := Gives i fun t p => t.put64 p d (x t p)

/-- It writes one predicate. -/
def GivesP (i : Instr) (n : BitVec 3) (v : Thread → Panel → Bool) : Prop := Gives i fun t p => t.putP n (v t p)

/-- An exact integer clamped to the signed 32-bit range. -/
def clampWord (y : Int) : Word := BitVec.ofInt 32 (max (-(2 ^ 31)) (min (2 ^ 31 - 1) y))

/-- Wrapped, or clamped under sat. -/
def sum32 (h : Hints) (y : Int) : Word := if satOf h then clampWord y else BitVec.ofInt 32 y

/-- `ADD`, `SUB`, `ADDI`: wrapped, or clamped as signed or as unsigned. -/
def addWord (h : Hints) (signed unsigned : Int) : Word :=
  if !satOf h then BitVec.ofInt 32 signed
  else if modeOf h = 0 then clampWord signed else BitVec.ofInt 32 (max 0 (min (2 ^ 32 - 1) unsigned))

/-- An 8-bit immediate, sign-extended, or the 32-bit immediate of `HIMM` (R106). -/
def immSigned (h : Hints) (i : BitVec 8) : Word :=
  match h.himm with
  | some m => m ++ i
  | none => i.signExtend 32

/-- The same, zero-extended. -/
def immZero (h : Hints) (i : BitVec 8) : Word :=
  match h.himm with
  | some m => m ++ i
  | none => i.setWidth 32

/-- The place and the clipped length of a bit field (R207). -/
def fieldLen (b : Word) : Nat :=
  if 32 ≤ (b.extractLsb' 0 8).toNat then 0 else min (b.extractLsb' 8 8).toNat (32 - (b.extractLsb' 0 8).toNat)

/-- Byte i of a word, as a signed and as an unsigned number. -/
def byteS (x : Word) (i : Nat) : Int := (x.extractLsb' (8 * i) 8).toInt
def byteN (x : Word) (i : Nat) : Int := (x.extractLsb' (8 * i) 8).toNat

/-- The conditions of the integer compares (R210). -/
def condWord (c : BitVec 3) (lt eq : Bool) : Bool :=
  match c.toNat with
  | 0 => eq
  | 1 => !eq
  | 2 => lt
  | 3 => lt || eq
  | 4 => !(lt || eq)
  | _ => !lt

/-- The combined predicate (R210). -/
def combined (m : BitVec 2) (old test : Bool) : Bool := if m = 0 then test else if m = 1 then old && test else old || test

/-! ### FP32 codes -/

def exp32 (x : Word) : Nat := (x.extractLsb' 23 8).toNat
def frac32 (x : Word) : Nat := (x.extractLsb' 0 23).toNat
def nan32 (x : Word) : Bool := exp32 x == 255 && frac32 x != 0
def sig32 (x : Word) : Bool := nan32 x && !x.getLsbD 22

/-- The class of R221 of a code with `e` exponent bits and `f` fraction bits. -/
def floatClass (e f x : Nat) : Nat :=
  let ex := x / 2 ^ f % 2 ^ e
  let fr := x % 2 ^ f
  let neg := x.testBit (e + f)
  if ex = 2 ^ e - 1 then (if fr = 0 then (if neg then 0 else 7) else if fr.testBit (f - 1) then 9 else 8)
  else if ex = 0 then (if fr = 0 then (if neg then 3 else 4) else if neg then 2 else 5)
  else if neg then 1 else 6

/-- The order of numbers, -0 below +0. -/
def order32 (x : Word) : Int := if x.msb then -((x.toNat % 2 ^ 31 : Nat) : Int) - 1 else (x.toNat : Int)

/-- One of two operands: `first` says whether the first is preferred where both are numbers (R217). -/
def pick32 (x y : Word) (first : Bool) : Word :=
  if nan32 x && nan32 y then 0x7FC00000 else if nan32 x then y else if nan32 y then x else if first then x else y

/-- A subnormal operand under ftz. -/
def flushed (h : Hints) (x : Word) : Word := if ftzOf h && exp32 x == 0 then x &&& 0x80000000 else x

/-- Words of two 32-bit sources, with the result that each gives from its hints and sources (R197, R199, R201, R203, R204). -/
def twoSourceWords : List ((BitVec 8 → BitVec 8 → BitVec 8 → Instr) × (Hints → Word → Word → Word)) :=
  [(.add, fun h x y => addWord h (x.toInt + y.toInt) (x.toNat + y.toNat : Nat)),
   (.sub, fun h x y => addWord h (x.toInt - y.toInt) ((x.toNat : Int) - y.toNat)),
   (.mul, fun _ x y => x * y), (.and, fun _ x y => x &&& y), (.or, fun _ x y => x ||| y), (.xor, fun _ x y => x ^^^ y),
   (.mins, fun _ x y => if y.slt x then y else x), (.maxs, fun _ x y => if x.slt y then y else x),
   (.shl, fun _ x y => x <<< y.toNat), (.shr, fun _ x y => x >>> y.toNat), (.sra, fun _ x y => x.sshiftRight y.toNat),
   (.rol, fun _ x y => x.rotateLeft y.toNat)]

/-! ## Shuttles -/

/-- The shuttle n of the panel's yoke, from the producer to the consumer, holds these words. -/
abbrev Sys.ShuttleHolds (s : Sys) (p : Panel) (y : Yoke) (n : BitVec 3) (prod cons : Nat) (ws : List Word) : Prop :=
  p.yoke = some y.key ∧ s.yokeOf p = some y ∧ y.shuttles.getD n.toNat ⟨none, []⟩ = ⟨some (prod, cons), ws⟩

/-- The same with other words in it. -/
def State.withShuttle (s : State) (y : Yoke) (n : BitVec 3) (ws : List Word) : State :=
  s.withSys (s.sys.setYoke (y.setShuttle n.toNat fun q => { q with words := ws }))

/-- The field that names shuttle n (R93). -/
def shuttleField (n : BitVec 3) : BitVec 8 := 0xF0 + n.setWidth 8

/-! ## Traps -/

/-- A thread that can take a trap itself (R426): it is in no handler, and its launch has a trap entry. -/
abbrev Thread.CanTrap (t : Thread) (l : Launch) : Prop := t.trapc.getLsbD 31 = false ∧ l.trapEntry ≠ 0xFF

/-- The thread in its trap handler (R426): code, value and index in the trap CSRs, the entry's index and priority. -/
def Thread.trapped (t : Thread) (s : State) (l : Launch) (code : Byte) (value : Word) (pc : Nat) : Thread :=
  { t with
    trapc := 0x80000000#32 ||| code.setWidth 32, trapv := value, trappc := BitVec.ofNat 32 pc
    trapprio := t.prio.setWidth 32, pc := (s.sys.entryOf l l.trapEntry).1, prio := (s.sys.entryOf l l.trapEntry).2.1
    hints := Hints.empty, nat := t.formAt s.sys l (s.sys.entryOf l l.trapEntry).1, pend := none, phase := .ready
    entered := true }

/-- The instruction takes a trap and does nothing else. -/
def Takes (i : Instr) (s : State) (t : Thread) (l : Launch) (code : Byte) (value : Word) : Prop :=
  exec i s = .next (s.withThread (t.trapped s l code value t.self))

/-- The thread stands where it may take a word that ends its clause (R134). -/
abbrev Thread.LastWord (t : Thread) : Prop := ∀ n, t.nat = some n → n.left = 1

/-! ## Memory words -/

/-- The offset of an M-format word in access units: 8 bits, or 32 under `HIMM`, stepped by `REP` (R106, R107). -/
def Thread.units (t : Thread) (o : BitVec 8) : Nat :=
  (match t.hints.himm with
    | some m => (m ++ o).toNat
    | none => o.toNat) + stepOf t.hints 3 * t.repidx


/-- The number that the data registers of a store hold; z holds 0. -/
def Thread.dataNat (t : Thread) (p : Panel) (i : Instr) : Nat :=
  match (form i t.hints).ops with
  | [_, o] => t.getNat (o.regs t p)
  | _ => 0

/-! ## Seams -/

/-- The stitch is of one seam of one panel; `t` is the first of its threads. -/
abbrev State.Seam (s : State) (t : Thread) (p : Panel) (l : Launch) : Prop :=
  s.Whole ∧ s.sys.stitch.head? = some (t, p, l) ∧ ∀ x ∈ s.sys.stitch, x.2 = (p, l) ∧ p.seamOf x.1.tid = p.seamOf t.tid

/-- A running thread whose lane its mask names (R230). -/
def Thread.speaks (t : Thread) (p : Panel) (m : BitVec 8) : Bool := t.runs && (maskOf p m t).testBit (p.laneOf t.tid)

/-- A cross-lane word of an integer or bit kind gives each member `v` of the panel, the members and the member. -/
def Voices (i : Instr) (m : BitVec 8) (v : Panel → List Thread → Thread → Nat) : Prop :=
  ∀ (s : State) (t0 : Thread) (p : Panel) (l : Launch) (ok : Hints → Bool), i.collective = some (m, ok) → s.Seam t0 p l →
    ok t0.hints = true → formOk p.regs (form i t0.hints) t0.hints = true → (∀ x ∈ s.sys.stitch, x.1.hints = t0.hints) →
    p.paired = false → l.travelling = false → (∀ x ∈ s.sys.stitch, p.laneOf x.1.tid < 64) →
    masksOk s.sys p m (s.sys.stitch.map (·.1)) ((s.sys.stitch.map (·.1)).filter (·.runs)) false = true →
    exec i s = .next (s.withStitch fun t p l =>
      (if t.speaks p m then
        t.putNat (t.dstRegs p i) (v p ((s.sys.stitch.map (·.1)).filter fun u => u.speaks p m) t)
      else t).advance (s.sys.nmapOf l))

/-- A float reduction gives each member `v` of the panel and the members, and each running thread of the stitch the flags
`fl` of them, in its mask or not (R234). -/
def Folds (i : Instr) (m : BitVec 8) (v : Panel → List Thread → Nat) (fl : Panel → List Thread → BitVec 5) : Prop :=
  ∀ (s : State) (t0 : Thread) (p : Panel) (l : Launch) (ok : Hints → Bool), i.collective = some (m, ok) → s.Seam t0 p l →
    ok t0.hints = true → formOk p.regs (form i t0.hints) t0.hints = true → (∀ x ∈ s.sys.stitch, x.1.hints = t0.hints) →
    p.paired = false → l.travelling = false → (∀ x ∈ s.sys.stitch, p.laneOf x.1.tid < 64) →
    masksOk s.sys p m (s.sys.stitch.map (·.1)) ((s.sys.stitch.map (·.1)).filter (·.runs)) false = true →
    let ms := (s.sys.stitch.map (·.1)).filter fun u => u.speaks p m
    exec i s = .next (s.withStitch fun t p l =>
      { if t.speaks p m then t.putNat (t.dstRegs p i) (v p ms) else t with
        fflags := if t.runs then t.fflags ||| fl p ms else t.fflags }.advance (s.sys.nmapOf l))

/-- The pairwise tree of R190 over the 2^k terms that `f` gives: its sum and the flags of its additions. -/
def pairTree : Nat → (Nat → Nat) → Nat × BitVec 5
  | 0, f => (f 0, 0)
  | k + 1, f =>
    let x := pairTree k f
    let y := pairTree k fun j => f (2 ^ k + j)
    let z := treeAdd x.1 y.1
    (z.1, x.2 ||| y.2 ||| z.2)

/-- The term of lane j: the A of the member there, or -0.0 (R190). -/
def laneTerm (p : Panel) (a : BitVec 8) (ms : List Thread) (j : Nat) : Nat :=
  match ms.find? fun u => p.laneOf u.tid == j with
  | some u => (u.src32 p a 2).toNat
  | none => 0x80000000

/-- The number that no other precedes, by `before`; the canonical NaN where there is none (R191). -/
def firstNumber (before : Int → Int → Bool) (xs : List Word) : Word :=
  let nums := xs.filter fun x => !nan32 x
  (nums.find? fun x => nums.all fun y => !before (order32 y) (order32 x)).getD 0x7FC00000

/-- NV where some operand is a signalling NaN. -/
def signalled (xs : List Word) : BitVec 5 := if xs.any sig32 then fNV else 0

/-- Equal as numbers of `e` exponent and `f` fraction bits: both zeros are one number, a NaN equals nothing (R193). -/
def numEq (e f x y : Nat) : Bool :=
  floatClass e f x < 8 && floatClass e f y < 8 && (x == y || (x % 2 ^ (e + f) == 0 && y % 2 ^ (e + f) == 0))

/-- The stitch may run a tile word of a yoke: not paired, not travelling, convergent (R128, R324). -/
abbrev State.Tiled (s : State) (t : Thread) (p : Panel) (l : Launch) (y : Yoke) : Prop :=
  s.sys.yokeOf p = some y ∧ l.travelling = false ∧ p.paired = false ∧ convergent s.sys p t (s.sys.stitch.map (·.1)) = true

/-- Every thread of the stitch goes on. -/
def State.onward (s : State) : State := s.withStitch fun t _ l => t.advance (s.sys.nmapOf l)

/-- A matrix request is posted, and every thread of the stitch goes on with it outstanding. -/
def State.posted (s : State) (i : Instr) (l : Launch) (r : Req) (dst : Thread → List Nat) : State :=
  s.sys.stitch.foldl (fun v x => v.begun x.1 l i (.tile s.sys.serial) none (dst x.1))
    (s.withSys { s.sys with serial := s.sys.serial + 1, reqs := s.sys.enqueue r })

/-- The scratchpad tack that `HOPD` names for a request, if any (R325). -/
def Thread.scrTack (t : Thread) (p : Panel) : Option TackRef :=
  t.hints.hopd.map fun o => .scr p.key (t.getNat (t.group p o.c.toNat 2))

/-- No tack is named, or a live scratchpad tack with room for one arrival. -/
abbrev Thread.TackFits (t : Thread) (p : Panel) : Prop :=
  ∀ o, t.hints.hopd = some o → o.mode.toNat = 3 ∧ (let v := t.getNat (t.group p o.c.toNat 2)
    scratchTrap p.scratchLen v 8 = none ∧ wordIx v ∈ p.stags ∧ tackRoom (Mem.getNat p.scratch v 8) 1 0 = true)

/-- One arrival is registered on the tack, if one is named. -/
def State.tacked (s : State) (t : Thread) (p : Panel) : State :=
  match t.scrTack p with
  | some r => ((Tx.start s).tackEvent r (.register 1 0)).st
  | none => s

/-- The copy command that a descriptor in the scratchpad stands for (R277, R281). -/
def State.cmdAt (s : State) (t : Thread) (p : Panel) (l : Launch) (op chan : Nat) (held : Bool) (addr : Nat) : Cmd :=
  ⟨s.sys.serial, l.key, p.key, t.tid, clusterOf t.core, chan, op, wordsOf (Mem.getBytes p.scratch addr 64), held, false, false, 0,
    [], [], none, none, 0, none, t.self, false⟩

/-- A tack operand `v` of an 8-byte access that needs these rights stands at a home address (R299). -/
abbrev State.TackHome (s : State) (t : Thread) (p : Panel) (l : Launch) (v rights addr key mode num : Nat) : Prop :=
  addr % 8 = 0 ∧ ∃ acc thr, checkAccess s (portOf p l t) (handleSlot v) (handleOff v) 8 8 rights false = .ok acc ∧
    acc.target = .home addr key mode num thr

/-! ## Special registers -/

/-- The numbers that R111 and R53 list. -/
def csrListed (n : Nat) : Bool :=
  n ≤ 0x009 || (0x100 ≤ n && n ≤ 0x103) || (0x200 ≤ n && n ≤ 0x203) || (0x300 ≤ n && n ≤ 0x308) || (0x400 ≤ n && n ≤ 0x403)
    || (0x800 ≤ n && n ≤ 0x80B) || n == 0xC00 || n == 0xC01 || (0xC10 ≤ n && n ≤ 0xC1F)

/-- A value that a writable register refuses: a bit outside its field, or a number outside its range (R112, R424, R53). -/
def csrRefuses (p : Panel) (n : BitVec 16) (w : Word) : Bool :=
  match n.toNat with
  | 0x100 | 0x102 => 32 ≤ w.toNat
  | 0x101 => 5 ≤ w.toNat
  | 0x201 | 0x202 => 128 ≤ w.toNat || (0 < p.band && 8 * p.band ≤ w.toNat)
  | 0x400 => w &&& 0x7FFFFF00 != 0
  | 0x403 => 256 ≤ w.toNat
  | 0x80A => 512 ≤ w.toNat
  | _ => false

/-! ## Masks -/

/-- Mask place k of a panel holds `m`; a mask that is complete releases its threads and is cleared (R139). -/
def State.settleMask (s : State) (p : Panel) (k : Nat) (m : Mask) : State :=
  if m.arrived ≠ 0 ∧ m.arrived = m.enrolled then
    s.withSys { s.sys.setPanel { p with masks := p.masks.set k ⟨0, 0⟩ } with
      threads := s.sys.threads.map fun t => if t.parkedOn p k then t.unpark else t }
  else s.withSys (s.sys.setPanel { p with masks := p.masks.set k m })

/-! ## Run-ahead -/

/-- Words without any effect in run-ahead but that the thread goes on (R432), with the decode checks that each adds to its operand
form. -/
def suppressed (t : Thread) (p : Panel) (l : Launch) (i : Instr) : Bool :=
  let last := t.nat.all fun n => n.left == 1
  match i with
  | .stB8 _ _ _ | .stB16 _ _ _ | .stB32 _ _ _ | .stB64 _ _ _ | .stB128 _ _ _ | .stsB32 _ _ _ | .stsB64 _ _ _ | .stsB128 _ _ _
  | .atomAdd _ _ _ | .atomMins _ _ _ | .atomMaxs _ _ _ | .atomAnd _ _ _ | .atomOr _ _ _ | .atomXor _ _ _ | .atomXchg _ _ _
  | .atomCas _ _ _ | .atomFadd _ _ _ | .atomAdd64 _ _ _ | .cpy _ _ _ | .cpym _ _ _ | .cpys _ _ _ | .binc _ _ _ | .binp _ _
  | .hrel _ | .launch _ | .tkinit _ _ _ | .tkexp _ _ _ | .tkarr _ _ _ | .tkwait _ _ _ _ | .tkkill _ _ | .bbinit _ _ | .bbawait _ _
  | .bbrel _ | .bind _ _ _ | .unbind _ | .acq _ _ _ | .rel _ _ | .acqr _ _ _ | .relw _ _ _ | .wait _ _ _ | .aqp _ | .trq _
  | .kvap _ _ _ | .aqst _ _ _ | .psend _ _ _ | .csrrCyc _ | .csrwOflag _ | .resv _ _ | .tset _ _ | .free _ | .tzero _ => true
  | .shcfg e _ a b => e == 1 || (a == 0 && b == 0)
  | .fence r o => r != 3 || o.getLsbD 5
  | .pqry _ k => k.toNat < 5
  | .mpre k _ | .mpost k _ => k != 0
  | .mqry _ x k => k.toNat ≤ 5 && (k.toNat ≤ 3 || x == 0)
  | .tld _ _ _ n | .tst _ _ _ n => n.toNat ≤ 4 && transferRegs p t.hints (2 ^ n.toNat) 1
  | .tcvt _ _ _ | .mma _ _ _ _ _ | .rast _ _ _ _ _ => tackHintOk t.hints p
  | .mmag _ _ _ _ _ => (modeOf t.hints).testBit 15 || modeOf t.hints == 0
  | .trap _ | .svc _ | .brk _ | .rft => last
  | .rftResume _ | .rftKill _ | .brkClr _ => last && l.supervisor
  | .brkSet _ a => last && l.supervisor && brkImageOk (t.quadWords p a.toNat)
  | .invalTranslation a => l.supervisor && invalBase (t.quadWords p a.toNat) < 2 ^ 52
  | .invalWriteback a => l.supervisor && invalSlicesOk (t.quadWords p a.toNat)
  | .invalKey a => l.supervisor && invalKeyOk (t.quadWords p a.toNat)
  | .csrwIldom _ _ => l.supervisor
  | .csrr _ n => !superCsr n.toNat || l.supervisor
  | .csrw _ n => (!superCsr n.toNat || l.supervisor) && (csrMask n.toNat).isSome
  | _ => false

/-! ## Transfers -/

/-- The offset of a direct branch, 40 bits under `HIMM` (R106). -/
def branchOff (h : Hints) (o : BitVec 16) : Int :=
  match h.himm with
  | some m => (m ++ o).toInt
  | none => o.toInt

/-- `k` is the target of a direct branch, and it lies in the text (R143); `f` is the place in native text where a branch of a
native clause, whose offset counts native words, lands: a clause header (R74, R98). -/
def Sys.Targets (s : Sys) (l : Launch) (t : Thread) (o : BitVec 16) (k : Nat) (f : Option Native) : Prop :=
  k < (s.textOf l).length ∧
  match t.nat with
  | none => f = none ∧ (k : Int) = (t.pc : Int) + 1 + branchOff t.hints o
  | some n => ∃ (x : Object) (j : Nat) (w : Word), s.objectOf l = some x ∧ (j : Int) = (n.npc : Int) + 1 + branchOff t.hints o ∧
      (x.nativeFor l.travelling).1[j]? = some w ∧ w.extractLsb' 26 6 = 63#6 ∧ k = (x.nativeFor l.travelling).2.getD j 0 ∧
      f = some ⟨j, 0, 15, 15⟩

/-- The target needs no travel: the launch does not travel, or the target lies in the thread's piece (R143). -/
abbrev Sys.InPlace (s : Sys) (l : Launch) (t : Thread) (k : Nat) : Prop :=
  (l.travelling && ((s.objectOf l).bind (·.marker)).any fun m => m.pieceAt k != t.piece) = false

/-- The thread at the target: a thread that runs native is in native form there if a clause starts there (R76, R143). -/
def Thread.landed (t : Thread) (s : Sys) (l : Launch) (k : Nat) (prio : Byte) : Thread :=
  { t with pc := k, prio := prio, hints := Hints.empty
           nat := t.nat.bind fun _ => (s.objectOf l).bind fun o => o.nativeAt t.piece k }

/-- The thread at the target of a direct branch, in the form that the branch gives it. -/
def Thread.landedAt (t : Thread) (k : Nat) (f : Option Native) (prio : Byte) : Thread :=
  { t with pc := k, prio := prio, hints := Hints.empty, nat := f }

/-- A supervisor's record of a thread that a trap suspends, its ticket, and the notice (R427, R429, R431). -/
def Sys.suspended (s : Sys) (q : Partition) (t : Thread) (p : Panel) (l : Launch) (code : Byte) (value : Word) (pc : Nat) : Sys :=
  let k := q.nextTicket
  let rec_ := threadRecord code l p t (q.logical t.core) pc value Info.none
  let y := { s.setPart { q with
      nextTicket := if k + 1 ≥ noTicket then 1 else k + 1, tickets := q.tickets ++ [⟨k, code, TicketFor.thread t.panel t.tid, l.key⟩]
      faults := q.faults ++ [⟨rec_.words k⟩] } with
    notices := s.notices ++ [Notice.supervisorFault l.part code] }
  y.setThread { t with
    phase := .suspended pc, pc := pc, hints := Hints.empty, nat := t.formAt s l pc, pend := none, ticket := some k }

/-! ## Steps -/

/-- The stitch `st` of a core has issued: what the core remembers, the threads' issue marks, the focus, the launch's and
the run-ahead's counts; turns are free from then on. -/
def State.issued (s : State) (core : Nat) (st : List Standing) (c : CoreSched) : State :=
  let y := s.sys.setCore { s.sys.core core with sched := c }
  let y := st.foldl (fun z x => z.setThread (x.t.issued (s.sys.die (dieOf core)).cyc (y.threadLine x.l x.t) (y.leads x))) y
  let y := { y with focus := st.map fun (x : Standing) => (x.p.key, x.t.tid) }
  let y := match st with
    | x :: _ =>
      ((y.fetchLine core x.l x.t).mapLaunches fun l => if l.key = x.l.key then { l with ran := true } else l).mapPanels fun p =>
        if p.key = x.p.key then { p with ahead := p.ahead.map RunAhead.count } else p
    | [] => y
  s.withSys { y with turn := 1 }

/-- The word of portable text that a thread stands at (R72, R74). -/
def Sys.portableWord (s : Sys) (l : Launch) (t : Thread) : Option Word :=
  if t.nat = none then (s.textOf l)[t.pc]? else none

/-! ## Events -/

/-- It waits for its first room: nothing of it has started (R45, R51). -/
def Want.unstarted : Want → Bool
  | .next _ | .travel _ | .checking _ => true
  | _ => false

/-- A tack in a scratchpad. -/
def TackRef.inScratch : TackRef → Bool
  | .scr _ _ => true
  | _ => false

/-- The extents that serve a panel hold every page of a declaration of this package: no table is walked for it (R62). -/
def State.Extended (s : State) (part panel : Nat) (d : List Word) : Prop :=
  Decl.peer d = 0 ∧ (s.sys.part? part).isSome = true ∧
    ∀ off, off < Decl.len d → (s.sys.extentPage part panel d ((Decl.base d + (Decl.place d off).2) / 65536)).isSome = true

/-- The launch asks for no completion record and has no retire tack, and it is not the supervisor: its end reaches no
memory of its own (R467). -/
abbrev Launch.Silent (l : Launch) : Prop := l.completion = 0 ∧ l.retireTack = 0 ∧ l.supervisor = false

/-- A launch of this key is no more. -/
def Sys.Gone (s : Sys) (launch : Nat) : Prop := ∀ l ∈ s.launches, l.key ≠ launch

/-- A fault record with a ticket of its own joins a partition's, and the host is told (R429, R431, R459). -/
def State.faultPosted (s : State) (q : Partition) (r : RecordInfo) (names : TicketFor) (launch : Nat) : State :=
  let k := q.nextTicket
  s.withSys { s.sys.setPart { q with
      nextTicket := if k + 1 ≥ noTicket then 1 else k + 1, tickets := q.tickets ++ [⟨k, r.code, names, launch⟩]
      faults := q.faults ++ [⟨r.words k⟩] } with
    notices := s.sys.notices ++ [Notice.supervisorFault q.num r.code] }

/-- The mailbox of a function is there (R456, R459, R473); a function of a partition commands that partition. -/
abbrev Sys.Commands (s : Sys) (fn part n : Nat) : Prop :=
  s.booted = true ∧ fn ≤ 8 ∧ (fn ≠ 0 → (s.part? (fn - 1)).isSome = true) ∧ n = if fn = 0 then part else fn - 1

/-- A mailbox answers. -/
def State.answered (s : State) (fn status : Nat) (data : List Word) : State :=
  s.withSys { s.sys with replies := s.sys.replies ++ [⟨fn, status, data⟩] }

/-- A supervisor's record waits in the device stream for room in the held table (R44, R66). -/
def State.waitingRecord (s : State) (part : Nat) (ws : List Word) : State :=
  s.withSys { s.sys with serial := s.sys.serial + 1, stream := s.sys.stream ++ [⟨s.sys.serial, part, 7, ws, true⟩] }

/-- Link k in another condition. -/
def State.withLink (s : State) (k : Nat) (x : Link) : State := s.withSys { s.sys with links := s.sys.links.set k x }

end Sys2Proof.Machine

namespace Sys2Proof

open Machine in
/-- The invariant of every step: both byte stores keep their canonical form. -/
def Safe (s : State) : Prop := s.memOk

end Sys2Proof
end

