-- ==== Sys2Proof/Certificates/Slice0/Obligations.lean ====
section
/-! DEFINITION. The statements for the provers. Each docstring names the rules it formalises, or says that it rests on a choice of the
model and names the assumption log's entry. -/

set_option maxRecDepth 4000

section

open Sys2Proof Sys2Proof.Machine

/-- An instruction has a word exactly if it is one of the 222 word rows of the opcode table; and for every well-formed instruction, at every value of its operands, decoding its word gives the instruction back. (R91; R92; R113) -/
def Obligations.EncodeThenDecode : Prop :=
  ∀ i : Instr, Laws.Round.Statement i

/-- If a 32-bit word decodes to an instruction, the instruction is a well-formed word row and its word is that very word: every bit of the word, the reserved ones included, is accounted for. (R91; R92; R113) -/
def Obligations.DecodeThenEncode : Prop :=
  ∀ (w : Word) (i : Instr), decode w = .ok i → isWord i = true ∧ wellFormed i = true ∧ encode i = some w

/-- A word whose bits 31 to 24 are 0x34-0x3F, 0x5B-0x5F, 0x7F, 0xBD-0xBF, 0xCD-0xCF, 0xE7 or 0xEF is refused as unassigned, and what runs in its place makes the thread take ILLOP with %trapv 0, with any hint words read; a clause header in portable form and a fetch at or beyond the end of the portable text run into the same trap, the fetch with %trappc equal to the text's word count. (R114) -/
def Obligations.UnassignedOpcodesRefused : Prop :=
  (∀ w : Word, ((0x34 ≤ w.toNat / 2 ^ 24 ∧ w.toNat / 2 ^ 24 ≤ 0x3F) ∨ (0x5B ≤ w.toNat / 2 ^ 24 ∧ w.toNat / 2 ^ 24 ≤ 0x5F)
      ∨ w.toNat / 2 ^ 24 = 0x7F ∨ (0xBD ≤ w.toNat / 2 ^ 24 ∧ w.toNat / 2 ^ 24 ≤ 0xBF)
      ∨ (0xCD ≤ w.toNat / 2 ^ 24 ∧ w.toNat / 2 ^ 24 ≤ 0xCF) ∨ w.toNat / 2 ^ 24 = 0xE7 ∨ w.toNat / 2 ^ 24 = 0xEF) →
    decode w = .error (.unassigned (w.extractLsb' 24 8)) ∧ ∀ n, fetchWord n (some w) = .bad) ∧
  (∀ (s : State) (t : Thread) (p : Panel) (l : Launch), s.Alone t p l → t.CanTrap l →
    Takes .unassignedOpcode s t l tILLOP 0) ∧
  (∀ (s : State) (t : Thread) (p : Panel) (l : Launch) w a b n y, s.Alone t p l → t.CanTrap l → t.nat = none →
    Takes (.clauseHeader w a b n y) s t l tILLOP 0) ∧
  (∀ (s : Sys) (l : Launch) (t : Thread), t.nat = none → (s.textOf l).length ≤ t.pc → s.fetch l t = .bad) ∧
  (∀ (s : State) (t : Thread) (p : Panel) (l : Launch), s.Alone t p l → t.CanTrap l → t.hints.first = none →
    t.pc = (s.sys.textOf l).length →
    exec .unassignedOpcode s = .next (s.withThread (t.trapped s l tILLOP 0 (s.sys.textOf l).length)))

/-- ADD v9, v8, v3 is 0x00090803; LD.b32 v8, [v20 + 0x8D units] is 0x8408148D; RADD.f32 v5, v4, v10 is 0x7605040A; CPY on channel 0 with register 20 is 0xD0001400; a FENCE that releases CY is 0xE8000070; ENROL j0 is 0xB8000000; EXIT is 0xA4000000; HMOD with pen and predicate 2 is 0xFAA00000; REL with register 24 and C is 0xEC001820. (R99; R108; R113; R139; R190; R197; R269; R300; R363; R367) -/
def Obligations.DecodeSamples : Prop :=
  decode 0x00090803#32 = .ok (.add 9 8 3) ∧ decode 0x8408148D#32 = .ok (.ldB32 8 20 0x8D) ∧
  decode 0x7605040A#32 = .ok (.raddF32 5 4 10) ∧ decode 0xD0001400#32 = .ok (.cpy 0 20 0) ∧
  decode 0xE8000070#32 = .ok (.fence 1 0x30) ∧ decode 0xB8000000#32 = .ok (.enrol 0) ∧
  decode 0xA4000000#32 = .ok .exit ∧ decode 0xFAA00000#32 = .ok (.hmod 1 2 0 0 0 0 0 0 0) ∧
  decode 0xEC001820#32 = .ok (.rel 24 0x20)

/-- With nothing on the agenda, no shutdown, no command that waits for its answer, no interleave switch at its end and no event chosen first, if a core's next stitch has no comparator, departure, poisoned line of text or change of form before it, and the word of portable text its first thread stands at decodes to i, then one step is exec of i in the state with the stitch's issue marked, after which time goes on; a word that does not decode runs as the unassigned opcode. The agenda and the choice of what comes next are the model's own (assumption logs 2, 4, 6, 196). (R72; R113; R114; R125; R126; R253; R470) -/
def Obligations.StepRunsTheDecodedWord : Prop :=
  ∀ (s : State) (core : Nat) (x : Standing) (st : List Standing) (c : CoreSched) (w : Word),
    s.sys.switchEnd = none → s.sys.agenda = [] → s.sys.shut = false → s.sys.strays = [] →
    ¬(s.sys.turn = 1 ∧ Config.freeBool s.sys.nonce = true) →
    nextStitch s.sys = some (core, x :: st, c) → (∀ y ∈ x :: st, gateOf s.sys y = .go) →
    (∀ y ∈ x :: st, s.sys.fetchSpoiled core y.l y.t = false) →
    (∀ y ∈ x :: st, y.t.swapForm s.sys y.l = y.t) → s.sys.portableWord x.l x.t = some w →
    (∀ i, decode w = .ok i → step s = tickOutcome (exec i (s.issued core (x :: st) c))) ∧
    (∀ e, decode w = .error e → step s = tickOutcome (exec .unassignedOpcode (s.issued core (x :: st) c)))

/-- If an interleave switch stands at its end, one step is that end, after which time goes on (its place before all else is the model's: assumption log 196). Else, if the agenda is not empty, one step is exec of its head in the state with the rest of the agenda (the agenda is the model's own: assumption log 2). Else, with the package shut down, only time passes (assumption log 187), and while it is on a command that no mailbox knows is answered with status 2. What time does changes no byte of memory and no part of the state but each die's cycle count, which goes on modulo 2^64 by an open amount of its own, 0 included, and the counter of the free values (assumption log 4). (R9; R253; R459; R472) -/
def Obligations.StepRunsTheAgendaAndTimePasses : Prop :=
  (∀ (s : State) panel tid, s.sys.switchEnd = some (.interleaveSwitchEnd panel tid) →
    step s = tickOutcome (exec (.interleaveSwitchEnd panel tid) s)) ∧
  (∀ (s : State) (i : Instr) (rest : List Instr), s.sys.switchEnd = none → s.sys.agenda = i :: rest →
    step s = tickOutcome (exec i (s.withSys { s.sys with agenda := rest }))) ∧
  (∀ s : State, s.sys.switchEnd = none → s.sys.agenda = [] → s.sys.shut = true → step s = .next s.tick) ∧
  (∀ (s : State) fn rest, s.sys.switchEnd = none → s.sys.agenda = [] → s.sys.shut = false → s.sys.booted = true →
    s.sys.strays = fn :: rest → step s = .next ((s.withSys { s.sys with strays := rest }).answered fn 2 []).tick) ∧
  (∀ s : State, s.tick.mem = s.mem ∧ s.tick.hostMem = s.hostMem ∧
    { s.tick.sys with nonce := s.sys.nonce, dies := s.sys.dies } = s.sys ∧
    s.tick.sys.dies.length = s.sys.dies.length ∧
    ∀ d, d < s.sys.dies.length →
      s.tick.sys.die d = { s.sys.die d with cyc := ((s.sys.die d).cyc + (Config.ticks s.sys.nonce d).getD 1) % 2 ^ 64 })

/-- The state after reset is safe; it holds no partition, launch, yoke, panel, thread, object, command, request, parcel or queue, no live tack word, no cached line; bring-up has not run; two dies and sixteen stacks stand at their reset values. Values the spec states no reset for are the model's (assumption logs 7 and 10), and so are an empty lining and host memory (log 8), the tags (log 9) and that a first step with nothing to do only lets time pass (log 6). (R473; R2; R464) -/
def Obligations.ResetState : Prop :=
  Safe State.reset ∧ State.reset.mem = [] ∧ State.reset.hostMem = [] ∧ State.reset.sys.parts = [] ∧ State.reset.sys.launches = [] ∧
  State.reset.sys.yokes = [] ∧ State.reset.sys.panels = [] ∧ State.reset.sys.threads = [] ∧ State.reset.sys.objects = [] ∧
  State.reset.sys.cmds = [] ∧ State.reset.sys.reqs = [] ∧ State.reset.sys.parcels = [] ∧ State.reset.sys.queues = [] ∧
  State.reset.sys.tags = [] ∧ State.reset.sys.l2 = [] ∧ State.reset.sys.cores = [] ∧ State.reset.sys.stks.all (·.llc.isEmpty) = true ∧ State.reset.sys.booted = false ∧ State.reset.sys.shut = false ∧
  State.reset.sys.dies = [Die.reset, Die.reset] ∧ State.reset.sys.stks = List.replicate 16 Stack.reset ∧
  State.reset.sys.links.length = 18 ∧ step State.reset = .next State.reset.turned.tick

/-- For every state whose byte stores keep their canonical form (addresses strictly rising, no entry equal to what an unlisted address reads as), if a step answers a next state, the byte stores keep the form there. The canonical form is the model's own (assumption log 8). (R2; R263) -/
def Obligations.StepKeepsSafe : Prop :=
  ∀ s s' : State, Safe s → step s = .next s' → Safe s'

/-- For every row of the opcode table and every safe state, if exec answers a next state, that state is safe: its byte stores keep the canonical form, which is the model's own (assumption log 8). (R2; R113) -/
def Obligations.ExecKeepsSafe : Prop :=
  ∀ (i : Instr) (s s' : State), Safe s → exec i s = .next s' → Safe s'

/-- For every row of the opcode table and every state, exec does not answer a refusal, and the one fault is that of an address in no stack. A walk meets it where the table's root, or the frame of the leaf it comes to, lies at or above 48 GiB of its stack, and a walk that gives a leaf has met neither; the walk of a load, store or atomic ends in the fault exactly if it met one. That the machine stops there is the model's reading (assumption log 93). (R2; R113; R245; R246; R247; R249) -/
def Obligations.NothingIsRefused : Prop :=
  (∀ (i : Instr) (s : State), (∀ r, exec i s ≠ .refused r) ∧ ∀ f, exec i s = .fault f → f = .stackHole) ∧
  (∀ (s : State) (q : Partition) (va : Nat),
    (va < 2 ^ 52 → q.owns q.rootStack = true → stackBytes ≤ q.rootLocal → walk s q va = .hole) ∧
    (∀ a leaf, walk s q va = .ok a leaf → q.rootLocal < stackBytes ∧ Leaf.frame leaf < stackBytes)) ∧
  (∀ (s : State) (k : Nat) (w : Walk) (q : Partition), s.sys.walks.find? (fun x => x.key == k && s.sys.walking x) = some w →
    s.sys.part? w.part = some q → w.pref = none →
    (walk s q w.va = .hole → exec (.pageWalkComplete k) s = .fault .stackHole) ∧
    (walk s q w.va ≠ .hole → walk s q w.va ≠ .spoiled → ∃ u, exec (.pageWalkComplete k) s = .next u))

/-- Writing a run of bytes at an address makes the k-th address of the run read the k-th byte and leaves every address outside the run as it read before; a zeroed range reads 0 and the rest is as before; a byte nothing has written reads 0 (the model's choice: assumption log 8). (R4; R263) -/
def Obligations.MemoryReadsAfterWrites : Prop :=
  (∀ (m : List Host.Cell) (a : Nat) (bs : List Byte), Mem.wf m = true →
    (∀ k, (h : k < bs.length) → Mem.get (Mem.putBytes m a bs) (a + k) = bs[k]) ∧
    (∀ b, (b < a ∨ a + bs.length ≤ b) → Mem.get (Mem.putBytes m a bs) b = Mem.get m b)) ∧
  (∀ (m : List Host.Cell) (a n b : Nat), Mem.wf m = true →
    Mem.get (Mem.zero m a n) b = if a ≤ b ∧ b < a + n then 0 else Mem.get m b) ∧
  (∀ b, Mem.get [] b = 0)

/-- For each of the 98 arithmetic words (0x00-0x33, 0x40-0x6F, HMK, HADD, HQRY), if the decode checks pass and no operand is a shuttle, exec answers a next state in which each thread of the stitch has at most its destination registers, the predicates the word names and (floating-point words only) set bits of %fflags written, and stands at its next repeat or word; a thread whose HMOD test fails only goes on. All else, all of memory included, is unchanged. (R94; R97; R107; R109; R112; R115; R185; R194; R214; R273; R274; R275) -/
def Obligations.ArithmeticWordsComplete : Prop :=
  ∀ (i : Instr) (s : State), s.Whole →
    (∀ x ∈ s.sys.stitch, laneOk i x.1 x.2.1 = true ∧ (form i x.1.hints).pops x.1.hints = [] ∧ (form i x.1.hints).pushes = []) →
    ∃ (v : Thread → Nat) (q : Thread → BitVec 8) (fl : Thread → BitVec 5),
      exec i s = .next (s.withStitch fun t p l =>
        (if t.runs = true then
          { t.putNat (t.dstRegs p i) (v t) with
            p := (t.p &&& ~~~predsWritten i) ||| (q t &&& predsWritten i), fflags := t.fflags ||| fl t }
        else t).advance (s.sys.nmapOf l)) ∧
      (raisesFlags i = false → ∀ t, fl t = 0)

/-- If any decode check of R115 that belongs to an arithmetic word fails (an operand field, a hint the word does not accept, a mode or condition code outside those listed), the thread takes ILLOP with %trapv 0, named by the first word of its hint group, and no register but the trap CSRs changes. (R93; R96; R97; R105; R115; R195; R426) -/
def Obligations.ArithmeticWordsTrap : Prop :=
  ∀ (i : Instr) (s : State) (t : Thread) (p : Panel) (l : Launch), s.Alone t p l → t.CanTrap l → (laneCheck i).isSome = true →
    laneOk i t p = false → Takes i s t l tILLOP 0

/-- With A and B the sources: ADD, SUB and ADDI write the sum or difference modulo 2^32, or clamped to the signed range under sat, or to the unsigned range under sat and u; ADD64 and SUB64 the 64-bit ones, clamped to the signed range under sat; MUL the low word of the product, MULHS and MULHN the high word of the signed and the unsigned product, MULW the whole product, signed or (n) unsigned. Each runs on all values, and nothing else changes. (R197; R198; R199) -/
def Obligations.IntegerArithmetic : Prop :=
  (∀ d a b, Gives32 (.add d a b) d fun t p =>
    addWord t.hints ((t.src32 p a 2).toInt + (t.src32 p b 3).toInt) ((t.src32 p a 2).toNat + (t.src32 p b 3).toNat : Nat)) ∧
  (∀ d a b, Gives32 (.sub d a b) d fun t p =>
    addWord t.hints ((t.src32 p a 2).toInt - (t.src32 p b 3).toInt) (((t.src32 p a 2).toNat : Int) - (t.src32 p b 3).toNat)) ∧
  (∀ d a i, Gives32 (.addi d a i) d fun t p =>
    addWord t.hints ((t.src32 p a 2).toInt + (immSigned t.hints i).toInt)
      (((t.src32 p a 2).toNat : Int) + (immSigned t.hints i).toInt)) ∧
  (∀ d a b, Gives64 (.add64 d a b) d fun t p =>
    let y := (t.src64 p a 2).toInt + (t.src64 p b 3).toInt
    BitVec.ofInt 64 (if satOf t.hints then max (-(2 ^ 63)) (min (2 ^ 63 - 1) y) else y)) ∧
  (∀ d a b, Gives64 (.sub64 d a b) d fun t p =>
    let y := (t.src64 p a 2).toInt - (t.src64 p b 3).toInt
    BitVec.ofInt 64 (if satOf t.hints then max (-(2 ^ 63)) (min (2 ^ 63 - 1) y) else y)) ∧
  (∀ d a b, Gives32 (.mul d a b) d fun t p => t.src32 p a 2 * t.src32 p b 3) ∧
  (∀ d a b, Gives32 (.mulhs d a b) d fun t p =>
    ((t.src32 p a 2).signExtend 64 * (t.src32 p b 3).signExtend 64).extractLsb' 32 32) ∧
  (∀ d a b, Gives32 (.mulhn d a b) d fun t p =>
    ((t.src32 p a 2).setWidth 64 * (t.src32 p b 3).setWidth 64).extractLsb' 32 32) ∧
  (∀ d a b, Gives64 (.mulw d a b) d fun t p =>
    if modeOf t.hints = 1 then (t.src32 p a 2).setWidth 64 * (t.src32 p b 3).setWidth 64
    else (t.src32 p a 2).signExtend 64 * (t.src32 p b 3).signExtend 64)

/-- MAC writes d + A * B from signed values; IDOT4S and IDOT4N write d plus the four products of bytes, signed and unsigned; each sum is exact and then taken modulo 2^32, or clamped to the signed range under sat; d is read before it is written. (R200; R213) -/
def Obligations.AccumulatingWords : Prop :=
  (∀ d a b, Gives32 (.mac d a b) d fun t p =>
    sum32 t.hints ((t.src32 p a 2).toInt * (t.src32 p b 3).toInt + (t.src32 p d 1).toInt)) ∧
  (∀ d a b, Gives32 (.idot4s d a b) d fun t p =>
    let x := t.src32 p a 2
    let y := t.src32 p b 3
    sum32 t.hints ((t.src32 p d 1).toInt + byteS x 0 * byteS y 0 + byteS x 1 * byteS y 1 + byteS x 2 * byteS y 2
      + byteS x 3 * byteS y 3)) ∧
  (∀ d a b, Gives32 (.idot4n d a b) d fun t p =>
    let x := t.src32 p a 2
    let y := t.src32 p b 3
    sum32 t.hints ((t.src32 p d 1).toInt + byteN x 0 * byteN y 0 + byteN x 1 * byteN y 1 + byteN x 2 * byteN y 2
      + byteN x 3 * byteN y 3))

/-- AND, OR, XOR, ANDN, ORN, XNOR and their immediate forms are bitwise; MINS, MAXS, MINN and MAXN give the smaller or larger value, signed or unsigned; ABSD the absolute value of the signed difference modulo 2^32; SEL gives A where the named predicate, inverted if mode bit 3 is set, holds, else B, for 32-bit values and for pairs. (R201; R202; R203) -/
def Obligations.LogicAndSelection : Prop :=
  (∀ d a b, Gives32 (.and d a b) d fun t p => t.src32 p a 2 &&& t.src32 p b 3) ∧
  (∀ d a b, Gives32 (.or d a b) d fun t p => t.src32 p a 2 ||| t.src32 p b 3) ∧
  (∀ d a b, Gives32 (.xor d a b) d fun t p => t.src32 p a 2 ^^^ t.src32 p b 3) ∧
  (∀ d a b, Gives32 (.andn d a b) d fun t p => t.src32 p a 2 &&& ~~~t.src32 p b 3) ∧
  (∀ d a b, Gives32 (.orn d a b) d fun t p => t.src32 p a 2 ||| ~~~t.src32 p b 3) ∧
  (∀ d a b, Gives32 (.xnor d a b) d fun t p => ~~~(t.src32 p a 2 ^^^ t.src32 p b 3)) ∧
  (∀ d a i, Gives32 (.andi d a i) d fun t p => t.src32 p a 2 &&& immZero t.hints i) ∧
  (∀ d a i, Gives32 (.ori d a i) d fun t p => t.src32 p a 2 ||| immZero t.hints i) ∧
  (∀ d a i, Gives32 (.xori d a i) d fun t p => t.src32 p a 2 ^^^ immZero t.hints i) ∧
  (∀ d a b, Gives32 (.mins d a b) d fun t p =>
    if (t.src32 p b 3).slt (t.src32 p a 2) then t.src32 p b 3 else t.src32 p a 2) ∧
  (∀ d a b, Gives32 (.maxs d a b) d fun t p =>
    if (t.src32 p a 2).slt (t.src32 p b 3) then t.src32 p b 3 else t.src32 p a 2) ∧
  (∀ d a b, Gives32 (.minn d a b) d fun t p =>
    if (t.src32 p b 3).ult (t.src32 p a 2) then t.src32 p b 3 else t.src32 p a 2) ∧
  (∀ d a b, Gives32 (.maxn d a b) d fun t p =>
    if (t.src32 p a 2).ult (t.src32 p b 3) then t.src32 p b 3 else t.src32 p a 2) ∧
  (∀ d a b, Gives32 (.absd d a b) d fun t p =>
    if (t.src32 p a 2).slt (t.src32 p b 3) then t.src32 p b 3 - t.src32 p a 2 else t.src32 p a 2 - t.src32 p b 3) ∧
  (∀ d a b, Gives (.sel d a b) fun t p =>
    let yes := t.p.getLsbD (modeOf t.hints % 8) != (modeOf t.hints).testBit 3
    if otypeRegs t.hints = 2 then t.put64 p d (if yes then t.src64 p a 2 else t.src64 p b 3)
    else t.put32 p d (if yes then t.src32 p a 2 else t.src32 p b 3))

/-- SHL, SHR and SRA take the whole of B as the count, so 32 and more give 0, 0 and copies of the sign; ROL rotates by B mod 32; the immediate shifts are the same by imm8; POPC, CLZ and CTZ count, 32 for CLZ and CTZ of 0; BREV and BSWAP reverse bits and bytes; BFX, BFXS and BFI act on the field at B[7:0] of length B[15:8] clipped at bit 31; PRMT makes each byte from the byte, or the sign of the byte, that its nibble names. (R204; R205; R206; R207; R208) -/
def Obligations.ShiftsAndBitFields : Prop :=
  (∀ d a b, Gives32 (.shl d a b) d fun t p => t.src32 p a 2 <<< (t.src32 p b 3).toNat) ∧
  (∀ d a b, Gives32 (.shr d a b) d fun t p => t.src32 p a 2 >>> (t.src32 p b 3).toNat) ∧
  (∀ d a b, Gives32 (.sra d a b) d fun t p => (t.src32 p a 2).sshiftRight (t.src32 p b 3).toNat) ∧
  (∀ d a b, Gives32 (.rol d a b) d fun t p => (t.src32 p a 2).rotateLeft (t.src32 p b 3).toNat) ∧
  (∀ d a i, Gives32 (.shli d a i) d fun t p => t.src32 p a 2 <<< i.toNat) ∧
  (∀ d a i, Gives32 (.shri d a i) d fun t p => t.src32 p a 2 >>> i.toNat) ∧
  (∀ d a i, Gives32 (.srai d a i) d fun t p => (t.src32 p a 2).sshiftRight i.toNat) ∧
  (∀ d a, Gives32 (.popc d a) d fun t p => BitVec.ofNat 32 ((List.range 32).countP fun k => (t.src32 p a 2).getLsbD k)) ∧
  (∀ d a, Gives32 (.clz d a) d fun t p =>
    BitVec.ofNat 32 ((List.range 32).findIdx fun k => (t.src32 p a 2).getLsbD (31 - k))) ∧
  (∀ d a, Gives32 (.ctz d a) d fun t p => BitVec.ofNat 32 ((List.range 32).findIdx fun k => (t.src32 p a 2).getLsbD k)) ∧
  (∀ d a, Gives32 (.brev d a) d fun t p => (t.src32 p a 2).reverse) ∧
  (∀ d a, Gives32 (.bswap d a) d fun t p =>
    let x := t.src32 p a 2
    x.extractLsb' 0 8 ++ x.extractLsb' 8 8 ++ x.extractLsb' 16 8 ++ x.extractLsb' 24 8) ∧
  (∀ d a b, Gives32 (.bfx d a b) d fun t p =>
    let x := t.src32 p a 2
    let y := t.src32 p b 3
    word32 fun k => decide (k < fieldLen y) && x.getLsbD ((y.extractLsb' 0 8).toNat + k)) ∧
  (∀ d a b, Gives32 (.bfxs d a b) d fun t p =>
    let x := t.src32 p a 2
    let y := t.src32 p b 3
    word32 fun k => decide (0 < fieldLen y) && x.getLsbD ((y.extractLsb' 0 8).toNat + min k (fieldLen y - 1))) ∧
  (∀ d a b, Gives32 (.bfi d a b) d fun t p =>
    let x := t.src32 p a 2
    let y := t.src32 p b 3
    let pos := (y.extractLsb' 0 8).toNat
    word32 fun k => if pos ≤ k ∧ k < pos + fieldLen y then x.getLsbD (k - pos) else (t.src32 p d 1).getLsbD k) ∧
  (∀ d a b, Gives32 (.prmt d a b) d fun t p =>
    let src := t.src32 p b 3 ++ t.src32 p a 2
    let sel := BitVec.ofNat 16 (modeOf t.hints)
    word32 fun k =>
      let byte := src.extractLsb' (8 * (sel.extractLsb' (4 * (k / 8)) 3).toNat) 8
      if sel.getLsbD (4 * (k / 8) + 3) then byte.getLsbD 7 else byte.getLsbD (k % 8))

/-- MOV copies; MOVI writes the sign-extended 16-bit immediate, or 32 bits with HIMM; MOVHI replaces the upper half of d; P2V writes the eight predicates; V2P writes the predicates its mask names; HMK joins a slot and an offset; HADD adds to the offset modulo 2^52 and keeps the slot; HQRY reads length, bytes left, and words 4 and 5 of the launch's own copy of the declaration. (R209; R212; R273; R274; R275) -/
def Obligations.MovesAndHandles : Prop :=
  (∀ d a, Gives32 (.mov d a) d fun t p => t.src32 p a 2) ∧
  (∀ d i, Gives32 (.movi d i) d fun t _ => match t.hints.himm with
    | some m => m.setWidth 16 ++ i
    | none => i.signExtend 32) ∧
  (∀ d i, Gives32 (.movhi d i) d fun t p => i ++ (t.src32 p d 1).setWidth 16) ∧
  (∀ d, Gives32 (.p2v d) d fun t _ => t.p.setWidth 32) ∧
  (∀ a m, Gives (.v2p a m) fun t p => { t with p := (t.p &&& ~~~m) ||| ((t.src32 p a 2).setWidth 8 &&& m) }) ∧
  (∀ d a b, Gives64 (.hmk d a b) d fun t p => (t.src32 p a 2).setWidth 12 ++ (t.src64 p b 3).setWidth 52) ∧
  (∀ d a b, Gives64 (.hadd d a b) d fun t p =>
    (t.src64 p a 2).extractLsb' 52 12 ++ ((t.src64 p a 2).setWidth 52 + (t.src64 p b 3).setWidth 52)) ∧
  (∀ d a x (s : State) (t : Thread) (p : Panel) (l : Launch), s.Alone t p l → t.Ready p (.hqry d a x) →
    laneOk (.hqry d a x) t p = true →
    let h := t.src64 p a 2
    let b := l.decl (h.extractLsb' 52 12).toNat
    exec (.hqry d a x) s = .next (s.going (match t.stepped x 3 with
      | 0 => t.put64 p d (BitVec.ofNat 64 (Decl.len b))
      | 1 => t.put64 p d (BitVec.ofNat 64 (Decl.len b - (h.setWidth 52).toNat))
      | 2 => t.put32 p d (b.getD 4 0)
      | _ => t.put32 p d (b.getD 5 0)) l))

/-- ICMPS and ICMPN test their condition on signed and unsigned values; ICMPI tests it on A and the sign-extended or 32-bit immediate, conditions 6 and 7 unsigned; comb 0 writes the test, 1 its conjunction and 2 its disjunction with the old value; PLUT writes the bit of its table that the three source predicates select, read before the write. No other predicate and no flag changes. (R210; R211) -/
def Obligations.ComparesAndPredicates : Prop :=
  (∀ c m n a b, GivesP (.icmps c m n a b) n fun t p =>
    combined m (t.p.getLsbD n.toNat)
      (condWord c ((t.src32 p a 2).slt (t.src32 p b 3)) (t.src32 p a 2 == t.src32 p b 3))) ∧
  (∀ c m n a b, GivesP (.icmpn c m n a b) n fun t p =>
    combined m (t.p.getLsbD n.toNat)
      (condWord c ((t.src32 p a 2).ult (t.src32 p b 3)) (t.src32 p a 2 == t.src32 p b 3))) ∧
  (∀ c m n a i, GivesP (.icmpi c m n a i) n fun t p =>
    let x := immSigned t.hints i
    combined m (t.p.getLsbD n.toNat) (if c = 6 then (t.src32 p a 2).ult x else if c = 7 then x.ule (t.src32 p a 2)
      else condWord c ((t.src32 p a 2).slt x) (t.src32 p a 2 == x))) ∧
  (∀ c d u b a, GivesP (.plut c d u b a) d fun t _ =>
    u.getLsbD ((if t.p.getLsbD c.toNat then 4 else 0) + (if t.p.getLsbD b.toNat then 2 else 0)
      + (if t.p.getLsbD a.toNat then 1 else 0)))

/-- FCLASS of type 0 (FP32), 1 (an FP64 pair), 2 (FP16 in the low half) and 3 (BF16 in the low half) writes the one bit of R221 that the value's sign, exponent and fraction select, and raises no flag; FMIN.f32 and FMAX.f32 give the other operand beside one NaN, the canonical NaN for two, and else the lesser or greater value with -0 below +0, subnormal operands flushed under ftz, with NV set exactly if an operand is a signalling NaN; FADD, FSUB and FMUL give the canonical NaN if an operand is a NaN, with NV set exactly if one is signalling; FCMP is false on a NaN for the ordered conditions, which set NV there, and its unordered condition is true. (R160; R185; R216; R217; R218; R221) -/
def Obligations.FloatWordsOnSpecialValues : Prop :=
  (∀ d a, Gives32 (.fclass d a 0) d fun t p => 1#32 <<< floatClass 8 23 (t.src32 p a 2).toNat) ∧
  (∀ d a, Gives32 (.fclass d a 1) d fun t p => 1#32 <<< floatClass 11 52 (t.src64 p a 2).toNat) ∧
  (∀ d a, Gives32 (.fclass d a 2) d fun t p => 1#32 <<< floatClass 5 10 ((t.src32 p a 2).toNat % 2 ^ 16)) ∧
  (∀ d a, Gives32 (.fclass d a 3) d fun t p => 1#32 <<< floatClass 8 7 ((t.src32 p a 2).toNat % 2 ^ 16)) ∧
  (∀ d a b, Gives (.fminF32 d a b) fun t p =>
    let x := flushed t.hints (t.src32 p a 2)
    let y := flushed t.hints (t.src32 p b 3)
    { t.put32 p d (pick32 x y (order32 x ≤ order32 y)) with fflags := t.fflags ||| (if sig32 x || sig32 y then 0x10 else 0) }) ∧
  (∀ d a b, Gives (.fmaxF32 d a b) fun t p =>
    let x := flushed t.hints (t.src32 p a 2)
    let y := flushed t.hints (t.src32 p b 3)
    { t.put32 p d (pick32 x y (order32 y ≤ order32 x)) with fflags := t.fflags ||| (if sig32 x || sig32 y then 0x10 else 0) }) ∧
  (∀ (i : Instr) d a b (s : State) (t : Thread) (p : Panel) (l : Launch),
    i = .faddF32 d a b ∨ i = .fsubF32 d a b ∨ i = .fmulF32 d a b → s.Alone t p l → t.Ready p i → laneOk i t p = true →
    nan32 (t.src32 p a 2) || nan32 (t.src32 p b 3) →
    exec i s = .next (s.going { t.put32 p d 0x7FC00000 with
      fflags := t.fflags ||| (if sig32 (t.src32 p a 2) || sig32 (t.src32 p b 3) then 0x10 else 0) } l)) ∧
  (∀ c n a b (s : State) (t : Thread) (p : Panel) (l : Launch), s.Alone t p l → t.Ready p (.fcmpF32 c 0 n a b) →
    laneOk (.fcmpF32 c 0 n a b) t p = true → nan32 (t.src32 p a 2) || nan32 (t.src32 p b 3) →
    exec (.fcmpF32 c 0 n a b) s = .next (s.going { t.putP n (c == 1 || c == 6) with
      fflags := t.fflags ||| (if (2 ≤ c.toNat ∧ c.toNat ≤ 5) ∨ sig32 (t.src32 p a 2) ∨ sig32 (t.src32 p b 3) then 0x10 else 0) } l))

/-- A source that names a shuttle takes its oldest word and removes it, two that name one take them in field order; a destination that names a shuttle appends the result and writes no register. Stated for MOV, for the words of two 32-bit sources, for the word that ST.b32 stores, for the target of BRI, and for the atomics of a 32-bit operand, whose X the shuttle gives and whose old value it is to take. Popping an empty shuttle, or pushing one whose words and awaited pushes are 16, does nothing and the thread stays; a shuttle that is not configured, or whose end is another panel, makes the thread take SHUTTLE with %trapv its number; a thread without a yoke takes ILLCONV; what traps leaves the shuttle as it was. (R93; R97; R125; R147; R209; R270; R272; R297) -/
def Obligations.ShuttleOperands : Prop :=
  ∀ (n : BitVec 3) (s : State) (t : Thread) (p : Panel) (l : Launch), s.Alone t p l → t.runs = true →
    let q := shuttleField n
    let plain (f : BitVec 8) : Prop := f.toNat < 240 ∨ f = 248
    (∀ (y : Yoke) (d : BitVec 8) (prod : Nat) (w : Word) (rest : List Word), wordOk (.mov d q) t p = true → plain d →
      s.sys.ShuttleHolds p y n prod (p.position l y) (w :: rest) →
      exec (.mov d q) s = .next ((s.withShuttle y n rest).going (t.put32 p d w) l)) ∧
    (∀ (y : Yoke) (a : BitVec 8) (cons : Nat) (ws : List Word), wordOk (.mov q a) t p = true → plain a →
      s.sys.ShuttleHolds p y n (p.position l y) cons ws →
      exec (.mov q a) s = .next (if ws.length + s.sys.pushesDue y.key n.toNat < 16
        then (s.withShuttle y n (ws ++ [t.src32 p a 2])).going t l else s)) ∧
    (∀ e ∈ twoSourceWords, ∀ (y : Yoke) (d a b : BitVec 8) (k : Nat), plain d → plain a → plain b →
      (∀ x z rest, laneOk (e.1 d q q) t p = true → s.sys.ShuttleHolds p y n k (p.position l y) (x :: z :: rest) →
        exec (e.1 d q q) s = .next ((s.withShuttle y n rest).going (t.put32 p d (e.2 t.hints x z)) l)) ∧
      (∀ x rest, laneOk (e.1 d a q) t p = true → s.sys.ShuttleHolds p y n k (p.position l y) (x :: rest) →
        exec (e.1 d a q) s = .next ((s.withShuttle y n rest).going (t.put32 p d (e.2 t.hints (t.src32 p a 2) x)) l)) ∧
      (∀ x, laneOk (e.1 d q q) t p = true → s.sys.ShuttleHolds p y n k (p.position l y) [x] → exec (e.1 d q q) s = .next s) ∧
      (∀ ws, laneOk (e.1 q a b) t p = true → s.sys.ShuttleHolds p y n (p.position l y) k ws →
        ws.length + s.sys.pushesDue y.key n.toNat < 16 →
        exec (e.1 q a b) s = .next ((s.withShuttle y n (ws ++ [e.2 t.hints (t.src32 p a 2) (t.src32 p b 3)])).going t l))) ∧
    (∀ (y : Yoke) (h o : BitVec 8) (k : Nat) (w : Word) (rest : List Word), wordOk (.stB32 q h o) t p = true →
      s.sys.ShuttleHolds p y n k (p.position l y) (w :: rest) →
      let hd := t.src64 p h 2
      let off := (hd.setWidth 52).toNat + t.units o * 4
      (∀ a, checkAccess s (portOf p l t) (hd.extractLsb' 52 12).toNat off 4 4 rW false = .ok a → exec (.stB32 q h o) s =
        .next ((s.withShuttle y n rest).begun t l (.stB32 q h o) (.store (w.setWidth 128)) (some a) [])) ∧
      (off % 4 ≠ 0 → t.CanTrap l → Takes (.stB32 q h o) s t l tALIGN (BitVec.ofNat 32 off))) ∧
    (∀ (i : Instr) (op : AtomOp) (y : Yoke) (h o : BitVec 8) (w : Word) (rest : List Word) (a : Access),
      i.atomShape = some (op, q, h, o) → op ≠ .add64 → op ≠ .cas → t.hints.hopd = none → wordOk i t p = true →
      s.sys.ShuttleHolds p y n (p.position l y) (p.position l y) (w :: rest) → rest.length + s.sys.pushesDue y.key n.toNat < 16 →
      let hd := t.src64 p h 2
      let slot := (hd.extractLsb' 52 12).toNat
      let off := (hd.setWidth 52).toNat + t.units o * 4
      checkAccess s (portOf p l t) slot off 4 4 rA (isAppend i l slot off) = .ok a →
      exec i s = .next (((s.withShuttle y n rest).used).going (t.begin_ ⟨s.sys.serial, .atom op (w.setWidth 64), some a, [q.toNat],
        flagOf t (Machine.classOf i), t.self, some (n.toNat, w)⟩) l)) ∧
    (∀ (y : Yoke) (pr : Byte) (k : Nat), controlOk (.bri pr q) true t p = true →
      (∀ w rest, s.sys.ShuttleHolds p y n k (p.position l y) (w :: rest) →
        (w.toNat < (s.sys.textOf l).length → s.sys.InPlace l t w.toNat →
          exec (.bri pr q) s = .next ((s.withShuttle y n rest).withThread (t.landed s.sys l w.toNat pr))) ∧
        ((s.sys.textOf l).length ≤ w.toNat → t.CanTrap l → Takes (.bri pr q) s t l tILLOP 0)) ∧
      (s.sys.ShuttleHolds p y n k (p.position l y) [] → exec (.bri pr q) s = .next s)) ∧
    (∀ (y : Yoke) (d : BitVec 8) (prod : Nat), wordOk (.mov d q) t p = true → plain d →
      s.sys.ShuttleHolds p y n prod (p.position l y) [] → exec (.mov d q) s = .next s) ∧
    (∀ (y : Yoke) (d : BitVec 8), wordOk (.mov d q) t p = true → plain d → t.CanTrap l → p.yoke = some y.key →
      s.sys.yokeOf p = some y → (∀ prod, (y.shuttles.getD n.toNat ⟨none, []⟩).config ≠ some (prod, p.position l y)) →
      Takes (.mov d q) s t l tSHUTTLE (n.setWidth 32)) ∧
    (∀ d, wordOk (.mov d q) t p = true → t.CanTrap l → p.yoke = none → Takes (.mov d q) s t l tILLCONV 0)

/-- For a target in the text that needs no travel: BRA goes to pc + 1 + offset with its priority (in native text, where the offset counts native words, to the clause header there); BRC does so if its predicate is set and BRN if it is clear, else the thread goes on with its priority kept. A target outside the text makes the thread take ILLOP whether or not the branch is taken. Nothing but place, form and priority changes. (R106; R143; R144) -/
def Obligations.DirectBranches : Prop :=
  ∀ (s : State) (t : Thread) (p : Panel) (l : Launch) (pr : Byte) (o : BitVec 16) (n : BitVec 3), s.Alone t p l →
    (∀ k f, s.sys.Targets l t o k f → s.sys.InPlace l t k →
      (controlOk (.bra pr o) true t p = true → exec (.bra pr o) s = .next (s.withThread (t.landedAt k f pr))) ∧
      (controlOk (.brc n pr o) true t p = true →
        exec (.brc n pr o) s =
          .next (if t.p.getLsbD n.toNat then s.withThread (t.landedAt k f pr) else s.going t l)) ∧
      (controlOk (.brn n pr o) true t p = true →
        exec (.brn n pr o) s =
          .next (if t.p.getLsbD n.toNat then s.going t l else s.withThread (t.landedAt k f pr)))) ∧
    ((∀ k f, ¬s.sys.Targets l t o k f) → t.CanTrap l →
      Takes (.bra pr o) s t l tILLOP 0 ∧ Takes (.brc n pr o) s t l tILLOP 0 ∧ Takes (.brn n pr o) s t l tILLOP 0)

/-- RET encodes as 0xA2 with 24 zero bits. For a thread whose v239 is below the text's word count it goes to that index with priority v238[7:0], the rest of v238 ignored (a transfer that R143 sends by travel apart); where v239 is the word count or more the thread takes ILLOP. (R146) -/
def Obligations.ReturnGoesToTheLinkPair : Prop :=
  encode .ret = some 0xA2000000 ∧
  ∀ (s : State) (t : Thread) (p : Panel) (l : Launch), s.Alone t p l → controlOk .ret true t p = true →
    (t.link.2.toNat < (s.sys.textOf l).length → s.sys.InPlace l t t.link.2.toNat →
      exec .ret s = .next (s.withThread (t.landed s.sys l t.link.2.toNat (t.link.1.extractLsb' 0 8)))) ∧
    ((s.sys.textOf l).length ≤ t.link.2.toNat → t.CanTrap l → Takes .ret s t l tILLOP 0)

/-- CALL puts its priority's old value in v238 and the next index in v239 and goes to its target; BRI goes to the index in its register (z reads 0), or takes ILLOP if that is outside the text; LOOP goes to its target with its priority and the count less 1 if the count is above 1, else writes 0 and goes on; with rot and a band it adds the rotation step modulo the band, in either case. (R95; R137; R145; R147; R150) -/
def Obligations.CallsIndirectBranchesAndLoops : Prop :=
  ∀ (s : State) (t : Thread) (p : Panel) (l : Launch) (pr : Byte) (o : BitVec 16), s.Alone t p l →
    (∀ k f, s.sys.Targets l t o k f → s.sys.InPlace l t k →
      (controlOk (.call pr o) true t p = true →
        exec (.call pr o) s = .next (s.withThread
          ({ t with link := (t.prio.setWidth 32, BitVec.ofNat 32 (t.pc + 1)) }.landedAt k f pr))) ∧
      (∀ h : OpdHint, t.hints.hopd = some h → controlOk (.loop pr o) true t p = true →
        let c := physReg p.regs p.band t.rotbase h.c.toNat
        let rot := if h.mode.getLsbD 0 ∧ 0 < p.band then (t.rotbase + t.rotstep) % (8 * p.band) else t.rotbase
        exec (.loop pr o) s = .next (if 1 < (t.getV c).toNat
          then s.withThread ({ t.setV c (t.getV c - 1) with rotbase := rot }.landedAt k f pr)
          else s.going { t.setV c 0 with rotbase := rot } l))) ∧
    (∀ a : BitVec 8, controlOk (.bri pr a) true t p = true → a.toNat < 240 ∨ a = 248 →
      ((t.src32 p a 0).toNat < (s.sys.textOf l).length → s.sys.InPlace l t (t.src32 p a 0).toNat →
        exec (.bri pr a) s = .next (s.withThread (t.landed s.sys l (t.src32 p a 0).toNat pr))) ∧
      ((s.sys.textOf l).length ≤ (t.src32 p a 0).toNat → t.CanTrap l → Takes (.bri pr a) s t l tILLOP 0))

/-- NOP encodes as 0xBC with 24 zero bits, and where its decode checks pass it moves each thread of the stitch to its next word and changes nothing else. (R156) -/
def Obligations.NopAdvances : Prop :=
  encode .nop = some 0xBC000000 ∧
  ∀ s : State, s.Whole → (∀ x ∈ s.sys.stitch, controlOk .nop false x.1 x.2.1 = true) →
    exec .nop s = .next (s.withStitch fun t _ l => t.advance (s.sys.nmapOf l))

/-- YIELD writes the thread's priority and moves it on. WAITF moves it on and its entry then waits on the flags named (R122). EXIT of a thread with no late report, in a panel with no held request, ends the thread: no instruction of it is left to issue, its outstanding operations stand, no byte of memory changes, and its lane is struck from each of its seam's masks; a mask that this completes is cleared and releases its parked threads. (R120; R122; R139; R141; R148; R149; R151) -/
def Obligations.YieldWaitExit : Prop :=
  ∀ (s : State) (t : Thread) (p : Panel) (l : Launch), s.Alone t p l →
    (∀ pr, controlOk (.yield pr) true t p = true → exec (.yield pr) s = .next (s.going { t with prio := pr } l)) ∧
    (∀ m, controlOk (.waitf m) false t p = true → exec (.waitf m) s = .next (s.going { t with pend := some (.waitf m) } l)) ∧
    (controlOk .exit true t p = true → t.late = [] → (∀ r ∈ s.sys.reqs, r.panel = p.key → r.held = none) →
      ∃ u x, exec .exit s = .next u ∧ u.mem = s.mem ∧ u.hostMem = s.hostMem ∧
        u.sys.thread? t.panel t.tid = some { t with phase := .exited, hints := Hints.empty, pend := none } ∧
        u.sys.panel? p.key = some x ∧ ∀ j, j < 16 → 16 * p.seamOf t.tid + j < p.masks.length →
          let k := 16 * p.seamOf t.tid + j
          let e := (p.mask k).enrolled &&& ~~~laneBit p t.tid
          let a := (p.mask k).arrived &&& ~~~laneBit p t.tid
          if a ≠ 0 ∧ a = e then x.mask k = ⟨0, 0⟩ ∧ ∀ v ∈ s.sys.threads, s.sys.thread? v.panel v.tid = some v →
              (v.panel, v.tid) ≠ (t.panel, t.tid) → v.parkedOn p k = true → u.sys.thread? v.panel v.tid = some v.unpark
          else x.mask k = ⟨e, a⟩)

/-- In a launch that does not travel: ENROL sets the lane's enrolled bit; STRIKE clears both bits; PARK of an enrolled thread sets its arrived bit and parks it with the index after the PARK and its priority; if the arrived set is then nonzero and equal to the enrolled set, both sets are cleared and every thread parked on the mask is released to its own pair. PARK of a thread that is not enrolled makes it take ILLCONV. JQRY writes the thread's half of the enrolled or arrived set to its pair. Each word in a travelling launch makes the thread take ILLCONV. (R138; R139; R140; R142; R152; R153; R154; R155) -/
def Obligations.RejoinMasks : Prop :=
  ∀ (s : State) (t : Thread) (p : Panel) (l : Launch) (j : BitVec 4), s.Alone t p l →
    let k := 16 * p.seamOf t.tid + j.toNat
    let m := p.mask k
    let b := laneBit p t.tid
    (l.travelling = false →
      (controlOk (.enrol j) false t p = true → k < p.masks.length →
        exec (.enrol j) s = .next ((s.going t l).settleMask p k ⟨m.enrolled ||| b, m.arrived⟩)) ∧
      (controlOk (.strike j) false t p = true → k < p.masks.length →
        exec (.strike j) s = .next ((s.going t l).settleMask p k ⟨m.enrolled &&& ~~~b, m.arrived &&& ~~~b⟩)) ∧
      (∀ pr, controlOk (.park pr j) true t p = true → k < p.masks.length → m.enrolled &&& b ≠ 0 →
        exec (.park pr j) s = .next ((s.withThread { t.advance (s.sys.nmapOf l) with
          phase := .parked j.toNat (t.pc + 1) pr }).settleMask p k ⟨m.enrolled, m.arrived ||| b⟩)) ∧
      (∀ pr, controlOk (.park pr j) true t p = true → m.enrolled &&& b = 0 → t.CanTrap l →
        Takes (.park pr j) s t l tILLCONV 0) ∧
      (∀ d x, controlOk (.jqry d x j) false t p = true →
        let v := if x = 0 then m.enrolled else m.arrived
        exec (.jqry d x j) s = .next (s.going { t.put64 p d (if p.laneOf t.tid ≥ 64 then v.extractLsb' 64 64 else v.setWidth 64) with
          poisonV := t.poisonV.filter fun r => !(t.group p d.toNat 2).contains r } l))) ∧
    (l.travelling = true → t.CanTrap l →
      (controlOk (.enrol j) false t p = true → Takes (.enrol j) s t l tILLCONV 0) ∧
      (controlOk (.strike j) false t p = true → Takes (.strike j) s t l tILLCONV 0) ∧
      (∀ pr, controlOk (.park pr j) true t p = true → Takes (.park pr j) s t l tILLCONV 0) ∧
      (∀ d x, controlOk (.jqry d x j) false t p = true → Takes (.jqry d x j) s t l tILLCONV 0))

/-- A hint word whose kind the group does not hold yet, and that is not the last word of its clause, text or piece, is added to the group, which remembers its first word, and the thread stands at the next word; nothing else changes. A second hint of one kind, and a hint with no word after it in its clause, text or piece, make the thread take ILLOP on the group's first word. A clause header in native form starts a clause with its length and its sets. (R98; R99; R105; R106; R107; R108; R110; R373; R425) -/
def Obligations.HintWords : Prop :=
  (∀ (s : State) (t : Thread) (p : Panel) (l : Launch), s.Alone t p l → hintPlaceOk s.sys t l = true →
    let h := { t.hints with first := some t.self }
    let on (h : Hints) : State := s.withThread ({ t with hints := h }.past (s.sys.nmapOf l))
    (∀ i, t.hints.himm = none → exec (.himm i) s = .next (on { h with himm := some i })) ∧
    (∀ c d a b, t.hints.rep = none → exec (.rep c d a b) s = .next (on { h with rep := some ⟨c, d, a, b⟩ })) ∧
    (∀ e n x y r f g b o, t.hints.hmod = none → exec (.hmod e n x y r f g b o) s =
      .next (on { h with hmod := some ⟨e == 1, n, x == 1, y == 1, r, f == 1, g == 1, b == 1, o⟩ })) ∧
    (∀ c m, t.hints.hopd = none → exec (.hopd c m) s = .next (on { h with hopd := some ⟨c, m⟩ }))) ∧
  (∀ (s : State) (t : Thread) (p : Panel) (l : Launch), s.Alone t p l → t.CanTrap l →
    (∀ i, t.hints.himm.isSome → Takes (.himm i) s t l tILLOP 0) ∧
    (∀ c d a b, t.hints.rep.isSome → Takes (.rep c d a b) s t l tILLOP 0) ∧
    (∀ e n x y r f g b o, t.hints.hmod.isSome → Takes (.hmod e n x y r f g b o) s t l tILLOP 0) ∧
    (∀ c m, t.hints.hopd.isSome → Takes (.hopd c m) s t l tILLOP 0) ∧
    (hintPlaceOk s.sys t l = false → (∀ i, Takes (.himm i) s t l tILLOP 0) ∧ (∀ c d a b, Takes (.rep c d a b) s t l tILLOP 0) ∧
      (∀ e n x y r f g b o, Takes (.hmod e n x y r f g b o) s t l tILLOP 0) ∧ ∀ c m, Takes (.hopd c m) s t l tILLOP 0)) ∧
  (∀ (s : State) (t : Thread) (p : Panel) (l : Launch) (n : Native) w a b c y, s.Alone t p l → t.nat = some n →
    t.hints.first = none → (a.toNat < 12 ∨ a = 15) → (b.toNat < 12 ∨ b = 15) →
    exec (.clauseHeader w a b c y) s = .next (s.withThread { t with nat := some ⟨n.npc + 1, c.toNat + 1, a, b⟩ }))

/-- TRAP n and BRK i make the thread take TRAPI with value n and BRKPT with value 0x100 + i: the trap CSRs hold the code with bit 31, the value, the index after the word and the old priority, and the thread stands at the launch's trap entry. SVC n of a launch that is not the supervisor suspends the thread, opens a ticket and posts its record. RFT in a handler returns to %trappc (where that needs no travel) with the priority of %trapprio and clears bit 31 of %trapc, and no comparator stops the next word; outside a handler it takes ILLOP. (R425; R426; R427; R428; R431; R447; R448; R449) -/
def Obligations.TrapsAndReturns : Prop :=
  ∀ (s : State) (t : Thread) (p : Panel) (l : Launch), s.Alone t p l → t.LastWord →
    (∀ n, t.Ready p (.trap n) → t.CanTrap l →
      exec (.trap n) s = .next (s.withThread (t.trapped s l tTRAPI (n.setWidth 32) (t.past (s.sys.nmapOf l)).pc))) ∧
    (∀ i, t.Ready p (.brk i) → t.CanTrap l →
      exec (.brk i) s = .next (s.withThread (t.trapped s l tBRKPT (0x100 + i.setWidth 32) (t.past (s.sys.nmapOf l)).pc))) ∧
    (∀ n q, t.Ready p (.svc n) → l.supervisor = false → s.sys.part? l.part = some q →
      exec (.svc n) s = .next (s.withSys (s.sys.suspended q t p l tSVCI (n.setWidth 32) (t.past (s.sys.nmapOf l)).pc))) ∧
    (t.Ready p .rft → t.trapc.getLsbD 31 = true → t.trappc.toNat < (s.sys.textOf l).length →
      s.sys.InPlace l t t.trappc.toNat →
      exec .rft s = .next (s.withThread
        { t.landed s.sys l t.trappc.toNat (t.trapprio.setWidth 8) with trapc := t.trapc &&& 0x7FFFFFFF, noBrk := true })) ∧
    (t.Ready p .rft → t.CanTrap l → Takes .rft s t l tILLOP 0)

/-- In a launch that is not its partition's supervisor, RFT resume and kill, BRK set and clear, INVAL of each kind, a write of an interleave domain, and a read or write of a CSR numbered 0x800-0x8FF or 0xC00-0xCFF make the thread take ILLOP and change nothing else. (R55; R111; R445; R446; R448; R451) -/
def Obligations.PrivilegedWordsTrap : Prop :=
  ∀ (i : Instr) (s : State) (t : Thread) (p : Panel) (l : Launch), s.Alone t p l → t.CanTrap l → l.supervisor = false →
    ((∃ a, i = .rftResume a) ∨ (∃ a, i = .rftKill a) ∨ (∃ k a, i = .brkSet k a) ∨ (∃ k, i = .brkClr k) ∨
      (∃ a, i = .invalTranslation a) ∨ (∃ a, i = .invalWriteback a) ∨ (∃ a, i = .invalKey a) ∨ (∃ d n, i = .csrwIldom d n) ∨
      (∃ d n, i = .csrr d n ∧ ((0x800 ≤ n.toNat ∧ n.toNat ≤ 0x8FF) ∨ (0xC00 ≤ n.toNat ∧ n.toNat ≤ 0xCFF))) ∨
      (∃ d n, i = .csrw d n ∧ ((0x800 ≤ n.toNat ∧ n.toNat ≤ 0x8FF) ∨ (0xC00 ≤ n.toNat ∧ n.toNat ≤ 0xCFF)))) →
    Takes i s t l tILLOP 0

/-- BRK set puts the launch, index and repeat of its quad into the comparator and BRK clear empties it, pieces being pinned again and native text withdrawn as R445 says; RFT resume of a suspended thread's ticket closes the ticket and makes the thread ready, RFT kill with no such ticket only goes on, and with one the launch it names is gone; INVAL holds its thread until it is complete, kind 0 with the range's translations dropped; a changed interleave mask is stored and the word holds its thread, an unchanged one only goes on. (R253; R428; R435; R445; R446; R448; R449; R451) -/
def Obligations.SupervisorWords : Prop :=
  ∀ (s : State) (t : Thread) (p : Panel) (l : Launch) (q : Partition), s.Alone t p l → l.supervisor = true →
    s.sys.part? l.part = some q → t.LastWord →
    (∀ k a, t.Ready p (.brkSet k a) → brkImageOk (t.quadWords p a.toNat) = true →
      let w := t.quadWords p a.toNat
      let c : Comparator := ⟨BitVec.ofNat 32 (w.getD 0 0), w.getD 1 0, if (w.getD 2 0).testBit 31 then some (w.getD 2 0 % 64) else none⟩
      exec (.brkSet k a) s = .next ((s.withSys
        ((s.sys.setPart { q with brk := q.brk.set k.toNat (some c) }).repin.withdraw l.part c.launch)).going t l)) ∧
    (∀ k, t.Ready p (.brkClr k) → exec (.brkClr k) s =
      .next ((s.withSys (s.sys.setPart { q with brk := q.brk.set k.toNat none }).repin).going t l)) ∧
    (∀ a pn tid k, t.Ready p (.rftResume a) → s.sys.ticketOf l.part (t.src32 p a 0).toNat = some k → k.names = .thread pn tid →
      ∃ u, exec (.rftResume a) s = .next u ∧ u.mem = s.mem ∧ (s.going t l).sys.panels.length = u.sys.panels.length ∧
        u.sys.threads = (s.going t l).sys.threads.map (fun x =>
          if x.panel = pn ∧ x.tid = tid ∧ x.ticket = some k.num then { x with phase := .ready, ticket := none } else x) ∧
        u.sys.parts = (s.sys.setPart { q with tickets := q.tickets.filter fun x => x.num != k.num }).parts) ∧
    (∀ a, t.Ready p (.rftKill a) →
      (s.sys.ticketOf l.part (t.src32 p a 0).toNat = none → exec (.rftKill a) s = .next (s.going t l)) ∧
      (∀ k v, s.sys.ticketOf l.part (t.src32 p a 0).toNat = some k → s.sys.launch? k.launch = some v → k.launch ≠ l.key →
        v.completion = 0 → v.retireTack = 0 → v.ending = none → (∀ c ∈ s.sys.cmds, c.launch ≠ k.launch) →
        (∀ r ∈ s.sys.reqs, r.launch = k.launch → r.granted = false) → (∀ x ∈ s.sys.panels, x.key = p.key → x.launch = l.key) →
        ∃ u, exec (.rftKill a) s = .next u ∧ u.sys.launch? k.launch = none ∧
          (∀ x ∈ u.sys.panels, x.launch ≠ k.launch) ∧ u.sys.thread? t.panel t.tid = some (t.advance (s.sys.nmapOf l)))) ∧
    (∀ a, t.Ready p (.invalTranslation a) → invalBase (t.quadWords p a.toNat) < 2 ^ 52 →
      let w := t.quadWords p a.toNat
      exec (.invalTranslation a) s = .next ((s.withSys { s.sys.setPart { q with
          tlb := q.tlb.filter fun e => !pageIn (invalBase w) (invalLen w) e.vpage } with serial := s.sys.serial + 1 }).holding
        t l (.inval 0 (w.map fun x => BitVec.ofNat 32 x) s.sys.serial))) ∧
    (∀ a, t.Ready p (.invalWriteback a) → invalSlicesOk (t.quadWords p a.toNat) = true →
      exec (.invalWriteback a) s = .next (s.used.holding t l
        (.inval 1 ((t.quadWords p a.toNat).map fun x => BitVec.ofNat 32 x) s.sys.serial))) ∧
    (∀ a, t.Ready p (.invalKey a) → invalKeyOk (t.quadWords p a.toNat) = true →
      q.keyBase ≤ (t.quadWords p a.toNat).getD 0 0 → (t.quadWords p a.toNat).getD 0 0 < q.keyBase + q.keyCount →
      exec (.invalKey a) s = .next (s.used.holding t l
        (.inval 2 ((t.quadWords p a.toNat).map fun x => BitVec.ofNat 32 x) s.sys.serial))) ∧
    (∀ d n, t.Ready p (.csrwIldom d n) →
      let old := s.sys.ildom.getD n.toNat 0
      let w := t.src32 p d 0
      exec (.csrwIldom d n) s = .next (if w = old then s.going t l else
        (s.withSys { s.sys with ildom := s.sys.ildom.set n.toNat w }).holding t l (.ildom n.toNat old)))

/-- CSRR writes to d the value of each listed register: the placement, the shape, the thread's flags, rounding mode, priority, rotation, repeat index and trap registers; the yoke's dither phase and miss mark; the delivered bytes of a channel's current command; the arbiter's counts for the thread's seam; a read of the cycle count also latches its upper half. CSRW writes the flags, the rounding mode (0 to 4), the trap registers, the dither phase and, with a band and in range, the rotation base and step; writing 1 to the miss mark clears it. The supervisor reads the placement registers, the partition's number and table generation and the interleave masks, and writes the index of a placement entry. A value with a bit outside the field or outside the range, a register that is read-only, and a number that is not listed make the thread take ILLOP. (R14; R53; R56; R95; R111; R112; R284; R320; R424; R446; R450) -/
def Obligations.SpecialRegisters : Prop :=
  ∀ (s : State) (t : Thread) (p : Panel) (l : Launch), s.Alone t p l →
    (∀ d n v, (n, v) ∈ [(0x000#16, BitVec.ofNat 32 t.tid), (0x001, BitVec.ofNat 32 p.pid), (0x003, BitVec.ofNat 32 (dieOf p.core)),
        (0x004, BitVec.ofNat 32 (p.laneOf t.tid)), (0x005, BitVec.ofNat 32 (seamW p.seam)),
        (0x006, BitVec.ofNat 32 p.nthr), (0x007, BitVec.ofNat 32 l.panels), (0x009, t.cych), (0x100, t.fflags.setWidth 32),
        (0x101, t.rnd.setWidth 32), (0x200, t.prio.setWidth 32), (0x201, BitVec.ofNat 32 t.rotbase),
        (0x202, BitVec.ofNat 32 t.rotstep), (0x203, BitVec.ofNat 32 t.repidx),
        (0x308, BitVec.ofNat 32 ((s.sys.reqs.countP fun r => !r.granted && !r.back && r.panel == p.key && r.seam == p.seamOf t.tid) * 2 ^ 22
          + s.sys.reqEntries (clusterOf t.core) * 2 ^ 16 + p.granted.getD (p.seamOf t.tid) 0 % 2 ^ 16)),
        (0x400, t.trapc), (0x401, t.trapv), (0x402, t.trappc), (0x403, t.trapprio)] →
      t.Ready p (.csrr d n) → exec (.csrr d n) s = .next (s.going (t.put32 p d v) l)) ∧
    (∀ d, t.Ready p (.csrr d 0x002) → p.pid < l.panels →
      exec (.csrr d 0x002) s = .next (s.going (t.put32 p d (BitVec.ofNat 32 (p.pid / l.perYoke))) l)) ∧
    (∀ d y, s.sys.yokeOf p = some y →
      (t.Ready p (.csrr d 0x102) → exec (.csrr d 0x102) s = .next (s.going (t.put32 p d (y.dphase.setWidth 32)) l)) ∧
      (t.Ready p (.csrr d 0x103) → exec (.csrr d 0x103) s = .next (s.going (t.put32 p d (if y.oflag then 1 else 0)) l))) ∧
    (∀ d (k : BitVec 3), t.Ready p (.csrr d (0x300 + k.setWidth 16)) →
      exec (.csrr d (0x300 + k.setWidth 16)) s =
        .next (s.going (t.put32 p d (match (s.sys.queue (clusterOf t.core) k.toNat).head? with
          | some c => if c.started then BitVec.ofNat 32 (min c.delivered (2 ^ 32 - 1)) else 0
          | none => 0)) l)) ∧
    (∀ d, t.Ready p (.csrrCyc d) →
      let c := (s.sys.die (dieOf t.core)).cyc
      exec (.csrrCyc d) s =
        .next (s.going ({ t with cych := BitVec.ofNat 32 (c / 2 ^ 32) }.put32 p d (BitVec.ofNat 32 (c % 2 ^ 32))) l)) ∧
    (∀ q, l.supervisor = true → s.sys.part? l.part = some q →
      let reads (n : BitVec 16) (v : Word) : Prop := ∀ d, t.Ready p (.csrr d n) → exec (.csrr d n) s = .next (s.going (t.put32 p d v) l)
      (∀ k : Nat, k < 10 → reads (BitVec.ofNat 16 (0x800 + k)) (s.sys.harv.getD k 0)) ∧
      reads 0x80A q.l2pidx ∧
      (288 ≤ q.l2pidx.toNat → reads 0x80B 0) ∧
      (q.l2pidx.toNat < 288 → reads 0x80B (match q.l2p.find? fun e => e.1 == q.l2pidx.toNat with
        | some e => BitVec.ofNat 32 (2 ^ 31 + e.2.1 * 2 ^ 8 + e.2.2)
        | none => 0)) ∧
      reads 0xC00 (BitVec.ofNat 32 q.num) ∧ reads 0xC01 q.ptgen ∧
      (∀ k : Nat, k < 16 → reads (BitVec.ofNat 16 (0xC10 + k)) (s.sys.ildom.getD k 0)) ∧
      ∀ d, t.Ready p (.csrw d 0x80A) → (t.src32 p d 0).toNat < 512 →
        exec (.csrw d 0x80A) s = .next ((s.withSys (s.sys.setPart { q with l2pidx := t.src32 p d 0 })).going t l)) ∧
    (∀ d, let w := t.src32 p d 0
      (t.Ready p (.csrw d 0x100) → w.toNat < 32 → exec (.csrw d 0x100) s = .next (s.going { t with fflags := w.setWidth 5 } l)) ∧
      (t.Ready p (.csrw d 0x101) → w.toNat ≤ 4 → exec (.csrw d 0x101) s = .next (s.going { t with rnd := w.setWidth 3 } l)) ∧
      (∀ y, t.Ready p (.csrw d 0x102) → s.sys.yokeOf p = some y → w.toNat < 32 →
        exec (.csrw d 0x102) s = .next ((s.withSys (s.sys.setYoke { y with dphase := w.setWidth 5 })).going t l)) ∧
      (t.Ready p (.csrw d 0x201) → 0 < p.band → w.toNat < 8 * p.band → w.toNat < 128 →
        exec (.csrw d 0x201) s = .next (s.going { t with rotbase := w.toNat } l)) ∧
      (t.Ready p (.csrw d 0x202) → 0 < p.band → w.toNat < 8 * p.band → w.toNat < 128 →
        exec (.csrw d 0x202) s = .next (s.going { t with rotstep := w.toNat } l)) ∧
      (∀ n : BitVec 16, n = 0x201 ∨ n = 0x202 → t.Ready p (.csrw d n) → p.band = 0 → w.toNat < 128 → exec (.csrw d n) s = .next (s.going t l)) ∧
      (t.Ready p (.csrw d 0x400) → w &&& 0x7FFFFF00 = 0 → exec (.csrw d 0x400) s = .next (s.going { t with trapc := w } l)) ∧
      (t.Ready p (.csrw d 0x401) → exec (.csrw d 0x401) s = .next (s.going { t with trapv := w } l)) ∧
      (t.Ready p (.csrw d 0x402) → exec (.csrw d 0x402) s = .next (s.going { t with trappc := w } l)) ∧
      (t.Ready p (.csrw d 0x403) → w.toNat < 256 → exec (.csrw d 0x403) s = .next (s.going { t with trapprio := w } l)) ∧
      (∀ n, t.Ready p (.csrw d n) → t.CanTrap l → csrRefuses p n w = true → Takes (.csrw d n) s t l tILLOP 0)) ∧
    (∀ d y, t.Ready p (.csrwOflag d) → p.yoke = some y.key → s.sys.yokeOf p = some y →
      ((t.src32 p d 0).toNat ≤ 1 → exec (.csrwOflag d) s =
        .next ((s.withSys (s.sys.setYoke { y with oflag := y.oflag && t.src32 p d 0 == 0 })).going t l)) ∧
      (1 < (t.src32 p d 0).toNat → t.CanTrap l → Takes (.csrwOflag d) s t l tILLOP 0)) ∧
    (∀ d n, (n.toNat ∈ [0x000, 0x001, 0x002, 0x003, 0x004, 0x005, 0x006, 0x007, 0x008, 0x009, 0x200, 0x203, 0x80B, 0xC00, 0xC01] ∨
        (0x300 ≤ n.toNat ∧ n.toNat ≤ 0x308) ∨ (0x800 ≤ n.toNat ∧ n.toNat ≤ 0x809) ∨ csrListed n.toNat = false) →
      t.CanTrap l → Takes (.csrw d n) s t l tILLOP 0) ∧
    (∀ d n, csrListed n.toNat = false → t.Ready p (.csrr d n) → t.CanTrap l → Takes (.csrr d n) s t l tILLOP 0)

/-- For every LD and ST form with handle pair h, offset field o and access size n: the offset is the handle's low 52 bits plus n times the offset units (8 or 32 bits, stepped by REP), the slot its upper 12. If alignment, bounds, rights, translation and owner pass, the thread goes on with one more outstanding operation, a load naming d's registers, a store holding the low n bytes of d (z stores 0); no register, no byte of memory changes yet. A misaligned offset makes it take ALIGN, else one past the declaration's length BUFBND, else a missing right BUFRIGHT, each with the offset's low word; a lazy page without a translation posts a walk and the thread waits, to issue the same word again past the comparators it has passed. (R100; R103; R106; R107; R240; R249; R268; R269; R270; R422) -/
def Obligations.GlobalLoadsAndStoresIssue : Prop :=
  ∀ (i : Instr) (h o : BitVec 8) (n rights : Nat) (s : State) (t : Thread) (p : Panel) (l : Launch),
    i.globalShape = some (h, o, n, rights) → s.Alone t p l → t.Ready p i →
    let hd := t.src64 p h 2
    let slot := (hd.extractLsb' 52 12).toNat
    let off := (hd.setWidth 52).toNat + t.units o * n
    let d := l.decl slot
    (∀ a, checkAccess s (portOf p l t) slot off n n rights false = .ok a →
      exec i s = .next (if rights = rRd then s.begun t l i (.load i.loadsSigned) (some a) (t.dstRegs p i)
        else s.begun t l i (.store (BitVec.ofNat 128 (t.dataNat p i % 2 ^ (8 * n)))) (some a) [])) ∧
    (t.CanTrap l → off % n ≠ 0 → Takes i s t l tALIGN (BitVec.ofNat 32 off)) ∧
    (t.CanTrap l → off % n = 0 → Decl.len d < off + n → Takes i s t l tBUFBND (BitVec.ofNat 32 off)) ∧
    (t.CanTrap l → off % n = 0 → off + n ≤ Decl.len d → Decl.lacks d rights = true →
      Takes i s t l tBUFRIGHT (BitVec.ofNat 32 off)) ∧
    (∀ va r m, checkAccess s (portOf p l t) slot off n n rights false = .walk va r m →
      (∀ w ∈ s.sys.walks, w.key ≠ s.sys.serial) →
      let w : Walk := ⟨s.sys.serial, l.part, t.core, t.panel, t.tid, va, r, m, none, none⟩
      exec i s = .next (s.withSys { s.sys with
        serial := s.sys.serial + 1, walks := s.sys.walks ++ [w]
        threads := s.sys.threads.map fun u => if u.panel = t.panel ∧ u.tid = t.tid then { u with noBrk := true, entered := true } else u }))

/-- In a launch that does not travel, for a thread of a panel with its own allocation: LDS starts a load that holds the bytes read at the address; STS writes exactly its n bytes of d there, every other byte of the scratchpad reading as before, and no other panel, register or byte of memory changes. A misaligned address takes ALIGN, one past the allocation SCRBND, a store that touches a live tack word TACKST; in a travelling launch each takes ILLCONV. (R103; R255; R256; R268; R271; R290) -/
def Obligations.ScratchpadAccesses : Prop :=
  ∀ (i : Instr) (h o : BitVec 8) (n : Nat) (store : Bool) (s : State) (t : Thread) (p : Panel) (l : Launch),
    i.scratchShape = some (h, o, n, store) → s.Alone t p l → t.Ready p i → p.handlerOf = none →
    let addr := (t.src64 p h 2).toNat + t.units o * n
    (l.travelling = false → addr % n = 0 → addr + n ≤ p.scratchLen →
      (store = false → exec i s =
        .next (s.begun t l i (.lds (BitVec.ofNat 128 (Mem.getNat p.scratch addr n))) none (t.dstRegs p i))) ∧
      (store = true → (∀ w ∈ touched addr n, w ∉ p.stags) →
        let m := Mem.putBytes p.scratch addr (leBytes n (t.dataNat p i))
        exec i s = .next ((s.withSys (s.sys.setPanel { p with scratch := m })).begun t l i .sts none []) ∧
        (Mem.wf p.scratch = true → ∀ b, (b < addr ∨ addr + n ≤ b) → Mem.get m b = Mem.get p.scratch b))) ∧
    (t.CanTrap l → l.travelling = false → addr % n ≠ 0 → Takes i s t l tALIGN (BitVec.ofNat 32 addr)) ∧
    (t.CanTrap l → l.travelling = false → addr % n = 0 → p.scratchLen < addr + n →
      Takes i s t l tSCRBND (BitVec.ofNat 32 addr)) ∧
    (t.CanTrap l → l.travelling = false → addr % n = 0 → addr + n ≤ p.scratchLen → store = true →
      ∀ w, (touched addr n).find? p.stags.contains = some w → Takes i s t l tTACKST (BitVec.ofNat 32 (8 * w))) ∧
    (t.CanTrap l → l.travelling = true → Takes i s t l tILLCONV 0)

/-- An ATOM word whose checks pass (right A, alignment to its size) goes on with one outstanding operation that holds X, read from c with HOPD and else from d, and names d's registers, none for z. The new words are the sum, the signed minimum and maximum, the bitwise and, or, exclusive or, X itself, the 64-bit sum, the FP32 sum that FADD.f32 gives under RNE without flushing (the canonical NaN beside a NaN), and for CAS the upper half of X where the old word equals the lower half; the old word returned is unchanged, for CAS with 1 in the second register exactly where it swapped. (R100; R103; R268; R272; R340) -/
def Obligations.AtomicsIssueAndCompute : Prop :=
  (∀ (i : Instr) (op : AtomOp) (d h o : BitVec 8) (s : State) (t : Thread) (p : Panel) (l : Launch) (a : Access),
    i.atomShape = some (op, d, h, o) → s.Alone t p l → t.Ready p i →
    let n := if op = .add64 then 8 else 4
    let hd := t.src64 p h 2
    let slot := (hd.extractLsb' 52 12).toNat
    let off := (hd.setWidth 52).toNat + t.units o * n
    checkAccess s (portOf p l t) slot off n n rA (isAppend i l slot off) = .ok a →
    exec i s = .next (s.begun t l i (.atom op (BitVec.ofNat 64 (match t.hints.hopd with
      | some c => if c.c = 248 then 0 else t.getNat (t.group p c.c.toNat (if op = .add64 ∨ op = .cas then 2 else 1))
      | none => t.getNat (t.dstRegs p i)))) (some a) (if d = 248 then [] else t.dstRegs p i))) ∧
  (∀ m x : Word,
    let r (op : AtomOp) : Nat × Nat := atomResult op m.toNat x.toNat
    r .add = (m.toNat, (m + x).toNat) ∧ r .mins = (m.toNat, (if x.slt m then x else m).toNat) ∧
    r .maxs = (m.toNat, (if m.slt x then x else m).toNat) ∧ r .band = (m.toNat, (m &&& x).toNat) ∧
    r .bor = (m.toNat, (m ||| x).toNat) ∧ r .bxor = (m.toNat, (m ^^^ x).toNat) ∧ r .xchg = (m.toNat, x.toNat) ∧
    (∀ y : Word, atomResult .cas m.toNat (y ++ x).toNat =
      if m = x then ((1#32 ++ m).toNat, y.toNat) else ((0#32 ++ m).toNat, m.toNat)) ∧
    (r .fadd).1 = m.toNat ∧ (nan32 m || nan32 x → (r .fadd).2 = 0x7FC00000)) ∧
  (∀ m x : DWord, atomResult .add64 m.toNat x.toNat = (m.toNat, (m + x).toNat)) ∧
  (∀ (d a b : BitVec 8) (s : State) (t : Thread) (p : Panel) (l : Launch), s.Alone t p l → t.Ready p (.faddF32 d a b) →
    t.hints.hmod = none → t.rnd = 0 → ∃ fl, exec (.faddF32 d a b) s = .next (s.going { t.put32 p d
      (BitVec.ofNat 32 (atomResult .fadd (t.src32 p a 2).toNat (t.src32 p b 3).toNat).2) with fflags := fl } l))

/-- For a thread outside any run-ahead whose operation may end: an LDS writes the bytes it read; an STS ends; a load at home of a line that is not poisoned and that its L1 holds under its key writes the bytes of that line, extended as its form says; one that no L1 of the core holds, homed on the core's die and held under no other key, writes the bytes at the home; a store outside a travelling launch that touches no live tack word leaves every byte of memory and ends, and the L1 line then holds its bytes as dirty. An atomic that meets no live tack writes back and drops its core's line, writes the old word to its register, or pushes it to its shuttle, and leaves the new word at the home and every other byte there as it was; ACQR writes the word at the home after an acquire with C; RELW, after its release, leaves its word there; KVAP leaves the bytes of each of its chunks; AQST writes the log entry, PQRY its count. At a peer the answer is written (an atomic's old word, with the success word of CAS), a refused store leaves a late BUFOWNER, a refused load suspends its thread. Ended, the operation counts on its flag no more. (R100; R240; R243; R257; R265; R269; R270; R272; R362; R369; R392; R419) -/
def Obligations.MemoryOperationsEnd : Prop :=
  ∀ (s : State) (t : Thread) (p : Panel) (l : Launch) (o : Op) (reply : PeerReply), s.sys.opOf t.panel t.tid o.id = some (t, p, l, o) →
    opReady s.sys t p l o = true → p.ahead = none →
    let e := exec (.memoryOpComplete t.panel t.tid o.id reply) s
    (∀ d, o.kind = .lds d → e = .next (s.withSys (s.sys.updThread t.panel t.tid fun u => (u.putNat o.dst d.toNat).finish o))) ∧
    (o.kind = .sts → e = .next (s.withSys (s.sys.updThread t.panel t.tid fun u => u.finish o))) ∧
    (∀ sg a addr key mode num thr x, o.kind = .load sg → o.acc = some a → a.target = .home addr key mode num thr →
      s.sys.poisoned addr = false → l.travelling = false → (s.sys.core t.core).l1Line (lineOf addr) = some x → x.key = key →
      ∃ u, e = .next u ∧ u.mem = s.mem ∧ u.sys.thread? t.panel t.tid =
        some ((t.putNat o.dst (extendLoad sg a.size (ofLeBytes (lineBytes x.data.toNat addr a.size)))).finish o)) ∧
    (∀ sg a addr key mode num thr, o.kind = .load sg → o.acc = some a → a.target = .home addr key mode num thr →
      s.sys.poisoned addr = false → l.travelling = false → (s.sys.core t.core).l1Line (lineOf addr) = none →
      (s.sys.core t.core).l1.length < l1Lines → s.sys.l2.length < l2Lines →
      homeDie (lineOf addr * 128) = dieOf t.core → (∀ x, s.sys.l2Line (lineOf addr) = some x → x.key = key) → addr % 128 + a.size ≤ 128 →
      ∃ u, e = .next u ∧ u.mem = s.mem ∧ u.sys.thread? t.panel t.tid =
        some ((t.putNat o.dst (extendLoad sg a.size (s.homeNat addr a.size key))).finish o)) ∧
    (∀ d a addr key mode num thr x, o.kind = .store d → o.acc = some a → a.target = .home addr key mode num thr →
      l.travelling = false → s.sys.liveIn addr a.size = none → (s.sys.core t.core).l1Line (lineOf addr) = some x → x.key = key →
      ∃ u y, e = .next u ∧ u.mem = s.mem ∧ u.sys.thread? t.panel t.tid = some (t.finish o) ∧
        (u.sys.core t.core).l1Line (lineOf addr) = some y ∧ y.dirty = x.dirty ||| BitVec.ofNat 128 (byteMask addr a.size) ∧
        y.data.toNat = mergeBytes x.data.toNat (ofLeBytes (leBytes a.size d.toNat) * 2 ^ (8 * (addr % 128))) (byteMask addr a.size) % 2 ^ 1024) ∧
    (∀ op x a addr key mode num thr, o.kind = .atom op x → o.acc = some a → a.target = .home addr key mode num thr →
      Safe s → s.sys.poisoned addr = false → a.liveTack s.sys = none → 0 < a.size → addr % 128 + a.size ≤ 128 →
      let h := ((Tx.start s).dropL1 t.core (lineOf addr)).st
      let r := atomResult op (h.homeNat addr a.size key) x.toNat
      ((∀ k ∈ o.dst, k < 240) → ∃ u, e = .next u ∧ u.sys.thread? t.panel t.tid = some ((t.putNat o.dst r.1).finish o) ∧
        u.homeNat addr a.size key = r.2 % 2 ^ (8 * a.size) ∧ (u.sys.core t.core).l1Line (lineOf addr) = none ∧
        (h.sys.l2.length < l2Lines → ∀ b k, (b < addr ∨ addr + a.size ≤ b) → (lineOf b = lineOf addr → k = key) →
          u.homeNat b 1 k = h.homeNat b 1 k)) ∧
      (∀ (n : BitVec 3) y prod cons ws, o.dst = [240 + n.toNat] → s.sys.ShuttleHolds p y n prod cons ws →
        ∃ u z, e = .next u ∧ u.homeNat addr a.size key = r.2 % 2 ^ (8 * a.size) ∧
          u.sys.ShuttleHolds p z n prod cons (ws ++ [BitVec.ofNat 32 r.1]))) ∧
    (∀ a addr key mode num thr, o.kind = .acqr → o.acc = some a → a.target = .home addr key mode num thr →
      s.sys.poisoned addr = false → (∀ k ∈ o.dst, k < 240) → dieOf t.core < s.sys.dies.length →
      ∃ u, e = .next u ∧ u.sys.thread? t.panel t.tid = some ((t.putNat o.dst (s.ownNat t.core addr key 4)).finish o) ∧
        (∀ x ∈ (u.sys.core t.core).l1, x.ro = true) ∧
        (u.sys.die (dieOf t.core)).epoch = (s.sys.die (dieOf t.core)).epoch + 1) ∧
    (∀ d m a addr key mode num thr, o.kind = .relw d m → o.acc = some a → a.target = .home addr key mode num thr →
      Safe s → a.liveTack s.sys = none → a.size = 4 → addr % 128 + 4 ≤ 128 →
      ∃ u, e = .next u ∧ u.sys.thread? t.panel t.tid = some (t.finish o) ∧ u.homeNat addr 4 key = d.toNat ∧
        (u.sys.core t.core).l1Line (lineOf addr) = none) ∧
    (∀ cs key, o.kind = .kvap cs → Safe s → (∀ c ∈ cs, c.1.liveTack s.sys = none ∧ c.1.size = c.2.length ∧
        ∃ addr mode num thr, c.1.target = .home addr key mode num thr ∧ 0 < c.2.length ∧ addr % 128 + c.2.length ≤ 128) →
      cs.Pairwise (fun c d => spansMeet c.1.span d.1.span = false) →
      ∃ u, e = .next u ∧ u.sys.thread? t.panel t.tid = some (t.finish o) ∧
        ∀ c ∈ cs, u.homeBytes c.1.span.2.1 c.2.length key = c.2) ∧
    (∀ k ix, o.kind = .aqst k ix → (∀ r ∈ o.dst, r < 240) →
      let w := match (s.sys.stack k).log.find? fun x => x.1 == ix with
        | some x => x.2
        | none => [0, 0, 0, 0]
      let w' := if (w.getD 0 0).extractLsb' 26 3 = BitVec.ofNat 3 l.part ∧ l.part < 8 then w else [0, 0, 0, w.getD 3 0]
      e = .next (s.withSys (s.sys.updThread t.panel t.tid fun u => (u.putNat o.dst (ofLeBytes (bytesOfWords w'))).finish o))) ∧
    (∀ k, o.kind = .pqry k → (∀ r ∈ o.dst, r < 240) →
      let spool := (s.sys.parcels.filter fun q => q.isMessage && q.phase == .spool t.core).length
      let piece := match t.piece with
        | some k => (l.holders.getD k []).length % 256 * 256 + k % 256
        | none => 0
      let v := if k = 0 then spool * 2 ^ 16 + s.sys.spoolUse t.core else if k = 1 then (if l.travelling then piece else 0xFF)
        else if k = 2 then s.sys.logical l.part t.core else if k = 3 then (if l.travelling then t.travels % 2 ^ 32 else 0)
        else (s.sys.panels.filter fun x => x.launch == l.key && x.handlerOf.isSome && x.core == t.core).length
      e = .next (s.withSys (s.sys.updThread t.panel t.tid fun u => (u.putNat o.dst v).finish o))) ∧
    (∀ a dev d, o.acc = some a → a.target = .peer dev → reply = .data d → s.sys.peerLost l dev = false → (∀ r ∈ o.dst, r < 240) →
      let gives (v : Nat) : Prop := e = .next (s.withSys (s.sys.updThread t.panel t.tid fun u => (u.putNat o.dst v).finish o))
      (∀ sg, o.kind = .load sg → gives (extendLoad sg a.size (d.toNat % 2 ^ (8 * a.size)))) ∧
      (∀ w, o.kind = .store w → e = .next (s.withSys (s.sys.updThread t.panel t.tid fun u => u.finish o))) ∧
      (∀ op x, o.kind = .atom op x → gives (match op with
        | .add64 => d.toNat % 2 ^ 64
        | .cas => d.toNat % 2 ^ 32 + if d.toNat % 2 ^ 32 = x.toNat % 2 ^ 32 then 2 ^ 32 else 0
        | _ => d.toNat % 2 ^ 32))) ∧
    (∀ a dev, o.acc = some a → a.target = .peer dev → reply = .refused ∨ s.sys.peerLost l dev = true →
      (∀ w, o.kind = .store w → t.phase ≠ .exited → ∃ u, e = .next u ∧ u.mem = s.mem ∧ u.sys.thread? t.panel t.tid =
        some ({ t with late := t.late ++ [(⟨tBUFOWNER, BitVec.ofNat 32 a.offset, o.pc, o.flag, a.slot, a.offset, false, true⟩ : Late)] }.finish o)) ∧
      (∀ sg, o.kind = .load sg → t.takable p = true → l.supervisor = false → (s.sys.part? l.part).isSome = true →
        ∃ u x, e = .next u ∧ u.mem = s.mem ∧ u.sys.thread? t.panel t.tid = some x ∧ x.phase = .suspended o.pc ∧ x.v = t.v)) ∧
    (∀ ws acq, o.kind = .landing ws acq →
      e = .next (s.withSys (s.sys.updThread t.panel t.tid fun u => (u.putEach ws).finish o)))

/-- PREF makes its thread go on whatever its address is, and never takes a trap for it. Where the access cannot be made (misplaced, out of bounds, without the right) or is at a peer, nothing else changes, and so where its request would be held by a switch or a bridge in training, for which it is dropped (assumption log 192). A lazy page without a translation has its walk posted, of which the thread does not wait; its end brings the line if the access is then good. Level 0 of a home access brings the line into the L1, in a travelling launch and for a buffer that may be written into the home L2; level 1 into the home L2 and level 2 into the last-level cache. A level of 3 or more makes the thread take ILLOP. (R106; R249; R260; R268; R276) -/
def Obligations.PrefetchesComplete : Prop :=
  (∀ (lv h o : BitVec 8) (s : State) (t : Thread) (p : Panel) (l : Launch), s.Alone t p l → t.Ready p (.pref lv h o) →
    let hd := t.src64 p h 2
    let slot := (hd.extractLsb' 52 12).toNat
    let off := (hd.setWidth 52).toNat + t.units o * 128
    let c := checkAccess s (portOf p l t) slot off 1 1 rRd false
    let k := t.stepped lv 1
    let e := exec (.pref lv h o) s
    (k < 3 → (∃ code v sl f w, c = .trap code v sl f w) ∨ c = .hole → e = .next (s.going t l)) ∧
    (k < 3 → ∀ a dev, c = .ok a → a.target = .peer dev → e = .next (s.going t l)) ∧
    (k < 3 → ∀ a addr key mode num thr, c = .ok a → a.target = .home addr key mode num thr →
      s.sys.homeHeld (dieOf t.core) addr mode num = true → e = .next (s.going t l)) ∧
    (k < 3 → ∀ va r m, c = .walk va r m →
      let w : Walk := ⟨s.sys.serial, l.part, t.core, t.panel, t.tid, va, r, m, none, some (k, slot, off)⟩
      e = .next ((s.withSys { s.sys with serial := s.sys.serial + 1, walks := s.sys.walks ++ [w] }).going t l)) ∧
    (k < 3 → ∀ a addr key mode num thr, c = .ok a → a.target = .home addr key mode num thr →
      s.sys.homeHeld (dieOf t.core) addr mode num = false → ∃ u, e = .next u ∧
        u.sys.thread? t.panel t.tid = some (t.advance (s.sys.nmapOf l)) ∧
        (k = 0 → (l.travelling = false ∨ a.ro = true) → ∃ x, (u.sys.core t.core).l1Line (lineOf addr) = some x ∧ x.key = key) ∧
        (k = 1 ∨ (k = 0 ∧ l.travelling = true ∧ a.ro = false) → ∃ x, u.sys.l2Line (lineOf addr) = some x ∧ x.key = key) ∧
        (k = 2 → stackOf (lineOf addr * 128) < s.sys.stks.length → lineOf addr ∈ (u.sys.stack (stackOf (lineOf addr * 128))).llc)) ∧
    (3 ≤ k → t.CanTrap l → Takes (.pref lv h o) s t l tILLOP 0)) ∧
  (∀ (k : Nat) (s : State) (w : Walk) (q : Partition) lv slot off, s.sys.walks.find? (fun x => x.key == k && s.sys.walking x) = some w →
    s.sys.part? w.part = some q → w.pref = some (lv, slot, off) →
    ∃ u, exec (.pageWalkComplete k) s = .next u ∧ (∀ x ∈ u.sys.walks, x.key ≠ k) ∧
      (∀ t, s.sys.thread? w.panel w.tid = some t → u.sys.thread? w.panel w.tid = some t))

/-- For the loads, stores, scratchpad accesses, atomics, PREF and arithmetic words, and a stitch whose first thread's operands name no shuttle: exec over the whole stitch is exec over its first thread and then, from the state that gave, over the rest, as long as no thread has just faulted into a run-ahead and none waits for a page walk (for which the whole stitch waits: R133). (R125; R133; R240; R249) -/
def Obligations.StitchGoesThreadByThread : Prop :=
  ∀ (i : Instr) (s u : State) (id : Nat × Nat) (rest : List (Nat × Nat)),
    ((laneCheck i).isSome = true ∨ i.globalShape.isSome = true ∨ i.scratchShape.isSome = true ∨ i.atomShape.isSome = true ∨
      ∃ v h o, i = .pref v h o) →
    s.sys.Calm → u.sys.panels.map (·.ahead) = s.sys.panels.map (·.ahead) →
    (∀ t, s.sys.thread? id.1 id.2 = some t → (form i t.hints).pops t.hints = [] ∧ (form i t.hints).pushes = []) →
    exec i (s.focusOn [id]) = .next u → u.sys.walks = s.sys.walks →
    (∀ v, exec i (u.focusOn rest) = .next v → v.sys.walks = u.sys.walks →
      exec i (s.focusOn (id :: rest)) = .next (v.focusOn (id :: rest))) ∧
    (∀ f, exec i (u.focusOn rest) = .fault f → exec i (s.focusOn (id :: rest)) = .fault f)

/-- In a launch that does not travel, a thread that runs ahead and whose decode checks pass goes on past every ST, STS and ATOM form, every copy, count, tack, bobbin and LAUNCH word, SHCFG, FENCE and every binding and consistency word, WAIT, every stack-unit word, PSEND and PQRY, every matrix word, and every trap, return, comparator, INVAL and CSR word, with nothing else changed, whatever the operands hold. (R432) -/
def Obligations.RunAheadSuppresses : Prop :=
  ∀ (i : Instr) (s : State) (t : Thread) (p : Panel) (l : Launch), s.sys.focus = [(t.panel, t.tid)] →
    s.sys.thread? t.panel t.tid = some t → s.sys.homeOf t = some (p, l) → p.aheadOf t.tid = true → s.sys.Calm →
    suppressed t p l i = true → wordOk i t p = true → l.travelling = false → exec i s = .next (s.going t l)

/-- For each of the 15 cross-lane words on a seam that is not paired, in a launch that does not travel: if the decode checks pass and the running threads agree on a mask that names no present lane outside the stitch, exec answers a next state in which each member (a running thread whose lane the mask names) has its destination registers written, each running thread its %fflags raised alike, and every thread stands at its next repeat or word. Nothing else changes; the integer and bit words raise no flag. (R128; R185; R230; R231) -/
def Obligations.CollectivesComplete : Prop :=
  ∀ (i : Instr) (m : BitVec 8) (ok : Hints → Bool) (s : State) (t0 : Thread) (p : Panel) (l : Launch),
    i.collective = some (m, ok) → s.Seam t0 p l → ok t0.hints = true → formOk p.regs (form i t0.hints) t0.hints = true →
    p.paired = false → l.travelling = false → (∀ x ∈ s.sys.stitch, p.laneOf x.1.tid < 64) →
    masksOk s.sys p m (s.sys.stitch.map (·.1)) ((s.sys.stitch.map (·.1)).filter (·.runs)) false = true →
    ∃ (v : Thread → Nat) (fl : BitVec 5), exec i s = .next (s.withStitch fun t p l =>
      { if t.speaks p m then t.putNat (t.dstRegs p i) (v t) else t with
        fflags := if t.runs then t.fflags ||| fl else t.fflags }.advance (s.sys.nmapOf l)) ∧
      (i.foldsFloats = false → fl = 0)

/-- The value of every cross-lane word on a seam that is not paired, over the members and their A: VOTE gives 1 or 0 for all, any or all equal; BALLOT the bits of the lanes whose A is not 0; RADD.s32 the sum modulo 2^32; RMIN.n32 and RMAX.n32 the least and greatest unsigned value; SCAN.s32 the sum over the lanes up to the member's own, its own left out under excl; LANEID the number of members at lower lanes and, 16 bits up, of all members; SHFL the A of the lane that the member's C names, and SHFLX that of the lane its mode and number name, or its own where that is no member; BCST the A of the named lane, or of the lowest member; RMINX.n32 the least value with the lowest lane that holds it; MATCH the bits of the lanes whose A equals its own, as bits or as numbers. RADD.f32 gives the pairwise tree over the seam's lanes, where others supply -0.0, RMIN.f32 and RMAX.f32 the least and greatest number, or the canonical NaN where all are NaN, and each raises its flags in every running thread. (R190; R191; R192; R193; R232; R233; R234; R235; R236; R237; R238) -/
def Obligations.CollectiveResults : Prop :=
  (∀ d a m, Voices (.vote d a m) m fun p ms t =>
    let x (u : Thread) : Word := u.src32 p a 2
    (if modeOf t.hints = 0 then (if ∀ u ∈ ms, x u ≠ 0 then 1 else 0)
     else if modeOf t.hints = 1 then (if ∃ u ∈ ms, x u ≠ 0 then 1 else 0)
     else if ∀ u ∈ ms, x u = x t then 1 else 0)) ∧
  (∀ d a m, Voices (.ballot d a m) m fun p ms _ =>
    bitsOf 64 fun k => ms.any fun u => p.laneOf u.tid == k && u.src32 p a 2 != 0) ∧
  (∀ d a m, Voices (.raddS32 d a m) m fun p ms _ => (ms.map fun u => (u.src32 p a 2).toNat).sum % 2 ^ 32) ∧
  (∀ d a m, Voices (.rminN32 d a m) m fun p ms _ => (ms.map fun u => (u.src32 p a 2).toNat).foldl min (2 ^ 32 - 1)) ∧
  (∀ d a m, Voices (.rmaxN32 d a m) m fun p ms _ => (ms.map fun u => (u.src32 p a 2).toNat).foldl max 0) ∧
  (∀ d a m, Voices (.scanS32 d a m) m fun p ms t =>
    ((ms.filter fun u => p.laneOf u.tid < p.laneOf t.tid || (modeOf t.hints != 1 && p.laneOf u.tid == p.laneOf t.tid)).map
      fun u => (u.src32 p a 2).toNat).sum % 2 ^ 32) ∧
  (∀ d m, Voices (.laneid d m) m fun p ms t =>
    (ms.filter fun u => p.laneOf u.tid < p.laneOf t.tid).length + 2 ^ 16 * ms.length) ∧
  (∀ d a m, Voices (.shfl d a m) m fun p ms t =>
    let c := match t.hints.hopd with
      | some o => t.src32 p o.c 0
      | none => 0
    match ms.find? fun u => p.laneOf u.tid == c.toNat with
    | some u => (u.src32 p a 2).toNat
    | none => (t.src32 p a 2).toNat) ∧
  (∀ d a m, Voices (.shflx d a m) m fun p ms t =>
    let mode := modeOf t.hints
    let j := p.laneOf t.tid
    let x := mode % 128
    let k : Int := match mode / 2 ^ 14 % 4 with
      | 0 => ((j ^^^ x : Nat) : Int)
      | 1 => (j : Int) - x
      | _ => (j : Int) + x
    match ms.find? fun u => (p.laneOf u.tid : Int) == k with
    | some u => (u.src32 p a 2).toNat
    | none => (t.src32 p a 2).toNat) ∧
  (∀ d a m, Voices (.bcst d a m) m fun p ms t =>
    let mode := modeOf t.hints
    let low := ms.find? fun u => ms.all fun x => p.laneOf u.tid ≤ p.laneOf x.tid
    let named := if mode.testBit 15 then ms.find? fun u => p.laneOf u.tid == mode % 128 else none
    (((named <|> low).map fun u => (u.src32 p a 2).toNat).getD 0)) ∧
  (∀ d a m, Voices (.rminxN32 d a m) m fun p ms _ =>
    let x (u : Thread) : Nat := (u.src32 p a 2).toNat
    match ms.find? fun u => ms.all fun w => x u < x w || (x u == x w && p.laneOf u.tid ≤ p.laneOf w.tid) with
    | some u => x u + 2 ^ 32 * p.laneOf u.tid
    | none => 2 ^ 64 - 1) ∧
  (∀ d a m, Voices (.matchLanes d a m) m fun p ms t =>
    let otype := otypeOf t.hints
    let x (u : Thread) : Nat := if otype = 1 ∨ otype = 3 then (u.src64 p a 2).toNat else (u.src32 p a 2).toNat
    bitsOf 64 fun k => ms.any fun u => p.laneOf u.tid == k &&
      (if otype = 2 then numEq 8 23 (x t) (x u) else if otype = 3 then numEq 11 52 (x t) (x u) else x t == x u)) ∧
  (∀ d a m, let sum (p : Panel) (ms : List Thread) := pairTree (Nat.log2 (seamLanes p.seam)) (laneTerm p a ms)
    Folds (.raddF32 d a m) m (fun p ms => (sum p ms).1) fun p ms => (sum p ms).2) ∧
  (∀ d a m, Folds (.rminF32 d a m) m (fun p ms => (firstNumber (· < ·) (ms.map fun u => u.src32 p a 2)).toNat)
    fun p ms => signalled (ms.map fun u => u.src32 p a 2)) ∧
  (∀ d a m, Folds (.rmaxF32 d a m) m (fun p ms => (firstNumber (· > ·) (ms.map fun u => u.src32 p a 2)).toNat)
    fun p ms => signalled (ms.map fun u => u.src32 p a 2))

/-- On a convergent seam of a yoke: RESV writes an accepted record to a tile that is not reserved, TSET one of the same place and size to a tile that is, MPRE and MPOST an accepted image to a slot other than 0, and all threads go on; FREE of a reserved tile that no held command names holds the threads until the record is cleared; MQRY writes a word of the record, 0 for a tile not reserved, the queue register or the count of grants. A thread of a stitch of one takes ILLOP with the reason, and nothing is written, for an image refused by RESV, TSET, MPRE or MPOST, a tile in the wrong state, another place or size under TSET, a tile that a held request names under FREE, and with reason 0 for slot 0 and a selector that is none. Which reason an image with several faults gives is the model's choice (assumption logs 204, 205). (R310; R311; R314; R315; R324; R325; R326; R327; R335; R336) -/
def Obligations.TileRecordsAndConfiguration : Prop :=
  ∀ (s : State) (t : Thread) (p : Panel) (l : Launch) (y : Yoke), s.Seam t p l → s.Tiled t p l y →
    (∀ n a, wordOk (.resv n a) t p = true → let q := t.quad p a.toNat
      (TileRec.refuse q y.units n.toNat y.tiles = none → y.tile? n.toNat = none →
        exec (.resv n a) s = .next ((s.withSys (s.sys.setYoke { y with tiles := y.tiles.set n.toNat q })).onward)) ∧
      (∀ r, TileRec.refuse q y.units n.toNat y.tiles = some r → s.sys.stitch = [(t, p, l)] → t.CanTrap l →
        Takes (.resv n a) s t l tILLOP (BitVec.ofNat 32 r)) ∧
      (∀ old, TileRec.refuse q y.units n.toNat y.tiles = none → y.tile? n.toNat = some old → s.sys.stitch = [(t, p, l)] →
        t.CanTrap l → Takes (.resv n a) s t l tILLOP 4)) ∧
    (∀ n a, wordOk (.tset n a) t p = true → let q := t.quad p a.toNat
      (∀ old, TileRec.refuse q y.units n.toNat y.tiles = none → y.tile? n.toNat = some old → TileRec.base q = TileRec.base old →
        TileRec.size q = TileRec.size old →
        exec (.tset n a) s = .next ((s.withSys (s.sys.setYoke { y with tiles := y.tiles.set n.toNat q })).onward)) ∧
      (s.sys.stitch = [(t, p, l)] → t.CanTrap l →
        (∀ r, TileRec.refuse q y.units n.toNat y.tiles = some r → Takes (.tset n a) s t l tILLOP (BitVec.ofNat 32 r)) ∧
        (TileRec.refuse q y.units n.toNat y.tiles = none → y.tile? n.toNat = none → Takes (.tset n a) s t l tILLOP 4) ∧
        (∀ old, TileRec.refuse q y.units n.toNat y.tiles = none → y.tile? n.toNat = some old →
          TileRec.base q ≠ TileRec.base old ∨ TileRec.size q ≠ TileRec.size old → Takes (.tset n a) s t l tILLOP 3))) ∧
    (∀ n, wordOk (.free n) t p = true →
      (∀ old, y.tile? n.toNat = some old → (∀ c ∈ s.sys.cmds, c.held = false) → (∀ r ∈ s.sys.reqs, r.held = none) →
        exec (.free n) s = .next (s.withStitch fun t _ l => t.held (s.sys.nmapOf l) (.free n.toNat))) ∧
      (∀ old, y.tile? n.toNat = some old → (∃ r ∈ s.sys.reqs, r.held.isSome ∧ r.names y.key n.toNat) → s.sys.stitch = [(t, p, l)] →
        t.CanTrap l → Takes (.free n) s t l tILLOP 7) ∧
      (y.tile? n.toNat = none → s.sys.stitch = [(t, p, l)] → t.CanTrap l → Takes (.free n) s t l tILLOP 4)) ∧
    (∀ k a, wordOk (.mpre k a) t p = true → k ≠ 0 → preImageOk (t.quad p a.toNat) = true →
      exec (.mpre k a) s = .next ((s.withSys (s.sys.setYoke { y with pre := y.pre.set k.toNat (t.quad p a.toNat) })).onward)) ∧
    (s.sys.stitch = [(t, p, l)] → t.CanTrap l →
      (∀ a, Takes (.mpre 0 a) s t l tILLOP 0) ∧ (∀ a, Takes (.mpost 0 a) s t l tILLOP 0) ∧
      (∀ k a, wordOk (.mpre k a) t p = true → k ≠ 0 → preImageOk (t.quad p a.toNat) = false → Takes (.mpre k a) s t l tILLOP 6) ∧
      (∀ k a, wordOk (.mpost k a) t p = true → k ≠ 0 → postImageOk (t.quad p a.toNat) = false → Takes (.mpost k a) s t l tILLOP 6) ∧
      (∀ d x k, 5 < k.toNat ∨ (3 < k.toNat ∧ x ≠ 0) → Takes (.mqry d x k) s t l tILLOP 0)) ∧
    (∀ k a, wordOk (.mpost k a) t p = true → k ≠ 0 → postImageOk (t.quad p a.toNat) = true →
      exec (.mpost k a) s = .next ((s.withSys (s.sys.setYoke { y with post := y.post.set k.toNat (t.quad p a.toNat) })).onward)) ∧
    (∀ d x k, wordOk (.mqry d x k) t p = true → k.toNat ≤ 3 →
      exec (.mqry d x k) s = .next (s.withStitch fun u _ l => (u.putNat (if d = 248 then [] else u.group p d.toNat 1)
        (bits (((y.tile? x.toNat).map BitVec.toNat).getD 0) (32 * k.toNat) 32)).advance (s.sys.nmapOf l))) ∧
    (∀ d, wordOk (.mqry d 0 4) t p = true →
      exec (.mqry d 0 4) s = .next (s.withStitch fun u _ l => (u.putNat (if d = 248 then [] else u.group p d.toNat 1)
        (arbqOf s.sys p u)).advance (s.sys.nmapOf l))) ∧
    (∀ d, wordOk (.mqry d 0 5) t p = true →
      exec (.mqry d 0 5) s = .next (s.withStitch fun u _ l => (u.putNat (if d = 248 then [] else u.group p d.toNat 1)
        (y.granted % 2 ^ 32)).advance (s.sys.nmapOf l)))

/-- On a convergent seam of a yoke, with the tiles reserved and of the roles and formats the word needs, each of the seven words adds one request that names the yoke, panel, seam and core, the records as they are now, and the lanes' values (TST), rows (MMAG) or place (TLD); with no tack, or with a live scratchpad tack that has room, on which one arrival is registered first; and each thread of the stitch goes on with that request among its operations. TZERO of a tile that is not reserved makes the thread of a stitch of one take ILLOP with reason 4. (R291; R316; R317; R324; R325; R328; R329; R330; R331; R332; R333; R334) -/
def Obligations.MatrixRequestsIssue : Prop :=
  ∀ (s : State) (t : Thread) (p : Panel) (l : Launch) (y : Yoke), s.Seam t p l → s.Tiled t p l y →
    let rq (k : ReqKind) : Req := { Req.blank k with
      key := s.sys.serial, launch := l.key, yoke := y.key, panel := p.key, seam := p.seamOf t.tid, core := t.core }
    (∀ x q, wordOk (.tzero x) t p = true → y.tile? (tileAt t x.toNat 1) = some q →
      exec (.tzero x) s = .next (s.posted (.tzero x) l { rq .tzero with x := q, xn := tileAt t x.toNat 1 } fun _ => [])) ∧
    (∀ x, wordOk (.tzero x) t p = true → y.tile? (tileAt t x.toNat 1) = none → s.sys.stitch = [(t, p, l)] → t.CanTrap l →
      Takes (.tzero x) s t l tILLOP 4) ∧
    (∀ x r c n q, wordOk (.tld x r c n) t p = true → n.toNat ≤ 4 → y.tile? (tileAt t x.toNat 1) = some q →
      transferRegs p t.hints (2 ^ n.toNat) 1 = true → transferRegs p t.hints (2 ^ n.toNat) (TileRec.valueRegs q) = true →
      let row := tileAt t r.toNat 2
      exec (.tld x r c n) s = .next (s.posted (.tld x r c n) l { rq (.tld row (4 * tileAt t c.toNat 3) (2 ^ n.toNat)) with
        x := q, xn := tileAt t x.toNat 1, lanes := s.sys.stitch.map fun u => ⟨u.1.tid, p.laneOf u.1.tid, [], 0, none, 0⟩ }
        fun u => if row + p.laneOf u.tid < TileRec.rows q then transferGroup u p (2 ^ n.toNat) (TileRec.valueRegs q) else [])) ∧
    (∀ x r c n q, wordOk (.tst x r c n) t p = true → n.toNat ≤ 4 → y.tile? (tileAt t x.toNat 1) = some q →
      transferRegs p t.hints (2 ^ n.toNat) 1 = true → transferRegs p t.hints (2 ^ n.toNat) (TileRec.valueRegs q) = true →
      TileRec.blocked q = false → (t.hints.hmod.any (·.dith)) = false → rmodeOf t.hints ≠ 6 →
      exec (.tst x r c n) s = .next (s.posted (.tst x r c n) l
        { rq (.tst (tileAt t r.toNat 2) (4 * tileAt t c.toNat 3) (2 ^ n.toNat) (BitVec.ofNat 3 (rmodeOf t.hints)) false) with
          x := q, xn := tileAt t x.toNat 1
          lanes := s.sys.stitch.map fun u => ⟨u.1.tid, p.laneOf u.1.tid,
            (transferGroup u.1 p (2 ^ n.toNat) (TileRec.valueRegs q)).map u.1.getV, u.1.rnd, none, 0⟩ } fun _ => [])) ∧
    (∀ x z k qx qz, wordOk (.tcvt x z k) t p = true → t.TackFits p → x ≠ z → y.tile? x.toNat = some qx →
      y.tile? z.toNat = some qz → (t.hints.hmod.any (·.dith)) = false →
      exec (.tcvt x z k) s = .next ((s.tacked t p).posted (.tcvt x z k) l { rq (.tcvt (y.post.getD k.toNat 0) false) with
        x := qx, y := qz, xn := x.toNat, yn := z.toNat, tack := t.scrTack p } fun _ => [])) ∧
    (∀ a b c k zc, wordOk (.mma a b c k zc) t p = true → t.TackFits p →
      let pre := y.pre.getD k.toNat idSlot
      passReason y pre (tileAt t a.toNat 1) (tileAt t b.toNat 2) (tileAt t c.toNat 3) = none →
      exec (.mma a b c k zc) s = .next ((s.tacked t p).posted (.mma a b c k zc) l
        { (rq (.mma pre (zc == 1))).withTiles y (tileAt t a.toNat 1) (tileAt t b.toNat 2) (tileAt t c.toNat 3) with
          tack := t.scrTack p } fun _ => [])) ∧
    (∀ a b c tl e qa qb qc, wordOk (.rast a b c tl e) t p = true → t.TackFits p →
      y.tile? (tileAt t a.toNat 1) = some qa → y.tile? (tileAt t b.toNat 2) = some qb → y.tile? (tileAt t c.toNat 3) = some qc →
      TileRec.role qa = 0 → TileRec.role qb = 1 → TileRec.role qc = 2 → TileRec.format qa = 25 → TileRec.format qb = 25 →
      TileRec.format qc = 25 →
      exec (.rast a b c tl e) s = .next ((s.tacked t p).posted (.rast a b c tl e) l
        { (rq (.rast (tl == 1) (e == 1))).withTiles y (tileAt t a.toNat 1) (tileAt t b.toNat 2) (tileAt t c.toNat 3) with
          tack := t.scrTack p } fun _ => [])) ∧
    (∀ a b c k zc, wordOk (.mmag a b c k zc) t p = true → modeOf t.hints = 0 →
      let pre := y.pre.getD k.toNat idSlot
      let n := gatherBytes (y.tiles.getD (tileAt t a.toNat 1) 0)
      passReason y pre (tileAt t a.toNat 1) (tileAt t b.toNat 2) (tileAt t c.toNat 3) = none →
      (∀ u ∈ s.sys.stitch, (gatherOf u.1 p).1.testBit 63 = false → (gatherOf u.1 p).1 % 16 = 0 ∧ (gatherOf u.1 p).1 + n ≤ p.scratchLen) →
      exec (.mmag a b c k zc) s = .next (s.posted (.mmag a b c k zc) l
        { (rq (.mmag pre (zc == 1))).withTiles y (tileAt t a.toNat 1) (tileAt t b.toNat 2) (tileAt t c.toNat 3) with
          lanes := s.sys.stitch.map fun u => ⟨u.1.tid, p.laneOf u.1.tid, [], 0,
            if (gatherOf u.1 p).1.testBit 63 then none else some (Mem.getBytes p.scratch (gatherOf u.1 p).1 n),
            (gatherOf u.1 p).2⟩ } fun _ => []))

/-- A copy word whose descriptor passes R283, with no tack or with a live scratchpad tack that has room, on which one arrival and the bytes are registered (a held or an empty command: the arrival alone), adds one command to its channel and the thread goes on; a malformed descriptor takes ILLOP. BINC adds B to the count word at D + 4 A modulo 2^32. With no command held, BINP and HREL only go on. SHCFG gives an unused empty shuttle its ends, or takes an empty one out of use. (R277; R281; R283; R288; R291; R292; R297; R299; R300; R301; R302; R303) -/
def Obligations.CopiesAndCounts : Prop :=
  ∀ (s : State) (t : Thread) (p : Panel) (l : Launch), s.Alone t p l → l.travelling = false → p.handlerOf = none →
    (∀ i op ch a hd, i.copyShape = some (op, ch, a, hd) → t.Ready p i →
      let addr := (t.src64 p a 0).toNat
      let c := s.cmdAt t p l op ch hd addr
      let bytes := if hd || c.total == 0 then 0 else c.total
      addr % 64 = 0 → addr + 64 ≤ p.scratchLen → c.dense ≠ 3 →
      (c.wellFormed = true → (c.dense = 2 → ∃ y, s.sys.yokeOf p = some y ∧ TileRec.live (y.tiles.getD c.tile 0) = true) →
        (hd = false → c.total ≠ 0 → c.aligned = true ∧ c.rangeTrap l p.scratchLen (s.sys.tilesOf p) = none) →
        (c.tackValid = true → op ≠ 1 ∧ c.tackScr = true ∧ scratchTrap p.scratchLen c.tackAddr 8 = none ∧
          (Tx.start s).tackLive (.scr p.key c.tackAddr) = true ∧
          tackRoom ((Tx.start s).tackRead (.scr p.key c.tackAddr)) 1 bytes = true) →
        let tacks := if c.tackValid then [TackRef.scr p.key c.tackAddr] else []
        let u := ((Tx.start s).tackEvents tacks (.register 1 bytes)).st
        let yokes := if op = 1 then (s.sys.targets c).map (·.key) else []
        exec i s = .next ((u.withSys { u.sys with
          serial := u.sys.serial + 1
          cmds := u.sys.cmds ++ [{ c with tacks := tacks, registered := !(hd || c.total == 0), yokes := yokes }] }).going t l)) ∧
      (c.wellFormed = false → t.CanTrap l → Takes i s t l tILLOP 0)) ∧
    (∀ d a b, t.Ready p (.binc d a b) →
      let x := (t.src64 p d 0 + 4 * (t.src32 p a 0).setWidth 64).toNat
      x % 4 = 0 → x + 4 ≤ p.scratchLen → wordIx x ∉ p.stags →
      exec (.binc d a b) s = .next ((s.withSys (s.sys.setPanel { p with
        scratch := Mem.putBytes p.scratch x (leBytes 4 (Mem.getNat p.scratch x 4 + (t.src32 p b 0).toNat)) })).going t l)) ∧
    (∀ d m, t.Ready p (.binp d m) → (∀ c ∈ s.sys.cmds, c.heldBy p.key m = false) → (∀ r ∈ s.sys.reqs, r.heldBy p.key m = false) →
      exec (.binp d m) s = .next (s.going t l)) ∧
    (∀ d m c, t.Ready p (.binp d m) → s.sys.cmds = [c] → c.heldBy p.key m = true → c.patch = true → s.sys.reqs = [] →
      let x := (t.src64 p d 0).toNat + 4 * c.countIx
      x % 4 = 0 → x + 4 ≤ p.scratchLen →
      exec (.binp d m) s = .next ((s.withSys { s.sys with
        cmds := [c.setExtent (min (Mem.getNat p.scratch x 4) 65535)] }).going t l)) ∧
    (∀ m, t.Ready p (.hrel m) → (∀ c ∈ s.sys.cmds, c.heldBy p.key m = false) → (∀ r ∈ s.sys.reqs, r.heldBy p.key m = false) →
      exec (.hrel m) s = .next (s.going t l)) ∧
    (∀ m c, t.Ready p (.hrel m) → s.sys.cmds = [c] → c.heldBy p.key m = true → s.sys.reqs = [] → c.chan < 8 → c.total ≠ 0 →
      c.aligned = true → c.rangeTrap l p.scratchLen (s.sys.tilesOf p) = none → c.tacks = [] →
      exec (.hrel m) s = .next ((s.withSys { s.sys with cmds := [{ c with held := false, registered := true }] }).going t l)) ∧
    (∀ e n pr co y, t.Ready p (.shcfg e n pr co) → p.yoke = some y.key → s.sys.yokeOf p = some y → (e = 1 ∨ (pr = 0 ∧ co = 0)) →
      (y.shuttles.getD n.toNat ⟨none, []⟩).words = [] →
      (e = 1 → (y.shuttles.getD n.toNat ⟨none, []⟩).config = none ∧ pr.toNat < y.panelCount l ∧ co.toNat < y.panelCount l) →
      exec (.shcfg e n pr co) s = .next ((s.withSys (s.sys.setYoke (y.setShuttle n.toNat fun _ =>
        ⟨if e = 1 then some (pr.toNat, co.toNat) else none, []⟩))).going t l))

/-- For a tack at an aligned address within the panel's scratchpad, of a launch that does not travel, or at the home of a handle that passes its checks: TKINIT of a dead word stores B and makes the word live, and no L1 keeps a line of it; TKEXP registers arrivals and bytes where there is room; TKARR of a word with arrivals pending holds the thread until its release is complete; TKWAIT of a live word starts an operation that waits for the phase; TKKILL of a live word with nothing pending makes it dead and keeps its bits; each takes TKMISUSE, with the address or the offset, where that does not hold. A registration adds, a delivery and an arrival subtract from the pending counts, clamped at 0, and the phase flips exactly where that changed the word and left nothing pending. (R289; R290; R291; R299; R305; R306; R422) -/
def Obligations.TackWords : Prop :=
  (∀ (s : State) (t : Thread) (p : Panel) (l : Launch), s.Alone t p l → l.travelling = false → p.handlerOf = none →
    (∀ a b, t.Ready p (.tkinit 1 a b) → let v := (t.src64 p a 0).toNat
      v % 8 = 0 → v + 8 ≤ p.scratchLen →
      (v / 8 ∉ p.stags → exec (.tkinit 1 a b) s = .next ((s.withSys (s.sys.setPanel { p with
        stags := insertBy id (v / 8) (p.stags.filter (· != v / 8))
        scratch := Mem.putBytes p.scratch v (leBytes 8 (t.src64 p b 0).toNat) })).going t l)) ∧
      (v / 8 ∈ p.stags → t.CanTrap l → Takes (.tkinit 1 a b) s t l tTKMISUSE (BitVec.ofNat 32 v))) ∧
    (∀ a b, t.Ready p (.tkexp 1 a b) → let v := (t.src64 p a 0).toNat
      let w := (t.src64 p b 0).toNat
      v % 8 = 0 → v + 8 ≤ p.scratchLen → v / 8 ∈ p.stags → w < 2 ^ 63 →
      tackRoom (Mem.getNat p.scratch v 8) (w / 2 ^ 48) (w % 2 ^ 48) = true →
      exec (.tkexp 1 a b) s =
        .next (((Tx.start s).tackEvent (.scr p.key v) (.register (w / 2 ^ 48) (w % 2 ^ 48))).st.going t l)) ∧
    (∀ a b, t.Ready p (.tkexp 1 a b) → let v := (t.src64 p a 0).toNat
      let w := (t.src64 p b 0).toNat
      v % 8 = 0 → v + 8 ≤ p.scratchLen → t.CanTrap l →
      v / 8 ∉ p.stags ∨ 2 ^ 63 ≤ w ∨ tackRoom (Mem.getNat p.scratch v 8) (w / 2 ^ 48 % 2 ^ 15) (w % 2 ^ 48) = false →
      Takes (.tkexp 1 a b) s t l tTKMISUSE (BitVec.ofNat 32 v)) ∧
    (∀ a o, t.Ready p (.tkarr 1 a o) → let v := (t.src64 p a 0).toNat
      v % 8 = 0 → v + 8 ≤ p.scratchLen →
      (v / 8 ∈ p.stags → TackWord.arrivals (Mem.getNat p.scratch v 8) ≠ 0 →
        exec (.tkarr 1 a o) s = .next (s.holding t l (.tkarr (.scr p.key v) o))) ∧
      (v / 8 ∉ p.stags ∨ TackWord.arrivals (Mem.getNat p.scratch v 8) = 0 → t.CanTrap l →
        Takes (.tkarr 1 a o) s t l tTKMISUSE (BitVec.ofNat 32 v))) ∧
    (∀ d a ph, t.Ready p (.tkwait d a 1 ph) → let v := (t.src64 p a 0).toNat
      v % 8 = 0 → v + 8 ≤ p.scratchLen →
      (v / 8 ∈ p.stags → exec (.tkwait d a 1 ph) s = .next (s.begun t l (.tkwait d a 1 ph) (.tkwait (.scr p.key v) (ph == 1)) none
        (if d = 248 then [] else t.group p d.toNat 2))) ∧
      (v / 8 ∉ p.stags → t.CanTrap l → Takes (.tkwait d a 1 ph) s t l tTKMISUSE (BitVec.ofNat 32 v))) ∧
    (∀ a, t.Ready p (.tkkill 1 a) → let v := (t.src64 p a 0).toNat
      v % 8 = 0 → v + 8 ≤ p.scratchLen →
      (v / 8 ∈ p.stags → Mem.getNat p.scratch v 8 % 2 ^ 63 = 0 →
        exec (.tkkill 1 a) s = .next ((Tx.start ((s.withSys (s.sys.setPanel { p with stags := p.stags.filter (· != v / 8) })).going t l)).endWaits (.scr p.key v)).st) ∧
      (v / 8 ∉ p.stags ∨ Mem.getNat p.scratch v 8 % 2 ^ 63 ≠ 0 → t.CanTrap l →
        Takes (.tkkill 1 a) s t l tTKMISUSE (BitVec.ofNat 32 v)))) ∧
  (∀ (s : State) (t : Thread) (p : Panel) (l : Launch), s.Alone t p l →
    (∀ a b addr key mode num, t.Ready p (.tkinit 0 a b) → let v := (t.src64 p a 0).toNat
      s.TackHome t p l v rA addr key mode num →
      (s.sys.tagged (addr / 8) = false → Safe s → ∃ u, exec (.tkinit 0 a b) s = .next u ∧ u.sys.tagged (addr / 8) = true ∧
        u.homeNat addr 8 key = (t.src64 p b 0).toNat ∧ (∀ k, (u.sys.core k).l1Line (lineOf addr) = none) ∧
        u.sys.thread? t.panel t.tid = some (t.advance (s.sys.nmapOf l))) ∧
      (s.sys.tagged (addr / 8) = true → t.CanTrap l → Takes (.tkinit 0 a b) s t l tTKMISUSE (BitVec.ofNat 32 (handleOff v)))) ∧
    (∀ a b addr key mode num, t.Ready p (.tkexp 0 a b) → let v := (t.src64 p a 0).toNat
      let w := (t.src64 p b 0).toNat
      let ok := s.sys.tagged (addr / 8) && w < 2 ^ 63 && tackRoom (s.homeNat addr 8 key) (w / 2 ^ 48 % 2 ^ 15) (w % 2 ^ 48)
      s.TackHome t p l v rA addr key mode num →
      (ok = true → exec (.tkexp 0 a b) s = .next (((Tx.start s).tackEvent (.mem l.part p.key (l.decl (handleSlot v)) (handleOff v))
        (.register (w / 2 ^ 48) (w % 2 ^ 48))).st.going t l)) ∧
      (ok = false → t.CanTrap l → Takes (.tkexp 0 a b) s t l tTKMISUSE (BitVec.ofNat 32 (handleOff v)))) ∧
    (∀ a o addr key mode num, t.Ready p (.tkarr 0 a o) → let v := (t.src64 p a 0).toNat
      let ok := s.sys.tagged (addr / 8) && TackWord.arrivals (s.homeNat addr 8 key) != 0
      s.TackHome t p l v rA addr key mode num →
      (ok = true → exec (.tkarr 0 a o) s =
        .next (s.holding t l (.tkarr (.mem l.part p.key (l.decl (handleSlot v)) (handleOff v)) o))) ∧
      (ok = false → t.CanTrap l → Takes (.tkarr 0 a o) s t l tTKMISUSE (BitVec.ofNat 32 (handleOff v)))) ∧
    (∀ d a ph addr key mode num, t.Ready p (.tkwait d a 0 ph) → let v := (t.src64 p a 0).toNat
      s.TackHome t p l v rRd addr key mode num →
      (s.sys.tagged (addr / 8) = true → exec (.tkwait d a 0 ph) s = .next (s.begun t l (.tkwait d a 0 ph)
        (.tkwait (.mem l.part p.key (l.decl (handleSlot v)) (handleOff v)) (ph == 1)) none
        (if d = 248 then [] else t.group p d.toNat 2))) ∧
      (s.sys.tagged (addr / 8) = false → t.CanTrap l → Takes (.tkwait d a 0 ph) s t l tTKMISUSE (BitVec.ofNat 32 (handleOff v)))) ∧
    (∀ a addr key mode num, t.Ready p (.tkkill 0 a) → let v := (t.src64 p a 0).toNat
      let ok := s.sys.tagged (addr / 8) && s.homeNat addr 8 key % 2 ^ 63 == 0
      s.TackHome t p l v rA addr key mode num →
      (ok = true → ∃ u x, exec (.tkkill 0 a) s = .next u ∧ u.sys.tagged (addr / 8) = false ∧
        ((∀ k, (s.sys.core k).l1Line (lineOf addr) = none) → u.homeNat addr 8 key = s.homeNat addr 8 key) ∧
        u.sys.thread? t.panel t.tid = some x ∧ { x with ops := [] } = { t.advance (s.sys.nmapOf l) with ops := [] }) ∧
      (ok = false → t.CanTrap l → Takes (.tkkill 0 a) s t l tTKMISUSE (BitVec.ofNat 32 (handleOff v))))) ∧
  (∀ (w n b : Nat), w < 2 ^ 64 → n < 2 ^ 15 → b < 2 ^ 48 →
    let flip := fun x : Nat => (x + 2 ^ 63) % 2 ^ 64;
    (tackRoom w n b = true → (TackEvent.register n b).apply w = (w + n * 2 ^ 48 + b, false)) ∧
    (let w' := w - min b (w % 2 ^ 48);
      (TackEvent.deliver b).apply w = ((if w' ≠ w ∧ w' % 2 ^ 63 = 0 then flip w' else w'), decide (w % 2 ^ 48 < b))) ∧
    (let w' := if w / 2 ^ 48 % 2 ^ 15 = 0 then w else w - 2 ^ 48;
      TackEvent.arrive.apply w = ((if w' ≠ w ∧ w' % 2 ^ 63 = 0 then flip w' else w'), w / 2 ^ 48 % 2 ^ 15 == 0)))

/-- With a 64-byte home object whose checks pass: BBINIT with legal sizes and a data range that its declaration holds makes the object's eight words live, drops its line from every L1, writes the image with min slots active and every other word 0, and goes on; with slot bytes 0 it makes a live bobbin dead whose claims are all released. BBAWAIT of a live bobbin starts an operation that names its pair; BBREL of a live bobbin with a slot awaited writes the released pointer, the averages and the active slots of R296 and goes on. A dead bobbin makes BBAWAIT and BBREL take BBMISUSE, so does one without a slot to release BBREL, and bad sizes, a live object, or one that cannot be cleared BBINIT; a slot area out of bounds makes BBINIT take BUFBND, one without its rights BUFRIGHT. That the average behind the active slots takes the new interval is the model's choice (assumption log 202). (R289; R294; R296; R299; R307) -/
def Obligations.BobbinWords : Prop :=
  ∀ (s : State) (t : Thread) (p : Panel) (l : Launch) (a : BitVec 8) (acc : Access) (addr key mode num : Nat) (thr : Bool),
    s.Alone t p l → l.travelling = false → p.handlerOf = none →
    let v := (t.src64 p a 0).toNat
    checkAccess s (portOf p l t) (handleSlot v) (handleOff v) 64 64 (rRd + rW + rA) false = .ok acc →
    acc.target = .home addr key mode num thr →
    (∀ b, t.Ready p (.bbinit a b) → let x := (t.src64 p b 0).toNat
      let img := (wordsOf (Mem.getBytes p.scratch x 64)).take 4
      let d := l.decl (handleSlot (dnat img 0))
      x % 64 = 0 → x + 64 ≤ p.scratchLen → Bobbin.sizesOk img = true → s.sys.tagged (addr / 8) = false →
      handleOff (dnat img 0) + Bobbin.maxSlots img * Bobbin.slotBytes img ≤ Decl.len d → Decl.lacks d (rRd + rW) = false →
      ∃ u, exec (.bbinit a b) s = .next u ∧ (∀ w ∈ touched addr 64, u.sys.tagged w = true) ∧
        u.sys.thread? t.panel t.tid = some (t.advance (s.sys.nmapOf l)) ∧ (∀ k, (u.sys.core k).l1Line (lineOf addr) = none) ∧
        (Safe s → addr % 64 = 0 → u.objWords acc.loc 16 =
          img ++ [BitVec.ofNat 32 (Bobbin.minSlots img * 2 ^ 16), 0, 0, 0, 0, 0, 0, 0, 0, 0, 0, 0])) ∧
    (∀ b, t.Ready p (.bbinit a b) → t.CanTrap l → let x := (t.src64 p b 0).toNat
      let img := (wordsOf (Mem.getBytes p.scratch x 64)).take 4
      let h := dnat img 0
      let d := l.decl (handleSlot h)
      x % 64 = 0 → x + 64 ≤ p.scratchLen →
      (Bobbin.slotBytes img ≠ 0 → Bobbin.sizesOk img = false ∨ s.sys.tagged (addr / 8) = true →
        Takes (.bbinit a b) s t l tBBMISUSE (BitVec.ofNat 32 (handleOff v))) ∧
      (Bobbin.sizesOk img = true → s.sys.tagged (addr / 8) = false →
        (Decl.len d < handleOff h + Bobbin.maxSlots img * Bobbin.slotBytes img →
          Takes (.bbinit a b) s t l tBUFBND (BitVec.ofNat 32 (handleOff h))) ∧
        (handleOff h + Bobbin.maxSlots img * Bobbin.slotBytes img ≤ Decl.len d → Decl.lacks d (rRd + rW) = true →
          Takes (.bbinit a b) s t l tBUFRIGHT (BitVec.ofNat 32 (handleOff h)))) ∧
      (Bobbin.slotBytes img = 0 → let old := s.objWords acc.loc 16
        s.sys.tagged (addr / 8) = false ∨ Bobbin.claim old ≠ Bobbin.released old →
        Takes (.bbinit a b) s t l tBBMISUSE (BitVec.ofNat 32 (handleOff v)))) ∧
    (∀ b, t.Ready p (.bbinit a b) → let x := (t.src64 p b 0).toNat
      let img := (wordsOf (Mem.getBytes p.scratch x 64)).take 4
      let old := s.objWords acc.loc 16
      x % 64 = 0 → x + 64 ≤ p.scratchLen → Bobbin.slotBytes img = 0 → s.sys.tagged (addr / 8) = true →
      Bobbin.claim old = Bobbin.released old → ∃ u x, exec (.bbinit a b) s = .next u ∧
        (∀ w ∈ touched addr 64, u.sys.tagged w = false) ∧ u.sys.thread? t.panel t.tid = some x ∧
        { x with ops := [] } = { t.advance (s.sys.nmapOf l) with ops := [] }) ∧
    (∀ d, t.Ready p (.bbawait d a) →
      (s.sys.tagged (addr / 8) = true → exec (.bbawait d a) s =
        .next (s.begun t l (.bbawait d a) (.bbawait acc) (some acc) (t.group p d.toNat 2))) ∧
      (s.sys.tagged (addr / 8) = false → t.CanTrap l → Takes (.bbawait d a) s t l tBBMISUSE (BitVec.ofNat 32 (handleOff v)))) ∧
    (t.Ready p (.bbrel a) → let w := s.objWords acc.loc 16
      (s.sys.tagged (addr / 8) = true → Bobbin.released w ≠ Bobbin.read w → exec (.bbrel a) s =
        .next (((Tx.start s).objWrite acc.loc 0 (Bobbin.afterRelease w (s.sys.die (homeDie addr)).cyc)).st.going t l)) ∧
      (s.sys.tagged (addr / 8) = false ∨ Bobbin.released w = Bobbin.read w → t.CanTrap l →
        Takes (.bbrel a) s t l tBBMISUSE (BitVec.ofNat 32 (handleOff v))))

/-- In a launch that does not travel, after a release S: AQP with a well-formed descriptor without a tack, whose result range its declaration holds, at a peer or on pages that its checks pass, adds one query of every stack of the shelf; TRQ with a well-formed descriptor and a live bobbin of slots of 32 bytes or more adds one sweep. KVAP whose record's chunks translate starts one append of its key and value chunks; AQST of a stack that the partition owns starts a read of the log entry named by the low 12 bits of A. A slot of another kind, an offset other than 0, a head, a range or token and a stack that do not exist make them take STACKERR with 1, 4, 2, 3 and 5, AQP and TRQ after the release. (R415; R417; R418; R419; R420; R422) -/
def Obligations.StackUnitWords : Prop :=
  ∀ (s : State) (t : Thread) (p : Panel) (l : Launch), s.Alone t p l → l.travelling = false → p.handlerOf = none →
    (∀ d a k, t.Ready p (.aqst d a k) →
      ((s.sys.part? l.part).any (fun q => q.owns k.toNat) = true → exec (.aqst d a k) s =
        .next (s.begun t l (.aqst d a k) (.aqst k.toNat ((t.src32 p a 0).toNat % 4096)) none (t.group p d.toNat 4))) ∧
      ((s.sys.part? l.part).any (fun q => q.owns k.toNat) = false → t.CanTrap l → Takes (.aqst d a k) s t l tSTACKERR 5)) ∧
    (∀ d a b, t.Ready p (.kvap d a b) →
      let src := (t.src64 p b 0).toNat
      let h := (t.src64 p a 0).toNat
      let sh := l.decl (handleSlot h)
      let tok := (t.src64 p d 0).toNat % 2 ^ 32
      let head := (t.src64 p d 0).toNat / 2 ^ 32
      let chunks (kv : Nat) := recordChunks s (portOf p l t) sh (handleSlot h) (Decl.shelfOffset sh tok head kv)
        (Mem.getBytes p.scratch (src + kv * Decl.dataBytes sh) (Decl.dataBytes sh))
      src % 16 = 0 → kindTrap l h 1 true = none →
      (head < Decl.heads sh → tok < Decl.maxTokens sh → src + 2 * Decl.dataBytes sh ≤ p.scratchLen →
        ∀ k v, chunks 0 = some k → chunks 1 = some v →
        exec (.kvap d a b) s = .next (s.begun t l (.kvap d a b) (.kvap (k ++ v)) none [])) ∧
      (Decl.heads sh ≤ head → t.CanTrap l → Takes (.kvap d a b) s t l tSTACKERR 2) ∧
      (head < Decl.heads sh → Decl.maxTokens sh ≤ tok → t.CanTrap l → Takes (.kvap d a b) s t l tSTACKERR 3)) ∧
    (∀ d a b, t.Ready p (.kvap d a b) → t.CanTrap l →
      let h := (t.src64 p a 0).toNat
      let sh := l.decl (handleSlot h)
      (t.src64 p b 0).toNat % 16 = 0 → Decl.valid sh = true →
      (Decl.kind sh ≠ 1 → Takes (.kvap d a b) s t l tSTACKERR 1) ∧
      (Decl.kind sh = 1 → handleOff h ≠ 0 → Takes (.kvap d a b) s t l tSTACKERR 4)) ∧
    (∀ a, t.Ready p (.aqp a) → t.CanTrap l → s.sys.postsHeld (clusterOf t.core) < 64 →
      let addr := (t.src64 p a 0).toNat
      let u := ((Tx.start s).release t.core obsS).st
      let ws := wordsOf (Mem.getBytes p.scratch addr 64)
      let d := l.decl (handleSlot (dnat ws 0))
      let err (r : Word) : Prop := exec (.aqp a) s = .next (u.withThread (t.trapped u l tSTACKERR r t.self))
      addr % 64 = 0 → addr + 64 ≤ p.scratchLen → bits (wnat ws 6) 0 22 = 0 → (ws.drop 10).any (· != 0) = false →
      noTackOk ws = true → Decl.valid d = true → Decl.lacks d rRd = false →
      (Decl.kind d ≠ 1 → err 1) ∧
      (Decl.kind d = 1 → handleOff (dnat ws 0) ≠ 0 → err 4) ∧
      (Decl.kind d = 1 → handleOff (dnat ws 0) = 0 →
        (Decl.heads d ≤ bits (wnat ws 6) 22 8 → err 2) ∧
        (bits (wnat ws 6) 22 8 < Decl.heads d → wnat ws 9 < wnat ws 8 ∨ Decl.maxTokens d < wnat ws 9 → err 3))) ∧
    (∀ a, t.Ready p (.trq a) → t.CanTrap l → s.sys.postsHeld (clusterOf t.core) < 64 →
      let addr := (t.src64 p a 0).toNat
      let u := ((Tx.start s).release t.core obsS).st
      let ws := wordsOf (Mem.getBytes p.scratch addr 64)
      let d := l.decl (handleSlot (dnat ws 0))
      let err (r : Word) : Prop := exec (.trq a) s = .next (u.withThread (t.trapped u l tSTACKERR r t.self))
      addr % 64 = 0 → addr + 64 ≤ p.scratchLen → bits (wnat ws 6) 0 23 = 0 → (ws.drop 7).any (· != 0) = false →
      noTackOk ws = true → Decl.valid d = true →
      (Decl.kind d ≠ 2 → err 1) ∧ (Decl.kind d = 2 → handleOff (dnat ws 0) ≠ 0 → err 4)) ∧
    (∀ a, t.Ready p (.aqp a) → s.sys.postsHeld (clusterOf t.core) < 64 →
      let addr := (t.src64 p a 0).toNat
      let u := ((Tx.start s).release t.core obsS).st
      let ws := wordsOf (Mem.getBytes p.scratch addr 64)
      let d := l.decl (handleSlot (dnat ws 0))
      let rd := l.decl (handleSlot (dnat ws 2))
      let n := Decl.dim d
      addr % 64 = 0 → addr + 64 + 2 * n ≤ p.scratchLen → aqpTrap l ws = none → (wnat ws 6).testBit 31 = false →
      handleOff (dnat ws 2) % 64 = 0 → handleOff (dnat ws 2) + Decl.stackCount d * resultStride n ≤ Decl.len rd →
      Decl.lacks rd rW = false → Decl.peer rd ≠ 0 ∨ checkPages u (portOf p l t) rd (handleSlot (dnat ws 2)) rW
        (pageOffsets rd (handleOff (dnat ws 2)) (Decl.stackCount d * resultStride n)) = none →
      exec (.aqp a) s = .next ((u.withSys { u.sys with
        serial := u.sys.serial + 1
        queries := u.sys.queries ++ [⟨u.sys.serial, l.key, p.key, t.tid, l.part, clusterOf t.core, ws,
          queryVals (Mem.getBytes p.scratch (addr + 64) (2 * n)) n, d, rd, setBits 16 (Decl.mask d), [], [], none⟩] }).going t l)) ∧
    (∀ a acc, t.Ready p (.trq a) → s.sys.postsHeld (clusterOf t.core) < 64 →
      let addr := (t.src64 p a 0).toNat
      let u := ((Tx.start s).release t.core obsS).st
      let ws := wordsOf (Mem.getBytes p.scratch addr 64)
      let n := bits (wnat ws 6) 23 6 + 1
      addr % 64 = 0 → addr + 64 + 32 * n ≤ p.scratchLen → bits (wnat ws 6) 0 23 = 0 → (ws.drop 7).any (· != 0) = false →
      noTackOk ws = true → (wnat ws 6).testBit 31 = false → (wnat ws 6).testBit 29 = false → kindTrap l (dnat ws 0) 2 false = none →
      checkAccess u (portOf p l t) (handleSlot (dnat ws 2)) (handleOff (dnat ws 2)) 64 64 (rRd + rW + rA) false = .ok acc →
      (Tx.start u).tackLive acc.loc = true → 32 ≤ Bobbin.slotBytes (u.objWords acc.loc 16) →
      exec (.trq a) s = .next ((u.withSys { u.sys with
        serial := u.sys.serial + 1
        sweeps := u.sys.sweeps ++ [⟨u.sys.serial, l.key, p.key, t.tid, l.part, clusterOf t.core, ws, sweepItems p.scratch (addr + 64) n,
          l.decl (handleSlot (dnat ws 0)), l.decl (handleSlot (dnat ws 2)), false, [], List.range n, [], none,
          false, false, none⟩] }).going t l))

/-- FENCE acq acquires at once and goes on, the other orders hold the thread until their release is done; an order sc without C takes ILLOP. BIND puts the regions and the object into the lowest free binding and returns its number, or all ones; UNBIND empties the entry named. ACQ, REL and WAIT hold the thread on the object at the address that passed the checks; ACQR and RELW start one operation there, RELW with the word and the mask of HOPD, C without. A live tack makes REL take TACKST. LAUNCH of a record that its checks pass releases Y, X, S and P, puts the record into the device stream and holds the thread, or takes BUFRIGHT where no declaration with X holds its code address. (R298; R304; R361; R363; R364; R365; R366; R367; R368; R369; R452) -/
def Obligations.FencesAndObjects : Prop :=
  ∀ (s : State) (t : Thread) (p : Panel) (l : Launch), s.Alone t p l →
    let at_ (h : Nat) (n r : Nat) : Check := checkAccess s (portOf p l t) (handleSlot h) (handleOff h) n n r false
    (∀ o, t.Ready p (.fence 0 o) → exec (.fence 0 o) s = .next (((Tx.start s).acquire t.core o).st.going t l)) ∧
    (∀ r o, t.Ready p (.fence r o) → r ≠ 0 → (r = 3 → o.getLsbD 5 = true) →
      exec (.fence r o) s = .next (s.holding t l (.fence r o))) ∧
    (∀ o, o.getLsbD 5 = false → t.CanTrap l → Takes (.fence 3 o) s t l tILLOP 0) ∧
    (∀ d a b acc q, t.Ready p (.bind d a b) → s.sys.part? l.part = some q →
      let rh := (t.src64 p a 0).toNat
      let n := t.getNat (t.group p (a.toNat + 2) 2)
      let oh := (t.src64 p b 0).toNat
      regionTrap (l.decl (handleSlot rh)) (handleOff rh) n = none → at_ oh 8 (rRd + rA) = .ok acc →
      (∀ e, q.freeBinding = some e → exec (.bind d a b) s = .next ((s.withSys (s.sys.setPart { q with
        bindings := ⟨e, l.key, l.decl (handleSlot rh), handleOff rh, n, l.decl (handleSlot oh), handleOff oh⟩ :: q.bindings })).going
        (t.put32 p d (BitVec.ofNat 32 e)) l)) ∧
      (q.freeBinding = none → exec (.bind d a b) s = .next (s.going (t.put32 p d 0xFFFFFFFF) l))) ∧
    (∀ a q, t.Ready p (.unbind a) → s.sys.part? l.part = some q → exec (.unbind a) s = .next ((s.withSys (s.sys.setPart { q with
      bindings := q.bindings.filter fun b => b.num != (t.src32 p a 0).toNat })).going t l)) ∧
    (∀ d a b acc, t.Ready p (.acq d a b) → at_ (t.src64 p a 0).toNat 8 rRd = .ok acc → exec (.acq d a b) s =
      .next (s.holding t l (.acq acc (if d = 248 then [] else t.group p d.toNat 2) (t.src64 p b 0)))) ∧
    (∀ a o acc, t.Ready p (.rel a o) → let h := (t.src64 p a 0).toNat
      at_ h 8 (rRd + rA) = .ok acc →
      ((Tx.start s).tackLive acc.loc = false → exec (.rel a o) s = .next (s.used.holding t l
        (.rel acc o (s.boundTo l.part p.key (l.decl (handleSlot h)) (handleOff h)) s.sys.serial))) ∧
      ((Tx.start s).tackLive acc.loc = true → t.CanTrap l →
        Takes (.rel a o) s t l tTACKST (BitVec.ofNat 32 (handleOff h)))) ∧
    (∀ d h o acc, t.Ready p (.acqr d h o) → let hd := (t.src64 p h 0).toNat
      checkAccess s (portOf p l t) (handleSlot hd) (handleOff hd + t.units o * 4) 4 4 rRd false = .ok acc →
      exec (.acqr d h o) s = .next (s.begun t l (.acqr d h o) .acqr (some acc) (if d = 248 then [] else t.group p d.toNat 1))) ∧
    (∀ d h o acc, t.Ready p (.relw d h o) → let hd := (t.src64 p h 0).toNat
      checkAccess s (portOf p l t) (handleSlot hd) (handleOff hd + t.units o * 4) 4 4 rW false = .ok acc →
      exec (.relw d h o) s = .next (s.begun t l (.relw d h o) (.relw (t.src32 p d 0)
        (if t.hints.hopd.isSome then BitVec.ofNat 6 (modeOf t.hints) else 0b100000)) (some acc) [])) ∧
    (∀ d a b acc, t.Ready p (.wait d a b) → at_ (t.src64 p a 0).toNat 4 rRd = .ok acc → exec (.wait d a b) s =
      .next (s.holding t l (.wait acc (if d = 248 then [] else t.group p d.toNat 1) (t.src32 p b 0)
        ((s.sys.die (dieOf t.core)).cyc + 65536) none))) ∧
    (∀ a x y z, t.Ready p (.launch a) → let h := (t.src64 p a 0).toNat
      checkAccess s (portOf p l t) (handleSlot h) (handleOff h) 128 64 (rRd + rX) false = .ok z →
      checkAccess s (portOf p l t) (handleSlot h) (handleOff h) 64 64 rRd false = .ok x →
      checkAccess s (portOf p l t) (handleSlot h) (handleOff h + 64) 64 64 rRd false = .ok y →
      let u := ((Tx.start s).release t.core 0b111100#6).st
      let ws := wordsOf (u.accessBytes x 64 ++ u.accessBytes y 64)
      let v := (((Tx.start u).rekeyAccess x).rekeyAccess y).st
      x.target.spoiled v.sys = false → y.target.spoiled v.sys = false →
      (l.coversCode (dnat ws 2) = true →
        exec (.launch a) s = .next (v.withSys { v.sys.setThread (t.held (v.sys.nmapOf l) (.launch v.sys.serial)) with
          serial := v.sys.serial + 1
          stream := v.sys.stream ++ [⟨v.sys.serial, l.part, l.cls, ws, false⟩] })) ∧
      (l.coversCode (dnat ws 2) = false → t.CanTrap l →
        exec (.launch a) s = .next (v.withThread (t.trapped v l tBUFRIGHT (BitVec.ofNat 32 (handleOff h)) t.self))))

/-- TRAVEL to an entry point of the marker, with room in the spool, leaves the thread departing for the index in A with its priority; an index outside the text, or a launch that does not travel, makes it take ILLOP, an index that is no entry MARKMISS and a full overflow area SPOOLOVF: in the supervisor launch its own trap entry, with a notice, elsewhere the supervisor, for which the thread is suspended at the word. PSEND of a launch that does not travel, to a placed panel whose core has a spool entry free, releases C and adds one message with the handler, the payload registers and its destination; to a retired panel it marks the launch as having lost a message, and while no entry is free it waits with nothing changed; a check that fails makes it take its trap. PQRY of a selector below 5 starts one operation, of another takes ILLOP. (R372; R373; R386; R387; R388; R390; R391; R392) -/
def Obligations.TravelWords : Prop :=
  ∀ (s : State) (t : Thread) (p : Panel) (l : Launch), s.Alone t p l →
    (∀ pr a m, wordOk (.travel pr a) t p = true → t.LastWord → l.travelling = true → p.handlerOf = none →
      a.toNat < 240 ∨ a = 248 → (s.sys.objectOf l).bind (·.marker) = some m →
      let k := (t.src32 p a 0).toNat
      k < (s.sys.textOf l).length → ((m.entryAt k).isSome = true ∨ t.fresh = true) →
      320 * (p.pid * l.threads + t.tid) + 320 ≤ ((l.kind3.map l.decl).map Decl.len).getD 0 →
      exec (.travel pr a) s = .next (s.withThread { t with
        phase := .departing k pr [] t.rotbase s.sys.nonce false, pc := t.self, hints := Hints.empty })) ∧
    (∀ pr a, wordOk (.travel pr a) t p = true → t.LastWord → l.travelling = true → p.handlerOf = none → a.toNat < 240 ∨ a = 248 →
      let k := (t.src32 p a 0).toNat
      ((s.sys.textOf l).length ≤ k → t.CanTrap l → Takes (.travel pr a) s t l tILLOP 0) ∧
      (∀ m code, (s.sys.objectOf l).bind (·.marker) = some m → k < (s.sys.textOf l).length → t.fresh = false →
        ((m.entryAt k).isNone = true ∧ code = tMARKMISS ∨ (m.entryAt k).isSome = true ∧ code = tSPOOLOVF ∧
          ((l.kind3.map l.decl).map Decl.len).getD 0 < 320 * (p.pid * l.threads + t.tid) + 320) →
        (∀ q, l.supervisor = false → s.sys.part? l.part = some q →
          exec (.travel pr a) s = .next (s.withSys (s.sys.suspended q t p l code (BitVec.ofNat 32 k) t.self))) ∧
        (l.supervisor = true → t.CanTrap l → exec (.travel pr a) s = .next ((s.withSys { s.sys with
          notices := s.sys.notices ++ [Notice.supervisorFault l.part code] }).withThread
          (t.trapped s l code (BitVec.ofNat 32 k) t.self))))) ∧
    (∀ pr a, l.travelling = false → t.CanTrap l → Takes (.travel pr a) s t l tILLOP 0) ∧
    (∀ h a b ix prio rg, t.Ready p (.psend h a b) → l.travelling = false → psendTrap s.sys t p l h a b = none →
      s.sys.handler l h.toNat = some (ix, prio, rg) →
      let pr := (t.src64 p b 0).toNat
      let n := pr / 2 ^ 32
      let u := ((Tx.start s).release t.core 0b100000#6).st
      (∀ q, s.sys.panelByPid l (pr % 2 ^ 32) = some q → s.sys.panel? q.key = some q → q.phase ≠ .out →
        s.sys.spoolUse q.core < 256 → s.sys.messageHeld (p.key, t.tid) (some q.key) s.sys.serial = false →
        let piece := (((s.sys.objectOf l).bind (·.marker)).bind fun m => m.pieceAt ix).getD 0
        exec (.psend h a b) s = .next ((u.withSys { u.sys with
          serial := u.sys.serial + 1
          parcels := u.sys.parcels ++ [⟨u.sys.serial, l.key,
            [BitVec.ofNat 32 ix, BitVec.ofNat 32 (2 * 2 ^ 24 + prio.toNat * 2 ^ 16 + n), l.id, BitVec.ofNat 32 q.pid, 0,
              BitVec.ofNat 32 (piece * 2 ^ 24 + h.toNat * 2 ^ 16), BitVec.ofNat 32 (s.sys.logical l.part t.core), 0],
            if n = 0 then [] else (t.group p a.toNat n).map t.getV, .net q.core, some q.key, u.sys.nonce, (p.key, t.tid)⟩] }).going t l)) ∧
      (s.sys.panelByPid l (pr % 2 ^ 32) = none → pr % 2 ^ 32 / l.perYoke < l.nextYoke →
        exec (.psend h a b) s = .next ((u.withSys (u.sys.mapLaunches fun x =>
          if x.key = l.key then { x with lostMsg := true } else x)).going t l)) ∧
      (∀ q, s.sys.panelByPid l (pr % 2 ^ 32) = some q → q.phase ≠ .out → s.sys.spoolUse q.core ≥ 256 →
        exec (.psend h a b) s = .next s)) ∧
    (∀ h a b c v, t.Ready p (.psend h a b) → psendTrap s.sys t p l h a b = some (c, v) → c ≠ tMARKMISS → t.CanTrap l →
      Takes (.psend h a b) s t l c v) ∧
    (∀ d k, t.Ready p (.pqry d k) → k.toNat < 5 → exec (.pqry d k) s =
      .next (s.begun t l (.pqry d k) (.pqry k.toNat) none (if d = 248 then [] else t.group p d.toNat 1))) ∧
    (∀ d k, 5 ≤ k.toNat → t.CanTrap l → Takes (.pqry d k) s t l tILLOP 0)

/-- A flit retry adds one to the link's count up to its maximum; a link that goes down keeps the cycle and clears its mark, and one that trains is up with its peer and one more retrain; a link down for 2,400,000 cycles is marked, and a partition whose launches use it gets one LINKFLT record, at the timeout or at the training that comes first, and no more while the mark stands. The bridge does the same for a partition on both dies. The record's launch ID 0, its ticket that names nothing and the count by die 0's clock are the model's (assumption log 149). Throttling sets and clears its mark; shutdown stops the partition, unbinds its queues, drops its stream records, reports and leaves the package shut (assumption log 187). Nothing else changes. A host access whose walks meet no missing memory, and a peer's request, end with their answer; an error of any kind, with silent launches that have no commands and requests, ends; power-on reset leaves no launch. (R243; R344; R345; R422; R455; R464; R470; R472; R473) -/
def Obligations.LinkBridgeAndHeatEvents : Prop :=
  ∀ (s : State) (k peer : Nat),
    let x := s.sys.links.getD k Link.reset
    let now := (s.sys.die 0).cyc
    let b := s.sys.bridge
    exec (.flitCrcRetry k) s = .next (s.withLink k { x with retries := min (2 ^ 32 - 1) (x.retries + 1) }) ∧
    (x.up = true → exec (.zidorLinkDown k) s = .next (s.withLink k { x with up := false, since := now, raised := false })) ∧
    (let up : Link := { x with up := true, peer := peer, retrains := min (2 ^ 23 - 1) (x.retrains + 1), raised := false }
      let overdue := k < 18 ∧ x.up = false ∧ x.raised = false ∧ x.since + 2400000 ≤ now
      (¬overdue → exec (.zidorLinkTrained k peer) s = .next (s.withLink k up)) ∧
      (overdue → ∀ q, s.sys.parts = [q] → s.sys.usesLink k q = true →
        exec (.zidorLinkTrained k peer) s = .next ((s.withLink k up).faultPosted q (RecordInfo.of tLINKFLT 2 0) (.launch 0) 0))) ∧
    (x.raised = true → exec (.zidorLinkDownTimeout k) s = .next s) ∧
    (b.raised = true → exec .bridgeRetrainTimeout s = .next s) ∧
    (k < 18 → x.up = false → x.raised = false → x.since + 2400000 ≤ now →
      ((∀ q ∈ s.sys.parts, s.sys.usesLink k q = false) →
        exec (.zidorLinkDownTimeout k) s = .next (s.withLink k { x with raised := true })) ∧
      (∀ q, s.sys.parts = [q] → s.sys.usesLink k q = true → exec (.zidorLinkDownTimeout k) s =
        .next ((s.withLink k { x with raised := true }).faultPosted q (RecordInfo.of tLINKFLT 2 0) (.launch 0) 0))) ∧
    (b.training = false → exec .bridgeRetrainStart s = .next (s.withSys { s.sys with bridge := ⟨true, now, false⟩ })) ∧
    (bridgeOverdue s.sys = false → exec .bridgeRetrainEnd s = .next (s.withSys { s.sys with bridge := { b with training := false } })) ∧
    (bridgeOverdue s.sys = true → ∀ q, s.sys.parts = [q] → exec .bridgeRetrainEnd s =
      .next (let u := s.withSys { s.sys with bridge := { b with raised := true } }
        let v := if q.reaches 0 ∧ q.reaches 1 then u.faultPosted q (RecordInfo.of tLINKFLT 2 0) (.launch 0) 0 else u
        v.withSys { v.sys with bridge := { v.sys.bridge with training := false } })) ∧
    (b.training = true → b.raised = false → b.since + 2400000 < now →
      ∀ q, s.sys.parts = [q] → exec .bridgeRetrainTimeout s =
        .next (let u := s.withSys { s.sys with bridge := { b with raised := true } }
          if q.reaches 0 ∧ q.reaches 1 then u.faultPosted q (RecordInfo.of tLINKFLT 2 0) (.launch 0) 0 else u)) ∧
    exec .thermalThrottle s = .next (s.withSys { s.sys with hot := true }) ∧
    exec .thermalThrottleEnd s = .next (s.withSys { s.sys with hot := false }) ∧
    (∀ q, s.sys.parts = [q] → s.sys.launches = [] → exec .thermalShutdown s = .next (s.withSys { s.sys with
      parts := [{ q with tearing := true }], queues := s.sys.queues.filter fun c => !(c.part == q.num)
      stream := s.sys.stream.filter fun r => r.part != q.num, shut := true, notices := s.sys.notices ++ [.overheated] })) ∧
    (∀ (n va : Nat) (a : HostAccess) (q : Partition), s.sys.part? n = some q →
      (match a with
        | .read m => ((Tx.start s).windowSpans n rRd (linePieces va m)).2.halt = none
        | .write bs => ((Tx.start s).windowSpans n rW (linePieces va bs.length)).2.halt = none) →
      ∃ u x, exec (.hostMemAccess n va a) s = .next u ∧ u.sys.notices.getLast? = some x ∧
        (∀ m, a = .read m → ∃ bs, x = .hostRead n va bs) ∧ (∀ bs, a = .write bs → ∃ ok, x = .hostWritten n va ok)) ∧
    (∀ r : PeerRequest, ((Tx.start s).engineAddr r.part 0 288 r.decl r.offset (peerNeeds r.op).2).2.halt = none →
      ∃ u d, exec (.peerRequest r) s = .next u ∧ u.sys.notices.getLast? = some (.peerAnswer r.device d)) ∧
    (∀ e : EccError, (∀ l ∈ s.sys.launches, l.Silent ∧ l.ending = none) → s.sys.cmds = [] → s.sys.reqs = [] →
      ∃ u, exec (.eccError e) s = .next u) ∧
    (∀ b, ∃ u, exec (.powerOnReset b) s = .next u ∧ u.sys.booted = b.firmwareGood ∧ u.sys.launches = [])

/-- On a function whose mailbox is there: QSET binds a free queue or unbinds one; CANCEL ends the launch of that ID, of which no command and no granted request is left, without touching another, and one that has still to reach its pre-emption points it stops; EVICT removes the object if no launch uses it and marks it if one does; VLOG answers step and launch ID of an entry; ATTEST answers 2,588 bytes that begin with the mark, the partition and the nonce; RESYNC writes the 720-byte summary to host memory, and to function 0 answers with the count of corrected errors; DOMAIN of function 0 replaces the registration. A DOMAIN, CREATE, DESTROY or SUPER of another function only answers with status 1. A queue's pointers of 0 after QSET, the statuses, the replaced registration and the count in the answer are the model's readings (assumption logs 60, 153, 197). (R70; R69; R361; R459; R462; R463; R465) -/
def Obligations.MailboxCommands : Prop :=
  ∀ (s : State) (fn part n : Nat), s.sys.Commands fn part n →
    (∀ k base j, (s.sys.part? n).isSome = true → k < 4096 → 4 ≤ j → j ≤ 16 → base % 64 = 0 → (∀ q ∈ s.sys.queues, q.num ≠ k) →
      exec (.qset fn k part base j) s = .next ((s.withSys { s.sys with
        queues := s.sys.queues ++ [⟨k, n, base, j, 0, 0⟩] }).answered fn 0 [])) ∧
    (∀ (k base : Nat) (q : Queue), s.sys.queues.find? (fun c => c.num == k) = some q → q.part = n →
      ∃ u, exec (.qset fn k part base 0) s = .next u ∧ u.sys.queues = s.sys.queues.filter (fun c => !(c.num == k))
        ∧ u.sys.replies = s.sys.replies ++ [⟨fn, 0, []⟩] ∧ ∀ l ∈ u.sys.launches, ∀ c, l.source ≠ some (k, c)) ∧
    (∀ id, (s.sys.part? n).isSome = true → (∀ l ∈ s.sys.launches, l.part = n → l.id.toNat ≠ id) →
      exec (.cancel fn part id) s = .next (s.answered fn 0 [])) ∧
    (∀ (id : Nat) (l : Launch), (s.sys.part? n).isSome = true → (s.sys.launches.filter fun l => l.part == n && l.id.toNat == id) = [l] →
      s.sys.launch? l.key = some l → l.ending = none →
      (l.Silent → (∀ c ∈ s.sys.cmds, c.launch ≠ l.key) → (∀ r ∈ s.sys.reqs, r.launch = l.key → r.granted = false) →
        ∃ u, exec (.cancel fn part id) s = .next u ∧ u.sys.Gone l.key ∧ u.sys.replies = s.sys.replies ++ [⟨fn, 0, []⟩]) ∧
      (l.phase = .live → s.sys.unfinished l.key = true → ∃ u v, exec (.cancel fn part id) s = .next u ∧
        u.sys.launch? l.key = some v ∧ v.ending = some 0x12 ∧
        ∀ x ∈ s.sys.panels, x.launch = l.key → ∀ t ∈ u.sys.threads, t.panel ≠ x.key)) ∧
    (∀ code, (s.sys.part? n).isSome = true → exec (.evict fn part code) s = .next ((s.withSys (Sys.dropLines { s.sys with
      objects := (s.sys.objects.map fun o => if o.part = n ∧ o.code = code then { o with evict := true } else o).filter
        fun o => !o.evict || s.sys.objectUsed o })).answered fn 0 [])) ∧
    (∀ (k : Nat) (q : Partition) (e : Nat × Word), s.sys.part? n = some q → q.vlog[k]? = some e →
      exec (.vlog fn part k) s = .next (s.answered fn 0 [BitVec.ofNat 32 e.1, e.2])) ∧
    (∀ nonce, (s.sys.part? n).isSome = true → nonce.length = 8 → ∃ data, exec (.attest fn part nonce) s =
      .next (s.answered fn 0 data) ∧ data.length = 647 ∧ data.getD 0 0 = 0x41545331 ∧
      data.getD 1 0 = BitVec.ofNat 32 (2 ^ 16 + n) ∧ (data.drop 4).take 8 = nonce) ∧
    (∀ buffer, exec (.resync fn buffer) s = .next (State.answered ⟨s.mem, Mem.putBytes s.hostMem buffer (bytesOfWords (s.summary fn)),
      s.sys⟩ fn 0 (if fn = 0 then [BitVec.ofNat 32 s.sys.corrected] else [])) ∧ (s.summary fn).length = 180 ∧ (s.summary fn).getD 1 0 = 720) ∧
    (fn = 0 → ∀ d peers, d ≠ 0 → d ≤ 255 → exec (.domain fn d peers) s = .next ((s.withSys { s.sys with
      domains := ⟨d, peers⟩ :: s.sys.domains.filter fun x => x.num != d }).answered fn 0 [])) ∧
    (fn ≠ 0 → ∀ d peers a r,
      exec (.domain fn d peers) s = .next (s.answered fn 1 []) ∧ exec (.create fn a) s = .next (s.answered fn 1 []) ∧
      exec (.destroy fn part) s = .next (s.answered fn 1 []) ∧ exec (.super fn part r) s = .next (s.answered fn 1 []))

/-- With legal arguments, no bootstrap entry and a supervisor record whose fault ring can be read: CREATE inserts the partition with that ring and its keys, offers the record, which waits in the device stream where the held table or the partition's quota has no entry left (assumption log 172), and answers 0, or, where the read of host memory fails (a free value, log 4), clears the partition again and answers 1. SUPER of a partition without supervisor and without a record of one under way does the same with a ring of 128 bytes or more, and answers 1 to any other. DESTROY of a partition without launches removes it and its objects; every byte of its stacks then reads 0, and no word there is live. (R460; R461; R430; R476) -/
def Obligations.PartitionsComeAndGo : Prop :=
  ∀ (s : State), s.sys.booted = true →
    (∀ (a : CreateArgs) (ring : List Word), a.bootCount = 0 →
      let t0 := (Tx.start s).hostWrites a.writes
      let q := partitionOf a
      let t1 := t0.mod fun y => { y.writeKeys q true with parts := insertBy Partition.num q y.parts }
      let ws := wordsOf (Mem.getBytes t1.st.hostMem a.superRecord 128)
      let t2 := t1.ringOf q ws
      let t3 := t2.2.mod (updPart q.num fun q => { q with ring := ring })
      let t4 := t3.arrive { q with ring := ring } ws 7 false true none
      s.sys.createOk a = true → t2.1 = some ring →
      (Config.hostReadFails s.sys.nonce a.superRecord = true →
        exec (.create 0 a) s = .next ((t1.clearPartition q).st.answered 0 1 [])) ∧
      (Config.hostReadFails s.sys.nonce a.superRecord = false →
        (t3.sys.heldCount < 4096 → t3.sys.heldOf a.part < a.heldQuota → t4.halt = none →
          exec (.create 0 a) s = .next (t4.st.answered 0 0 [])) ∧
        (4096 ≤ t3.sys.heldCount ∨ a.heldQuota ≤ t3.sys.heldOf a.part → t3.halt = none →
          exec (.create 0 a) s = .next ((t3.st.waitingRecord a.part ws).answered 0 0 [])))) ∧
    (∀ (n a : Nat) (q : Partition) (ring : List Word), s.sys.part? n = some q → q.unsupervised = true →
      let ws := wordsOf (Mem.getBytes s.hostMem a 128)
      let t2 := (Tx.start s).ringOf q ws
      let t3 := t2.2.arrive q ws 7 false true none
      t2.1 = some ring → 128 ≤ Decl.len ring → s.sys.superComing n = false →
      (Config.hostReadFails s.sys.nonce a = true → exec (.super 0 n a) s = .next (s.answered 0 1 [])) ∧
      (Config.hostReadFails s.sys.nonce a = false →
        (t2.2.sys.heldCount < 4096 → t2.2.sys.heldOf n < q.heldQuota → q.tearing = false → t3.halt = none →
          exec (.super 0 n a) s = .next (t3.st.answered 0 0 [])) ∧
        (4096 ≤ t2.2.sys.heldCount ∨ q.heldQuota ≤ t2.2.sys.heldOf n → t2.2.halt = none →
          exec (.super 0 n a) s = .next ((t2.2.st.waitingRecord n ws).answered 0 0 [])))) ∧
    (∀ (n a : Nat) (q : Partition), s.sys.part? n = some q → q.unsupervised = false ∨ s.sys.superComing n = true →
      exec (.super 0 n a) s = .next (s.answered 0 1 [])) ∧
    (∀ (n : Nat) (q : Partition), s.sys.part? n = some q → (∀ l ∈ s.sys.launches, l.part ≠ n) →
      ∃ u, exec (.destroy 0 n) s = .next u ∧ u.sys.part? n = none ∧ (∀ o ∈ u.sys.objects, o.part ≠ n) ∧
        u.sys.replies = s.sys.replies ++ [⟨0, 0, []⟩] ∧
        ∀ k, k < 16 → q.owns k = true → (∀ x, x < 2 ^ 36 → Mem.get u.mem (k * 2 ^ 36 + x) = 0) ∧ ∀ w ∈ u.sys.tags, stackOf (w * 8) ≠ k)

/-- A doorbell within the queue's length moves its tail and a longer one does not; the host's writes stand either way. A record taken from the device stream or from a host queue, with the first checks passed, without buffers and tiles, and with its object not yet verified, becomes a launch that is being checked; where the read of host memory fails (free, log 4) the entry is dropped with a notice. A signature check either turns the launch away with an entry in the log, or puts its object into the table and lets it go on. An extent walk keeps the pages of the pinned declarations, or rejects the launch. GORLUX_TRANSLATION of an object that Gorlux is at writes the text to a free place of the code store on each die and replaces the native text; that the text comes from the agenda and an empty one gives the object up is the model's reading (assumption log 132). (R39; R41; R62; R63; R68; R69; R71; R76; R457) -/
def Obligations.LaunchesArriveAndAreChecked : Prop :=
  ∀ (s : State),
    (∀ k tail writes q, s.sys.queues.find? (fun c => c.num == k) = some q →
      let m := writes.foldl (fun m (c : Host.Cell) => Mem.putBytes m c.1 [c.2]) s.hostMem
      exec (.hostQueueDoorbell k tail writes) s = .next ⟨s.mem, m, if (tail - s.sys.publishedHead q).toNat ≤ 2 ^ q.j
        then { s.sys with queues := putKey Queue.num { q with tail := tail } s.sys.queues } else s.sys⟩) ∧
    (∀ n r q, s.sys.nextOffer = some (n, .stream r) → s.sys.part? r.part = some q →
      let l := Launch.ofRecord s.sys.serial q.num r.cap r.words r.supervisor none
      l.earlyReason s.sys q false = none → l.bufferCount = 0 → l.tileCount = 0 → l.units ≤ 256 → l.travelling = false → s.sys.verified l = none →
      ∃ u, exec .launchArrival s = .next u ∧ u.sys.stream = dropKey StreamRec.key r.key s.sys.stream
        ∧ u.sys.launches = s.sys.launches ++ [l] ∧ u.sys.rr = n + 1) ∧
    (∀ n k q, s.sys.nextOffer = some (n, .queue k) → s.sys.part? k.part = some q →
      let e := wordsOf (Mem.getBytes s.hostMem (k.base + 32 * (k.head.toNat % 2 ^ k.j)) 32)
      let ws := wordsOf (Mem.getBytes s.hostMem (dnat e 0) 128)
      let l := Launch.ofRecord s.sys.serial q.num 7 ws false (some (k.num, k.head))
      wnat e 2 = 0 → (∀ w ∈ e.drop 3, w = 0) →
      l.earlyReason s.sys q false = none → l.bufferCount = 0 → l.tileCount = 0 → l.units ≤ 256 → l.travelling = false → s.sys.verified l = none →
      ∃ u, exec .launchArrival s = .next u ∧ u.sys.queues = putKey Queue.num { k with head := k.head + 1 } s.sys.queues
        ∧ (u.sys.launches = s.sys.launches ++ [l]
          ∨ (u.sys.launches = s.sys.launches ∧ u.sys.notices = s.sys.notices ++ [.recordDropped k.num k.head]))) ∧
    (∀ l q r, nextCheck s = some l → s.sys.part? l.part = some q → checkObject s l = some r →
      ((Tx.start s).readObject l.part l.code).2.halt = none → s.sys.awaiting l.part l.code = [l] → l.Silent →
      (∀ o ∈ s.sys.objects, o.key ≠ s.sys.serial) → s.sys.verified l = none →
      ∃ u, exec (.signatureCheck l.key) s = .next u ∧ (∀ x ∈ u.sys.launches, x.key = l.key → x.phase ≠ .checking) ∧
        (match r with
          | .error n => u.sys.Gone l.key ∧ ∀ v, u.sys.part? l.part = some v → v.vlog = q.vlog ++ [(n, l.id)]
          | .ok _ => ∃ o ∈ u.sys.objects, o.part = l.part ∧ o.code = l.code)) ∧
    (∀ k l q, s.sys.launch? k = some l → s.sys.part? l.part = some q → l.phase = .ready → l.translated = false →
      let r := (Tx.start s).pinAll q l
      r.2.halt = none →
      (∀ e, pinVerdict r.1 = .ok e → exec (.extentWalk k) s =
        .next (r.2.st.withSys (r.2.st.sys.setLaunch { l with walked := l.pinnedSlots, extents := e }))) ∧
      (∀ e, pinVerdict r.1 = .error e → l.Silent → ∃ u, exec (.extentWalk k) s = .next u ∧ u.sys.Gone l.key)) ∧
    (∀ k o q text map, s.sys.object? k = some o → s.sys.part? o.part = some q → s.sys.gorluxAt o = true →
      (text ≠ [] → gorluxOk s.sys o q text map = true →
        let places := ((s.sys.setObject { o with gorlux := [] }).codePlaces q (4 * text.length)).getD []
        let u := ((Tx.start s).putCode q places (bytesOfWords text)).st
        exec (.gorluxTranslation k text map) s = .next (u.withSys (u.sys.setObject
          { { o with native := text, nmap := map, nativeOn := true }.refreshed with gorlux := places }))) ∧
      exec (.gorluxTranslation k [] map) s = .next (s.withSys (s.sys.setObject { o with gaveUp := true })))

/-- Where the scheduler's plan is a new yoke, YOKE_PLACEMENT adds one yoke and one panel on each core of the deal, and either nothing more or all the further yokes of the launch; an evicted yoke or a travelling launch is placed on the cores of its deal; chosen victims stop; a launch that no empty partition could hold is gone; without a plan nothing happens. The plan serves the highest class first, in a class what has started before what has not, and of that the launch accepted first; it evicts for class 7 and for an overflow yoke alone, and for class 7 the lowest class first and in it the yoke placed last; it takes the cluster of lowest load that a yoke fits, and deals each panel to the member with the fewest panels that it fits. The exact place of evicted and overflow yokes among what has started is the model's choice (assumption log 134). PANEL_START of the first placed panel of a die lets the panel run with one new thread for each of its thread numbers, after an acquire. (R42; R45; R49; R51; R58; R60; R61; R85; R90) -/
def Obligations.PlacementAndStart : Prop :=
  ∀ (s : State) (n : Nat),
    (∀ l o cores, planOf s n = .fresh l o cores → ∃ u more m, exec (.yokePlacement n) s = .next u ∧
      u.sys.yokes.length = s.sys.yokes.length + 1 + m ∧
      u.sys.panels.map (·.core) = s.sys.panels.map (·.core) ++ cores ++ more ∧
      (m = 0 ∧ more = [] ∨ o = false ∧ m = l.yokes - (l.nextYoke + 1))) ∧
    (∀ y cores, planOf s n = .again y cores → exec (.yokePlacement n) s = .next (s.withSys (s.sys.placeAgain y cores))) ∧
    (∀ l hs cores, planOf s n = .pin l hs cores →
      exec (.yokePlacement n) s = .next (s.withSys (s.sys.placeTravel l hs cores))) ∧
    (∀ ys, planOf s n = .evict ys → ∃ u, exec (.yokePlacement n) s = .next u ∧
      ∀ p ∈ u.sys.panels, p.yoke.any ys.contains = true → p.phase = .stopping ∨ p.phase = .out) ∧
    (∀ l, planOf s n = .fail l → l.Silent → ∃ u, exec (.yokePlacement n) s = .next u ∧ u.sys.Gone l.key) ∧
    (planOf s n = .wait → exec (.yokePlacement n) s = .next s) ∧
    (∀ l cores, planOf s n = .fresh l false cores → s.firstWant n = some (.next l) ∧ ∃ p, s.sys.part? n = some p ∧
      findCluster s.sys p l.units (List.replicate l.nextPanels l.shape) = some cores) ∧
    ((∀ l ∈ s.sys.launches, l.cls ≤ 7 ∧ l.order < 2 ^ 128) → (∀ y ∈ s.sys.yokes, y.yid < 2 ^ 32 ∧ y.order < 2 ^ 128) →
      ∀ w, s.firstWant n = some w →
      (∀ l ∈ s.sys.launches, l.part = n → ∀ v ∈ s.wantsOf l, v.launch.cls ≤ w.launch.cls ∧ (v.launch.cls = w.launch.cls →
        (v.unstarted = false → w.unstarted = false) ∧
        (v.unstarted = true → w.unstarted = true → w.launch.order ≤ v.launch.order))) ∧
      (∀ ys, planOf s n = .evict ys → w.launch.cls = 7 ∨ ∃ l, w = .overflow l) ∧
      ((∀ l, w ≠ .overflow l) → ((w.victims s.sys).map fun y => (((s.sys.launch? y.launch).map (·.cls)).getD 0, y.order)).Pairwise
        fun a b => a.1 < b.1 ∨ (a.1 = b.1 ∧ b.2 ≤ a.2))) ∧
    (∀ (p : Partition) units xs cs, findCluster s.sys p units xs = some cs → (∀ k ∈ p.clusters, k.1 < 72) →
      ∃ k ∈ p.clusters, fitCluster s.sys k.2 units xs = some cs ∧ ∀ j ∈ p.clusters, (fitCluster s.sys j.2 units xs).isSome = true →
        s.sys.load k.2 < s.sys.load j.2 ∨ (s.sys.load k.2 = s.sys.load j.2 ∧ k.1 ≤ j.1)) ∧
    (∀ rooms x rest c cs, deal rooms (x :: rest) = some (c :: cs) → ∃ r ∈ rooms, r.core = c ∧ r.fits x = true ∧
      (∀ q ∈ rooms, q.fits x = true → r.panels ≤ q.panels) ∧
      deal (rooms.map fun q => if q.core = c then q.take x else q) rest = some cs) ∧
    (∀ (p : Panel) (l : Launch), s.sys.panel? p.key = some p → s.sys.launchOf p = some l → startReady s.sys p = true →
      ∃ u, exec (.panelStart p.key) s = .next u ∧ u.sys.panel? p.key = some { p with phase := .running } ∧
        u.sys.threads.map (fun t => (t.panel, t.tid)) =
          s.sys.threads.map (fun t => (t.panel, t.tid)) ++ (List.range p.nthr).map fun k => (p.key, k))

/-- At its pre-emption points a stopping panel is out; placed again, with no pinned buffer to translate and its images readable, it runs or waits for its start; where a pinned page does not translate, the supervisor gets a PGFLT record whose answer the panel waits for (value and page as assumption log 186 reads them). A run-ahead that is over leaves the checkpoint's masks and a ticket that the panel waits for. A panel with nothing left to do is gone and its launch has one more retired, and a launch that is over is gone, a terminated one when it has come to its pre-emption points. A late report that a thread can take puts it into its trap handler; the oldest fault record enters a ring that has room; a replayed overflow has ended; a core reset leaves no thread but those of panels that are out, no panel that is not out, and an empty core. (R64; R429; R432; R436; R438; R466; R467; R475; R342) -/
def Obligations.PanelsSwitchAndEnd : Prop :=
  ∀ (s : State),
    (∀ (p : Panel) (l : Launch), s.sys.panel? p.key = some p → s.sys.launchOf p = some l → switchReady s.sys p l = true → (∀ r ∈ s.sys.reqs, r.held = none) →
      ∃ u q, exec (.panelSwitchOut p.key) s = .next u ∧ u.sys.panel? p.key = some q ∧ q.phase = .out) ∧
    (∀ (p : Panel) (l : Launch) (q : Partition), s.sys.panel? p.key = some p → s.sys.launchOf p = some l → s.sys.part? l.part = some q → resumeReady s.sys p = true →
      l.pinnedSlots = [] → s.resumeFits p = true → s.sys.imagesSpoiled p l = false → l.deferred = [] → l.travelling = false →
      ∃ u v, exec (.panelResume p.key) s = .next u ∧ u.sys.panel? p.key = some v ∧
        v.phase = if s.sys.threadsOf p.key = [] then .placed else .running) ∧
    (∀ (p : Panel) (l : Launch) (a : RunAhead) (q : Partition), s.sys.panel? p.key = some p → s.sys.launchOf p = some l → s.sys.part? l.part = some q → p.ahead = some a →
      aheadOver s.sys p = true → ∃ u, exec (.runAheadEnd p.key) s = .next u ∧
        u.sys.panel? p.key = some { p with masks := a.savedMasks, ahead := none, batch := some q.nextTicket }) ∧
    (∀ (p : Panel) (l : Launch), s.sys.panel? p.key = some p → s.sys.launchOf p = some l → retireReady s.sys p l = true →
      ∃ u x, exec (.panelRetire p.key) s = .next u ∧ u.sys.panel? p.key = none ∧ u.sys.launch? l.key = some x ∧
        x.retired = if p.handlerOf.isSome then l.retired else l.retired + 1) ∧
    (∀ k l, s.sys.launch? k = some l → launchOver s.sys l = true → l.Silent → (l.ending = none ∨ ∀ c ∈ s.sys.cmds, c.launch ≠ l.key) →
      ∃ u, exec (.launchRetire k) s = .next u ∧ u.sys.Gone k) ∧
    (∀ (t : Thread) (p : Panel) (l : Launch) (e : Late), s.sys.thread? t.panel t.tid = some t → s.sys.homeOf t = some (p, l) → lateDue s.sys t p l = some e →
      supervisorCode e.code = false → t.CanTrap l → exec (.lateReport t.panel t.tid) s =
        .next (s.withThread ({ t with late := t.late.erase e, pend := none }.trapped s l e.code e.value e.pc))) ∧
    (∀ n q r rest, s.sys.part? n = some q → q.faults = r :: rest → ringReady s q = true → s.Extended n 0 q.ring → 64 ≤ Decl.len q.ring →
      ∃ u v, exec (.faultRecordPost n) s = .next u ∧ u.sys.part? n = some v ∧ v.faults = rest) ∧
    (∀ k l, s.sys.launch? k = some l → replayReady s.sys l = true → l.deferred = [] →
      ∃ u x, exec (.deferredAppendReplay k) s = .next u ∧ u.sys.launch? k = some x ∧ x.overflow = .none) ∧
    (∀ (p : Panel) (l : Launch) (q x : Partition) slot va, s.sys.panel? p.key = some p → s.sys.launchOf p = some l →
      s.sys.part? l.part = some q → resumeReady s.sys p = true → s.sys.imagesSpoiled p l = false → l.travelling = false →
      let u := ((Tx.start s).pinAll q l).2
      pinVerdict ((Tx.start s).pinAll q l).1 = .error (slot, va) → u.halt = none → u.sys.part? l.part = some x →
      exec (.panelResume p.key) s = .next (let d := l.decl slot
        let r : RecordInfo := { RecordInfo.of tPGFLT 2 l.id with
          pid := p.pid, value := BitVec.ofNat 32 (va - Decl.base d), slot := slot, offset := va
          write := isWrite (Decl.rights d), core := u.sys.logical l.part p.core }
        let v := u.st.faultPosted x r (.panel p.key) l.key
        v.withSys (v.sys.setPanel { p with resumeTicket := some x.nextTicket }))) ∧
    (∀ core, ∃ u, exec (.coreReset core) s = .next u ∧
      (∀ t ∈ u.sys.threads, t.core = core → ∃ p, s.sys.panel? t.panel = some p ∧ p.phase = .out) ∧
      (∀ p ∈ u.sys.panels, p.core = core → p.phase = .out) ∧ u.sys.core core = Core.empty core)

/-- When it is due, and no line it reads is poisoned: ACQ writes the object's count and WAIT the word it saw; FENCE, REL of an object without a live tack, TKARR of a scratchpad tack, INVAL, an interleave switch and FREE let their thread go on, INVAL of translations with one more table generation, FREE with the record cleared; TKWAIT of a live scratchpad tack writes its word, BBAWAIT the slot and pointer; a walk whose leaf grants the rights leaves, one without marks itself as failed; a binning append within its bin writes the old count, one beyond it is deferred. (R249; R253; R305; R306; R307; R327; R340; R363; R366; R367; R451; R452) -/
def Obligations.WaitsEnd : Prop :=
  ∀ (s : State) (t : Thread) (p : Panel) (l : Launch), s.sys.thread? t.panel t.tid = some t → s.sys.homeOf t = some (p, l) →
    let ends (i : Instr) (x : Thread) : Prop := ∃ u, exec i s = .next u ∧ u.sys.thread? t.panel t.tid = some x
    let goes (i : Instr) : Prop := ends i { t with pend := none }
    (∀ a dst target addr key mode num thr, t.pend = some (.acq a dst target) → a.target = .home addr key mode num thr →
      acqReady s t p l a target = true → s.sys.poisoned addr = false →
      ends (.acqSatisfied t.panel t.tid) { t.putNat dst (s.ownNat t.core addr key 8) with pend := none }) ∧
    (∀ a dst v e x addr key mode num thr, t.pend = some (.wait a dst v e x) → a.target = .home addr key mode num thr →
      waitReady s t p l a v e = true → s.sys.poisoned addr = false →
      ends (.waitDone t.panel t.tid) { t.putNat dst (s.ownNat t.core addr key 4) with pend := none }) ∧
    ((lateDue s.sys t p l).isNone = true →
      (∀ o m, t.pend = some (.fence o m) → releaseReady s.sys t p l (.fence o m) = true → goes (.releaseComplete t.panel t.tid)) ∧
      (∀ a m rs id, t.pend = some (.rel a m rs id) → releaseReady s.sys t p l (.rel a m rs id) = true → a.target.isHome = true →
        a.target.spoiled s.sys = false → (Tx.start s).tackLive a.loc = false →
        goes (.releaseComplete t.panel t.tid)) ∧
      (∀ k a m, t.pend = some (.tkarr (.scr k a) m) → releaseReady s.sys t p l (.tkarr (.scr k a) m) = true →
        goes (.releaseComplete t.panel t.tid))) ∧
    (∀ kind q b v, t.pend = some (.inval kind q b) → invalReady s.sys p l t kind q b = true → s.sys.part? l.part = some v →
      (kind = 0 → ∀ x ∈ s.sys.threads, ∀ o ∈ x.ops, ∀ a, o.kind ≠ .bbawait a) →
      ∃ u w, exec (.invalComplete t.panel t.tid) s = .next u ∧ u.sys.thread? t.panel t.tid = some { t with pend := none } ∧
        u.sys.part? l.part = some w ∧ w.ptgen = if kind = 0 then v.ptgen + 1 else v.ptgen) ∧
    (∀ n old, t.pend = some (.ildom n old) → p.mayEnd t.tid = true → goes (.interleaveSwitchEnd t.panel t.tid)) ∧
    (∀ n y, t.pend = some (.free n) → s.sys.yokeOf p = some y → freeReady s.sys t p y n = true →
      (∀ u ∈ s.sys.threads, u.panel = t.panel → u.tid = t.tid → u = t) →
      ∃ u, exec (.freeRecordClear t.panel t.tid) s = .next u ∧ u.sys.thread? t.panel t.tid = some { t with pend := none } ∧
        u.sys.yoke? y.key = some { y with tiles := y.tiles.set n 0 }) ∧
    (∀ (o : Op) (k a : Nat) (ph : Bool) (q : Panel), t.ops.find? (fun x => x.id == o.id) = some o → o.kind = .tkwait (.scr k a) ph → p.phase ≠ .out → s.sys.pushHeld t.core obsC = false →
      s.sys.panel? k = some q → wordIx a ∈ q.stags → (Mem.getNat q.scratch a 8).testBit 63 ≠ ph →
      ends (.tkwaitComplete t.panel t.tid o.id) ((t.putNat o.dst (Mem.getNat q.scratch a 8)).finish o)) ∧
    (∀ (o : Op) (a : Access) (addr key mode num : Nat) (thr : Bool), t.ops.find? (fun x => x.id == o.id) = some o → o.kind = .bbawait a →
      a.target = .home addr key mode num thr → p.phase ≠ .out → s.sys.pushHeld t.core obsC = false → s.sys.poisoned addr = false →
      s.sys.tagged (wordIx addr) = true → bbawaitReady s l (dieOf t.core) a o.id = true →
      let w := s.objWords a.loc 16
      ends (.bbawaitComplete t.panel t.tid o.id)
        ((t.putNat o.dst (Bobbin.read w % max 1 (Bobbin.maxSlots w) + Bobbin.read w * 2 ^ 32)).finish o)) ∧
    (∀ (k : Nat) (w : Walk) (q : Partition), s.sys.walks.find? (fun x => x.key == k && s.sys.walking x) = some w → s.sys.part? w.part = some q → w.pref = none →
      (∀ ad leaf, walk s q w.va = .ok ad leaf → Leaf.grants leaf w.right = true →
        ∃ u, exec (.pageWalkComplete k) s = .next u ∧ ∀ x ∈ u.sys.walks, x.key ≠ k) ∧
      (∀ v, v = ((Tx.start s).rekeyWalk q w.va).st → walk s q w.va = .bad → walkDrop v q w.va = none → exec (.pageWalkComplete k) s = .next (v.withSys { v.sys with
        walks := v.sys.walks.map fun x => if x.key = k then { x with failed := some true } else x }))) ∧
    (∀ (o : Op) (a : Access) (x : DWord) (addr key mode num : Nat) (thr : Bool), t.ops.find? (fun x => x.id == o.id) = some o → o.kind = .atom .add x → o.acc = some a →
      a.target = .home addr key mode num thr → a.size = 4 → appendReady s.sys t p l o = true → s.sys.poisoned addr = false →
      a.liveTack s.sys = none → (s.sys.core t.core).l1Line (lineOf addr) = none →
      let old := s.homeNat addr 4 key
      (old + x.toNat ≤ l.binLength a → ends (.binningAppend t.panel t.tid o.id) ((t.putNat o.dst old).finish o)) ∧
      (l.binLength a < old + x.toNat → ((s.sys.yokeOf p).any (·.overflow)) = false → s.sys.launch? l.key = some l →
        (t.panel, t.tid, o.id) ∉ l.deferred →
        ∃ u z, exec (.binningAppend t.panel t.tid o.id) s = .next u ∧ u.sys.launch? l.key = some z ∧
          z.deferred = l.deferred ++ [(t.panel, t.tid, o.id)]))

/-- With tacks in scratchpads and buffers whose pages its launch's extents hold: the head of a channel starts; a bobbin with room gives it the claimed slot; a delivery from memory to the scratchpad moves on, to the end of the chunk or less far; a scouted failure posts one record and the command waits for its ticket; a command that has delivered all leaves its channel. The arbiter's choice is granted with the dither phase of its yoke, which counts it; a granted request whose earlier ones of the seam are done is gone, and its yoke's region is what the engine computes: the whole effect at that moment, with the phase read at the grant (the model's choice: assumption log 71). (R277; R279; R284; R286; R295; R316; R318; R319; R433; R179) -/
def Obligations.CopyAndMatrixEvents : Prop :=
  ∀ (s : State),
    (∀ (c : Cmd) (l : Launch), s.sys.cmd? c.key = some c → s.sys.launch? c.launch = some l → c.tacks.all TackRef.inScratch = true →
      (cmdStartReady s.sys c = true →
        (c.total ≠ 0 → ∃ u, exec (.copyCommandStart c.key) s = .next u ∧ u.sys.cmd? c.key = some { c with started := true }) ∧
        (c.total = 0 → c.slot = none → ∃ u, exec (.copyCommandStart c.key) s = .next u ∧ u.sys.cmd? c.key = none)) ∧
      (∀ k, slotClaimReady s c = true → claimable s l c = some k →
        s.Extended l.part c.panel (l.decl (handleSlot c.denseAddr)) → handleOff c.denseAddr < Decl.len (l.decl (handleSlot c.denseAddr)) →
        ∃ u now, exec (.bobbinSlotClaim c.key) s = .next u ∧ u.sys.cmd? c.key = some { c with slot := some (k, now) }) ∧
      (deliveryReady s c = true → c.op = 0 → c.dense = 1 → s.Extended l.part c.panel (l.decl c.memSlot) → s.sys.poisonLines = [] →
        c.delivered % c.elem = 0 → c.memEnd ≤ Decl.len (l.decl c.memSlot) →
        ∃ u n h, exec (.copyChunkDelivery c.key) s = .next u ∧ u.sys.cmd? c.key = some { c with delivered := n, suppressed := h } ∧
          c.delivered < n ∧ n ≤ c.total) ∧
      (∀ f q, c.scoutFault s l = some f → scoutReady s c = true → s.sys.part? l.part = some q →
        ∃ u v, exec (.scoutFault c.key) s = .next u ∧ u.sys.cmd? c.key = some { c with ticket := some q.nextTicket, halt := f.1 * c.elem / 4096 * 4096 } ∧
          u.sys.part? l.part = some v ∧ v.faults.length = q.faults.length + 1) ∧
      (cmdDoneReady s.sys c = true → c.slot = none →
        ∃ u, exec (.copyCommandComplete c.key) s = .next u ∧ u.sys.cmd? c.key = none)) ∧
    (∀ (r : Req) (y : Yoke), s.sys.req? r.key = some r → s.sys.yoke? r.yoke = some y →
      (grantReady s.sys r = true → ∃ u z, exec (.matrixGrant r.key) s = .next u ∧
        u.sys.req? r.key = some { r with granted := true, phi := y.dphase } ∧ u.sys.yoke? r.yoke = some z ∧
        z.granted = y.granted + 1 ∧ z.dphase = if r.dithered then y.dphase + 13 else y.dphase) ∧
      (reqReady s.sys r = true → r.tack.toList.all TackRef.inScratch = true →
        let ran := r.perform ⟨y.region, s.sys.laterRegions r y, s.sys.nonce⟩ r.phi.toNat
        ∃ u z, exec (.matrixRequestComplete r.key) s = .next u ∧ u.sys.req? r.key = none ∧ u.sys.yoke? r.yoke = some z ∧
          z.region = ran.region ∧ z.oflag = (y.oflag || ran.miss)))

/-- A departing thread with nothing outstanding becomes a parcel towards a holder of its piece. A parcel enters a spool that has room and no earlier spilled one; the oldest travel parcel of a core with room becomes its thread again, at the parcel's target; the oldest spilled parcel is read back; a core's occupancy is reported; a waiting parcel whose piece is held again is sent; a message enters the spool and, where four handlers of its launch do not run yet, starts a handler panel with one thread. (R372; R376; R377; R378; R380; R386; R387; R388) -/
def Obligations.TravelEvents : Prop :=
  ∀ (s : State),
    (∀ (t : Thread) (p : Panel) (l : Launch) (m : Marker) (target : Nat) (prio : Byte) (ws : List (Nat × Word)) (rot grp : Nat) (ret : Bool), s.sys.thread? t.panel t.tid = some t → s.sys.homeOf t = some (p, l) →
      t.phase = .departing target prio ws rot grp ret → (s.sys.objectOf l).bind (·.marker) = some m → departReady s.sys t p = true →
      l.out = false → 255 ≥ (m.pieceAt target).getD 0 → l.holders.getD ((m.pieceAt target).getD 0) [] ≠ [] →
      ∃ (u : State) (x : Thread) (q : Parcel) (c : Nat), exec (.travelDeparture t.panel t.tid) s = .next u ∧ u.sys.thread? t.panel t.tid = some x ∧ x.phase = .flying ∧
        u.sys.parcels = s.sys.parcels ++ [q] ∧ q.phase = .net c ∧ c ∈ l.holders.getD ((m.pieceAt target).getD 0) [] ∧
        q.header.getD 0 0 = BitVec.ofNat 32 target) ∧
    (∀ (q : Parcel) (l : Launch) (c : Nat), s.sys.parcel? q.key = some q → s.sys.launch? q.launch = some l → q.isMessage = false → q.phase = .net c → s.sys.delivers q = true →
      s.sys.spoolUse c < 256 → s.sys.spilledAt c = false →
      exec (.parcelArrival q.key) s = .next (s.withSys (s.sys.moveParcel { q with phase := .spool c }))) ∧
    (∀ (c : Nat) (q : Parcel) (l : Launch) (t : Thread) (p : Panel) (m : Marker), s.sys.oldestTravel c = some q → s.sys.launch? q.launch = some l → s.sys.thread? q.src.1 q.src.2 = some t →
      s.sys.panel? q.src.1 = some p → (s.sys.objectOf l).bind (·.marker) = some m → q.phase = .spool c →
      roomFor s.sys c l = true → l.out = false →
      ∃ (u : State) (x : Thread), exec (.spoolParcelToThread c) s = .next u ∧ u.sys.thread? q.src.1 q.src.2 = some x ∧ x.phase = .ready ∧ x.core = c ∧
        x.pc = wnat q.header 0 ∧ u.sys.parcels = dropKey Parcel.key q.key s.sys.parcels) ∧
    (∀ (c : Nat) (q : Parcel) (l : Launch), s.sys.oldestSpilled c = some q → s.sys.launch? q.launch = some l → s.sys.spoolUse c < 256 →
      exec (.overflowReadback c) s = .next (s.withSys (s.sys.setParcel { s.unspill l q with phase := .spool c }))) ∧
    (∀ c, ∃ u, exec (.occupancyReport c) s = .next u ∧ (u.sys.core c).reported = s.sys.spoolUse c ∧ u.sys.parcels = s.sys.parcels) ∧
    (∀ (k : Nat) (l : Launch) (q : Parcel), s.sys.launch? k = some l → l.out = false → s.sys.pinnedParcels l = [q] → q.isMessage = false →
      l.holders.getD (bits (wnat (s.unspill l q).header 5) 24 8) [] ≠ [] →
      ∃ (u : State) (v : Parcel) (c : Nat), exec (.parcelSendOnPin k) s = .next u ∧ u.sys.parcels = dropKey Parcel.key q.key s.sys.parcels ++ [v] ∧
        v.phase = .net c ∧ c ∈ l.holders.getD (bits (wnat (s.unspill l q).header 5) 24 8) []) ∧
    (∀ (q : Parcel) (c : Nat), s.sys.parcel? q.key = some q → q.phase = .net c → messageReady s.sys q = true →
      exec (.messageArrival q.key) s = .next (s.withSys (s.sys.moveParcel { q with phase := .spool c }))) ∧
    (∀ (c : Nat) (q : Parcel) (l : Launch), s.sys.oldestMessage c = some q → s.sys.launch? q.launch = some l → handlerReady s.sys c q = true →
      ∃ (u : State) (x : Panel) (y : Thread), exec (.handlerPanelStart c) s = .next u ∧ u.sys.panels = s.sys.panels ++ [x] ∧ u.sys.threads = s.sys.threads ++ [y] ∧
        x.phase = .running ∧ x.handlerOf.isSome = true ∧ x.core = c ∧ y.panel = x.key ∧ y.pc = wnat q.header 0 ∧
        u.sys.parcels = dropKey Parcel.key q.key s.sys.parcels)

/-- A query or a sweep of a running panel that waits for a stack is posted to it, where the bridge lets it pass, with the lining's bytes as they are. The end of a stack's scan takes that stack from the query, and the query with its last stack, where the result buffer's pages lie in extents and the bridge lets the record pass. A sweep's walk of an item over rows without errors takes that item from it, and a sweep whose last slot is passed is gone. A refresh runs, or a scan of that stack defers it with the cycle (assumption log 116); an expired slack ends it; a scrub of a row notes the place, mends a correctable row and poisons the eight lines of another (assumption log 112); the throttle moves the limit by 16 between 16 and 192. (R399; R404; R406; R407; R408; R409; R410; R414; R415; R420) -/
def Obligations.StackEvents : Prop :=
  ∀ (s : State) (k bank row : Nat),
    (∀ q : Query, s.sys.query? q.key = some q → q.postReady s.sys k = true →
      exec (.queryPost q.key k) s = .next (s.withSys (s.sys.setQuery { q with
        unposted := q.unposted.filter (· != k), posted := q.posted ++ [(k, s.mem)] }))) ∧
    (∀ q : Sweep, s.sys.query? q.key = none → s.sys.sweep? q.key = some q → q.postReady s.sys q.stack = true →
      exec (.queryPost q.key q.stack) s = .next (s.withSys (s.sys.setSweep { q with posted := true, start := s.mem }))) ∧
    (∀ (q : Query) (l : Launch) (start : List Host.Cell), s.sys.query? q.key = some q → s.sys.launch? q.launch = some l → q.posted.find? (fun e => e.1 == k) = some (k, start) →
      q.resultReady s.sys k = true → q.tack.toList.all TackRef.inScratch = true → s.Extended q.part q.panel q.result →
      handleOff (dnat q.desc 2) + (stackIndex q.shelf k + 1) * resultStride (Decl.dim q.shelf) ≤ Decl.len q.result →
      ∃ u, exec (.stackResultWrite q.key k) s = .next u ∧ (let left := q.posted.filter fun e => e.1 != k
        if left = [] ∧ q.unposted = [] then u.sys.query? q.key = none
        else u.sys.query? q.key = some { q with posted := left, doneStacks := q.doneStacks ++ [k] })) ∧
    (∀ (q : Sweep) (l : Launch), s.sys.sweep? q.key = some q → s.sys.launch? q.launch = some l →
      (∀ i, q.move s = some (.walk i) → (s.sys.stack q.stack).errors = [] →
        ∃ u v, exec (.sweepResultWrite q.key) s = .next u ∧ u.sys.sweep? q.key = some v ∧ v.left = q.left.filter (· != i)) ∧
      (q.move s = some .done → q.tack.toList.all TackRef.inScratch = true →
        ∃ u, exec (.sweepResultWrite q.key) s = .next u ∧ u.sys.sweep? q.key = none)) ∧
    (let x := s.sys.stack k
      let put (y : Stack) : State := s.withSys (s.sys.setStack k y)
      let off := x.undefer bank row
      (exec (.rowRefresh k bank row) s = .next (put off)
        ∨ exec (.rowRefresh k bank row) s = .next (put { x with deferred := (bank, row, (s.sys.die (k / 8)).cyc) :: x.deferred })) ∧
      (s.sys.scanning k = false → exec (.rowRefresh k bank row) s = .next (put off)) ∧
      (∀ c, (bank, row, c) ∈ x.deferred → c + slackCycles (x.classAt bank row) ≤ (s.sys.die (k / 8)).cyc →
        exec (.refreshSlackExpiry k bank row) s = .next (put off)) ∧
      (x.errorAt bank row = none → exec (.scrubRow k bank row) s = .next (put { x with scrub := (bank, row) })) ∧
      (k < s.sys.stks.length → x.errorAt bank row = some true → ∃ u, exec (.scrubRow k bank row) s = .next u ∧
        (u.sys.stack k).errorAt bank row = none ∧ u.sys.poisonLines = s.sys.poisonLines) ∧
      (x.errorAt bank row = some false → ∃ u, exec (.scrubRow k bank row) s = .next u ∧
        ∀ a ∈ rowLines k bank row, a ∈ u.sys.poisonLines) ∧
      exec (.stackThrottle k true) s = .next (put { x with limit := max 16 (x.limit - 16) }) ∧
      exec (.stackThrottle k false) s = .next (put { x with limit := min 192 (x.limit + 16) }))

/-- A host read of any length answers its bytes where every page translates and no line is poisoned, and nothing otherwise; a host write stores every piece whose page translates and that meets no live tack, leaves every other byte at its home as it was, and says whether it was whole (assumption logs 151, 188); an access of a partition that is not there does nothing. A peer's request that the registration, the translation or the owner check refuses is answered with nothing, the last with a note of the drop; else a load answers its bytes, a store leaves its bytes at the home, an atomic answers the old value and leaves the new one, and every other byte there is as it was (log 150). A correctable error counts; in a clean L1 line it drops the line; one in a panel's store, uncorrectable, ends the silent launch; in a dirty L1 line it drops the line and, where no launch owns it, nothing else; one in a cache poisons its line; one of a DRAM row is kept and moves the row or poisons its eight lines (log 112). Power-on reset leaves zeros in every lining, the host's memory as it was, no partition, launch or thread, and a package that answers if its firmware is good (logs 8, 155). (R243; R244; R250; R290; R407; R435; R455; R470; R473) -/
def Obligations.OutsideAccessesAndReset : Prop :=
  ∀ (s : State),
    (∀ n va a, s.sys.part? n = none → exec (.hostMemAccess n va a) s = .next s) ∧
    (∀ (n va k : Nat) (q : Partition) spans v, s.sys.part? n = some q →
      (Tx.start s).windowSpans n rRd (linePieces va k) = (spans, v) → v.halt = none →
      ∃ u, exec (.hostMemAccess n va (.read k)) s = .next u ∧ u.mem = v.st.mem ∧
        u.sys.notices = v.sys.notices ++ [.hostRead n va (v.st.spanBytes spans)] ∧
        ((∀ x ∈ spans, ∃ a, x.1 = some a ∧ v.sys.poisoned a.1 = false) → ∃ bs, v.st.spanBytes spans = some bs ∧ bs.length = k) ∧
        ((∃ x ∈ spans, x.1 = none) → v.st.spanBytes spans = none)) ∧
    (∀ (n va : Nat) (bs : List Byte) (q : Partition) spans v, s.sys.part? n = some q →
      (Tx.start s).windowSpans n rW (linePieces va bs.length) = (spans, v) → v.halt = none →
      ∃ u ok, exec (.hostMemAccess n va (.write bs)) s = .next u ∧ u.sys.notices = v.sys.notices ++ [.hostWritten n va ok] ∧
        ((∀ x ∈ spans, ∃ a, x.1 = some a ∧ v.sys.liveIn a.1 x.2.2 = none) → ok = true) ∧ ((∃ x ∈ spans, x.1 = none) → ok = false) ∧
        (Safe s → spans.Pairwise (fun x y => ∀ a b, x.1 = some a → y.1 = some b → lineOf a.1 ≠ lineOf b.1) →
          (∀ x ∈ spans, ∀ a, x.1 = some a → a.1 % 128 + x.2.2 ≤ 128) →
          (∀ x ∈ spans, ∀ a, x.1 = some a → v.sys.liveIn a.1 x.2.2 = none →
            u.homeBytes a.1 x.2.2 a.2.1 = (bs.drop (x.2.1 - va)).take x.2.2) ∧
          (∀ b k, (∀ x ∈ spans, ∀ a, x.1 = some a → v.sys.liveIn a.1 x.2.2 = none →
              (b < a.1 ∨ a.1 + x.2.2 ≤ b) ∧ (lineOf b = lineOf a.1 → k = a.2.1)) →
            u.homeNat b 1 k = v.st.homeNat b 1 k))) ∧
    (∀ r : PeerRequest, s.sys.knowsPeer r = false → exec (.peerRequest r) s =
      .next (s.withSys { s.sys with notices := s.sys.notices ++ [.peerAnswer r.device none] })) ∧
    (∀ (r : PeerRequest) (n rights : Nat) (at_ : Option (Nat × Nat × Nat × Nat)) v, s.sys.knowsPeer r = true → peerNeeds r.op = (n, rights) →
      1 ≤ n → r.offset % 128 + n ≤ 128 → (Tx.start s).engineAddr r.part 0 288 r.decl r.offset rights = (at_, v) → v.halt = none →
      let answers (d : Option (List Byte)) : Prop := ∃ u, exec (.peerRequest r) s = .next u ∧
        u.sys.notices = v.sys.notices ++ [.peerAnswer r.device d]
      (at_ = none → answers none) ∧
      (∀ a key mode num (q : Partition), at_ = some (a, key, mode, num) → v.sys.part? r.part = some q →
        (q.owns (stackOf a) = false → ∃ u, exec (.peerRequest r) s = .next u ∧
          u.sys.notices = v.sys.notices ++ [.requestDropped (stackOf a), .peerAnswer r.device none]) ∧
        (q.owns (stackOf a) = true → v.sys.poisoned a = false →
          (∀ b, r.op = .load b → answers (some (v.st.homeBytes a b key))) ∧
          (∀ d, r.op = .store d → v.sys.liveIn a n = none → answers (some [])) ∧
          (∀ op x f, r.op = .atomic op x → atomOf op = some f → v.sys.liveIn a n = none →
            answers (some (leBytes n (v.st.homeNat a n key)))) ∧
          (∀ u, exec (.peerRequest r) s = .next u → Safe s → a % 128 + n ≤ 128 → v.sys.liveIn a n = none →
            (∀ d, r.op = .store d → u.homeBytes a n key = d) ∧
            (∀ op x f, r.op = .atomic op x → atomOf op = some f →
              u.homeNat a n key = (atomResult f (v.st.homeNat a n key) x.toNat).2 % 2 ^ (8 * n)) ∧
            (v.sys.l2.length < l2Lines → ∀ b k, (b < a ∨ a + n ≤ b) → (lineOf b = lineOf a → k = key) →
              u.homeNat b 1 k = v.st.homeNat b 1 k))))) ∧
    (let counted := s.withSys { s.sys with corrected := s.sys.corrected + 1 };
      (∀ (p : Panel), s.sys.panel? p.key = some p → exec (.eccError (.coreStore p.key true)) s = .next counted ∧
        ∀ l, s.sys.launch? p.launch = some l → p.launch = l.key → l.Silent → l.ending = none → (∀ c ∈ s.sys.cmds, c.launch ≠ l.key) →
          (∀ r ∈ s.sys.reqs, r.launch = l.key → r.granted = false) →
          ∃ u, exec (.eccError (.coreStore p.key false)) s = .next u ∧ u.sys.Gone l.key) ∧
      (∀ (p : Nat) c, s.sys.panel? p = none → exec (.eccError (.coreStore p c)) s = .next s) ∧
      (∀ (k : Nat) (x : L1Line), (s.sys.core k).l1Line x.line = some x →
        (x.dirty = 0 → ∃ u, exec (.eccError (.l1Clean k x.line)) s = .next u ∧ (u.sys.core k).l1Line x.line = none ∧
          u.sys.corrected = s.sys.corrected + 1) ∧
        (x.dirty ≠ 0 → exec (.eccError (.l1Clean k x.line)) s = .next s ∧ exec (.eccError (.l1Dirty k x.line true)) s = .next counted ∧
          (s.sys.ownersOf k x.line = [] → ∃ u, exec (.eccError (.l1Dirty k x.line false)) s = .next u ∧
            (u.sys.core k).l1Line x.line = none))) ∧
      (∀ line, exec (.eccError (.cache line true)) s = .next counted ∧
        ∃ u, exec (.eccError (.cache line false)) s = .next u ∧ line ∈ u.sys.poisonLines) ∧
      exec (.eccError .flit) s = .next counted ∧
      (∀ k bank row c, k < s.sys.stks.length → ∃ u, exec (.eccError (.dram k bank row c)) s = .next u ∧
        (u.sys.stack k).errorAt bank row = some c ∧
        (c = true → (u.sys.stack k).classAt bank row = fasterClass ((s.sys.stack k).classAt bank row)) ∧
        (c = false → ∀ line ∈ rowLines k bank row, line ∈ u.sys.poisonLines))) ∧
    (∀ b, ∃ u, exec (.powerOnReset b) s = .next u ∧ (∀ x, x < 2 ^ 40 → Mem.get u.mem x = 0) ∧ u.hostMem = s.hostMem ∧
      u.sys.booted = b.firmwareGood ∧ u.sys.parts = [] ∧ u.sys.launches = [] ∧ u.sys.threads = [] ∧ u.sys.tags = [] ∧
      u.sys.stks.length = 16 ∧ u.sys.agenda = s.sys.agenda)

end
end

