-- ==== Sys2Proof/Laws/Quiet.lean ====
section
/-! SUPPORT. What the memory levels leave alone: a write-back, a release, an acquire, a fill or a write at a home changes
the bytes of memory and the caches only, and never stops the step. -/

namespace Sys2Proof.Machine

variable {s0 : State}

/-- The package without what the memory levels keep for themselves: caches, keys, poison, row errors, `%cyc` epochs. -/
def Sys.rest (s : Sys) : Sys := { s with stks := [], lineKeys := [], l2 := [], poisonLines := [], dies := [], cores := [] }

/-- `b` comes from `a` by work of the memory levels alone. -/
structure Tx.Quiet (b a : Tx s0) : Prop where
  halt : b.halt = a.halt
  hostMem : b.st.hostMem = a.st.hostMem
  rest : b.sys.rest = a.sys.rest

namespace Tx.Quiet

theorem refl (a : Tx s0) : Quiet a a := ⟨rfl, rfl, rfl⟩

theorem trans {a b c : Tx s0} (h : Quiet c b) (k : Quiet b a) : Quiet c a :=
  ⟨h.halt.trans k.halt, h.hostMem.trans k.hostMem, h.rest.trans k.rest⟩

/-- A field that the memory levels do not keep. -/
theorem field {α : Type} (f : Sys → α) (hf : ∀ s : Sys, f s.rest = f s) {a b : Tx s0} (h : Quiet b a) : f b.sys = f a.sys := by
  rw [← hf b.sys, h.rest, hf]

theorem threads {a b : Tx s0} (h : Quiet b a) : b.sys.threads = a.sys.threads := h.field (·.threads) fun _ => rfl
theorem panels {a b : Tx s0} (h : Quiet b a) : b.sys.panels = a.sys.panels := h.field (·.panels) fun _ => rfl
theorem launches {a b : Tx s0} (h : Quiet b a) : b.sys.launches = a.sys.launches := h.field (·.launches) fun _ => rfl
theorem parts {a b : Tx s0} (h : Quiet b a) : b.sys.parts = a.sys.parts := h.field (·.parts) fun _ => rfl
theorem yokes {a b : Tx s0} (h : Quiet b a) : b.sys.yokes = a.sys.yokes := h.field (·.yokes) fun _ => rfl
theorem objects {a b : Tx s0} (h : Quiet b a) : b.sys.objects = a.sys.objects := h.field (·.objects) fun _ => rfl
theorem cmds {a b : Tx s0} (h : Quiet b a) : b.sys.cmds = a.sys.cmds := h.field (·.cmds) fun _ => rfl
theorem reqs {a b : Tx s0} (h : Quiet b a) : b.sys.reqs = a.sys.reqs := h.field (·.reqs) fun _ => rfl
theorem queries {a b : Tx s0} (h : Quiet b a) : b.sys.queries = a.sys.queries := h.field (·.queries) fun _ => rfl
theorem sweeps {a b : Tx s0} (h : Quiet b a) : b.sys.sweeps = a.sys.sweeps := h.field (·.sweeps) fun _ => rfl
theorem parcels {a b : Tx s0} (h : Quiet b a) : b.sys.parcels = a.sys.parcels := h.field (·.parcels) fun _ => rfl
theorem notices {a b : Tx s0} (h : Quiet b a) : b.sys.notices = a.sys.notices := h.field (·.notices) fun _ => rfl
theorem serial {a b : Tx s0} (h : Quiet b a) : b.sys.serial = a.sys.serial := h.field (·.serial) fun _ => rfl
theorem nonce {a b : Tx s0} (h : Quiet b a) : b.sys.nonce = a.sys.nonce := h.field (·.nonce) fun _ => rfl
theorem tags {a b : Tx s0} (h : Quiet b a) : b.sys.tags = a.sys.tags := h.field (·.tags) fun _ => rfl
theorem walks {a b : Tx s0} (h : Quiet b a) : b.sys.walks = a.sys.walks := h.field (·.walks) fun _ => rfl
theorem focus {a b : Tx s0} (h : Quiet b a) : b.sys.focus = a.sys.focus := h.field (·.focus) fun _ => rfl

end Tx.Quiet

open Tx (Quiet)

theorem Tx.mod_quiet {tx : Tx s0} {f : Sys → Sys} (h : (f tx.sys).rest = tx.sys.rest) : Quiet (tx.mod f) tx := ⟨rfl, rfl, h⟩

theorem Tx.each_quiet {α : Type} {f : Tx s0 → α → Tx s0} (h : ∀ tx x, Quiet (f tx x) tx) :
    ∀ (l : List α) (tx : Tx s0), Quiet (tx.each l f) tx
  | [], tx => .refl tx
  | x :: l, tx => (Tx.each_quiet h l (f tx x)).trans (h tx x)

theorem Tx.poke_quiet (tx : Tx s0) (a : Nat) (bs : List Byte) : Quiet (tx.poke a bs) tx := ⟨rfl, rfl, rfl⟩

theorem Tx.putLining_quiet (tx : Tx s0) (line key data : Nat) : Quiet (tx.putLining line key data) tx :=
  (Tx.mod_quiet rfl).trans (tx.poke_quiet _ _)

theorem Tx.pushLine_quiet (tx : Tx s0) (line : Nat) : Quiet (tx.pushLine line) tx := by
  unfold Tx.pushLine; split
  · split
    · exact (Tx.mod_quiet rfl).trans (tx.putLining_quiet _ _ _)
    · exact .refl tx
  · exact .refl tx

theorem Tx.dropL2_quiet (tx : Tx s0) (line : Nat) : Quiet (tx.dropL2 line) tx :=
  (Tx.mod_quiet rfl).trans (tx.pushLine_quiet line)

theorem Tx.rekey_quiet (tx : Tx s0) (line key : Nat) : Quiet (tx.rekey line key) tx := by
  unfold Tx.rekey; split
  · split
    · exact .refl tx
    · exact tx.dropL2_quiet _
  · exact .refl tx

theorem Tx.ite_quiet {c : Prop} [Decidable c] {a b tx : Tx s0} (ha : Quiet a tx) (hb : Quiet b tx) :
    Quiet (if c then a else b) tx := by
  split
  · exact ha
  · exact hb

theorem Tx.roomL2_quiet (tx : Tx s0) (die slice : Nat) : Quiet (tx.roomL2 die slice) tx := by
  unfold Tx.roomL2
  dsimp only
  refine Tx.ite_quiet (.refl tx) ?_
  split
  · exact tx.dropL2_quiet _
  · exact .refl tx

/-- A line that comes into a home L2 (R261). -/
theorem Tx.fillL2_quiet (tx : Tx s0) (line key mode num : Nat) : Quiet (tx.fillL2 line key mode num) tx := by
  have h1 := tx.rekey_quiet line key
  unfold Tx.fillL2
  exact Tx.ite_quiet h1 ((Tx.mod_quiet rfl).trans ((Tx.roomL2_quiet _ _ _).trans h1))

theorem Tx.homePut_quiet (tx : Tx s0) (line key mode num : Nat) (through : Bool) (data mask : Nat) :
    Quiet (tx.homePut line key mode num through data mask) tx := by
  have h1 := tx.rekey_quiet line key
  unfold Tx.homePut
  have h2 : Quiet (if mask % 2 ^ 128 = 2 ^ 128 - 1 then
      (tx.rekey line key).mod fun s => { s with poisonLines := s.poisonLines.filter (· != line) } else tx.rekey line key) tx :=
    Tx.ite_quiet ((Tx.mod_quiet rfl).trans h1) h1
  refine Tx.ite_quiet ((Tx.putLining_quiet _ _ _ _).trans ((Tx.mod_quiet rfl).trans h2)) ((Tx.mod_quiet rfl).trans ?_)
  exact Tx.ite_quiet h2 ((Tx.mod_quiet rfl).trans ((Tx.roomL2_quiet _ _ _).trans h2))

theorem Tx.homeWrite_quiet (tx : Tx s0) (addr key mode num : Nat) (through : Bool) (bs : List Byte) :
    Quiet (tx.homeWrite addr key mode num through bs) tx := tx.homePut_quiet _ _ _ _ _ _ _

theorem Tx.rdcMerge_quiet (tx : Tx s0) (die line key data mask : Nat) : Quiet (tx.rdcMerge die line key data mask) tx :=
  Tx.mod_quiet rfl

theorem Tx.fetchLine_quiet (tx : Tx s0) (die line key mode num : Nat) : Quiet (tx.fetchLine die line key mode num).2 tx := by
  have h1 := tx.fillL2_quiet line key mode num
  unfold Tx.fetchLine
  split
  · exact h1
  · split
    · exact .refl tx
    · exact ⟨h1.halt, h1.hostMem, h1.rest⟩

theorem Tx.writeFrom_quiet (tx : Tx s0) (core line key mode num : Nat) (through : Bool) (data mask : Nat) :
    Quiet (tx.writeFrom core line key mode num through data mask) tx := by
  have h1 := tx.homePut_quiet line key mode num through data mask
  unfold Tx.writeFrom
  dsimp only
  split
  · exact h1
  · exact (Tx.rdcMerge_quiet _ _ _ _ _ _).trans h1

theorem Sys.setCore_rest (s : Sys) (c : Core) : (s.setCore c).rest = s.rest := rfl

theorem Tx.setCore_quiet (tx : Tx s0) (f : Sys → Core) : Quiet (tx.mod fun s => s.setCore (f s)) tx := Tx.mod_quiet rfl

theorem Tx.raiseLine_quiet (tx : Tx s0) (core : Nat) (l : L1Line) (mask : BitVec 6) : Quiet (tx.raiseLine core l mask) tx := by
  unfold Tx.raiseLine
  split
  · exact .refl tx
  · dsimp only
    refine (Tx.mod_quiet rfl).trans ?_
    have h1 : ∀ tx : Tx s0, Quiet (if l.dirty = 0 then tx else
        tx.writeFrom core l.line l.key l.mode l.num l.through l.data.toNat l.dirty.toNat) tx := fun tx => by
      split
      · exact .refl tx
      · exact tx.writeFrom_quiet _ _ _ _ _ _ _ _
    split
    · exact (Tx.pushLine_quiet _ _).trans (h1 tx)
    · exact h1 tx

theorem Tx.dropL1_quiet (tx : Tx s0) (core line : Nat) : Quiet (tx.dropL1 core line) tx := by
  unfold Tx.dropL1
  split
  · exact (Tx.mod_quiet rfl).trans (tx.raiseLine_quiet _ _ _)
  · exact .refl tx

theorem Tx.roomL1_quiet (tx : Tx s0) (core : Nat) : Quiet (tx.roomL1 core) tx := by
  unfold Tx.roomL1
  dsimp only
  refine Tx.ite_quiet (.refl tx) ?_
  split
  · exact tx.dropL1_quiet _ _
  · exact .refl tx

theorem Tx.dropLine_quiet (tx : Tx s0) (line : Nat) : Quiet (tx.dropLine line) tx := by
  have h := Tx.each_quiet (fun (tx : Tx s0) c => tx.dropL1_quiet c line) (tx.sys.cores.map (·.id)) tx
  exact ⟨h.halt, h.hostMem, h.rest⟩

theorem Tx.fillL1_quiet (tx : Tx s0) (core line key mode num : Nat) (through ro : Bool) :
    Quiet (tx.fillL1 core line key mode num through ro).2 tx := by
  have step : ∀ t : Tx s0, Quiet t tx → Quiet (match (t.sys.core core).l1Line line with
      | some l =>
        let l := { l with ro := l.ro && ro, through := l.through || through, mode := mode, num := num }
        (l, t.mod fun s => s.setCore ((s.core core).putL1 l))
      | none =>
        let t := t.roomL1 core
        let (d, t) := t.fetchLine (dieOf core) line key mode num
        let clean := (t.sys.l2Line line).all fun (x : L2Line) => !x.dirty
        let l : L1Line := ⟨line, key, BitVec.ofNat 1024 d, 0, if clean then visAll else visHome, ro, through, mode, num⟩
        (l, t.mod fun s => s.setCore ((s.core core).putL1 l))).2 tx := by
    intro t h
    split
    · exact ⟨h.halt, h.hostMem, h.rest⟩
    · have h2 := ((t.roomL1 core).fetchLine_quiet (dieOf core) line key mode num).trans ((t.roomL1_quiet core).trans h)
      exact ⟨h2.halt, h2.hostMem, h2.rest⟩
  unfold Tx.fillL1
  apply step
  split
  · exact Tx.ite_quiet (.refl tx) (tx.dropL1_quiet _ _)
  · exact .refl tx

/-- A release changes memory and caches only (R353). -/
theorem Tx.release_quiet (tx : Tx s0) (core : Nat) (mask : BitVec 6) : Quiet (tx.release core mask) tx := by
  unfold Tx.release
  split
  · exact .refl tx
  · have h1 := Tx.each_quiet (fun (tx : Tx s0) (l : L1Line) => tx.raiseLine_quiet core l mask) (tx.sys.core core).l1 tx
    dsimp only
    split
    · exact h1
    · exact (Tx.each_quiet (fun (tx : Tx s0) (l : Nat) => tx.pushLine_quiet l) _ _).trans h1

theorem Tx.releaseIn_quiet (tx : Tx s0) (core : Nat) (mask : BitVec 6) (ranges : List (Nat × Nat)) :
    Quiet (tx.releaseIn core mask ranges) tx := by
  unfold Tx.releaseIn
  split
  · exact .refl tx
  · dsimp only
    split
    · exact Tx.each_quiet (fun (tx : Tx s0) (l : L1Line) => tx.raiseLine_quiet core l mask) _ tx
    · exact (Tx.each_quiet (fun (tx : Tx s0) (l : Nat) => tx.pushLine_quiet l) _ _).trans
        (Tx.each_quiet (fun (tx : Tx s0) (l : L1Line) => tx.raiseLine_quiet core l mask) _ tx)

/-- An acquire changes memory and caches only (R259). -/
theorem Tx.acquire_quiet (tx : Tx s0) (core : Nat) (mask : BitVec 6) : Quiet (tx.acquire core mask) tx := by
  unfold Tx.acquire
  have h1 := Tx.each_quiet (fun (tx : Tx s0) (l : L1Line) => tx.dropL1_quiet core l.line)
    ((tx.sys.core core).l1.filter fun l => !l.ro) tx
  dsimp only
  split
  · exact h1
  · exact (Tx.mod_quiet rfl).trans h1

theorem Tx.homeBytesAt_quiet (key mode num : Nat) : ∀ (bs : List Byte) (a : Nat) (tx : Tx s0),
    Quiet (tx.homeBytesAt key mode num bs a) tx
  | [], _, tx => .refl tx
  | b :: bs, a, tx => by
    have h := tx.homeWrite_quiet a key mode num true [b]
    unfold Tx.homeBytesAt
    generalize tx.homeWrite a key mode num true [b] = u at h
    exact (Tx.homeBytesAt_quiet key mode num bs (a + 1) u).trans h

theorem Tx.objWrite_quiet (tx : Tx s0) (loc : Loc) (off : Nat) (ws : List Word) : Quiet (tx.objWrite loc off ws) tx := by
  unfold Tx.objWrite; split
  · exact Tx.homeBytesAt_quiet _ _ _ _ _ _
  · exact .refl tx

theorem Tx.setAD_quiet (tx : Tx s0) (p : Partition) (a : Nat) (write : Bool) : Quiet (tx.setAD p a write) tx := by
  unfold Tx.setAD
  exact Tx.ite_quiet (.refl tx) (tx.homeWrite_quiet _ _ _ _ _ _)

end Sys2Proof.Machine
end

