-- ==== Sys2Proof/Laws/Tables.lean ====
section
/-! SUPPORT. Tables by key: what a read gives after a write, a removal, or a change of one thread. -/

namespace Sys2Proof.Machine

variable {s0 : State}

/-! ## Lists by key -/

theorem key_of_findKey {α : Type} {key : α → Nat} {k : Nat} {x : α} {l : List α} (h : findKey key k l = some x) : key x = k := by
  have := List.find?_some h
  simpa using this

theorem mem_of_findKey {α : Type} {key : α → Nat} {k : Nat} {x : α} {l : List α} (h : findKey key k l = some x) : x ∈ l :=
  List.mem_of_find?_eq_some h

@[simp] theorem findKey_nil {α : Type} (key : α → Nat) (k : Nat) : findKey key k ([] : List α) = none := rfl

theorem findKey_cons {α : Type} (key : α → Nat) (k : Nat) (x : α) (l : List α) :
    findKey key k (x :: l) = if key x = k then some x else findKey key k l := by
  unfold findKey
  rw [List.find?_cons]
  by_cases h : key x = k
  · simp [h]
  · simp [h, beq_eq_false_iff_ne.mpr h]

/-- A written entry is read back, if its key was in the table. -/
theorem findKey_putKey {α : Type} {key : α → Nat} {x : α} : ∀ {l : List α}, (findKey key (key x) l).isSome = true →
    findKey key (key x) (putKey key x l) = some x
  | [], h => by simp at h
  | y :: l, h => by
    unfold putKey
    rw [List.map_cons, findKey_cons]
    by_cases hy : key y = key x
    · simp [hy]
    · rw [findKey_cons, if_neg hy] at h
      simp only [hy, if_false]
      exact findKey_putKey h

/-- Every other entry stays as it was. -/
theorem findKey_putKey_ne {α : Type} {key : α → Nat} {x : α} {k : Nat} (hk : key x ≠ k) : ∀ l : List α,
    findKey key k (putKey key x l) = findKey key k l
  | [] => rfl
  | y :: l => by
    have ih := findKey_putKey_ne hk l
    unfold putKey at ih ⊢
    rw [List.map_cons, findKey_cons, findKey_cons, ih]
    by_cases hy : key y = key x
    · rw [if_pos hy, if_neg hk, if_neg (by omega)]
    · rw [if_neg hy]

theorem findKey_dropKey {α : Type} (key : α → Nat) (k : Nat) (l : List α) : findKey key k (dropKey key k l) = none := by
  unfold findKey dropKey
  rw [List.find?_eq_none]
  intro y hy
  have := (List.mem_filter.mp hy).2
  simpa using this

theorem findKey_dropKey_ne {α : Type} {key : α → Nat} {k j : Nat} (h : j ≠ k) : ∀ l : List α,
    findKey key j (dropKey key k l) = findKey key j l
  | [] => rfl
  | y :: l => by
    have ih := findKey_dropKey_ne (key := key) h l
    unfold dropKey at ih ⊢
    rw [List.filter_cons, findKey_cons]
    by_cases hy : key y = k
    · have : (key y != k) = false := by simp [hy]
      rw [this, if_neg (by simp), ih, if_neg (by omega)]
    · have : (key y != k) = true := by simp [hy]
      rw [if_pos this, findKey_cons, ih]

/-- A map that keeps keys is read through. -/
theorem findKey_map {α : Type} {key : α → Nat} {f : α → α} (hf : ∀ x, key (f x) = key x) (k : Nat) : ∀ l : List α,
    findKey key k (l.map f) = (findKey key k l).map f
  | [] => rfl
  | y :: l => by
    rw [List.map_cons, findKey_cons, findKey_cons, hf, findKey_map hf k l]
    split <;> rfl

/-- A new entry behind the others is found under its own key, if that is new. -/
theorem findKey_append {α : Type} (key : α → Nat) (k : Nat) (l m : List α) :
    findKey key k (l ++ m) = (findKey key k l).or (findKey key k m) := by
  simp [findKey, List.find?_append]

/-! ## Threads -/

theorem Sys.thread?_id {s : Sys} {panel tid : Nat} {t : Thread} (h : s.thread? panel tid = some t) :
    t.panel = panel ∧ t.tid = tid := by
  have := List.find?_some h
  simpa using this

/-- A map that keeps panels and numbers is read through. -/
theorem find_thread_map {f : Thread → Thread} (hf : ∀ t, (f t).panel = t.panel ∧ (f t).tid = t.tid) (panel tid : Nat) :
    ∀ l : List Thread, (l.map f).find? (fun t => t.panel == panel && t.tid == tid) =
      (l.find? fun t => t.panel == panel && t.tid == tid).map f
  | [] => rfl
  | t :: l => by
    rw [List.map_cons, List.find?_cons, List.find?_cons, (hf t).1, (hf t).2, find_thread_map hf panel tid l]
    split <;> simp

/-- A written thread is read back, if it was in the table. -/
theorem Sys.thread?_setThread {s : Sys} {t : Thread} (h : (s.thread? t.panel t.tid).isSome = true) :
    (s.setThread t).thread? t.panel t.tid = some t := by
  have key : ∀ l : List Thread, (l.find? fun u => u.panel == t.panel && u.tid == t.tid).isSome = true →
      (l.map fun u => if u.panel = t.panel ∧ u.tid = t.tid then t else u).find?
        (fun u => u.panel == t.panel && u.tid == t.tid) = some t := by
    intro l
    induction l with
    | nil => simp
    | cons u l ih =>
      intro h
      rw [List.map_cons, List.find?_cons]
      by_cases hu : u.panel = t.panel ∧ u.tid = t.tid
      · simp [hu]
      · have hu' : (u.panel == t.panel && u.tid == t.tid) = false := by
          rw [Bool.and_eq_false_iff]
          by_cases h1 : u.panel = t.panel
          · exact Or.inr (by simpa using fun h2 => hu ⟨h1, h2⟩)
          · exact Or.inl (by simpa using h1)
        rw [List.find?_cons, hu'] at h
        rw [if_neg hu, hu']
        exact ih h
  exact key s.threads h

/-- Every other thread stays as it was. -/
theorem Sys.thread?_setThread_ne {s : Sys} {t : Thread} {panel tid : Nat} (h : ¬(t.panel = panel ∧ t.tid = tid)) :
    (s.setThread t).thread? panel tid = s.thread? panel tid := by
  have key : ∀ l : List Thread, (l.map fun u => if u.panel = t.panel ∧ u.tid = t.tid then t else u).find?
        (fun u => u.panel == panel && u.tid == tid) = l.find? fun u => u.panel == panel && u.tid == tid := by
    intro l
    induction l with
    | nil => rfl
    | cons u l ih =>
      rw [List.map_cons, List.find?_cons, List.find?_cons, ih]
      by_cases hu : u.panel = t.panel ∧ u.tid = t.tid
      · rw [if_pos hu, hu.1, hu.2]
        have : (t.panel == panel && t.tid == tid) = false := by
          rw [Bool.and_eq_false_iff]
          by_cases h1 : t.panel = panel
          · exact Or.inr (by simpa using fun h2 => h ⟨h1, h2⟩)
          · exact Or.inl (by simpa using h1)
        rw [this]
      · rw [if_neg hu]
  exact key s.threads

/-- The change of one thread is read back, if it keeps panel and number. -/
theorem Sys.thread?_updThread {s : Sys} {panel tid : Nat} {t : Thread} {f : Thread → Thread} (h : s.thread? panel tid = some t)
    (hf : (f t).panel = panel ∧ (f t).tid = tid) : (s.updThread panel tid f).thread? panel tid = some (f t) := by
  have key : ∀ l : List Thread, (l.find? fun u => u.panel == panel && u.tid == tid) = some t →
      (l.map fun u => if u.panel = panel ∧ u.tid = tid then f u else u).find?
        (fun u => u.panel == panel && u.tid == tid) = some (f t) := by
    intro l
    induction l with
    | nil => simp
    | cons u l ih =>
      intro h
      rw [List.map_cons, List.find?_cons]
      by_cases hu : u.panel = panel ∧ u.tid = tid
      · have hu' : (u.panel == panel && u.tid == tid) = true := by simp [hu]
        rw [List.find?_cons, hu'] at h
        cases h
        rw [if_pos hu]
        simp [hf]
      · have hu' : (u.panel == panel && u.tid == tid) = false := by
          rw [Bool.and_eq_false_iff]
          by_cases h1 : u.panel = panel
          · exact Or.inr (by simpa using fun h2 => hu ⟨h1, h2⟩)
          · exact Or.inl (by simpa using h1)
        rw [List.find?_cons, hu'] at h
        rw [if_neg hu, hu']
        exact ih h
  exact key s.threads h

@[simp] theorem Thread.finish_panel (t : Thread) (o : Op) : (t.finish o).panel = t.panel := rfl
@[simp] theorem Thread.finish_tid (t : Thread) (o : Op) : (t.finish o).tid = t.tid := rfl

end Sys2Proof.Machine
end

