-- ==== Sys2Proof/Laws/Ends.lean ====
section
/-! SUPPORT. Tack events at scratchpads, and the end of a launch that asks for nothing: they never stop the step. -/

namespace Sys2Proof.Machine

variable {s0 : State}

open Tx (Quiet)

/-! ## Records -/

@[simp] theorem Tx.notice_halt (tx : Tx s0) (n : Notice) : (tx.notice n).halt = tx.halt := rfl
@[simp] theorem Tx.postRecord_halt (tx : Tx s0) (part : Nat) (r : RecordInfo) (k : Nat) :
    (tx.postRecord part r k).halt = tx.halt := rfl
@[simp] theorem Tx.postTicket_halt (tx : Tx s0) (part : Nat) (r : RecordInfo) (n : TicketFor) (l : Nat) :
    (tx.postTicket part r n l).2.halt = tx.halt := rfl

theorem updPart_some {s : Sys} {n : Nat} {q : Partition} (h : s.part? n = some q) (f : Partition → Partition) :
    updPart n f s = s.setPart (f q) := by unfold updPart; rw [h]

theorem Sys.part?_setPart {s : Sys} {n : Nat} {q x : Partition} (h : s.part? n = some q) (hx : x.num = n) :
    (s.setPart x).part? n = some x := by
  subst hx
  exact findKey_putKey (by rw [show findKey _ _ _ = _ from h]; rfl)

theorem Sys.setPart_setPart (s : Sys) {x y : Partition} (h : x.num = y.num) : (s.setPart x).setPart y = s.setPart y := by
  unfold Sys.setPart putKey
  simp only [List.map_map, Sys.mk.injEq, true_and, and_true]
  apply List.map_congr_left
  intro z _
  by_cases hz : z.num = y.num
  · simp [h, hz]
  · simp [h, hz]

theorem updPart_updPart {s : Sys} {n : Nat} {q : Partition} (h : s.part? n = some q) {f g : Partition → Partition}
    (hf : (f q).num = n) (hg : (g (f q)).num = n) : updPart n g (updPart n f s) = s.setPart (g (f q)) := by
  rw [updPart_some h, updPart_some (Sys.part?_setPart h hf), Sys.setPart_setPart s (hf.trans hg.symm)]

/-- What a fault record with a ticket changes (R429, R431). -/
theorem Tx.postTicket_st (tx : Tx s0) (q : Partition) (r : RecordInfo) (names : TicketFor) (launch : Nat)
    (h : tx.sys.part? q.num = some q) : (tx.postTicket q.num r names launch).2.st = tx.st.faultPosted q r names launch := by
  have h1 : tx.st.sys.part? q.num = some q := h
  have hk : tx.sys.nextTicket q.num = q.nextTicket := by unfold Sys.nextTicket; rw [h]; rfl
  have e := updPart_updPart h1 (g := fun p => { p with faults := p.faults ++ [⟨r.words (tx.sys.nextTicket q.num)⟩] })
    (f := fun p => { p with
      nextTicket := (if tx.sys.nextTicket q.num + 1 ≥ noTicket then 1 else tx.sys.nextTicket q.num + 1)
      tickets := p.tickets ++ [⟨tx.sys.nextTicket q.num, r.code, names, launch⟩] }) rfl rfl
  refine (congrArg (fun y : Sys => (⟨tx.st.mem, tx.st.hostMem, { y with
    notices := y.notices ++ [Notice.supervisorFault q.num r.code] }⟩ : State)) e).trans ?_
  rw [hk]
  rfl

/-! ## Tacks in scratchpads -/

/-- Tack events at scratchpads change panels, notices, and, for a tack that a core reset lost, what its one record
changes. -/
structure Tx.Tacked (b a : Tx s0) : Prop where
  halt : b.halt = a.halt
  cmds : b.sys.cmds = a.sys.cmds
  reqs : b.sys.reqs = a.sys.reqs
  yokes : b.sys.yokes = a.sys.yokes
  queries : b.sys.queries = a.sys.queries
  sweeps : b.sys.sweeps = a.sys.sweeps
  threads : b.sys.threads = a.sys.threads
  launches : b.sys.launches = a.sys.launches

theorem Tx.Tacked.refl (a : Tx s0) : Tacked a a := ⟨rfl, rfl, rfl, rfl, rfl, rfl, rfl, rfl⟩

theorem Tx.Tacked.trans {a b c : Tx s0} (h : Tacked c b) (k : Tacked b a) : Tacked c a :=
  ⟨h.halt.trans k.halt, h.cmds.trans k.cmds, h.reqs.trans k.reqs, h.yokes.trans k.yokes, h.queries.trans k.queries,
    h.sweeps.trans k.sweeps, h.threads.trans k.threads, h.launches.trans k.launches⟩

open Tx (Tacked)

theorem Tx.notice_tacked (tx : Tx s0) (n : Notice) : Tacked (tx.notice n) tx := ⟨rfl, rfl, rfl, rfl, rfl, rfl, rfl, rfl⟩

theorem updPart_rest (n : Nat) (f : Partition → Partition) (s : Sys) : { updPart n f s with parts := [] } = { s with parts := [] } := by
  unfold updPart; split <;> rfl

theorem updPart_field {α : Type} (g : Sys → α) (hg : ∀ s : Sys, g { s with parts := [] } = g s) (n : Nat)
    (f : Partition → Partition) (s : Sys) : g (updPart n f s) = g s := by
  rw [← hg (updPart n f s), updPart_rest, hg]

theorem Tx.updPart_tacked (tx : Tx s0) (n : Nat) (f : Partition → Partition) : Tacked (tx.mod (updPart n f)) tx :=
  ⟨rfl, updPart_field (·.cmds) (fun _ => rfl) n f tx.st.sys, updPart_field (·.reqs) (fun _ => rfl) n f tx.st.sys,
    updPart_field (·.yokes) (fun _ => rfl) n f tx.st.sys, updPart_field (·.queries) (fun _ => rfl) n f tx.st.sys,
    updPart_field (·.sweeps) (fun _ => rfl) n f tx.st.sys, updPart_field (·.threads) (fun _ => rfl) n f tx.st.sys,
    updPart_field (·.launches) (fun _ => rfl) n f tx.st.sys⟩

theorem Tx.postTicket_tacked (tx : Tx s0) (part : Nat) (r : RecordInfo) (n : TicketFor) (l : Nat) :
    Tacked (tx.postTicket part r n l).2 tx :=
  (Tx.notice_tacked _ _).trans ((Tx.updPart_tacked _ _ _).trans (Tx.updPart_tacked _ _ _))

theorem Tx.orphanEvent_tacked (tx : Tx s0) (panel addr : Nat) : Tacked (tx.orphanEvent panel addr) tx := by
  have h0 := tx.notice_tacked (.tackLost panel addr)
  unfold Tx.orphanEvent
  dsimp only
  split
  · exact h0
  · split
    · exact h0
    · split
      · exact h0
      · exact (Tx.postTicket_tacked _ _ _ _ _).trans ⟨h0.halt, h0.cmds, h0.reqs, h0.yokes, h0.queries, h0.sweeps, h0.threads,
          h0.launches⟩

theorem Tx.Quiet.tacked {a b : Tx s0} (h : Quiet b a) : Tacked b a :=
  ⟨h.halt, h.cmds, h.reqs, h.yokes, h.queries, h.sweeps, h.threads, h.launches⟩

/-- A write to an image in the context store (R437). -/
theorem Tx.imageData_quiet (tx : Tx s0) (o : ImageOf) (off : Nat) (bs : List Byte) : Quiet (tx.imageData o off bs) tx := by
  unfold Tx.imageData
  split
  · exact Tx.each_quiet (fun tx x => tx.homeWrite_quiet _ _ _ _ _ _) _ tx
  · exact .refl tx

theorem Tx.tackWrite_scr_tacked (tx : Tx s0) (p a w : Nat) : Tacked (tx.tackWrite (.scr p a) w) tx := by
  unfold Tx.tackWrite
  refine (Tx.imageData_quiet _ _ _ _).tacked.trans ?_
  unfold Tx.mod
  dsimp only
  split <;> exact ⟨rfl, rfl, rfl, rfl, rfl, rfl, rfl, rfl⟩

/-- An event at a scratchpad tack (R291, R438). -/
theorem Tx.tackEvent_tacked (tx : Tx s0) (panel addr : Nat) (e : TackEvent) : Tacked (tx.tackEvent (.scr panel addr) e) tx := by
  unfold Tx.tackEvent Tx.locate
  dsimp only
  by_cases h1 : (tx.sys.panel? panel).isSome = true
  · rw [if_pos h1]
    dsimp only
    split
    · exact tx.notice_tacked _
    · split <;> split <;> (try split) <;>
        first
          | exact Tacked.refl tx
          | exact tx.notice_tacked _
          | exact tx.tackWrite_scr_tacked _ _ _
          | exact (Tx.tackWrite_scr_tacked _ _ _ _).trans (tx.notice_tacked _)
  · rw [if_neg h1]
    by_cases h2 : (tx.sys.lost.any fun l => l.panel == panel) = true
    · rw [if_pos h2]; exact tx.orphanEvent_tacked _ _
    · rw [if_neg h2]
      dsimp only
      split
      · exact tx.notice_tacked _
      · next h => exact absurd rfl h

/-- The same for several tacks. -/
theorem Tx.tackEvents_tacked (e : TackEvent) : ∀ (ts : List TackRef) (tx : Tx s0), ts.all TackRef.inScratch = true →
    Tacked (tx.tackEvents ts e) tx
  | [], tx, _ => .refl tx
  | t :: ts, tx, h => by
    rw [List.all_cons, Bool.and_eq_true] at h
    have h1 : Tacked (tx.tackEvent t e) tx := by
      match t, h.1 with
      | .scr p a, _ => exact tx.tackEvent_tacked p a e
    exact (Tx.tackEvents_tacked e ts (tx.tackEvent t e) h.2).trans h1

/-- The end of the waits on an object changes threads' and run-aheads' operations alone. -/
theorem Tx.endWaits_rest (tx : Tx s0) (loc : Loc) :
    (tx.endWaits loc).halt = tx.halt ∧ (tx.endWaits loc).st.mem = tx.st.mem ∧
      { (tx.endWaits loc).sys with threads := [], panels := [] } = { tx.sys with threads := [], panels := [] } :=
  ⟨rfl, rfl, rfl⟩

theorem Sys.yokeSet_rest (s : Sys) (o : Option Yoke) (f : Yoke → Yoke) :
    { (match o with | some y => s.setYoke (f y) | none => s) with yokes := [] } = { s with yokes := [] } := by
  cases o <;> rfl

/-- A word that goes back to its shuttle changes yokes alone. -/
theorem Tx.unpop_rest (tx : Tx s0) (p : Panel) (x : Option (Nat × Word)) :
    (tx.unpop p x).halt = tx.halt ∧ (tx.unpop p x).st.mem = tx.st.mem ∧
      { (tx.unpop p x).sys with yokes := [] } = { tx.sys with yokes := [] } := by
  unfold Tx.unpop Tx.updYoke
  split
  · exact ⟨rfl, rfl, Sys.yokeSet_rest tx.sys (tx.sys.yokeOf p) _⟩
  · exact ⟨rfl, rfl, rfl⟩

/-- So do the words of a panel's cancelled waits. -/
theorem Tx.unpopHeld_rest (tx : Tx s0) (p : Panel) :
    (tx.unpopHeld p).halt = tx.halt ∧ (tx.unpopHeld p).st.mem = tx.st.mem ∧
      { (tx.unpopHeld p).sys with yokes := [] } = { tx.sys with yokes := [] } := by
  unfold Tx.unpopHeld
  generalize (sortBy Thread.tid (tx.sys.threadsOf p.key)).reverse = ts
  induction ts generalizing tx with
  | nil => exact ⟨rfl, rfl, rfl⟩
  | cons t ts ih =>
    have h := ih (tx.unpop p t.heldPop)
    have k := tx.unpop_rest p t.heldPop
    exact ⟨h.1.trans k.1, h.2.1.trans k.2.1, h.2.2.trans k.2.2⟩

/-! ## Stores -/

theorem Tx.homeAgain_quiet (tx : Tx s0) (core line key : Nat) : Quiet (tx.homeAgain core line key) tx :=
  (Tx.mod_quiet rfl).trans ((tx.dropL1 core line).rekey_quiet line key |>.trans (tx.dropL1_quiet core line))

/-! ## Instruction stores -/

/-- A line that comes into a store changes cores alone. -/
theorem Sys.fillLine_rest (s : Sys) (core : Nat) (x : StoreLine) : (s.fillLine core x).rest = s.rest := by
  unfold Sys.fillLine
  dsimp only
  split <;> rfl

theorem Sys.fetchLine_rest (s : Sys) (core : Nat) (l : Launch) (t : Thread) : (s.fetchLine core l t).rest = s.rest := by
  unfold Sys.fetchLine
  split
  · rfl
  · split
    · exact s.fillLine_rest _ _
    · rfl

theorem Sys.dropLines_rest (s : Sys) : s.dropLines.rest = s.rest := rfl

theorem Tx.amendL1_quiet {tx : Tx s0} {r : L1Line × Tx s0} {core : Nat} (f : L1Line → L1Line) (h : Quiet r.2 tx) :
    Quiet (r.2.mod fun s => s.setCore ((s.core core).putL1 (f r.1))) tx := (Tx.setCore_quiet _ _).trans h

theorem Tx.storeTo_quiet (tx : Tx s0) (core : Nat) (travelling : Bool) (a : Access) (bs : List Byte) :
    Quiet (tx.storeTo core travelling a bs).2 tx := by
  unfold Tx.storeTo
  split
  · exact .refl tx
  · split
    · exact .refl tx
    · split
      · exact (Tx.writeFrom_quiet _ _ _ _ _ _ _ _ _).trans (tx.dropL1_quiet _ _)
      · refine Tx.amendL1_quiet (fun l => _) ?_
        exact tx.fillL1_quiet _ _ _ _ _ _ _

theorem Tx.atHome_quiet (tx : Tx s0) (core : Nat) (a : Access) (f : Nat → Nat × Nat) : Quiet (tx.atHome core a f).2 tx := by
  unfold Tx.atHome
  split
  · exact .refl tx
  · exact (Tx.writeFrom_quiet _ _ _ _ _ _ _ _ _).trans (tx.dropL1_quiet _ _)

/-- What a launch's end finds: a terminated launch's last writes change the memory levels, and mark launches that one of them was
refused (R468). -/
structure Tx.Drained (b a : Tx s0) : Prop where
  halt : b.halt = a.halt
  rest : { b.sys.rest with launches := [] } = { a.sys.rest with launches := [] }
  launches : b.sys.launches.map (fun l => { l with suppressed := false }) = a.sys.launches.map fun l => { l with suppressed := false }

open Tx (Drained)

theorem Tx.Drained.refl (a : Tx s0) : Drained a a := ⟨rfl, rfl, rfl⟩

theorem Tx.Drained.trans {a b c : Tx s0} (h : Drained c b) (k : Drained b a) : Drained c a :=
  ⟨h.halt.trans k.halt, h.rest.trans k.rest, h.launches.trans k.launches⟩

theorem Tx.Quiet.drained {a b : Tx s0} (h : Quiet b a) : Drained b a := ⟨h.halt, by rw [h.rest], by rw [h.launches]⟩

theorem Tx.Drained.field {α : Type} (f : Sys → α) (hf : ∀ s : Sys, f { s.rest with launches := [] } = f s) {a b : Tx s0}
    (h : Drained b a) : f b.sys = f a.sys := by rw [← hf b.sys, h.rest, hf]

theorem Tx.each_drained {α : Type} {f : Tx s0 → α → Tx s0} (h : ∀ tx x, Drained (f tx x) tx) :
    ∀ (l : List α) (tx : Tx s0), Drained (tx.each l f) tx
  | [], tx => .refl tx
  | x :: l, tx => (Tx.each_drained h l (f tx x)).trans (h tx x)

theorem Tx.noteSuppressed_drained (tx : Tx s0) (launch : Nat) (hit : Bool) : Drained (tx.noteSuppressed launch hit) tx := by
  unfold Tx.noteSuppressed
  split
  · refine ⟨rfl, rfl, ?_⟩
    show List.map _ (List.map _ _) = _
    rw [List.map_map]
    apply List.map_congr_left
    intro l _
    dsimp only [Function.comp]
    split <;> rfl
  · exact .refl tx

theorem Tx.drainOp_drained (tx : Tx s0) (t : Thread) (l : Launch) (o : Op) : Drained (tx.drainOp t l o) tx := by
  have either {c : Prop} [Decidable c] {x a b : Tx s0} (ha : Drained a x) (hb : Drained b x) : Drained (if c then a else b) x := by
    split
    · exact ha
    · exact hb
  unfold Tx.drainOp
  split
  · exact (Tx.noteSuppressed_drained _ _ _).trans (tx.storeTo_quiet _ _ _ _).drained
  · exact either (tx.noteSuppressed_drained _ _) (tx.atHome_quiet _ _ _).drained
  · exact either ((Tx.noteSuppressed_drained _ _ _).trans (tx.release_quiet _ _).drained)
      ((Tx.atHome_quiet _ _ _ _).trans (tx.release_quiet _ _)).drained
  · exact Tx.each_drained (fun tx c => either (tx.noteSuppressed_drained _ _) (tx.atHome_quiet _ _ _).drained) _ tx
  · exact .refl tx

theorem Tx.drainStores_drained (tx : Tx s0) (l : Launch) : Drained (tx.drainStores l) tx :=
  Tx.each_drained (fun tx t => (Tx.noteSuppressed_drained _ _ _).trans
    (Tx.each_drained (fun tx o => tx.drainOp_drained t l o) _ tx)) _ tx

/-- A launch stands there still, but for its suppressed flag. -/
theorem Tx.Drained.launch {a b : Tx s0} (h : Drained b a) {k : Nat} {l : Launch} (hl : a.sys.launch? k = some l) :
    ∃ l', b.sys.launch? k = some l' ∧ l'.key = l.key ∧ (l.Silent → l'.Silent) := by
  let f (x : Launch) : Launch := { x with suppressed := false }
  have map (ls : List Launch) : findKey Launch.key k (ls.map f) = (findKey Launch.key k ls).map f :=
    findKey_map (key := Launch.key) (f := f) (fun _ => rfl) k ls
  have e : (findKey Launch.key k b.sys.launches).map f = (findKey Launch.key k a.sys.launches).map f := by
    rw [← map, ← map, h.launches]
  rw [show findKey Launch.key k a.sys.launches = some l from hl] at e
  match hb : findKey Launch.key k b.sys.launches with
  | none => rw [hb] at e; exact absurd e (by simp)
  | some l' =>
    rw [hb] at e
    have e : f l' = f l := by simpa using e
    have h1 : (f l').key = (f l).key := by rw [e]
    have h2 : (f l).Silent → (f l').Silent := fun h => e ▸ h
    exact ⟨l', hb, h1, h2⟩

/-! ## The end of a launch -/

theorem Sys.gone_dropLaunch (s : Sys) (l : Launch) : (s.dropLaunch l).Gone l.key := by
  intro x hx
  have h : ∃ u, (s.dropLaunch l).launches = dropKey Launch.key l.key u := ⟨_, rfl⟩
  obtain ⟨u, h⟩ := h
  rw [h] at hx
  simpa using (List.mem_filter.mp hx).2

theorem Launch.settle_key (l : Launch) : l.settle.key = l.key := by unfold Launch.settle; split <;> rfl

theorem Launch.meet_key (l : Launch) (f : Nat → Bool) : (l.meet f).key = l.key := by
  unfold Launch.meet; split
  · exact Launch.settle_key _
  · rfl

/-- A launch that is not the supervisor, and has neither completion record nor retire tack, ends without a stop. -/
theorem Tx.endLaunch_silent (tx : Tx s0) (l : Launch) (status : Nat) (release : Bool) (h : l.Silent) :
    (tx.endLaunch l status release).halt = tx.halt ∧ (tx.endLaunch l status release).sys.Gone l.key ∧
      (tx.endLaunch l status release).sys.replies = tx.sys.replies ∧
      (tx.endLaunch l status release).sys.parcels = tx.sys.parcels.filter (fun q => !(q.launch == l.key)) := by
  obtain ⟨h1, h2, h3⟩ := h
  have hq : Quiet (if release then tx.each (tx.sys.cores.map (·.id)) fun tx c => tx.release c visAll else tx) tx :=
    Tx.ite_quiet (Tx.each_quiet (fun tx c => tx.release_quiet c visAll) _ tx) (.refl tx)
  unfold Tx.endLaunch
  revert hq
  generalize (if release then tx.each (tx.sys.cores.map (·.id)) fun tx c => tx.release c visAll else tx) = t
  intro hq
  have hw : t.writeCompletion l status = t := by unfold Tx.writeCompletion; rw [if_pos h1]
  simp only [hw, h2, h3, if_true, Bool.false_eq_true, if_false]
  have hg : ((t.mod fun s => (s.dropLaunch l).evictObjects).sys).Gone l.key := Sys.gone_dropLaunch t.st.sys l
  have hr : (t.mod fun s => (s.dropLaunch l).evictObjects).sys.replies = tx.sys.replies :=
    (updPart_field (·.replies) (fun _ => rfl) _ _ t.st.sys).trans (hq.field (·.replies) fun _ => rfl)
  have hp : (t.mod fun s => (s.dropLaunch l).evictObjects).sys.parcels = tx.sys.parcels.filter (fun q => !(q.launch == l.key)) := by
    have : (t.mod fun s => (s.dropLaunch l).evictObjects).sys.parcels = t.sys.parcels.filter (fun q => !(q.launch == l.key)) := by
      show List.filter _ (updPart l.part _ t.st.sys).parcels = _
      rw [updPart_field (·.parcels) (fun _ => rfl)]; rfl
    rw [this, hq.parcels]
  split
  · exact ⟨hq.halt, hg, hr, hp⟩
  · refine ⟨hq.halt, ?_, hr, hp⟩
    intro x hx
    obtain ⟨y, hy, rfl⟩ := List.mem_map.mp hx
    have := hg y hy
    split
    · rwa [Launch.meet_key]
    · exact this

/-- Once its stores are drained, a launch without commands and granted requests has nothing unfinished. -/
theorem Tx.drainStores_finished (tx : Tx s0) (l : Launch) (hc : ∀ c ∈ tx.sys.cmds, c.launch ≠ l.key)
    (hr : ∀ r ∈ tx.sys.reqs, r.launch = l.key → r.granted = false) : (tx.drainStores l).sys.unfinished l.key = false := by
  have hq := tx.drainStores_drained l
  have hreqs : (tx.drainStores l).sys.reqs = tx.sys.reqs := hq.field (·.reqs) fun _ => rfl
  have hcmds : (tx.drainStores l).sys.cmds = tx.sys.cmds := hq.field (·.cmds) fun _ => rfl
  unfold Sys.unfinished
  rw [hreqs, hcmds, Bool.or_eq_false_iff]
  constructor
  · rw [List.any_eq_false]
    intro r hm
    by_cases h : r.launch = l.key
    · simp [hr r hm h]
    · simp [h]
  · rw [List.any_eq_false]
    intro c hm
    simp [hc c hm]

/-- The end of a launch without commands has none to abandon. -/
theorem Tx.finishEnd_commandless (u : Tx s0) (l : Launch) (status : Nat) (hl : u.sys.launch? l.key = some l)
    (hc : ∀ c ∈ u.sys.cmds, c.launch ≠ l.key) :
    u.finishEnd l status = (u.mod fun s => s.discardAll l.key).endLaunch l status true := by
  have hf : (u.mod fun s => s.discardAll l.key).sys.cmds.filter (fun c => c.launch == l.key) = [] := by
    rw [List.filter_eq_nil_iff]
    intro c hcm
    simpa using hc c hcm
  have hd : (u.mod fun s => s.discardAll l.key).sys.launch? l.key = some l := hl
  unfold Tx.finishEnd
  generalize u.mod (fun s => s.discardAll l.key) = v at hf hd ⊢
  dsimp only
  rw [hf]
  show v.endLaunch ((v.sys.launch? l.key).getD l) status true = _
  rw [hd]
  rfl

/-- What the end of such a launch does. -/
theorem Tx.finishEnd_silent (u : Tx s0) (l : Launch) (status : Nat) (hl : u.sys.launch? l.key = some l) (h : l.Silent)
    (hc : ∀ c ∈ u.sys.cmds, c.launch ≠ l.key) :
    (u.finishEnd l status).halt = u.halt ∧ (u.finishEnd l status).sys.Gone l.key ∧
      (u.finishEnd l status).sys.replies = u.sys.replies := by
  have := Tx.endLaunch_silent (u.mod fun s => s.discardAll l.key) l status true h
  rw [u.finishEnd_commandless l status hl hc]
  exact ⟨this.1, this.2.1, this.2.2.1⟩

/-- A terminated launch of that kind, without commands. -/
theorem Tx.terminate_silent (tx : Tx s0) (l : Launch) (status : Nat) (hl : tx.sys.launch? l.key = some l) (h : l.Silent)
    (he : l.ending = none) (hc : ∀ c ∈ tx.sys.cmds, c.launch ≠ l.key) (hr : ∀ r ∈ tx.sys.reqs, r.launch = l.key → r.granted = false) :
    (tx.terminate l.key status).halt = tx.halt ∧ (tx.terminate l.key status).sys.Gone l.key ∧
      (tx.terminate l.key status).sys.replies = tx.sys.replies := by
  have hq := tx.drainStores_drained l
  obtain ⟨l', hl', hk, hs⟩ := hq.launch hl
  have hcmds : (tx.drainStores l).sys.cmds = tx.sys.cmds := hq.field (·.cmds) fun _ => rfl
  have hrep : (tx.drainStores l).sys.replies = tx.sys.replies := hq.field (·.replies) fun _ => rfl
  have hu := tx.drainStores_finished l hc hr
  have ht : tx.terminate l.key status = (tx.drainStores l).finishEnd l' status := by
    unfold Tx.terminate
    rw [hl]
    simp only [he, hl', Option.getD_some, hu, Bool.false_eq_true, if_false]
  rw [← hcmds] at hc
  rw [ht, ← hrep, ← hq.halt]
  rw [← hk] at hl' hc ⊢
  exact Tx.finishEnd_silent _ l' status hl' (hs h) hc

end Sys2Proof.Machine
end

