-- ==== Sys2Proof/Laws/Events.lean ====
section
/-! SUPPORT. Every event that the machine may run by itself is a row of the opcode table: what `Due.lean` offers and what
`exec` gives a meaning are one thing. -/

namespace Sys2Proof.Machine

/-- Running an event of `Due.lean` is executing the row of the table that it is. -/
theorem Event.run_is_exec : ∀ e : Event, ∃ i : Instr, ∀ s : State, e.run s = exec i s
  | .runAheadEnd panel => ⟨.runAheadEnd panel, fun _ => rfl⟩
  | .interleaveSwitchEnd panel tid => ⟨.interleaveSwitchEnd panel tid, fun _ => rfl⟩
  | .launchArrival => ⟨.launchArrival, fun _ => rfl⟩
  | .signatureCheck launch => ⟨.signatureCheck launch, fun _ => rfl⟩
  | .extentWalk launch => ⟨.extentWalk launch, fun _ => rfl⟩
  | .yokePlacement part => ⟨.yokePlacement part, fun _ => rfl⟩
  | .panelStart panel => ⟨.panelStart panel, fun _ => rfl⟩
  | .panelSwitchOut panel => ⟨.panelSwitchOut panel, fun _ => rfl⟩
  | .panelResume panel => ⟨.panelResume panel, fun _ => rfl⟩
  | .memoryOpComplete panel tid op reply => ⟨.memoryOpComplete panel tid op reply, fun _ => rfl⟩
  | .lateReport panel tid => ⟨.lateReport panel tid, fun _ => rfl⟩
  | .pageWalkComplete walk => ⟨.pageWalkComplete walk, fun _ => rfl⟩
  | .binningAppend panel tid op => ⟨.binningAppend panel tid op, fun _ => rfl⟩
  | .deferredAppendReplay launch => ⟨.deferredAppendReplay launch, fun _ => rfl⟩
  | .copyCommandStart cmd => ⟨.copyCommandStart cmd, fun _ => rfl⟩
  | .bobbinSlotClaim cmd => ⟨.bobbinSlotClaim cmd, fun _ => rfl⟩
  | .copyChunkDelivery cmd => ⟨.copyChunkDelivery cmd, fun _ => rfl⟩
  | .scoutFault cmd => ⟨.scoutFault cmd, fun _ => rfl⟩
  | .copyCommandComplete cmd => ⟨.copyCommandComplete cmd, fun _ => rfl⟩
  | .tkwaitComplete panel tid op => ⟨.tkwaitComplete panel tid op, fun _ => rfl⟩
  | .bbawaitComplete panel tid op => ⟨.bbawaitComplete panel tid op, fun _ => rfl⟩
  | .acqSatisfied panel tid => ⟨.acqSatisfied panel tid, fun _ => rfl⟩
  | .waitDone panel tid => ⟨.waitDone panel tid, fun _ => rfl⟩
  | .matrixGrant req => ⟨.matrixGrant req, fun _ => rfl⟩
  | .matrixRequestComplete req => ⟨.matrixRequestComplete req, fun _ => rfl⟩
  | .freeRecordClear panel tid => ⟨.freeRecordClear panel tid, fun _ => rfl⟩
  | .travelDeparture panel tid => ⟨.travelDeparture panel tid, fun _ => rfl⟩
  | .parcelArrival parcel => ⟨.parcelArrival parcel, fun _ => rfl⟩
  | .spoolParcelToThread core => ⟨.spoolParcelToThread core, fun _ => rfl⟩
  | .overflowReadback core => ⟨.overflowReadback core, fun _ => rfl⟩
  | .occupancyReport core => ⟨.occupancyReport core, fun _ => rfl⟩
  | .parcelSendOnPin launch => ⟨.parcelSendOnPin launch, fun _ => rfl⟩
  | .messageArrival parcel => ⟨.messageArrival parcel, fun _ => rfl⟩
  | .handlerPanelStart core => ⟨.handlerPanelStart core, fun _ => rfl⟩
  | .queryPost query stack => ⟨.queryPost query stack, fun _ => rfl⟩
  | .stackResultWrite query stack => ⟨.stackResultWrite query stack, fun _ => rfl⟩
  | .sweepResultWrite query => ⟨.sweepResultWrite query, fun _ => rfl⟩
  | .rowRefresh stack bank row => ⟨.rowRefresh stack bank row, fun _ => rfl⟩
  | .refreshSlackExpiry stack bank row => ⟨.refreshSlackExpiry stack bank row, fun _ => rfl⟩
  | .scrubRow stack bank row => ⟨.scrubRow stack bank row, fun _ => rfl⟩
  | .faultRecordPost part => ⟨.faultRecordPost part, fun _ => rfl⟩
  | .panelRetire panel => ⟨.panelRetire panel, fun _ => rfl⟩
  | .launchRetire launch => ⟨.launchRetire launch, fun _ => rfl⟩
  | .bridgeRetrainTimeout => ⟨.bridgeRetrainTimeout, fun _ => rfl⟩
  | .zidorLinkDownTimeout link => ⟨.zidorLinkDownTimeout link, fun _ => rfl⟩
  | .releaseComplete panel tid => ⟨.releaseComplete panel tid, fun _ => rfl⟩
  | .invalComplete panel tid => ⟨.invalComplete panel tid, fun _ => rfl⟩

end Sys2Proof.Machine
end

