-- ==== Sys2Proof/Laws/State.lean ====
section
/-! SUPPORT. What each update of the state leaves alone: one lemma for each field of each update. -/

namespace Sys2Proof.Machine

variable {s0 : State}

/-! ## A step under way -/

@[simp] theorem Tx.mod_mem (tx : Tx s0) (f : Sys → Sys) : (tx.mod f).st.mem = tx.st.mem := rfl
@[simp] theorem Tx.mod_hostMem (tx : Tx s0) (f : Sys → Sys) : (tx.mod f).st.hostMem = tx.st.hostMem := rfl
@[simp] theorem Tx.mod_sys (tx : Tx s0) (f : Sys → Sys) : (tx.mod f).sys = f tx.sys := rfl
@[simp] theorem Tx.mod_halt (tx : Tx s0) (f : Sys → Sys) : (tx.mod f).halt = tx.halt := rfl
@[simp] theorem Tx.poke_mem (tx : Tx s0) (a : Nat) (bs : List Byte) : (tx.poke a bs).st.mem = Mem.putBytes tx.st.mem a bs := rfl
@[simp] theorem Tx.poke_hostMem (tx : Tx s0) (a : Nat) (bs : List Byte) : (tx.poke a bs).st.hostMem = tx.st.hostMem := rfl
@[simp] theorem Tx.poke_sys (tx : Tx s0) (a : Nat) (bs : List Byte) : (tx.poke a bs).sys = tx.sys := rfl
@[simp] theorem Tx.poke_halt (tx : Tx s0) (a : Nat) (bs : List Byte) : (tx.poke a bs).halt = tx.halt := rfl
@[simp] theorem Tx.zero_mem (tx : Tx s0) (a n : Nat) : (tx.zero a n).st.mem = Mem.zero tx.st.mem a n := rfl
@[simp] theorem Tx.zero_hostMem (tx : Tx s0) (a n : Nat) : (tx.zero a n).st.hostMem = tx.st.hostMem := rfl
@[simp] theorem Tx.zero_sys (tx : Tx s0) (a n : Nat) : (tx.zero a n).sys = tx.sys := rfl
@[simp] theorem Tx.zero_halt (tx : Tx s0) (a n : Nat) : (tx.zero a n).halt = tx.halt := rfl
@[simp] theorem Tx.hostPoke_mem (tx : Tx s0) (a : Nat) (bs : List Byte) : (tx.hostPoke a bs).st.mem = tx.st.mem := rfl
@[simp] theorem Tx.hostPoke_hostMem (tx : Tx s0) (a : Nat) (bs : List Byte) : (tx.hostPoke a bs).st.hostMem = Mem.putBytes tx.st.hostMem a bs := rfl
@[simp] theorem Tx.hostPoke_sys (tx : Tx s0) (a : Nat) (bs : List Byte) : (tx.hostPoke a bs).sys = tx.sys := rfl
@[simp] theorem Tx.hostPoke_halt (tx : Tx s0) (a : Nat) (bs : List Byte) : (tx.hostPoke a bs).halt = tx.halt := rfl
@[simp] theorem Tx.stop_mem (tx : Tx s0) (f : Fault) : (tx.stop f).st.mem = tx.st.mem := rfl
@[simp] theorem Tx.stop_hostMem (tx : Tx s0) (f : Fault) : (tx.stop f).st.hostMem = tx.st.hostMem := rfl
@[simp] theorem Tx.stop_sys (tx : Tx s0) (f : Fault) : (tx.stop f).sys = tx.sys := rfl
@[simp] theorem Tx.stop_halt (tx : Tx s0) (f : Fault) : (tx.stop f).halt = some f := rfl
@[simp] theorem Tx.start_st (s : State) : (Tx.start s).st = s := rfl
@[simp] theorem Tx.start_sys (s : State) : (Tx.start s).sys = s.sys := rfl
@[simp] theorem Tx.start_halt (s : State) : (Tx.start s).halt = none := rfl

/-- A step that has not stopped answers the state it has reached. -/
theorem Tx.done_of_halt {tx : Tx s0} (h : tx.halt = none) : tx.done = .next tx.st := by rw [Tx.done, h]

/-- A step that answers a next state has not stopped. -/
theorem Tx.done_next {tx : Tx s0} {t : State} (h : tx.done = .next t) : tx.halt = none ∧ tx.st = t := by
  unfold Tx.done at h
  split at h
  · cases h
  · next h' => cases h; exact ⟨h', rfl⟩

/-- Whatever a step does, both byte stores keep their form. -/
theorem Tx.done_memOk {tx : Tx s0} {t : State} (h : tx.done = .next t) (ok : s0.memOk) : t.memOk :=
  (Tx.done_next h).2 ▸ tx.ok ok

/-- A step never refuses. -/
theorem Tx.done_not_refused (tx : Tx s0) (r : Refusal) : tx.done ≠ .refused r := by
  unfold Tx.done; split <;> simp

/-! ## Tables -/

@[simp] theorem Sys.setPanel_agenda (s : Sys) (p : Panel) : (s.setPanel p).agenda = s.agenda := rfl
@[simp] theorem Sys.setPanel_focus (s : Sys) (p : Panel) : (s.setPanel p).focus = s.focus := rfl
@[simp] theorem Sys.setPanel_nonce (s : Sys) (p : Panel) : (s.setPanel p).nonce = s.nonce := rfl
@[simp] theorem Sys.setPanel_serial (s : Sys) (p : Panel) : (s.setPanel p).serial = s.serial := rfl
@[simp] theorem Sys.setPanel_turn (s : Sys) (p : Panel) : (s.setPanel p).turn = s.turn := rfl
@[simp] theorem Sys.setPanel_booted (s : Sys) (p : Panel) : (s.setPanel p).booted = s.booted := rfl
@[simp] theorem Sys.setPanel_hot (s : Sys) (p : Panel) : (s.setPanel p).hot = s.hot := rfl
@[simp] theorem Sys.setPanel_shut (s : Sys) (p : Panel) : (s.setPanel p).shut = s.shut := rfl
@[simp] theorem Sys.setPanel_corrected (s : Sys) (p : Panel) : (s.setPanel p).corrected = s.corrected := rfl
@[simp] theorem Sys.setPanel_harv (s : Sys) (p : Panel) : (s.setPanel p).harv = s.harv := rfl
@[simp] theorem Sys.setPanel_lineKeys (s : Sys) (p : Panel) : (s.setPanel p).lineKeys = s.lineKeys := rfl
@[simp] theorem Sys.setPanel_poisonLines (s : Sys) (p : Panel) : (s.setPanel p).poisonLines = s.poisonLines := rfl
@[simp] theorem Sys.setPanel_tags (s : Sys) (p : Panel) : (s.setPanel p).tags = s.tags := rfl
@[simp] theorem Sys.setPanel_l2 (s : Sys) (p : Panel) : (s.setPanel p).l2 = s.l2 := rfl
@[simp] theorem Sys.setPanel_ildom (s : Sys) (p : Panel) : (s.setPanel p).ildom = s.ildom := rfl
@[simp] theorem Sys.setPanel_dies (s : Sys) (p : Panel) : (s.setPanel p).dies = s.dies := rfl
@[simp] theorem Sys.setPanel_stks (s : Sys) (p : Panel) : (s.setPanel p).stks = s.stks := rfl
@[simp] theorem Sys.setPanel_walks (s : Sys) (p : Panel) : (s.setPanel p).walks = s.walks := rfl
@[simp] theorem Sys.setPanel_bridge (s : Sys) (p : Panel) : (s.setPanel p).bridge = s.bridge := rfl
@[simp] theorem Sys.setPanel_links (s : Sys) (p : Panel) : (s.setPanel p).links = s.links := rfl
@[simp] theorem Sys.setPanel_domains (s : Sys) (p : Panel) : (s.setPanel p).domains = s.domains := rfl
@[simp] theorem Sys.setPanel_queues (s : Sys) (p : Panel) : (s.setPanel p).queues = s.queues := rfl
@[simp] theorem Sys.setPanel_stream (s : Sys) (p : Panel) : (s.setPanel p).stream = s.stream := rfl
@[simp] theorem Sys.setPanel_rr (s : Sys) (p : Panel) : (s.setPanel p).rr = s.rr := rfl
@[simp] theorem Sys.setPanel_replies (s : Sys) (p : Panel) : (s.setPanel p).replies = s.replies := rfl
@[simp] theorem Sys.setPanel_strays (s : Sys) (p : Panel) : (s.setPanel p).strays = s.strays := rfl
@[simp] theorem Sys.setPanel_notices (s : Sys) (p : Panel) : (s.setPanel p).notices = s.notices := rfl
@[simp] theorem Sys.setPanel_parts (s : Sys) (p : Panel) : (s.setPanel p).parts = s.parts := rfl
@[simp] theorem Sys.setPanel_objects (s : Sys) (p : Panel) : (s.setPanel p).objects = s.objects := rfl
@[simp] theorem Sys.setPanel_launches (s : Sys) (p : Panel) : (s.setPanel p).launches = s.launches := rfl
@[simp] theorem Sys.setPanel_yokes (s : Sys) (p : Panel) : (s.setPanel p).yokes = s.yokes := rfl
@[simp] theorem Sys.setPanel_threads (s : Sys) (p : Panel) : (s.setPanel p).threads = s.threads := rfl
@[simp] theorem Sys.setPanel_cores (s : Sys) (p : Panel) : (s.setPanel p).cores = s.cores := rfl
@[simp] theorem Sys.setPanel_cmds (s : Sys) (p : Panel) : (s.setPanel p).cmds = s.cmds := rfl
@[simp] theorem Sys.setPanel_reqs (s : Sys) (p : Panel) : (s.setPanel p).reqs = s.reqs := rfl
@[simp] theorem Sys.setPanel_queries (s : Sys) (p : Panel) : (s.setPanel p).queries = s.queries := rfl
@[simp] theorem Sys.setPanel_sweeps (s : Sys) (p : Panel) : (s.setPanel p).sweeps = s.sweeps := rfl
@[simp] theorem Sys.setPanel_parcels (s : Sys) (p : Panel) : (s.setPanel p).parcels = s.parcels := rfl
@[simp] theorem Sys.setPanel_sent (s : Sys) (p : Panel) : (s.setPanel p).sent = s.sent := rfl
@[simp] theorem Sys.setPanel_lost (s : Sys) (p : Panel) : (s.setPanel p).lost = s.lost := rfl
@[simp] theorem Sys.setYoke_agenda (s : Sys) (y : Yoke) : (s.setYoke y).agenda = s.agenda := rfl
@[simp] theorem Sys.setYoke_focus (s : Sys) (y : Yoke) : (s.setYoke y).focus = s.focus := rfl
@[simp] theorem Sys.setYoke_nonce (s : Sys) (y : Yoke) : (s.setYoke y).nonce = s.nonce := rfl
@[simp] theorem Sys.setYoke_serial (s : Sys) (y : Yoke) : (s.setYoke y).serial = s.serial := rfl
@[simp] theorem Sys.setYoke_turn (s : Sys) (y : Yoke) : (s.setYoke y).turn = s.turn := rfl
@[simp] theorem Sys.setYoke_booted (s : Sys) (y : Yoke) : (s.setYoke y).booted = s.booted := rfl
@[simp] theorem Sys.setYoke_hot (s : Sys) (y : Yoke) : (s.setYoke y).hot = s.hot := rfl
@[simp] theorem Sys.setYoke_shut (s : Sys) (y : Yoke) : (s.setYoke y).shut = s.shut := rfl
@[simp] theorem Sys.setYoke_corrected (s : Sys) (y : Yoke) : (s.setYoke y).corrected = s.corrected := rfl
@[simp] theorem Sys.setYoke_harv (s : Sys) (y : Yoke) : (s.setYoke y).harv = s.harv := rfl
@[simp] theorem Sys.setYoke_lineKeys (s : Sys) (y : Yoke) : (s.setYoke y).lineKeys = s.lineKeys := rfl
@[simp] theorem Sys.setYoke_poisonLines (s : Sys) (y : Yoke) : (s.setYoke y).poisonLines = s.poisonLines := rfl
@[simp] theorem Sys.setYoke_tags (s : Sys) (y : Yoke) : (s.setYoke y).tags = s.tags := rfl
@[simp] theorem Sys.setYoke_l2 (s : Sys) (y : Yoke) : (s.setYoke y).l2 = s.l2 := rfl
@[simp] theorem Sys.setYoke_ildom (s : Sys) (y : Yoke) : (s.setYoke y).ildom = s.ildom := rfl
@[simp] theorem Sys.setYoke_dies (s : Sys) (y : Yoke) : (s.setYoke y).dies = s.dies := rfl
@[simp] theorem Sys.setYoke_stks (s : Sys) (y : Yoke) : (s.setYoke y).stks = s.stks := rfl
@[simp] theorem Sys.setYoke_walks (s : Sys) (y : Yoke) : (s.setYoke y).walks = s.walks := rfl
@[simp] theorem Sys.setYoke_bridge (s : Sys) (y : Yoke) : (s.setYoke y).bridge = s.bridge := rfl
@[simp] theorem Sys.setYoke_links (s : Sys) (y : Yoke) : (s.setYoke y).links = s.links := rfl
@[simp] theorem Sys.setYoke_domains (s : Sys) (y : Yoke) : (s.setYoke y).domains = s.domains := rfl
@[simp] theorem Sys.setYoke_queues (s : Sys) (y : Yoke) : (s.setYoke y).queues = s.queues := rfl
@[simp] theorem Sys.setYoke_stream (s : Sys) (y : Yoke) : (s.setYoke y).stream = s.stream := rfl
@[simp] theorem Sys.setYoke_rr (s : Sys) (y : Yoke) : (s.setYoke y).rr = s.rr := rfl
@[simp] theorem Sys.setYoke_replies (s : Sys) (y : Yoke) : (s.setYoke y).replies = s.replies := rfl
@[simp] theorem Sys.setYoke_strays (s : Sys) (y : Yoke) : (s.setYoke y).strays = s.strays := rfl
@[simp] theorem Sys.setYoke_notices (s : Sys) (y : Yoke) : (s.setYoke y).notices = s.notices := rfl
@[simp] theorem Sys.setYoke_parts (s : Sys) (y : Yoke) : (s.setYoke y).parts = s.parts := rfl
@[simp] theorem Sys.setYoke_objects (s : Sys) (y : Yoke) : (s.setYoke y).objects = s.objects := rfl
@[simp] theorem Sys.setYoke_launches (s : Sys) (y : Yoke) : (s.setYoke y).launches = s.launches := rfl
@[simp] theorem Sys.setYoke_panels (s : Sys) (y : Yoke) : (s.setYoke y).panels = s.panels := rfl
@[simp] theorem Sys.setYoke_threads (s : Sys) (y : Yoke) : (s.setYoke y).threads = s.threads := rfl
@[simp] theorem Sys.setYoke_cores (s : Sys) (y : Yoke) : (s.setYoke y).cores = s.cores := rfl
@[simp] theorem Sys.setYoke_cmds (s : Sys) (y : Yoke) : (s.setYoke y).cmds = s.cmds := rfl
@[simp] theorem Sys.setYoke_reqs (s : Sys) (y : Yoke) : (s.setYoke y).reqs = s.reqs := rfl
@[simp] theorem Sys.setYoke_queries (s : Sys) (y : Yoke) : (s.setYoke y).queries = s.queries := rfl
@[simp] theorem Sys.setYoke_sweeps (s : Sys) (y : Yoke) : (s.setYoke y).sweeps = s.sweeps := rfl
@[simp] theorem Sys.setYoke_parcels (s : Sys) (y : Yoke) : (s.setYoke y).parcels = s.parcels := rfl
@[simp] theorem Sys.setYoke_sent (s : Sys) (y : Yoke) : (s.setYoke y).sent = s.sent := rfl
@[simp] theorem Sys.setYoke_lost (s : Sys) (y : Yoke) : (s.setYoke y).lost = s.lost := rfl
@[simp] theorem Sys.setLaunch_agenda (s : Sys) (l : Launch) : (s.setLaunch l).agenda = s.agenda := rfl
@[simp] theorem Sys.setLaunch_focus (s : Sys) (l : Launch) : (s.setLaunch l).focus = s.focus := rfl
@[simp] theorem Sys.setLaunch_nonce (s : Sys) (l : Launch) : (s.setLaunch l).nonce = s.nonce := rfl
@[simp] theorem Sys.setLaunch_serial (s : Sys) (l : Launch) : (s.setLaunch l).serial = s.serial := rfl
@[simp] theorem Sys.setLaunch_turn (s : Sys) (l : Launch) : (s.setLaunch l).turn = s.turn := rfl
@[simp] theorem Sys.setLaunch_booted (s : Sys) (l : Launch) : (s.setLaunch l).booted = s.booted := rfl
@[simp] theorem Sys.setLaunch_hot (s : Sys) (l : Launch) : (s.setLaunch l).hot = s.hot := rfl
@[simp] theorem Sys.setLaunch_shut (s : Sys) (l : Launch) : (s.setLaunch l).shut = s.shut := rfl
@[simp] theorem Sys.setLaunch_corrected (s : Sys) (l : Launch) : (s.setLaunch l).corrected = s.corrected := rfl
@[simp] theorem Sys.setLaunch_harv (s : Sys) (l : Launch) : (s.setLaunch l).harv = s.harv := rfl
@[simp] theorem Sys.setLaunch_lineKeys (s : Sys) (l : Launch) : (s.setLaunch l).lineKeys = s.lineKeys := rfl
@[simp] theorem Sys.setLaunch_poisonLines (s : Sys) (l : Launch) : (s.setLaunch l).poisonLines = s.poisonLines := rfl
@[simp] theorem Sys.setLaunch_tags (s : Sys) (l : Launch) : (s.setLaunch l).tags = s.tags := rfl
@[simp] theorem Sys.setLaunch_l2 (s : Sys) (l : Launch) : (s.setLaunch l).l2 = s.l2 := rfl
@[simp] theorem Sys.setLaunch_ildom (s : Sys) (l : Launch) : (s.setLaunch l).ildom = s.ildom := rfl
@[simp] theorem Sys.setLaunch_dies (s : Sys) (l : Launch) : (s.setLaunch l).dies = s.dies := rfl
@[simp] theorem Sys.setLaunch_stks (s : Sys) (l : Launch) : (s.setLaunch l).stks = s.stks := rfl
@[simp] theorem Sys.setLaunch_walks (s : Sys) (l : Launch) : (s.setLaunch l).walks = s.walks := rfl
@[simp] theorem Sys.setLaunch_bridge (s : Sys) (l : Launch) : (s.setLaunch l).bridge = s.bridge := rfl
@[simp] theorem Sys.setLaunch_links (s : Sys) (l : Launch) : (s.setLaunch l).links = s.links := rfl
@[simp] theorem Sys.setLaunch_domains (s : Sys) (l : Launch) : (s.setLaunch l).domains = s.domains := rfl
@[simp] theorem Sys.setLaunch_queues (s : Sys) (l : Launch) : (s.setLaunch l).queues = s.queues := rfl
@[simp] theorem Sys.setLaunch_stream (s : Sys) (l : Launch) : (s.setLaunch l).stream = s.stream := rfl
@[simp] theorem Sys.setLaunch_rr (s : Sys) (l : Launch) : (s.setLaunch l).rr = s.rr := rfl
@[simp] theorem Sys.setLaunch_replies (s : Sys) (l : Launch) : (s.setLaunch l).replies = s.replies := rfl
@[simp] theorem Sys.setLaunch_strays (s : Sys) (l : Launch) : (s.setLaunch l).strays = s.strays := rfl
@[simp] theorem Sys.setLaunch_notices (s : Sys) (l : Launch) : (s.setLaunch l).notices = s.notices := rfl
@[simp] theorem Sys.setLaunch_parts (s : Sys) (l : Launch) : (s.setLaunch l).parts = s.parts := rfl
@[simp] theorem Sys.setLaunch_objects (s : Sys) (l : Launch) : (s.setLaunch l).objects = s.objects := rfl
@[simp] theorem Sys.setLaunch_yokes (s : Sys) (l : Launch) : (s.setLaunch l).yokes = s.yokes := rfl
@[simp] theorem Sys.setLaunch_panels (s : Sys) (l : Launch) : (s.setLaunch l).panels = s.panels := rfl
@[simp] theorem Sys.setLaunch_threads (s : Sys) (l : Launch) : (s.setLaunch l).threads = s.threads := rfl
@[simp] theorem Sys.setLaunch_cores (s : Sys) (l : Launch) : (s.setLaunch l).cores = s.cores := rfl
@[simp] theorem Sys.setLaunch_cmds (s : Sys) (l : Launch) : (s.setLaunch l).cmds = s.cmds := rfl
@[simp] theorem Sys.setLaunch_reqs (s : Sys) (l : Launch) : (s.setLaunch l).reqs = s.reqs := rfl
@[simp] theorem Sys.setLaunch_queries (s : Sys) (l : Launch) : (s.setLaunch l).queries = s.queries := rfl
@[simp] theorem Sys.setLaunch_sweeps (s : Sys) (l : Launch) : (s.setLaunch l).sweeps = s.sweeps := rfl
@[simp] theorem Sys.setLaunch_parcels (s : Sys) (l : Launch) : (s.setLaunch l).parcels = s.parcels := rfl
@[simp] theorem Sys.setLaunch_sent (s : Sys) (l : Launch) : (s.setLaunch l).sent = s.sent := rfl
@[simp] theorem Sys.setLaunch_lost (s : Sys) (l : Launch) : (s.setLaunch l).lost = s.lost := rfl
@[simp] theorem Sys.setObject_agenda (s : Sys) (o : Object) : (s.setObject o).agenda = s.agenda := rfl
@[simp] theorem Sys.setObject_focus (s : Sys) (o : Object) : (s.setObject o).focus = s.focus := rfl
@[simp] theorem Sys.setObject_nonce (s : Sys) (o : Object) : (s.setObject o).nonce = s.nonce := rfl
@[simp] theorem Sys.setObject_serial (s : Sys) (o : Object) : (s.setObject o).serial = s.serial := rfl
@[simp] theorem Sys.setObject_turn (s : Sys) (o : Object) : (s.setObject o).turn = s.turn := rfl
@[simp] theorem Sys.setObject_booted (s : Sys) (o : Object) : (s.setObject o).booted = s.booted := rfl
@[simp] theorem Sys.setObject_hot (s : Sys) (o : Object) : (s.setObject o).hot = s.hot := rfl
@[simp] theorem Sys.setObject_shut (s : Sys) (o : Object) : (s.setObject o).shut = s.shut := rfl
@[simp] theorem Sys.setObject_corrected (s : Sys) (o : Object) : (s.setObject o).corrected = s.corrected := rfl
@[simp] theorem Sys.setObject_harv (s : Sys) (o : Object) : (s.setObject o).harv = s.harv := rfl
@[simp] theorem Sys.setObject_lineKeys (s : Sys) (o : Object) : (s.setObject o).lineKeys = s.lineKeys := rfl
@[simp] theorem Sys.setObject_poisonLines (s : Sys) (o : Object) : (s.setObject o).poisonLines = s.poisonLines := rfl
@[simp] theorem Sys.setObject_tags (s : Sys) (o : Object) : (s.setObject o).tags = s.tags := rfl
@[simp] theorem Sys.setObject_l2 (s : Sys) (o : Object) : (s.setObject o).l2 = s.l2 := rfl
@[simp] theorem Sys.setObject_ildom (s : Sys) (o : Object) : (s.setObject o).ildom = s.ildom := rfl
@[simp] theorem Sys.setObject_dies (s : Sys) (o : Object) : (s.setObject o).dies = s.dies := rfl
@[simp] theorem Sys.setObject_stks (s : Sys) (o : Object) : (s.setObject o).stks = s.stks := rfl
@[simp] theorem Sys.setObject_walks (s : Sys) (o : Object) : (s.setObject o).walks = s.walks := rfl
@[simp] theorem Sys.setObject_bridge (s : Sys) (o : Object) : (s.setObject o).bridge = s.bridge := rfl
@[simp] theorem Sys.setObject_links (s : Sys) (o : Object) : (s.setObject o).links = s.links := rfl
@[simp] theorem Sys.setObject_domains (s : Sys) (o : Object) : (s.setObject o).domains = s.domains := rfl
@[simp] theorem Sys.setObject_queues (s : Sys) (o : Object) : (s.setObject o).queues = s.queues := rfl
@[simp] theorem Sys.setObject_stream (s : Sys) (o : Object) : (s.setObject o).stream = s.stream := rfl
@[simp] theorem Sys.setObject_rr (s : Sys) (o : Object) : (s.setObject o).rr = s.rr := rfl
@[simp] theorem Sys.setObject_replies (s : Sys) (o : Object) : (s.setObject o).replies = s.replies := rfl
@[simp] theorem Sys.setObject_strays (s : Sys) (o : Object) : (s.setObject o).strays = s.strays := rfl
@[simp] theorem Sys.setObject_notices (s : Sys) (o : Object) : (s.setObject o).notices = s.notices := rfl
@[simp] theorem Sys.setObject_parts (s : Sys) (o : Object) : (s.setObject o).parts = s.parts := rfl
@[simp] theorem Sys.setObject_launches (s : Sys) (o : Object) : (s.setObject o).launches = s.launches := rfl
@[simp] theorem Sys.setObject_yokes (s : Sys) (o : Object) : (s.setObject o).yokes = s.yokes := rfl
@[simp] theorem Sys.setObject_panels (s : Sys) (o : Object) : (s.setObject o).panels = s.panels := rfl
@[simp] theorem Sys.setObject_threads (s : Sys) (o : Object) : (s.setObject o).threads = s.threads := rfl
@[simp] theorem Sys.setObject_cores (s : Sys) (o : Object) : (s.setObject o).cores = s.cores := rfl
@[simp] theorem Sys.setObject_cmds (s : Sys) (o : Object) : (s.setObject o).cmds = s.cmds := rfl
@[simp] theorem Sys.setObject_reqs (s : Sys) (o : Object) : (s.setObject o).reqs = s.reqs := rfl
@[simp] theorem Sys.setObject_queries (s : Sys) (o : Object) : (s.setObject o).queries = s.queries := rfl
@[simp] theorem Sys.setObject_sweeps (s : Sys) (o : Object) : (s.setObject o).sweeps = s.sweeps := rfl
@[simp] theorem Sys.setObject_parcels (s : Sys) (o : Object) : (s.setObject o).parcels = s.parcels := rfl
@[simp] theorem Sys.setObject_sent (s : Sys) (o : Object) : (s.setObject o).sent = s.sent := rfl
@[simp] theorem Sys.setObject_lost (s : Sys) (o : Object) : (s.setObject o).lost = s.lost := rfl
@[simp] theorem Sys.setPart_agenda (s : Sys) (p : Partition) : (s.setPart p).agenda = s.agenda := rfl
@[simp] theorem Sys.setPart_focus (s : Sys) (p : Partition) : (s.setPart p).focus = s.focus := rfl
@[simp] theorem Sys.setPart_nonce (s : Sys) (p : Partition) : (s.setPart p).nonce = s.nonce := rfl
@[simp] theorem Sys.setPart_serial (s : Sys) (p : Partition) : (s.setPart p).serial = s.serial := rfl
@[simp] theorem Sys.setPart_turn (s : Sys) (p : Partition) : (s.setPart p).turn = s.turn := rfl
@[simp] theorem Sys.setPart_booted (s : Sys) (p : Partition) : (s.setPart p).booted = s.booted := rfl
@[simp] theorem Sys.setPart_hot (s : Sys) (p : Partition) : (s.setPart p).hot = s.hot := rfl
@[simp] theorem Sys.setPart_shut (s : Sys) (p : Partition) : (s.setPart p).shut = s.shut := rfl
@[simp] theorem Sys.setPart_corrected (s : Sys) (p : Partition) : (s.setPart p).corrected = s.corrected := rfl
@[simp] theorem Sys.setPart_harv (s : Sys) (p : Partition) : (s.setPart p).harv = s.harv := rfl
@[simp] theorem Sys.setPart_lineKeys (s : Sys) (p : Partition) : (s.setPart p).lineKeys = s.lineKeys := rfl
@[simp] theorem Sys.setPart_poisonLines (s : Sys) (p : Partition) : (s.setPart p).poisonLines = s.poisonLines := rfl
@[simp] theorem Sys.setPart_tags (s : Sys) (p : Partition) : (s.setPart p).tags = s.tags := rfl
@[simp] theorem Sys.setPart_l2 (s : Sys) (p : Partition) : (s.setPart p).l2 = s.l2 := rfl
@[simp] theorem Sys.setPart_ildom (s : Sys) (p : Partition) : (s.setPart p).ildom = s.ildom := rfl
@[simp] theorem Sys.setPart_dies (s : Sys) (p : Partition) : (s.setPart p).dies = s.dies := rfl
@[simp] theorem Sys.setPart_stks (s : Sys) (p : Partition) : (s.setPart p).stks = s.stks := rfl
@[simp] theorem Sys.setPart_walks (s : Sys) (p : Partition) : (s.setPart p).walks = s.walks := rfl
@[simp] theorem Sys.setPart_bridge (s : Sys) (p : Partition) : (s.setPart p).bridge = s.bridge := rfl
@[simp] theorem Sys.setPart_links (s : Sys) (p : Partition) : (s.setPart p).links = s.links := rfl
@[simp] theorem Sys.setPart_domains (s : Sys) (p : Partition) : (s.setPart p).domains = s.domains := rfl
@[simp] theorem Sys.setPart_queues (s : Sys) (p : Partition) : (s.setPart p).queues = s.queues := rfl
@[simp] theorem Sys.setPart_stream (s : Sys) (p : Partition) : (s.setPart p).stream = s.stream := rfl
@[simp] theorem Sys.setPart_rr (s : Sys) (p : Partition) : (s.setPart p).rr = s.rr := rfl
@[simp] theorem Sys.setPart_replies (s : Sys) (p : Partition) : (s.setPart p).replies = s.replies := rfl
@[simp] theorem Sys.setPart_strays (s : Sys) (p : Partition) : (s.setPart p).strays = s.strays := rfl
@[simp] theorem Sys.setPart_notices (s : Sys) (p : Partition) : (s.setPart p).notices = s.notices := rfl
@[simp] theorem Sys.setPart_objects (s : Sys) (p : Partition) : (s.setPart p).objects = s.objects := rfl
@[simp] theorem Sys.setPart_launches (s : Sys) (p : Partition) : (s.setPart p).launches = s.launches := rfl
@[simp] theorem Sys.setPart_yokes (s : Sys) (p : Partition) : (s.setPart p).yokes = s.yokes := rfl
@[simp] theorem Sys.setPart_panels (s : Sys) (p : Partition) : (s.setPart p).panels = s.panels := rfl
@[simp] theorem Sys.setPart_threads (s : Sys) (p : Partition) : (s.setPart p).threads = s.threads := rfl
@[simp] theorem Sys.setPart_cores (s : Sys) (p : Partition) : (s.setPart p).cores = s.cores := rfl
@[simp] theorem Sys.setPart_cmds (s : Sys) (p : Partition) : (s.setPart p).cmds = s.cmds := rfl
@[simp] theorem Sys.setPart_reqs (s : Sys) (p : Partition) : (s.setPart p).reqs = s.reqs := rfl
@[simp] theorem Sys.setPart_queries (s : Sys) (p : Partition) : (s.setPart p).queries = s.queries := rfl
@[simp] theorem Sys.setPart_sweeps (s : Sys) (p : Partition) : (s.setPart p).sweeps = s.sweeps := rfl
@[simp] theorem Sys.setPart_parcels (s : Sys) (p : Partition) : (s.setPart p).parcels = s.parcels := rfl
@[simp] theorem Sys.setPart_sent (s : Sys) (p : Partition) : (s.setPart p).sent = s.sent := rfl
@[simp] theorem Sys.setPart_lost (s : Sys) (p : Partition) : (s.setPart p).lost = s.lost := rfl
@[simp] theorem Sys.setCmd_agenda (s : Sys) (c : Cmd) : (s.setCmd c).agenda = s.agenda := rfl
@[simp] theorem Sys.setCmd_focus (s : Sys) (c : Cmd) : (s.setCmd c).focus = s.focus := rfl
@[simp] theorem Sys.setCmd_nonce (s : Sys) (c : Cmd) : (s.setCmd c).nonce = s.nonce := rfl
@[simp] theorem Sys.setCmd_serial (s : Sys) (c : Cmd) : (s.setCmd c).serial = s.serial := rfl
@[simp] theorem Sys.setCmd_turn (s : Sys) (c : Cmd) : (s.setCmd c).turn = s.turn := rfl
@[simp] theorem Sys.setCmd_booted (s : Sys) (c : Cmd) : (s.setCmd c).booted = s.booted := rfl
@[simp] theorem Sys.setCmd_hot (s : Sys) (c : Cmd) : (s.setCmd c).hot = s.hot := rfl
@[simp] theorem Sys.setCmd_shut (s : Sys) (c : Cmd) : (s.setCmd c).shut = s.shut := rfl
@[simp] theorem Sys.setCmd_corrected (s : Sys) (c : Cmd) : (s.setCmd c).corrected = s.corrected := rfl
@[simp] theorem Sys.setCmd_harv (s : Sys) (c : Cmd) : (s.setCmd c).harv = s.harv := rfl
@[simp] theorem Sys.setCmd_lineKeys (s : Sys) (c : Cmd) : (s.setCmd c).lineKeys = s.lineKeys := rfl
@[simp] theorem Sys.setCmd_poisonLines (s : Sys) (c : Cmd) : (s.setCmd c).poisonLines = s.poisonLines := rfl
@[simp] theorem Sys.setCmd_tags (s : Sys) (c : Cmd) : (s.setCmd c).tags = s.tags := rfl
@[simp] theorem Sys.setCmd_l2 (s : Sys) (c : Cmd) : (s.setCmd c).l2 = s.l2 := rfl
@[simp] theorem Sys.setCmd_ildom (s : Sys) (c : Cmd) : (s.setCmd c).ildom = s.ildom := rfl
@[simp] theorem Sys.setCmd_dies (s : Sys) (c : Cmd) : (s.setCmd c).dies = s.dies := rfl
@[simp] theorem Sys.setCmd_stks (s : Sys) (c : Cmd) : (s.setCmd c).stks = s.stks := rfl
@[simp] theorem Sys.setCmd_walks (s : Sys) (c : Cmd) : (s.setCmd c).walks = s.walks := rfl
@[simp] theorem Sys.setCmd_bridge (s : Sys) (c : Cmd) : (s.setCmd c).bridge = s.bridge := rfl
@[simp] theorem Sys.setCmd_links (s : Sys) (c : Cmd) : (s.setCmd c).links = s.links := rfl
@[simp] theorem Sys.setCmd_domains (s : Sys) (c : Cmd) : (s.setCmd c).domains = s.domains := rfl
@[simp] theorem Sys.setCmd_queues (s : Sys) (c : Cmd) : (s.setCmd c).queues = s.queues := rfl
@[simp] theorem Sys.setCmd_stream (s : Sys) (c : Cmd) : (s.setCmd c).stream = s.stream := rfl
@[simp] theorem Sys.setCmd_rr (s : Sys) (c : Cmd) : (s.setCmd c).rr = s.rr := rfl
@[simp] theorem Sys.setCmd_replies (s : Sys) (c : Cmd) : (s.setCmd c).replies = s.replies := rfl
@[simp] theorem Sys.setCmd_strays (s : Sys) (c : Cmd) : (s.setCmd c).strays = s.strays := rfl
@[simp] theorem Sys.setCmd_notices (s : Sys) (c : Cmd) : (s.setCmd c).notices = s.notices := rfl
@[simp] theorem Sys.setCmd_parts (s : Sys) (c : Cmd) : (s.setCmd c).parts = s.parts := rfl
@[simp] theorem Sys.setCmd_objects (s : Sys) (c : Cmd) : (s.setCmd c).objects = s.objects := rfl
@[simp] theorem Sys.setCmd_launches (s : Sys) (c : Cmd) : (s.setCmd c).launches = s.launches := rfl
@[simp] theorem Sys.setCmd_yokes (s : Sys) (c : Cmd) : (s.setCmd c).yokes = s.yokes := rfl
@[simp] theorem Sys.setCmd_panels (s : Sys) (c : Cmd) : (s.setCmd c).panels = s.panels := rfl
@[simp] theorem Sys.setCmd_threads (s : Sys) (c : Cmd) : (s.setCmd c).threads = s.threads := rfl
@[simp] theorem Sys.setCmd_cores (s : Sys) (c : Cmd) : (s.setCmd c).cores = s.cores := rfl
@[simp] theorem Sys.setCmd_reqs (s : Sys) (c : Cmd) : (s.setCmd c).reqs = s.reqs := rfl
@[simp] theorem Sys.setCmd_queries (s : Sys) (c : Cmd) : (s.setCmd c).queries = s.queries := rfl
@[simp] theorem Sys.setCmd_sweeps (s : Sys) (c : Cmd) : (s.setCmd c).sweeps = s.sweeps := rfl
@[simp] theorem Sys.setCmd_parcels (s : Sys) (c : Cmd) : (s.setCmd c).parcels = s.parcels := rfl
@[simp] theorem Sys.setCmd_sent (s : Sys) (c : Cmd) : (s.setCmd c).sent = s.sent := rfl
@[simp] theorem Sys.setCmd_lost (s : Sys) (c : Cmd) : (s.setCmd c).lost = s.lost := rfl
@[simp] theorem Sys.setReq_agenda (s : Sys) (r : Req) : (s.setReq r).agenda = s.agenda := rfl
@[simp] theorem Sys.setReq_focus (s : Sys) (r : Req) : (s.setReq r).focus = s.focus := rfl
@[simp] theorem Sys.setReq_nonce (s : Sys) (r : Req) : (s.setReq r).nonce = s.nonce := rfl
@[simp] theorem Sys.setReq_serial (s : Sys) (r : Req) : (s.setReq r).serial = s.serial := rfl
@[simp] theorem Sys.setReq_turn (s : Sys) (r : Req) : (s.setReq r).turn = s.turn := rfl
@[simp] theorem Sys.setReq_booted (s : Sys) (r : Req) : (s.setReq r).booted = s.booted := rfl
@[simp] theorem Sys.setReq_hot (s : Sys) (r : Req) : (s.setReq r).hot = s.hot := rfl
@[simp] theorem Sys.setReq_shut (s : Sys) (r : Req) : (s.setReq r).shut = s.shut := rfl
@[simp] theorem Sys.setReq_corrected (s : Sys) (r : Req) : (s.setReq r).corrected = s.corrected := rfl
@[simp] theorem Sys.setReq_harv (s : Sys) (r : Req) : (s.setReq r).harv = s.harv := rfl
@[simp] theorem Sys.setReq_lineKeys (s : Sys) (r : Req) : (s.setReq r).lineKeys = s.lineKeys := rfl
@[simp] theorem Sys.setReq_poisonLines (s : Sys) (r : Req) : (s.setReq r).poisonLines = s.poisonLines := rfl
@[simp] theorem Sys.setReq_tags (s : Sys) (r : Req) : (s.setReq r).tags = s.tags := rfl
@[simp] theorem Sys.setReq_l2 (s : Sys) (r : Req) : (s.setReq r).l2 = s.l2 := rfl
@[simp] theorem Sys.setReq_ildom (s : Sys) (r : Req) : (s.setReq r).ildom = s.ildom := rfl
@[simp] theorem Sys.setReq_dies (s : Sys) (r : Req) : (s.setReq r).dies = s.dies := rfl
@[simp] theorem Sys.setReq_stks (s : Sys) (r : Req) : (s.setReq r).stks = s.stks := rfl
@[simp] theorem Sys.setReq_walks (s : Sys) (r : Req) : (s.setReq r).walks = s.walks := rfl
@[simp] theorem Sys.setReq_bridge (s : Sys) (r : Req) : (s.setReq r).bridge = s.bridge := rfl
@[simp] theorem Sys.setReq_links (s : Sys) (r : Req) : (s.setReq r).links = s.links := rfl
@[simp] theorem Sys.setReq_domains (s : Sys) (r : Req) : (s.setReq r).domains = s.domains := rfl
@[simp] theorem Sys.setReq_queues (s : Sys) (r : Req) : (s.setReq r).queues = s.queues := rfl
@[simp] theorem Sys.setReq_stream (s : Sys) (r : Req) : (s.setReq r).stream = s.stream := rfl
@[simp] theorem Sys.setReq_rr (s : Sys) (r : Req) : (s.setReq r).rr = s.rr := rfl
@[simp] theorem Sys.setReq_replies (s : Sys) (r : Req) : (s.setReq r).replies = s.replies := rfl
@[simp] theorem Sys.setReq_strays (s : Sys) (r : Req) : (s.setReq r).strays = s.strays := rfl
@[simp] theorem Sys.setReq_notices (s : Sys) (r : Req) : (s.setReq r).notices = s.notices := rfl
@[simp] theorem Sys.setReq_parts (s : Sys) (r : Req) : (s.setReq r).parts = s.parts := rfl
@[simp] theorem Sys.setReq_objects (s : Sys) (r : Req) : (s.setReq r).objects = s.objects := rfl
@[simp] theorem Sys.setReq_launches (s : Sys) (r : Req) : (s.setReq r).launches = s.launches := rfl
@[simp] theorem Sys.setReq_yokes (s : Sys) (r : Req) : (s.setReq r).yokes = s.yokes := rfl
@[simp] theorem Sys.setReq_panels (s : Sys) (r : Req) : (s.setReq r).panels = s.panels := rfl
@[simp] theorem Sys.setReq_threads (s : Sys) (r : Req) : (s.setReq r).threads = s.threads := rfl
@[simp] theorem Sys.setReq_cores (s : Sys) (r : Req) : (s.setReq r).cores = s.cores := rfl
@[simp] theorem Sys.setReq_cmds (s : Sys) (r : Req) : (s.setReq r).cmds = s.cmds := rfl
@[simp] theorem Sys.setReq_queries (s : Sys) (r : Req) : (s.setReq r).queries = s.queries := rfl
@[simp] theorem Sys.setReq_sweeps (s : Sys) (r : Req) : (s.setReq r).sweeps = s.sweeps := rfl
@[simp] theorem Sys.setReq_parcels (s : Sys) (r : Req) : (s.setReq r).parcels = s.parcels := rfl
@[simp] theorem Sys.setReq_sent (s : Sys) (r : Req) : (s.setReq r).sent = s.sent := rfl
@[simp] theorem Sys.setReq_lost (s : Sys) (r : Req) : (s.setReq r).lost = s.lost := rfl
@[simp] theorem Sys.setQuery_agenda (s : Sys) (q : Query) : (s.setQuery q).agenda = s.agenda := rfl
@[simp] theorem Sys.setQuery_focus (s : Sys) (q : Query) : (s.setQuery q).focus = s.focus := rfl
@[simp] theorem Sys.setQuery_nonce (s : Sys) (q : Query) : (s.setQuery q).nonce = s.nonce := rfl
@[simp] theorem Sys.setQuery_serial (s : Sys) (q : Query) : (s.setQuery q).serial = s.serial := rfl
@[simp] theorem Sys.setQuery_turn (s : Sys) (q : Query) : (s.setQuery q).turn = s.turn := rfl
@[simp] theorem Sys.setQuery_booted (s : Sys) (q : Query) : (s.setQuery q).booted = s.booted := rfl
@[simp] theorem Sys.setQuery_hot (s : Sys) (q : Query) : (s.setQuery q).hot = s.hot := rfl
@[simp] theorem Sys.setQuery_shut (s : Sys) (q : Query) : (s.setQuery q).shut = s.shut := rfl
@[simp] theorem Sys.setQuery_corrected (s : Sys) (q : Query) : (s.setQuery q).corrected = s.corrected := rfl
@[simp] theorem Sys.setQuery_harv (s : Sys) (q : Query) : (s.setQuery q).harv = s.harv := rfl
@[simp] theorem Sys.setQuery_lineKeys (s : Sys) (q : Query) : (s.setQuery q).lineKeys = s.lineKeys := rfl
@[simp] theorem Sys.setQuery_poisonLines (s : Sys) (q : Query) : (s.setQuery q).poisonLines = s.poisonLines := rfl
@[simp] theorem Sys.setQuery_tags (s : Sys) (q : Query) : (s.setQuery q).tags = s.tags := rfl
@[simp] theorem Sys.setQuery_l2 (s : Sys) (q : Query) : (s.setQuery q).l2 = s.l2 := rfl
@[simp] theorem Sys.setQuery_ildom (s : Sys) (q : Query) : (s.setQuery q).ildom = s.ildom := rfl
@[simp] theorem Sys.setQuery_dies (s : Sys) (q : Query) : (s.setQuery q).dies = s.dies := rfl
@[simp] theorem Sys.setQuery_stks (s : Sys) (q : Query) : (s.setQuery q).stks = s.stks := rfl
@[simp] theorem Sys.setQuery_walks (s : Sys) (q : Query) : (s.setQuery q).walks = s.walks := rfl
@[simp] theorem Sys.setQuery_bridge (s : Sys) (q : Query) : (s.setQuery q).bridge = s.bridge := rfl
@[simp] theorem Sys.setQuery_links (s : Sys) (q : Query) : (s.setQuery q).links = s.links := rfl
@[simp] theorem Sys.setQuery_domains (s : Sys) (q : Query) : (s.setQuery q).domains = s.domains := rfl
@[simp] theorem Sys.setQuery_queues (s : Sys) (q : Query) : (s.setQuery q).queues = s.queues := rfl
@[simp] theorem Sys.setQuery_stream (s : Sys) (q : Query) : (s.setQuery q).stream = s.stream := rfl
@[simp] theorem Sys.setQuery_rr (s : Sys) (q : Query) : (s.setQuery q).rr = s.rr := rfl
@[simp] theorem Sys.setQuery_replies (s : Sys) (q : Query) : (s.setQuery q).replies = s.replies := rfl
@[simp] theorem Sys.setQuery_strays (s : Sys) (q : Query) : (s.setQuery q).strays = s.strays := rfl
@[simp] theorem Sys.setQuery_notices (s : Sys) (q : Query) : (s.setQuery q).notices = s.notices := rfl
@[simp] theorem Sys.setQuery_parts (s : Sys) (q : Query) : (s.setQuery q).parts = s.parts := rfl
@[simp] theorem Sys.setQuery_objects (s : Sys) (q : Query) : (s.setQuery q).objects = s.objects := rfl
@[simp] theorem Sys.setQuery_launches (s : Sys) (q : Query) : (s.setQuery q).launches = s.launches := rfl
@[simp] theorem Sys.setQuery_yokes (s : Sys) (q : Query) : (s.setQuery q).yokes = s.yokes := rfl
@[simp] theorem Sys.setQuery_panels (s : Sys) (q : Query) : (s.setQuery q).panels = s.panels := rfl
@[simp] theorem Sys.setQuery_threads (s : Sys) (q : Query) : (s.setQuery q).threads = s.threads := rfl
@[simp] theorem Sys.setQuery_cores (s : Sys) (q : Query) : (s.setQuery q).cores = s.cores := rfl
@[simp] theorem Sys.setQuery_cmds (s : Sys) (q : Query) : (s.setQuery q).cmds = s.cmds := rfl
@[simp] theorem Sys.setQuery_reqs (s : Sys) (q : Query) : (s.setQuery q).reqs = s.reqs := rfl
@[simp] theorem Sys.setQuery_sweeps (s : Sys) (q : Query) : (s.setQuery q).sweeps = s.sweeps := rfl
@[simp] theorem Sys.setQuery_parcels (s : Sys) (q : Query) : (s.setQuery q).parcels = s.parcels := rfl
@[simp] theorem Sys.setQuery_sent (s : Sys) (q : Query) : (s.setQuery q).sent = s.sent := rfl
@[simp] theorem Sys.setQuery_lost (s : Sys) (q : Query) : (s.setQuery q).lost = s.lost := rfl
@[simp] theorem Sys.setSweep_agenda (s : Sys) (q : Sweep) : (s.setSweep q).agenda = s.agenda := rfl
@[simp] theorem Sys.setSweep_focus (s : Sys) (q : Sweep) : (s.setSweep q).focus = s.focus := rfl
@[simp] theorem Sys.setSweep_nonce (s : Sys) (q : Sweep) : (s.setSweep q).nonce = s.nonce := rfl
@[simp] theorem Sys.setSweep_serial (s : Sys) (q : Sweep) : (s.setSweep q).serial = s.serial := rfl
@[simp] theorem Sys.setSweep_turn (s : Sys) (q : Sweep) : (s.setSweep q).turn = s.turn := rfl
@[simp] theorem Sys.setSweep_booted (s : Sys) (q : Sweep) : (s.setSweep q).booted = s.booted := rfl
@[simp] theorem Sys.setSweep_hot (s : Sys) (q : Sweep) : (s.setSweep q).hot = s.hot := rfl
@[simp] theorem Sys.setSweep_shut (s : Sys) (q : Sweep) : (s.setSweep q).shut = s.shut := rfl
@[simp] theorem Sys.setSweep_corrected (s : Sys) (q : Sweep) : (s.setSweep q).corrected = s.corrected := rfl
@[simp] theorem Sys.setSweep_harv (s : Sys) (q : Sweep) : (s.setSweep q).harv = s.harv := rfl
@[simp] theorem Sys.setSweep_lineKeys (s : Sys) (q : Sweep) : (s.setSweep q).lineKeys = s.lineKeys := rfl
@[simp] theorem Sys.setSweep_poisonLines (s : Sys) (q : Sweep) : (s.setSweep q).poisonLines = s.poisonLines := rfl
@[simp] theorem Sys.setSweep_tags (s : Sys) (q : Sweep) : (s.setSweep q).tags = s.tags := rfl
@[simp] theorem Sys.setSweep_l2 (s : Sys) (q : Sweep) : (s.setSweep q).l2 = s.l2 := rfl
@[simp] theorem Sys.setSweep_ildom (s : Sys) (q : Sweep) : (s.setSweep q).ildom = s.ildom := rfl
@[simp] theorem Sys.setSweep_dies (s : Sys) (q : Sweep) : (s.setSweep q).dies = s.dies := rfl
@[simp] theorem Sys.setSweep_stks (s : Sys) (q : Sweep) : (s.setSweep q).stks = s.stks := rfl
@[simp] theorem Sys.setSweep_walks (s : Sys) (q : Sweep) : (s.setSweep q).walks = s.walks := rfl
@[simp] theorem Sys.setSweep_bridge (s : Sys) (q : Sweep) : (s.setSweep q).bridge = s.bridge := rfl
@[simp] theorem Sys.setSweep_links (s : Sys) (q : Sweep) : (s.setSweep q).links = s.links := rfl
@[simp] theorem Sys.setSweep_domains (s : Sys) (q : Sweep) : (s.setSweep q).domains = s.domains := rfl
@[simp] theorem Sys.setSweep_queues (s : Sys) (q : Sweep) : (s.setSweep q).queues = s.queues := rfl
@[simp] theorem Sys.setSweep_stream (s : Sys) (q : Sweep) : (s.setSweep q).stream = s.stream := rfl
@[simp] theorem Sys.setSweep_rr (s : Sys) (q : Sweep) : (s.setSweep q).rr = s.rr := rfl
@[simp] theorem Sys.setSweep_replies (s : Sys) (q : Sweep) : (s.setSweep q).replies = s.replies := rfl
@[simp] theorem Sys.setSweep_strays (s : Sys) (q : Sweep) : (s.setSweep q).strays = s.strays := rfl
@[simp] theorem Sys.setSweep_notices (s : Sys) (q : Sweep) : (s.setSweep q).notices = s.notices := rfl
@[simp] theorem Sys.setSweep_parts (s : Sys) (q : Sweep) : (s.setSweep q).parts = s.parts := rfl
@[simp] theorem Sys.setSweep_objects (s : Sys) (q : Sweep) : (s.setSweep q).objects = s.objects := rfl
@[simp] theorem Sys.setSweep_launches (s : Sys) (q : Sweep) : (s.setSweep q).launches = s.launches := rfl
@[simp] theorem Sys.setSweep_yokes (s : Sys) (q : Sweep) : (s.setSweep q).yokes = s.yokes := rfl
@[simp] theorem Sys.setSweep_panels (s : Sys) (q : Sweep) : (s.setSweep q).panels = s.panels := rfl
@[simp] theorem Sys.setSweep_threads (s : Sys) (q : Sweep) : (s.setSweep q).threads = s.threads := rfl
@[simp] theorem Sys.setSweep_cores (s : Sys) (q : Sweep) : (s.setSweep q).cores = s.cores := rfl
@[simp] theorem Sys.setSweep_cmds (s : Sys) (q : Sweep) : (s.setSweep q).cmds = s.cmds := rfl
@[simp] theorem Sys.setSweep_reqs (s : Sys) (q : Sweep) : (s.setSweep q).reqs = s.reqs := rfl
@[simp] theorem Sys.setSweep_queries (s : Sys) (q : Sweep) : (s.setSweep q).queries = s.queries := rfl
@[simp] theorem Sys.setSweep_parcels (s : Sys) (q : Sweep) : (s.setSweep q).parcels = s.parcels := rfl
@[simp] theorem Sys.setSweep_sent (s : Sys) (q : Sweep) : (s.setSweep q).sent = s.sent := rfl
@[simp] theorem Sys.setSweep_lost (s : Sys) (q : Sweep) : (s.setSweep q).lost = s.lost := rfl
@[simp] theorem Sys.setParcel_agenda (s : Sys) (q : Parcel) : (s.setParcel q).agenda = s.agenda := rfl
@[simp] theorem Sys.setParcel_focus (s : Sys) (q : Parcel) : (s.setParcel q).focus = s.focus := rfl
@[simp] theorem Sys.setParcel_nonce (s : Sys) (q : Parcel) : (s.setParcel q).nonce = s.nonce := rfl
@[simp] theorem Sys.setParcel_serial (s : Sys) (q : Parcel) : (s.setParcel q).serial = s.serial := rfl
@[simp] theorem Sys.setParcel_turn (s : Sys) (q : Parcel) : (s.setParcel q).turn = s.turn := rfl
@[simp] theorem Sys.setParcel_booted (s : Sys) (q : Parcel) : (s.setParcel q).booted = s.booted := rfl
@[simp] theorem Sys.setParcel_hot (s : Sys) (q : Parcel) : (s.setParcel q).hot = s.hot := rfl
@[simp] theorem Sys.setParcel_shut (s : Sys) (q : Parcel) : (s.setParcel q).shut = s.shut := rfl
@[simp] theorem Sys.setParcel_corrected (s : Sys) (q : Parcel) : (s.setParcel q).corrected = s.corrected := rfl
@[simp] theorem Sys.setParcel_harv (s : Sys) (q : Parcel) : (s.setParcel q).harv = s.harv := rfl
@[simp] theorem Sys.setParcel_lineKeys (s : Sys) (q : Parcel) : (s.setParcel q).lineKeys = s.lineKeys := rfl
@[simp] theorem Sys.setParcel_poisonLines (s : Sys) (q : Parcel) : (s.setParcel q).poisonLines = s.poisonLines := rfl
@[simp] theorem Sys.setParcel_tags (s : Sys) (q : Parcel) : (s.setParcel q).tags = s.tags := rfl
@[simp] theorem Sys.setParcel_l2 (s : Sys) (q : Parcel) : (s.setParcel q).l2 = s.l2 := rfl
@[simp] theorem Sys.setParcel_ildom (s : Sys) (q : Parcel) : (s.setParcel q).ildom = s.ildom := rfl
@[simp] theorem Sys.setParcel_dies (s : Sys) (q : Parcel) : (s.setParcel q).dies = s.dies := rfl
@[simp] theorem Sys.setParcel_stks (s : Sys) (q : Parcel) : (s.setParcel q).stks = s.stks := rfl
@[simp] theorem Sys.setParcel_walks (s : Sys) (q : Parcel) : (s.setParcel q).walks = s.walks := rfl
@[simp] theorem Sys.setParcel_bridge (s : Sys) (q : Parcel) : (s.setParcel q).bridge = s.bridge := rfl
@[simp] theorem Sys.setParcel_links (s : Sys) (q : Parcel) : (s.setParcel q).links = s.links := rfl
@[simp] theorem Sys.setParcel_domains (s : Sys) (q : Parcel) : (s.setParcel q).domains = s.domains := rfl
@[simp] theorem Sys.setParcel_queues (s : Sys) (q : Parcel) : (s.setParcel q).queues = s.queues := rfl
@[simp] theorem Sys.setParcel_stream (s : Sys) (q : Parcel) : (s.setParcel q).stream = s.stream := rfl
@[simp] theorem Sys.setParcel_rr (s : Sys) (q : Parcel) : (s.setParcel q).rr = s.rr := rfl
@[simp] theorem Sys.setParcel_replies (s : Sys) (q : Parcel) : (s.setParcel q).replies = s.replies := rfl
@[simp] theorem Sys.setParcel_strays (s : Sys) (q : Parcel) : (s.setParcel q).strays = s.strays := rfl
@[simp] theorem Sys.setParcel_notices (s : Sys) (q : Parcel) : (s.setParcel q).notices = s.notices := rfl
@[simp] theorem Sys.setParcel_parts (s : Sys) (q : Parcel) : (s.setParcel q).parts = s.parts := rfl
@[simp] theorem Sys.setParcel_objects (s : Sys) (q : Parcel) : (s.setParcel q).objects = s.objects := rfl
@[simp] theorem Sys.setParcel_launches (s : Sys) (q : Parcel) : (s.setParcel q).launches = s.launches := rfl
@[simp] theorem Sys.setParcel_yokes (s : Sys) (q : Parcel) : (s.setParcel q).yokes = s.yokes := rfl
@[simp] theorem Sys.setParcel_panels (s : Sys) (q : Parcel) : (s.setParcel q).panels = s.panels := rfl
@[simp] theorem Sys.setParcel_threads (s : Sys) (q : Parcel) : (s.setParcel q).threads = s.threads := rfl
@[simp] theorem Sys.setParcel_cores (s : Sys) (q : Parcel) : (s.setParcel q).cores = s.cores := rfl
@[simp] theorem Sys.setParcel_cmds (s : Sys) (q : Parcel) : (s.setParcel q).cmds = s.cmds := rfl
@[simp] theorem Sys.setParcel_reqs (s : Sys) (q : Parcel) : (s.setParcel q).reqs = s.reqs := rfl
@[simp] theorem Sys.setParcel_queries (s : Sys) (q : Parcel) : (s.setParcel q).queries = s.queries := rfl
@[simp] theorem Sys.setParcel_sweeps (s : Sys) (q : Parcel) : (s.setParcel q).sweeps = s.sweeps := rfl
@[simp] theorem Sys.setParcel_sent (s : Sys) (q : Parcel) : (s.setParcel q).sent = s.sent := rfl
@[simp] theorem Sys.setParcel_lost (s : Sys) (q : Parcel) : (s.setParcel q).lost = s.lost := rfl
@[simp] theorem Sys.setThread_agenda (s : Sys) (t : Thread) : (s.setThread t).agenda = s.agenda := rfl
@[simp] theorem Sys.setThread_focus (s : Sys) (t : Thread) : (s.setThread t).focus = s.focus := rfl
@[simp] theorem Sys.setThread_nonce (s : Sys) (t : Thread) : (s.setThread t).nonce = s.nonce := rfl
@[simp] theorem Sys.setThread_serial (s : Sys) (t : Thread) : (s.setThread t).serial = s.serial := rfl
@[simp] theorem Sys.setThread_turn (s : Sys) (t : Thread) : (s.setThread t).turn = s.turn := rfl
@[simp] theorem Sys.setThread_booted (s : Sys) (t : Thread) : (s.setThread t).booted = s.booted := rfl
@[simp] theorem Sys.setThread_hot (s : Sys) (t : Thread) : (s.setThread t).hot = s.hot := rfl
@[simp] theorem Sys.setThread_shut (s : Sys) (t : Thread) : (s.setThread t).shut = s.shut := rfl
@[simp] theorem Sys.setThread_corrected (s : Sys) (t : Thread) : (s.setThread t).corrected = s.corrected := rfl
@[simp] theorem Sys.setThread_harv (s : Sys) (t : Thread) : (s.setThread t).harv = s.harv := rfl
@[simp] theorem Sys.setThread_lineKeys (s : Sys) (t : Thread) : (s.setThread t).lineKeys = s.lineKeys := rfl
@[simp] theorem Sys.setThread_poisonLines (s : Sys) (t : Thread) : (s.setThread t).poisonLines = s.poisonLines := rfl
@[simp] theorem Sys.setThread_tags (s : Sys) (t : Thread) : (s.setThread t).tags = s.tags := rfl
@[simp] theorem Sys.setThread_l2 (s : Sys) (t : Thread) : (s.setThread t).l2 = s.l2 := rfl
@[simp] theorem Sys.setThread_ildom (s : Sys) (t : Thread) : (s.setThread t).ildom = s.ildom := rfl
@[simp] theorem Sys.setThread_dies (s : Sys) (t : Thread) : (s.setThread t).dies = s.dies := rfl
@[simp] theorem Sys.setThread_stks (s : Sys) (t : Thread) : (s.setThread t).stks = s.stks := rfl
@[simp] theorem Sys.setThread_walks (s : Sys) (t : Thread) : (s.setThread t).walks = s.walks := rfl
@[simp] theorem Sys.setThread_bridge (s : Sys) (t : Thread) : (s.setThread t).bridge = s.bridge := rfl
@[simp] theorem Sys.setThread_links (s : Sys) (t : Thread) : (s.setThread t).links = s.links := rfl
@[simp] theorem Sys.setThread_domains (s : Sys) (t : Thread) : (s.setThread t).domains = s.domains := rfl
@[simp] theorem Sys.setThread_queues (s : Sys) (t : Thread) : (s.setThread t).queues = s.queues := rfl
@[simp] theorem Sys.setThread_stream (s : Sys) (t : Thread) : (s.setThread t).stream = s.stream := rfl
@[simp] theorem Sys.setThread_rr (s : Sys) (t : Thread) : (s.setThread t).rr = s.rr := rfl
@[simp] theorem Sys.setThread_replies (s : Sys) (t : Thread) : (s.setThread t).replies = s.replies := rfl
@[simp] theorem Sys.setThread_strays (s : Sys) (t : Thread) : (s.setThread t).strays = s.strays := rfl
@[simp] theorem Sys.setThread_notices (s : Sys) (t : Thread) : (s.setThread t).notices = s.notices := rfl
@[simp] theorem Sys.setThread_parts (s : Sys) (t : Thread) : (s.setThread t).parts = s.parts := rfl
@[simp] theorem Sys.setThread_objects (s : Sys) (t : Thread) : (s.setThread t).objects = s.objects := rfl
@[simp] theorem Sys.setThread_launches (s : Sys) (t : Thread) : (s.setThread t).launches = s.launches := rfl
@[simp] theorem Sys.setThread_yokes (s : Sys) (t : Thread) : (s.setThread t).yokes = s.yokes := rfl
@[simp] theorem Sys.setThread_panels (s : Sys) (t : Thread) : (s.setThread t).panels = s.panels := rfl
@[simp] theorem Sys.setThread_cores (s : Sys) (t : Thread) : (s.setThread t).cores = s.cores := rfl
@[simp] theorem Sys.setThread_cmds (s : Sys) (t : Thread) : (s.setThread t).cmds = s.cmds := rfl
@[simp] theorem Sys.setThread_reqs (s : Sys) (t : Thread) : (s.setThread t).reqs = s.reqs := rfl
@[simp] theorem Sys.setThread_queries (s : Sys) (t : Thread) : (s.setThread t).queries = s.queries := rfl
@[simp] theorem Sys.setThread_sweeps (s : Sys) (t : Thread) : (s.setThread t).sweeps = s.sweeps := rfl
@[simp] theorem Sys.setThread_parcels (s : Sys) (t : Thread) : (s.setThread t).parcels = s.parcels := rfl
@[simp] theorem Sys.setThread_sent (s : Sys) (t : Thread) : (s.setThread t).sent = s.sent := rfl
@[simp] theorem Sys.setThread_lost (s : Sys) (t : Thread) : (s.setThread t).lost = s.lost := rfl
@[simp] theorem Sys.setCore_agenda (s : Sys) (c : Core) : (s.setCore c).agenda = s.agenda := rfl
@[simp] theorem Sys.setCore_focus (s : Sys) (c : Core) : (s.setCore c).focus = s.focus := rfl
@[simp] theorem Sys.setCore_nonce (s : Sys) (c : Core) : (s.setCore c).nonce = s.nonce := rfl
@[simp] theorem Sys.setCore_serial (s : Sys) (c : Core) : (s.setCore c).serial = s.serial := rfl
@[simp] theorem Sys.setCore_turn (s : Sys) (c : Core) : (s.setCore c).turn = s.turn := rfl
@[simp] theorem Sys.setCore_booted (s : Sys) (c : Core) : (s.setCore c).booted = s.booted := rfl
@[simp] theorem Sys.setCore_hot (s : Sys) (c : Core) : (s.setCore c).hot = s.hot := rfl
@[simp] theorem Sys.setCore_shut (s : Sys) (c : Core) : (s.setCore c).shut = s.shut := rfl
@[simp] theorem Sys.setCore_corrected (s : Sys) (c : Core) : (s.setCore c).corrected = s.corrected := rfl
@[simp] theorem Sys.setCore_harv (s : Sys) (c : Core) : (s.setCore c).harv = s.harv := rfl
@[simp] theorem Sys.setCore_lineKeys (s : Sys) (c : Core) : (s.setCore c).lineKeys = s.lineKeys := rfl
@[simp] theorem Sys.setCore_poisonLines (s : Sys) (c : Core) : (s.setCore c).poisonLines = s.poisonLines := rfl
@[simp] theorem Sys.setCore_tags (s : Sys) (c : Core) : (s.setCore c).tags = s.tags := rfl
@[simp] theorem Sys.setCore_l2 (s : Sys) (c : Core) : (s.setCore c).l2 = s.l2 := rfl
@[simp] theorem Sys.setCore_ildom (s : Sys) (c : Core) : (s.setCore c).ildom = s.ildom := rfl
@[simp] theorem Sys.setCore_dies (s : Sys) (c : Core) : (s.setCore c).dies = s.dies := rfl
@[simp] theorem Sys.setCore_stks (s : Sys) (c : Core) : (s.setCore c).stks = s.stks := rfl
@[simp] theorem Sys.setCore_walks (s : Sys) (c : Core) : (s.setCore c).walks = s.walks := rfl
@[simp] theorem Sys.setCore_bridge (s : Sys) (c : Core) : (s.setCore c).bridge = s.bridge := rfl
@[simp] theorem Sys.setCore_links (s : Sys) (c : Core) : (s.setCore c).links = s.links := rfl
@[simp] theorem Sys.setCore_domains (s : Sys) (c : Core) : (s.setCore c).domains = s.domains := rfl
@[simp] theorem Sys.setCore_queues (s : Sys) (c : Core) : (s.setCore c).queues = s.queues := rfl
@[simp] theorem Sys.setCore_stream (s : Sys) (c : Core) : (s.setCore c).stream = s.stream := rfl
@[simp] theorem Sys.setCore_rr (s : Sys) (c : Core) : (s.setCore c).rr = s.rr := rfl
@[simp] theorem Sys.setCore_replies (s : Sys) (c : Core) : (s.setCore c).replies = s.replies := rfl
@[simp] theorem Sys.setCore_strays (s : Sys) (c : Core) : (s.setCore c).strays = s.strays := rfl
@[simp] theorem Sys.setCore_notices (s : Sys) (c : Core) : (s.setCore c).notices = s.notices := rfl
@[simp] theorem Sys.setCore_parts (s : Sys) (c : Core) : (s.setCore c).parts = s.parts := rfl
@[simp] theorem Sys.setCore_objects (s : Sys) (c : Core) : (s.setCore c).objects = s.objects := rfl
@[simp] theorem Sys.setCore_launches (s : Sys) (c : Core) : (s.setCore c).launches = s.launches := rfl
@[simp] theorem Sys.setCore_yokes (s : Sys) (c : Core) : (s.setCore c).yokes = s.yokes := rfl
@[simp] theorem Sys.setCore_panels (s : Sys) (c : Core) : (s.setCore c).panels = s.panels := rfl
@[simp] theorem Sys.setCore_threads (s : Sys) (c : Core) : (s.setCore c).threads = s.threads := rfl
@[simp] theorem Sys.setCore_cmds (s : Sys) (c : Core) : (s.setCore c).cmds = s.cmds := rfl
@[simp] theorem Sys.setCore_reqs (s : Sys) (c : Core) : (s.setCore c).reqs = s.reqs := rfl
@[simp] theorem Sys.setCore_queries (s : Sys) (c : Core) : (s.setCore c).queries = s.queries := rfl
@[simp] theorem Sys.setCore_sweeps (s : Sys) (c : Core) : (s.setCore c).sweeps = s.sweeps := rfl
@[simp] theorem Sys.setCore_parcels (s : Sys) (c : Core) : (s.setCore c).parcels = s.parcels := rfl
@[simp] theorem Sys.setCore_sent (s : Sys) (c : Core) : (s.setCore c).sent = s.sent := rfl
@[simp] theorem Sys.setCore_lost (s : Sys) (c : Core) : (s.setCore c).lost = s.lost := rfl
@[simp] theorem Sys.setDie_agenda (s : Sys) (d : Nat) (x : Die) : (s.setDie d x).agenda = s.agenda := rfl
@[simp] theorem Sys.setDie_focus (s : Sys) (d : Nat) (x : Die) : (s.setDie d x).focus = s.focus := rfl
@[simp] theorem Sys.setDie_nonce (s : Sys) (d : Nat) (x : Die) : (s.setDie d x).nonce = s.nonce := rfl
@[simp] theorem Sys.setDie_serial (s : Sys) (d : Nat) (x : Die) : (s.setDie d x).serial = s.serial := rfl
@[simp] theorem Sys.setDie_turn (s : Sys) (d : Nat) (x : Die) : (s.setDie d x).turn = s.turn := rfl
@[simp] theorem Sys.setDie_booted (s : Sys) (d : Nat) (x : Die) : (s.setDie d x).booted = s.booted := rfl
@[simp] theorem Sys.setDie_hot (s : Sys) (d : Nat) (x : Die) : (s.setDie d x).hot = s.hot := rfl
@[simp] theorem Sys.setDie_shut (s : Sys) (d : Nat) (x : Die) : (s.setDie d x).shut = s.shut := rfl
@[simp] theorem Sys.setDie_corrected (s : Sys) (d : Nat) (x : Die) : (s.setDie d x).corrected = s.corrected := rfl
@[simp] theorem Sys.setDie_harv (s : Sys) (d : Nat) (x : Die) : (s.setDie d x).harv = s.harv := rfl
@[simp] theorem Sys.setDie_lineKeys (s : Sys) (d : Nat) (x : Die) : (s.setDie d x).lineKeys = s.lineKeys := rfl
@[simp] theorem Sys.setDie_poisonLines (s : Sys) (d : Nat) (x : Die) : (s.setDie d x).poisonLines = s.poisonLines := rfl
@[simp] theorem Sys.setDie_tags (s : Sys) (d : Nat) (x : Die) : (s.setDie d x).tags = s.tags := rfl
@[simp] theorem Sys.setDie_l2 (s : Sys) (d : Nat) (x : Die) : (s.setDie d x).l2 = s.l2 := rfl
@[simp] theorem Sys.setDie_ildom (s : Sys) (d : Nat) (x : Die) : (s.setDie d x).ildom = s.ildom := rfl
@[simp] theorem Sys.setDie_stks (s : Sys) (d : Nat) (x : Die) : (s.setDie d x).stks = s.stks := rfl
@[simp] theorem Sys.setDie_walks (s : Sys) (d : Nat) (x : Die) : (s.setDie d x).walks = s.walks := rfl
@[simp] theorem Sys.setDie_bridge (s : Sys) (d : Nat) (x : Die) : (s.setDie d x).bridge = s.bridge := rfl
@[simp] theorem Sys.setDie_links (s : Sys) (d : Nat) (x : Die) : (s.setDie d x).links = s.links := rfl
@[simp] theorem Sys.setDie_domains (s : Sys) (d : Nat) (x : Die) : (s.setDie d x).domains = s.domains := rfl
@[simp] theorem Sys.setDie_queues (s : Sys) (d : Nat) (x : Die) : (s.setDie d x).queues = s.queues := rfl
@[simp] theorem Sys.setDie_stream (s : Sys) (d : Nat) (x : Die) : (s.setDie d x).stream = s.stream := rfl
@[simp] theorem Sys.setDie_rr (s : Sys) (d : Nat) (x : Die) : (s.setDie d x).rr = s.rr := rfl
@[simp] theorem Sys.setDie_replies (s : Sys) (d : Nat) (x : Die) : (s.setDie d x).replies = s.replies := rfl
@[simp] theorem Sys.setDie_strays (s : Sys) (d : Nat) (x : Die) : (s.setDie d x).strays = s.strays := rfl
@[simp] theorem Sys.setDie_notices (s : Sys) (d : Nat) (x : Die) : (s.setDie d x).notices = s.notices := rfl
@[simp] theorem Sys.setDie_parts (s : Sys) (d : Nat) (x : Die) : (s.setDie d x).parts = s.parts := rfl
@[simp] theorem Sys.setDie_objects (s : Sys) (d : Nat) (x : Die) : (s.setDie d x).objects = s.objects := rfl
@[simp] theorem Sys.setDie_launches (s : Sys) (d : Nat) (x : Die) : (s.setDie d x).launches = s.launches := rfl
@[simp] theorem Sys.setDie_yokes (s : Sys) (d : Nat) (x : Die) : (s.setDie d x).yokes = s.yokes := rfl
@[simp] theorem Sys.setDie_panels (s : Sys) (d : Nat) (x : Die) : (s.setDie d x).panels = s.panels := rfl
@[simp] theorem Sys.setDie_threads (s : Sys) (d : Nat) (x : Die) : (s.setDie d x).threads = s.threads := rfl
@[simp] theorem Sys.setDie_cores (s : Sys) (d : Nat) (x : Die) : (s.setDie d x).cores = s.cores := rfl
@[simp] theorem Sys.setDie_cmds (s : Sys) (d : Nat) (x : Die) : (s.setDie d x).cmds = s.cmds := rfl
@[simp] theorem Sys.setDie_reqs (s : Sys) (d : Nat) (x : Die) : (s.setDie d x).reqs = s.reqs := rfl
@[simp] theorem Sys.setDie_queries (s : Sys) (d : Nat) (x : Die) : (s.setDie d x).queries = s.queries := rfl
@[simp] theorem Sys.setDie_sweeps (s : Sys) (d : Nat) (x : Die) : (s.setDie d x).sweeps = s.sweeps := rfl
@[simp] theorem Sys.setDie_parcels (s : Sys) (d : Nat) (x : Die) : (s.setDie d x).parcels = s.parcels := rfl
@[simp] theorem Sys.setDie_sent (s : Sys) (d : Nat) (x : Die) : (s.setDie d x).sent = s.sent := rfl
@[simp] theorem Sys.setDie_lost (s : Sys) (d : Nat) (x : Die) : (s.setDie d x).lost = s.lost := rfl
@[simp] theorem Sys.setStack_agenda (s : Sys) (n : Nat) (x : Stack) : (s.setStack n x).agenda = s.agenda := rfl
@[simp] theorem Sys.setStack_focus (s : Sys) (n : Nat) (x : Stack) : (s.setStack n x).focus = s.focus := rfl
@[simp] theorem Sys.setStack_nonce (s : Sys) (n : Nat) (x : Stack) : (s.setStack n x).nonce = s.nonce := rfl
@[simp] theorem Sys.setStack_serial (s : Sys) (n : Nat) (x : Stack) : (s.setStack n x).serial = s.serial := rfl
@[simp] theorem Sys.setStack_turn (s : Sys) (n : Nat) (x : Stack) : (s.setStack n x).turn = s.turn := rfl
@[simp] theorem Sys.setStack_booted (s : Sys) (n : Nat) (x : Stack) : (s.setStack n x).booted = s.booted := rfl
@[simp] theorem Sys.setStack_hot (s : Sys) (n : Nat) (x : Stack) : (s.setStack n x).hot = s.hot := rfl
@[simp] theorem Sys.setStack_shut (s : Sys) (n : Nat) (x : Stack) : (s.setStack n x).shut = s.shut := rfl
@[simp] theorem Sys.setStack_corrected (s : Sys) (n : Nat) (x : Stack) : (s.setStack n x).corrected = s.corrected := rfl
@[simp] theorem Sys.setStack_harv (s : Sys) (n : Nat) (x : Stack) : (s.setStack n x).harv = s.harv := rfl
@[simp] theorem Sys.setStack_lineKeys (s : Sys) (n : Nat) (x : Stack) : (s.setStack n x).lineKeys = s.lineKeys := rfl
@[simp] theorem Sys.setStack_poisonLines (s : Sys) (n : Nat) (x : Stack) : (s.setStack n x).poisonLines = s.poisonLines := rfl
@[simp] theorem Sys.setStack_tags (s : Sys) (n : Nat) (x : Stack) : (s.setStack n x).tags = s.tags := rfl
@[simp] theorem Sys.setStack_l2 (s : Sys) (n : Nat) (x : Stack) : (s.setStack n x).l2 = s.l2 := rfl
@[simp] theorem Sys.setStack_ildom (s : Sys) (n : Nat) (x : Stack) : (s.setStack n x).ildom = s.ildom := rfl
@[simp] theorem Sys.setStack_dies (s : Sys) (n : Nat) (x : Stack) : (s.setStack n x).dies = s.dies := rfl
@[simp] theorem Sys.setStack_walks (s : Sys) (n : Nat) (x : Stack) : (s.setStack n x).walks = s.walks := rfl
@[simp] theorem Sys.setStack_bridge (s : Sys) (n : Nat) (x : Stack) : (s.setStack n x).bridge = s.bridge := rfl
@[simp] theorem Sys.setStack_links (s : Sys) (n : Nat) (x : Stack) : (s.setStack n x).links = s.links := rfl
@[simp] theorem Sys.setStack_domains (s : Sys) (n : Nat) (x : Stack) : (s.setStack n x).domains = s.domains := rfl
@[simp] theorem Sys.setStack_queues (s : Sys) (n : Nat) (x : Stack) : (s.setStack n x).queues = s.queues := rfl
@[simp] theorem Sys.setStack_stream (s : Sys) (n : Nat) (x : Stack) : (s.setStack n x).stream = s.stream := rfl
@[simp] theorem Sys.setStack_rr (s : Sys) (n : Nat) (x : Stack) : (s.setStack n x).rr = s.rr := rfl
@[simp] theorem Sys.setStack_replies (s : Sys) (n : Nat) (x : Stack) : (s.setStack n x).replies = s.replies := rfl
@[simp] theorem Sys.setStack_strays (s : Sys) (n : Nat) (x : Stack) : (s.setStack n x).strays = s.strays := rfl
@[simp] theorem Sys.setStack_notices (s : Sys) (n : Nat) (x : Stack) : (s.setStack n x).notices = s.notices := rfl
@[simp] theorem Sys.setStack_parts (s : Sys) (n : Nat) (x : Stack) : (s.setStack n x).parts = s.parts := rfl
@[simp] theorem Sys.setStack_objects (s : Sys) (n : Nat) (x : Stack) : (s.setStack n x).objects = s.objects := rfl
@[simp] theorem Sys.setStack_launches (s : Sys) (n : Nat) (x : Stack) : (s.setStack n x).launches = s.launches := rfl
@[simp] theorem Sys.setStack_yokes (s : Sys) (n : Nat) (x : Stack) : (s.setStack n x).yokes = s.yokes := rfl
@[simp] theorem Sys.setStack_panels (s : Sys) (n : Nat) (x : Stack) : (s.setStack n x).panels = s.panels := rfl
@[simp] theorem Sys.setStack_threads (s : Sys) (n : Nat) (x : Stack) : (s.setStack n x).threads = s.threads := rfl
@[simp] theorem Sys.setStack_cores (s : Sys) (n : Nat) (x : Stack) : (s.setStack n x).cores = s.cores := rfl
@[simp] theorem Sys.setStack_cmds (s : Sys) (n : Nat) (x : Stack) : (s.setStack n x).cmds = s.cmds := rfl
@[simp] theorem Sys.setStack_reqs (s : Sys) (n : Nat) (x : Stack) : (s.setStack n x).reqs = s.reqs := rfl
@[simp] theorem Sys.setStack_queries (s : Sys) (n : Nat) (x : Stack) : (s.setStack n x).queries = s.queries := rfl
@[simp] theorem Sys.setStack_sweeps (s : Sys) (n : Nat) (x : Stack) : (s.setStack n x).sweeps = s.sweeps := rfl
@[simp] theorem Sys.setStack_parcels (s : Sys) (n : Nat) (x : Stack) : (s.setStack n x).parcels = s.parcels := rfl
@[simp] theorem Sys.setStack_sent (s : Sys) (n : Nat) (x : Stack) : (s.setStack n x).sent = s.sent := rfl
@[simp] theorem Sys.setStack_lost (s : Sys) (n : Nat) (x : Stack) : (s.setStack n x).lost = s.lost := rfl
@[simp] theorem Sys.mapLaunches_agenda (s : Sys) (f : Launch → Launch) : (s.mapLaunches f).agenda = s.agenda := rfl
@[simp] theorem Sys.mapLaunches_focus (s : Sys) (f : Launch → Launch) : (s.mapLaunches f).focus = s.focus := rfl
@[simp] theorem Sys.mapLaunches_nonce (s : Sys) (f : Launch → Launch) : (s.mapLaunches f).nonce = s.nonce := rfl
@[simp] theorem Sys.mapLaunches_serial (s : Sys) (f : Launch → Launch) : (s.mapLaunches f).serial = s.serial := rfl
@[simp] theorem Sys.mapLaunches_turn (s : Sys) (f : Launch → Launch) : (s.mapLaunches f).turn = s.turn := rfl
@[simp] theorem Sys.mapLaunches_booted (s : Sys) (f : Launch → Launch) : (s.mapLaunches f).booted = s.booted := rfl
@[simp] theorem Sys.mapLaunches_hot (s : Sys) (f : Launch → Launch) : (s.mapLaunches f).hot = s.hot := rfl
@[simp] theorem Sys.mapLaunches_shut (s : Sys) (f : Launch → Launch) : (s.mapLaunches f).shut = s.shut := rfl
@[simp] theorem Sys.mapLaunches_corrected (s : Sys) (f : Launch → Launch) : (s.mapLaunches f).corrected = s.corrected := rfl
@[simp] theorem Sys.mapLaunches_harv (s : Sys) (f : Launch → Launch) : (s.mapLaunches f).harv = s.harv := rfl
@[simp] theorem Sys.mapLaunches_lineKeys (s : Sys) (f : Launch → Launch) : (s.mapLaunches f).lineKeys = s.lineKeys := rfl
@[simp] theorem Sys.mapLaunches_poisonLines (s : Sys) (f : Launch → Launch) : (s.mapLaunches f).poisonLines = s.poisonLines := rfl
@[simp] theorem Sys.mapLaunches_tags (s : Sys) (f : Launch → Launch) : (s.mapLaunches f).tags = s.tags := rfl
@[simp] theorem Sys.mapLaunches_l2 (s : Sys) (f : Launch → Launch) : (s.mapLaunches f).l2 = s.l2 := rfl
@[simp] theorem Sys.mapLaunches_ildom (s : Sys) (f : Launch → Launch) : (s.mapLaunches f).ildom = s.ildom := rfl
@[simp] theorem Sys.mapLaunches_dies (s : Sys) (f : Launch → Launch) : (s.mapLaunches f).dies = s.dies := rfl
@[simp] theorem Sys.mapLaunches_stks (s : Sys) (f : Launch → Launch) : (s.mapLaunches f).stks = s.stks := rfl
@[simp] theorem Sys.mapLaunches_walks (s : Sys) (f : Launch → Launch) : (s.mapLaunches f).walks = s.walks := rfl
@[simp] theorem Sys.mapLaunches_bridge (s : Sys) (f : Launch → Launch) : (s.mapLaunches f).bridge = s.bridge := rfl
@[simp] theorem Sys.mapLaunches_links (s : Sys) (f : Launch → Launch) : (s.mapLaunches f).links = s.links := rfl
@[simp] theorem Sys.mapLaunches_domains (s : Sys) (f : Launch → Launch) : (s.mapLaunches f).domains = s.domains := rfl
@[simp] theorem Sys.mapLaunches_queues (s : Sys) (f : Launch → Launch) : (s.mapLaunches f).queues = s.queues := rfl
@[simp] theorem Sys.mapLaunches_stream (s : Sys) (f : Launch → Launch) : (s.mapLaunches f).stream = s.stream := rfl
@[simp] theorem Sys.mapLaunches_rr (s : Sys) (f : Launch → Launch) : (s.mapLaunches f).rr = s.rr := rfl
@[simp] theorem Sys.mapLaunches_replies (s : Sys) (f : Launch → Launch) : (s.mapLaunches f).replies = s.replies := rfl
@[simp] theorem Sys.mapLaunches_strays (s : Sys) (f : Launch → Launch) : (s.mapLaunches f).strays = s.strays := rfl
@[simp] theorem Sys.mapLaunches_notices (s : Sys) (f : Launch → Launch) : (s.mapLaunches f).notices = s.notices := rfl
@[simp] theorem Sys.mapLaunches_parts (s : Sys) (f : Launch → Launch) : (s.mapLaunches f).parts = s.parts := rfl
@[simp] theorem Sys.mapLaunches_objects (s : Sys) (f : Launch → Launch) : (s.mapLaunches f).objects = s.objects := rfl
@[simp] theorem Sys.mapLaunches_yokes (s : Sys) (f : Launch → Launch) : (s.mapLaunches f).yokes = s.yokes := rfl
@[simp] theorem Sys.mapLaunches_panels (s : Sys) (f : Launch → Launch) : (s.mapLaunches f).panels = s.panels := rfl
@[simp] theorem Sys.mapLaunches_threads (s : Sys) (f : Launch → Launch) : (s.mapLaunches f).threads = s.threads := rfl
@[simp] theorem Sys.mapLaunches_cores (s : Sys) (f : Launch → Launch) : (s.mapLaunches f).cores = s.cores := rfl
@[simp] theorem Sys.mapLaunches_cmds (s : Sys) (f : Launch → Launch) : (s.mapLaunches f).cmds = s.cmds := rfl
@[simp] theorem Sys.mapLaunches_reqs (s : Sys) (f : Launch → Launch) : (s.mapLaunches f).reqs = s.reqs := rfl
@[simp] theorem Sys.mapLaunches_queries (s : Sys) (f : Launch → Launch) : (s.mapLaunches f).queries = s.queries := rfl
@[simp] theorem Sys.mapLaunches_sweeps (s : Sys) (f : Launch → Launch) : (s.mapLaunches f).sweeps = s.sweeps := rfl
@[simp] theorem Sys.mapLaunches_parcels (s : Sys) (f : Launch → Launch) : (s.mapLaunches f).parcels = s.parcels := rfl
@[simp] theorem Sys.mapLaunches_sent (s : Sys) (f : Launch → Launch) : (s.mapLaunches f).sent = s.sent := rfl
@[simp] theorem Sys.mapLaunches_lost (s : Sys) (f : Launch → Launch) : (s.mapLaunches f).lost = s.lost := rfl
@[simp] theorem Sys.mapPanels_agenda (s : Sys) (f : Panel → Panel) : (s.mapPanels f).agenda = s.agenda := rfl
@[simp] theorem Sys.mapPanels_focus (s : Sys) (f : Panel → Panel) : (s.mapPanels f).focus = s.focus := rfl
@[simp] theorem Sys.mapPanels_nonce (s : Sys) (f : Panel → Panel) : (s.mapPanels f).nonce = s.nonce := rfl
@[simp] theorem Sys.mapPanels_serial (s : Sys) (f : Panel → Panel) : (s.mapPanels f).serial = s.serial := rfl
@[simp] theorem Sys.mapPanels_turn (s : Sys) (f : Panel → Panel) : (s.mapPanels f).turn = s.turn := rfl
@[simp] theorem Sys.mapPanels_booted (s : Sys) (f : Panel → Panel) : (s.mapPanels f).booted = s.booted := rfl
@[simp] theorem Sys.mapPanels_hot (s : Sys) (f : Panel → Panel) : (s.mapPanels f).hot = s.hot := rfl
@[simp] theorem Sys.mapPanels_shut (s : Sys) (f : Panel → Panel) : (s.mapPanels f).shut = s.shut := rfl
@[simp] theorem Sys.mapPanels_corrected (s : Sys) (f : Panel → Panel) : (s.mapPanels f).corrected = s.corrected := rfl
@[simp] theorem Sys.mapPanels_harv (s : Sys) (f : Panel → Panel) : (s.mapPanels f).harv = s.harv := rfl
@[simp] theorem Sys.mapPanels_lineKeys (s : Sys) (f : Panel → Panel) : (s.mapPanels f).lineKeys = s.lineKeys := rfl
@[simp] theorem Sys.mapPanels_poisonLines (s : Sys) (f : Panel → Panel) : (s.mapPanels f).poisonLines = s.poisonLines := rfl
@[simp] theorem Sys.mapPanels_tags (s : Sys) (f : Panel → Panel) : (s.mapPanels f).tags = s.tags := rfl
@[simp] theorem Sys.mapPanels_l2 (s : Sys) (f : Panel → Panel) : (s.mapPanels f).l2 = s.l2 := rfl
@[simp] theorem Sys.mapPanels_ildom (s : Sys) (f : Panel → Panel) : (s.mapPanels f).ildom = s.ildom := rfl
@[simp] theorem Sys.mapPanels_dies (s : Sys) (f : Panel → Panel) : (s.mapPanels f).dies = s.dies := rfl
@[simp] theorem Sys.mapPanels_stks (s : Sys) (f : Panel → Panel) : (s.mapPanels f).stks = s.stks := rfl
@[simp] theorem Sys.mapPanels_walks (s : Sys) (f : Panel → Panel) : (s.mapPanels f).walks = s.walks := rfl
@[simp] theorem Sys.mapPanels_bridge (s : Sys) (f : Panel → Panel) : (s.mapPanels f).bridge = s.bridge := rfl
@[simp] theorem Sys.mapPanels_links (s : Sys) (f : Panel → Panel) : (s.mapPanels f).links = s.links := rfl
@[simp] theorem Sys.mapPanels_domains (s : Sys) (f : Panel → Panel) : (s.mapPanels f).domains = s.domains := rfl
@[simp] theorem Sys.mapPanels_queues (s : Sys) (f : Panel → Panel) : (s.mapPanels f).queues = s.queues := rfl
@[simp] theorem Sys.mapPanels_stream (s : Sys) (f : Panel → Panel) : (s.mapPanels f).stream = s.stream := rfl
@[simp] theorem Sys.mapPanels_rr (s : Sys) (f : Panel → Panel) : (s.mapPanels f).rr = s.rr := rfl
@[simp] theorem Sys.mapPanels_replies (s : Sys) (f : Panel → Panel) : (s.mapPanels f).replies = s.replies := rfl
@[simp] theorem Sys.mapPanels_strays (s : Sys) (f : Panel → Panel) : (s.mapPanels f).strays = s.strays := rfl
@[simp] theorem Sys.mapPanels_notices (s : Sys) (f : Panel → Panel) : (s.mapPanels f).notices = s.notices := rfl
@[simp] theorem Sys.mapPanels_parts (s : Sys) (f : Panel → Panel) : (s.mapPanels f).parts = s.parts := rfl
@[simp] theorem Sys.mapPanels_objects (s : Sys) (f : Panel → Panel) : (s.mapPanels f).objects = s.objects := rfl
@[simp] theorem Sys.mapPanels_launches (s : Sys) (f : Panel → Panel) : (s.mapPanels f).launches = s.launches := rfl
@[simp] theorem Sys.mapPanels_yokes (s : Sys) (f : Panel → Panel) : (s.mapPanels f).yokes = s.yokes := rfl
@[simp] theorem Sys.mapPanels_threads (s : Sys) (f : Panel → Panel) : (s.mapPanels f).threads = s.threads := rfl
@[simp] theorem Sys.mapPanels_cores (s : Sys) (f : Panel → Panel) : (s.mapPanels f).cores = s.cores := rfl
@[simp] theorem Sys.mapPanels_cmds (s : Sys) (f : Panel → Panel) : (s.mapPanels f).cmds = s.cmds := rfl
@[simp] theorem Sys.mapPanels_reqs (s : Sys) (f : Panel → Panel) : (s.mapPanels f).reqs = s.reqs := rfl
@[simp] theorem Sys.mapPanels_queries (s : Sys) (f : Panel → Panel) : (s.mapPanels f).queries = s.queries := rfl
@[simp] theorem Sys.mapPanels_sweeps (s : Sys) (f : Panel → Panel) : (s.mapPanels f).sweeps = s.sweeps := rfl
@[simp] theorem Sys.mapPanels_parcels (s : Sys) (f : Panel → Panel) : (s.mapPanels f).parcels = s.parcels := rfl
@[simp] theorem Sys.mapPanels_sent (s : Sys) (f : Panel → Panel) : (s.mapPanels f).sent = s.sent := rfl
@[simp] theorem Sys.mapPanels_lost (s : Sys) (f : Panel → Panel) : (s.mapPanels f).lost = s.lost := rfl

/-! ## Registers of a thread -/

@[simp] theorem Thread.setV_panel (t : Thread) (k : Nat) (x : Word) : (t.setV k x).panel = t.panel := by
  unfold Thread.setV; split
  · rfl
  · split <;> rfl
@[simp] theorem Thread.setV_tid (t : Thread) (k : Nat) (x : Word) : (t.setV k x).tid = t.tid := by
  unfold Thread.setV; split
  · rfl
  · split <;> rfl
@[simp] theorem Thread.setV_phase (t : Thread) (k : Nat) (x : Word) : (t.setV k x).phase = t.phase := by
  unfold Thread.setV; split
  · rfl
  · split <;> rfl
@[simp] theorem Thread.setV_pc (t : Thread) (k : Nat) (x : Word) : (t.setV k x).pc = t.pc := by
  unfold Thread.setV; split
  · rfl
  · split <;> rfl
@[simp] theorem Thread.setV_prio (t : Thread) (k : Nat) (x : Word) : (t.setV k x).prio = t.prio := by
  unfold Thread.setV; split
  · rfl
  · split <;> rfl
@[simp] theorem Thread.setV_p (t : Thread) (k : Nat) (x : Word) : (t.setV k x).p = t.p := by
  unfold Thread.setV; split
  · rfl
  · split <;> rfl
@[simp] theorem Thread.setV_f (t : Thread) (k : Nat) (x : Word) : (t.setV k x).f = t.f := by
  unfold Thread.setV; split
  · rfl
  · split <;> rfl
@[simp] theorem Thread.setV_fflags (t : Thread) (k : Nat) (x : Word) : (t.setV k x).fflags = t.fflags := by
  unfold Thread.setV; split
  · rfl
  · split <;> rfl
@[simp] theorem Thread.setV_rnd (t : Thread) (k : Nat) (x : Word) : (t.setV k x).rnd = t.rnd := by
  unfold Thread.setV; split
  · rfl
  · split <;> rfl
@[simp] theorem Thread.setV_rotbase (t : Thread) (k : Nat) (x : Word) : (t.setV k x).rotbase = t.rotbase := by
  unfold Thread.setV; split
  · rfl
  · split <;> rfl
@[simp] theorem Thread.setV_rotstep (t : Thread) (k : Nat) (x : Word) : (t.setV k x).rotstep = t.rotstep := by
  unfold Thread.setV; split
  · rfl
  · split <;> rfl
@[simp] theorem Thread.setV_repidx (t : Thread) (k : Nat) (x : Word) : (t.setV k x).repidx = t.repidx := by
  unfold Thread.setV; split
  · rfl
  · split <;> rfl
@[simp] theorem Thread.setV_cych (t : Thread) (k : Nat) (x : Word) : (t.setV k x).cych = t.cych := by
  unfold Thread.setV; split
  · rfl
  · split <;> rfl
@[simp] theorem Thread.setV_trapc (t : Thread) (k : Nat) (x : Word) : (t.setV k x).trapc = t.trapc := by
  unfold Thread.setV; split
  · rfl
  · split <;> rfl
@[simp] theorem Thread.setV_trapv (t : Thread) (k : Nat) (x : Word) : (t.setV k x).trapv = t.trapv := by
  unfold Thread.setV; split
  · rfl
  · split <;> rfl
@[simp] theorem Thread.setV_trappc (t : Thread) (k : Nat) (x : Word) : (t.setV k x).trappc = t.trappc := by
  unfold Thread.setV; split
  · rfl
  · split <;> rfl
@[simp] theorem Thread.setV_trapprio (t : Thread) (k : Nat) (x : Word) : (t.setV k x).trapprio = t.trapprio := by
  unfold Thread.setV; split
  · rfl
  · split <;> rfl
@[simp] theorem Thread.setV_hints (t : Thread) (k : Nat) (x : Word) : (t.setV k x).hints = t.hints := by
  unfold Thread.setV; split
  · rfl
  · split <;> rfl
@[simp] theorem Thread.setV_nat (t : Thread) (k : Nat) (x : Word) : (t.setV k x).nat = t.nat := by
  unfold Thread.setV; split
  · rfl
  · split <;> rfl
@[simp] theorem Thread.setV_ops (t : Thread) (k : Nat) (x : Word) : (t.setV k x).ops = t.ops := by
  unfold Thread.setV; split
  · rfl
  · split <;> rfl
@[simp] theorem Thread.setV_pend (t : Thread) (k : Nat) (x : Word) : (t.setV k x).pend = t.pend := by
  unfold Thread.setV; split
  · rfl
  · split <;> rfl
@[simp] theorem Thread.setV_pendAt (t : Thread) (k : Nat) (x : Word) : (t.setV k x).pendAt = t.pendAt := by
  unfold Thread.setV; split
  · rfl
  · split <;> rfl
@[simp] theorem Thread.setV_late (t : Thread) (k : Nat) (x : Word) : (t.setV k x).late = t.late := by
  unfold Thread.setV; split
  · rfl
  · split <;> rfl
@[simp] theorem Thread.setV_lastPort (t : Thread) (k : Nat) (x : Word) : (t.setV k x).lastPort = t.lastPort := by
  unfold Thread.setV; split
  · rfl
  · split <;> rfl
@[simp] theorem Thread.setV_noBrk (t : Thread) (k : Nat) (x : Word) : (t.setV k x).noBrk = t.noBrk := by
  unfold Thread.setV; split
  · rfl
  · split <;> rfl
@[simp] theorem Thread.setV_core (t : Thread) (k : Nat) (x : Word) : (t.setV k x).core = t.core := by
  unfold Thread.setV; split
  · rfl
  · split <;> rfl
@[simp] theorem Thread.setV_tseam (t : Thread) (k : Nat) (x : Word) : (t.setV k x).tseam = t.tseam := by
  unfold Thread.setV; split
  · rfl
  · split <;> rfl
@[simp] theorem Thread.setV_travels (t : Thread) (k : Nat) (x : Word) : (t.setV k x).travels = t.travels := by
  unfold Thread.setV; split
  · rfl
  · split <;> rfl
@[simp] theorem Thread.setV_piece (t : Thread) (k : Nat) (x : Word) : (t.setV k x).piece = t.piece := by
  unfold Thread.setV; split
  · rfl
  · split <;> rfl
@[simp] theorem Thread.setV_poisonV (t : Thread) (k : Nat) (x : Word) : (t.setV k x).poisonV = t.poisonV := by
  unfold Thread.setV; split
  · rfl
  · split <;> rfl
@[simp] theorem Thread.setV_poisonP (t : Thread) (k : Nat) (x : Word) : (t.setV k x).poisonP = t.poisonP := by
  unfold Thread.setV; split
  · rfl
  · split <;> rfl
@[simp] theorem Thread.setV_ticket (t : Thread) (k : Nat) (x : Word) : (t.setV k x).ticket = t.ticket := by
  unfold Thread.setV; split
  · rfl
  · split <;> rfl
@[simp] theorem Thread.setV_fresh (t : Thread) (k : Nat) (x : Word) : (t.setV k x).fresh = t.fresh := by
  unfold Thread.setV; split
  · rfl
  · split <;> rfl
@[simp] theorem Thread.setV_entered (t : Thread) (k : Nat) (x : Word) : (t.setV k x).entered = t.entered := by
  unfold Thread.setV; split
  · rfl
  · split <;> rfl
@[simp] theorem Thread.setV_fline (t : Thread) (k : Nat) (x : Word) : (t.setV k x).fline = t.fline := by
  unfold Thread.setV; split
  · rfl
  · split <;> rfl
@[simp] theorem Thread.putNat_panel : ∀ (ks : List Nat) (t : Thread) (n : Nat), (t.putNat ks n).panel = t.panel
  | [], _, _ => rfl
  | _ :: ks, t, _ => (Thread.putNat_panel ks _ _).trans (Thread.setV_panel t _ _)
@[simp] theorem Thread.putNat_tid : ∀ (ks : List Nat) (t : Thread) (n : Nat), (t.putNat ks n).tid = t.tid
  | [], _, _ => rfl
  | _ :: ks, t, _ => (Thread.putNat_tid ks _ _).trans (Thread.setV_tid t _ _)
@[simp] theorem Thread.putNat_phase : ∀ (ks : List Nat) (t : Thread) (n : Nat), (t.putNat ks n).phase = t.phase
  | [], _, _ => rfl
  | _ :: ks, t, _ => (Thread.putNat_phase ks _ _).trans (Thread.setV_phase t _ _)
@[simp] theorem Thread.putNat_pc : ∀ (ks : List Nat) (t : Thread) (n : Nat), (t.putNat ks n).pc = t.pc
  | [], _, _ => rfl
  | _ :: ks, t, _ => (Thread.putNat_pc ks _ _).trans (Thread.setV_pc t _ _)
@[simp] theorem Thread.putNat_prio : ∀ (ks : List Nat) (t : Thread) (n : Nat), (t.putNat ks n).prio = t.prio
  | [], _, _ => rfl
  | _ :: ks, t, _ => (Thread.putNat_prio ks _ _).trans (Thread.setV_prio t _ _)
@[simp] theorem Thread.putNat_p : ∀ (ks : List Nat) (t : Thread) (n : Nat), (t.putNat ks n).p = t.p
  | [], _, _ => rfl
  | _ :: ks, t, _ => (Thread.putNat_p ks _ _).trans (Thread.setV_p t _ _)
@[simp] theorem Thread.putNat_f : ∀ (ks : List Nat) (t : Thread) (n : Nat), (t.putNat ks n).f = t.f
  | [], _, _ => rfl
  | _ :: ks, t, _ => (Thread.putNat_f ks _ _).trans (Thread.setV_f t _ _)
@[simp] theorem Thread.putNat_fflags : ∀ (ks : List Nat) (t : Thread) (n : Nat), (t.putNat ks n).fflags = t.fflags
  | [], _, _ => rfl
  | _ :: ks, t, _ => (Thread.putNat_fflags ks _ _).trans (Thread.setV_fflags t _ _)
@[simp] theorem Thread.putNat_rnd : ∀ (ks : List Nat) (t : Thread) (n : Nat), (t.putNat ks n).rnd = t.rnd
  | [], _, _ => rfl
  | _ :: ks, t, _ => (Thread.putNat_rnd ks _ _).trans (Thread.setV_rnd t _ _)
@[simp] theorem Thread.putNat_rotbase : ∀ (ks : List Nat) (t : Thread) (n : Nat), (t.putNat ks n).rotbase = t.rotbase
  | [], _, _ => rfl
  | _ :: ks, t, _ => (Thread.putNat_rotbase ks _ _).trans (Thread.setV_rotbase t _ _)
@[simp] theorem Thread.putNat_rotstep : ∀ (ks : List Nat) (t : Thread) (n : Nat), (t.putNat ks n).rotstep = t.rotstep
  | [], _, _ => rfl
  | _ :: ks, t, _ => (Thread.putNat_rotstep ks _ _).trans (Thread.setV_rotstep t _ _)
@[simp] theorem Thread.putNat_repidx : ∀ (ks : List Nat) (t : Thread) (n : Nat), (t.putNat ks n).repidx = t.repidx
  | [], _, _ => rfl
  | _ :: ks, t, _ => (Thread.putNat_repidx ks _ _).trans (Thread.setV_repidx t _ _)
@[simp] theorem Thread.putNat_cych : ∀ (ks : List Nat) (t : Thread) (n : Nat), (t.putNat ks n).cych = t.cych
  | [], _, _ => rfl
  | _ :: ks, t, _ => (Thread.putNat_cych ks _ _).trans (Thread.setV_cych t _ _)
@[simp] theorem Thread.putNat_trapc : ∀ (ks : List Nat) (t : Thread) (n : Nat), (t.putNat ks n).trapc = t.trapc
  | [], _, _ => rfl
  | _ :: ks, t, _ => (Thread.putNat_trapc ks _ _).trans (Thread.setV_trapc t _ _)
@[simp] theorem Thread.putNat_trapv : ∀ (ks : List Nat) (t : Thread) (n : Nat), (t.putNat ks n).trapv = t.trapv
  | [], _, _ => rfl
  | _ :: ks, t, _ => (Thread.putNat_trapv ks _ _).trans (Thread.setV_trapv t _ _)
@[simp] theorem Thread.putNat_trappc : ∀ (ks : List Nat) (t : Thread) (n : Nat), (t.putNat ks n).trappc = t.trappc
  | [], _, _ => rfl
  | _ :: ks, t, _ => (Thread.putNat_trappc ks _ _).trans (Thread.setV_trappc t _ _)
@[simp] theorem Thread.putNat_trapprio : ∀ (ks : List Nat) (t : Thread) (n : Nat), (t.putNat ks n).trapprio = t.trapprio
  | [], _, _ => rfl
  | _ :: ks, t, _ => (Thread.putNat_trapprio ks _ _).trans (Thread.setV_trapprio t _ _)
@[simp] theorem Thread.putNat_hints : ∀ (ks : List Nat) (t : Thread) (n : Nat), (t.putNat ks n).hints = t.hints
  | [], _, _ => rfl
  | _ :: ks, t, _ => (Thread.putNat_hints ks _ _).trans (Thread.setV_hints t _ _)
@[simp] theorem Thread.putNat_nat : ∀ (ks : List Nat) (t : Thread) (n : Nat), (t.putNat ks n).nat = t.nat
  | [], _, _ => rfl
  | _ :: ks, t, _ => (Thread.putNat_nat ks _ _).trans (Thread.setV_nat t _ _)
@[simp] theorem Thread.putNat_ops : ∀ (ks : List Nat) (t : Thread) (n : Nat), (t.putNat ks n).ops = t.ops
  | [], _, _ => rfl
  | _ :: ks, t, _ => (Thread.putNat_ops ks _ _).trans (Thread.setV_ops t _ _)
@[simp] theorem Thread.putNat_pend : ∀ (ks : List Nat) (t : Thread) (n : Nat), (t.putNat ks n).pend = t.pend
  | [], _, _ => rfl
  | _ :: ks, t, _ => (Thread.putNat_pend ks _ _).trans (Thread.setV_pend t _ _)
@[simp] theorem Thread.putNat_pendAt : ∀ (ks : List Nat) (t : Thread) (n : Nat), (t.putNat ks n).pendAt = t.pendAt
  | [], _, _ => rfl
  | _ :: ks, t, _ => (Thread.putNat_pendAt ks _ _).trans (Thread.setV_pendAt t _ _)
@[simp] theorem Thread.putNat_late : ∀ (ks : List Nat) (t : Thread) (n : Nat), (t.putNat ks n).late = t.late
  | [], _, _ => rfl
  | _ :: ks, t, _ => (Thread.putNat_late ks _ _).trans (Thread.setV_late t _ _)
@[simp] theorem Thread.putNat_lastPort : ∀ (ks : List Nat) (t : Thread) (n : Nat), (t.putNat ks n).lastPort = t.lastPort
  | [], _, _ => rfl
  | _ :: ks, t, _ => (Thread.putNat_lastPort ks _ _).trans (Thread.setV_lastPort t _ _)
@[simp] theorem Thread.putNat_noBrk : ∀ (ks : List Nat) (t : Thread) (n : Nat), (t.putNat ks n).noBrk = t.noBrk
  | [], _, _ => rfl
  | _ :: ks, t, _ => (Thread.putNat_noBrk ks _ _).trans (Thread.setV_noBrk t _ _)
@[simp] theorem Thread.putNat_core : ∀ (ks : List Nat) (t : Thread) (n : Nat), (t.putNat ks n).core = t.core
  | [], _, _ => rfl
  | _ :: ks, t, _ => (Thread.putNat_core ks _ _).trans (Thread.setV_core t _ _)
@[simp] theorem Thread.putNat_tseam : ∀ (ks : List Nat) (t : Thread) (n : Nat), (t.putNat ks n).tseam = t.tseam
  | [], _, _ => rfl
  | _ :: ks, t, _ => (Thread.putNat_tseam ks _ _).trans (Thread.setV_tseam t _ _)
@[simp] theorem Thread.putNat_travels : ∀ (ks : List Nat) (t : Thread) (n : Nat), (t.putNat ks n).travels = t.travels
  | [], _, _ => rfl
  | _ :: ks, t, _ => (Thread.putNat_travels ks _ _).trans (Thread.setV_travels t _ _)
@[simp] theorem Thread.putNat_piece : ∀ (ks : List Nat) (t : Thread) (n : Nat), (t.putNat ks n).piece = t.piece
  | [], _, _ => rfl
  | _ :: ks, t, _ => (Thread.putNat_piece ks _ _).trans (Thread.setV_piece t _ _)
@[simp] theorem Thread.putNat_poisonV : ∀ (ks : List Nat) (t : Thread) (n : Nat), (t.putNat ks n).poisonV = t.poisonV
  | [], _, _ => rfl
  | _ :: ks, t, _ => (Thread.putNat_poisonV ks _ _).trans (Thread.setV_poisonV t _ _)
@[simp] theorem Thread.putNat_poisonP : ∀ (ks : List Nat) (t : Thread) (n : Nat), (t.putNat ks n).poisonP = t.poisonP
  | [], _, _ => rfl
  | _ :: ks, t, _ => (Thread.putNat_poisonP ks _ _).trans (Thread.setV_poisonP t _ _)
@[simp] theorem Thread.putNat_ticket : ∀ (ks : List Nat) (t : Thread) (n : Nat), (t.putNat ks n).ticket = t.ticket
  | [], _, _ => rfl
  | _ :: ks, t, _ => (Thread.putNat_ticket ks _ _).trans (Thread.setV_ticket t _ _)
@[simp] theorem Thread.putNat_fresh : ∀ (ks : List Nat) (t : Thread) (n : Nat), (t.putNat ks n).fresh = t.fresh
  | [], _, _ => rfl
  | _ :: ks, t, _ => (Thread.putNat_fresh ks _ _).trans (Thread.setV_fresh t _ _)
@[simp] theorem Thread.putNat_entered : ∀ (ks : List Nat) (t : Thread) (n : Nat), (t.putNat ks n).entered = t.entered
  | [], _, _ => rfl
  | _ :: ks, t, _ => (Thread.putNat_entered ks _ _).trans (Thread.setV_entered t _ _)
@[simp] theorem Thread.putNat_fline : ∀ (ks : List Nat) (t : Thread) (n : Nat), (t.putNat ks n).fline = t.fline
  | [], _, _ => rfl
  | _ :: ks, t, _ => (Thread.putNat_fline ks _ _).trans (Thread.setV_fline t _ _)

/-! ## Going on -/

@[simp] theorem Thread.past_panel (t : Thread) (m : List Nat) : (t.past m).panel = t.panel := by
  unfold Thread.past; split <;> rfl
@[simp] theorem Thread.past_tid (t : Thread) (m : List Nat) : (t.past m).tid = t.tid := by
  unfold Thread.past; split <;> rfl
@[simp] theorem Thread.past_phase (t : Thread) (m : List Nat) : (t.past m).phase = t.phase := by
  unfold Thread.past; split <;> rfl
@[simp] theorem Thread.past_prio (t : Thread) (m : List Nat) : (t.past m).prio = t.prio := by
  unfold Thread.past; split <;> rfl
@[simp] theorem Thread.past_v (t : Thread) (m : List Nat) : (t.past m).v = t.v := by
  unfold Thread.past; split <;> rfl
@[simp] theorem Thread.past_link (t : Thread) (m : List Nat) : (t.past m).link = t.link := by
  unfold Thread.past; split <;> rfl
@[simp] theorem Thread.past_p (t : Thread) (m : List Nat) : (t.past m).p = t.p := by
  unfold Thread.past; split <;> rfl
@[simp] theorem Thread.past_f (t : Thread) (m : List Nat) : (t.past m).f = t.f := by
  unfold Thread.past; split <;> rfl
@[simp] theorem Thread.past_fflags (t : Thread) (m : List Nat) : (t.past m).fflags = t.fflags := by
  unfold Thread.past; split <;> rfl
@[simp] theorem Thread.past_rnd (t : Thread) (m : List Nat) : (t.past m).rnd = t.rnd := by
  unfold Thread.past; split <;> rfl
@[simp] theorem Thread.past_rotbase (t : Thread) (m : List Nat) : (t.past m).rotbase = t.rotbase := by
  unfold Thread.past; split <;> rfl
@[simp] theorem Thread.past_rotstep (t : Thread) (m : List Nat) : (t.past m).rotstep = t.rotstep := by
  unfold Thread.past; split <;> rfl
@[simp] theorem Thread.past_repidx (t : Thread) (m : List Nat) : (t.past m).repidx = t.repidx := by
  unfold Thread.past; split <;> rfl
@[simp] theorem Thread.past_cych (t : Thread) (m : List Nat) : (t.past m).cych = t.cych := by
  unfold Thread.past; split <;> rfl
@[simp] theorem Thread.past_trapc (t : Thread) (m : List Nat) : (t.past m).trapc = t.trapc := by
  unfold Thread.past; split <;> rfl
@[simp] theorem Thread.past_trapv (t : Thread) (m : List Nat) : (t.past m).trapv = t.trapv := by
  unfold Thread.past; split <;> rfl
@[simp] theorem Thread.past_trappc (t : Thread) (m : List Nat) : (t.past m).trappc = t.trappc := by
  unfold Thread.past; split <;> rfl
@[simp] theorem Thread.past_trapprio (t : Thread) (m : List Nat) : (t.past m).trapprio = t.trapprio := by
  unfold Thread.past; split <;> rfl
@[simp] theorem Thread.past_hints (t : Thread) (m : List Nat) : (t.past m).hints = t.hints := by
  unfold Thread.past; split <;> rfl
@[simp] theorem Thread.past_ops (t : Thread) (m : List Nat) : (t.past m).ops = t.ops := by
  unfold Thread.past; split <;> rfl
@[simp] theorem Thread.past_pend (t : Thread) (m : List Nat) : (t.past m).pend = t.pend := by
  unfold Thread.past; split <;> rfl
@[simp] theorem Thread.past_pendAt (t : Thread) (m : List Nat) : (t.past m).pendAt = t.pendAt := by
  unfold Thread.past; split <;> rfl
@[simp] theorem Thread.past_late (t : Thread) (m : List Nat) : (t.past m).late = t.late := by
  unfold Thread.past; split <;> rfl
@[simp] theorem Thread.past_lastPort (t : Thread) (m : List Nat) : (t.past m).lastPort = t.lastPort := by
  unfold Thread.past; split <;> rfl
@[simp] theorem Thread.past_noBrk (t : Thread) (m : List Nat) : (t.past m).noBrk = t.noBrk := by
  unfold Thread.past; split <;> rfl
@[simp] theorem Thread.past_core (t : Thread) (m : List Nat) : (t.past m).core = t.core := by
  unfold Thread.past; split <;> rfl
@[simp] theorem Thread.past_tseam (t : Thread) (m : List Nat) : (t.past m).tseam = t.tseam := by
  unfold Thread.past; split <;> rfl
@[simp] theorem Thread.past_travels (t : Thread) (m : List Nat) : (t.past m).travels = t.travels := by
  unfold Thread.past; split <;> rfl
@[simp] theorem Thread.past_piece (t : Thread) (m : List Nat) : (t.past m).piece = t.piece := by
  unfold Thread.past; split <;> rfl
@[simp] theorem Thread.past_poisonV (t : Thread) (m : List Nat) : (t.past m).poisonV = t.poisonV := by
  unfold Thread.past; split <;> rfl
@[simp] theorem Thread.past_poisonP (t : Thread) (m : List Nat) : (t.past m).poisonP = t.poisonP := by
  unfold Thread.past; split <;> rfl
@[simp] theorem Thread.past_ticket (t : Thread) (m : List Nat) : (t.past m).ticket = t.ticket := by
  unfold Thread.past; split <;> rfl
@[simp] theorem Thread.past_fresh (t : Thread) (m : List Nat) : (t.past m).fresh = t.fresh := by
  unfold Thread.past; split <;> rfl
@[simp] theorem Thread.past_entered (t : Thread) (m : List Nat) : (t.past m).entered = t.entered := by
  unfold Thread.past; split <;> rfl
@[simp] theorem Thread.past_fline (t : Thread) (m : List Nat) : (t.past m).fline = t.fline := by
  unfold Thread.past; split <;> rfl
@[simp] theorem Thread.advance_panel (t : Thread) (m : List Nat) : (t.advance m).panel = t.panel := by
  unfold Thread.advance; split
  · split
    · rfl
    · exact Thread.past_panel t m
  · exact Thread.past_panel t m
@[simp] theorem Thread.advance_tid (t : Thread) (m : List Nat) : (t.advance m).tid = t.tid := by
  unfold Thread.advance; split
  · split
    · rfl
    · exact Thread.past_tid t m
  · exact Thread.past_tid t m
@[simp] theorem Thread.advance_phase (t : Thread) (m : List Nat) : (t.advance m).phase = t.phase := by
  unfold Thread.advance; split
  · split
    · rfl
    · exact Thread.past_phase t m
  · exact Thread.past_phase t m
@[simp] theorem Thread.advance_prio (t : Thread) (m : List Nat) : (t.advance m).prio = t.prio := by
  unfold Thread.advance; split
  · split
    · rfl
    · exact Thread.past_prio t m
  · exact Thread.past_prio t m
@[simp] theorem Thread.advance_v (t : Thread) (m : List Nat) : (t.advance m).v = t.v := by
  unfold Thread.advance; split
  · split
    · rfl
    · exact Thread.past_v t m
  · exact Thread.past_v t m
@[simp] theorem Thread.advance_link (t : Thread) (m : List Nat) : (t.advance m).link = t.link := by
  unfold Thread.advance; split
  · split
    · rfl
    · exact Thread.past_link t m
  · exact Thread.past_link t m
@[simp] theorem Thread.advance_p (t : Thread) (m : List Nat) : (t.advance m).p = t.p := by
  unfold Thread.advance; split
  · split
    · rfl
    · exact Thread.past_p t m
  · exact Thread.past_p t m
@[simp] theorem Thread.advance_f (t : Thread) (m : List Nat) : (t.advance m).f = t.f := by
  unfold Thread.advance; split
  · split
    · rfl
    · exact Thread.past_f t m
  · exact Thread.past_f t m
@[simp] theorem Thread.advance_fflags (t : Thread) (m : List Nat) : (t.advance m).fflags = t.fflags := by
  unfold Thread.advance; split
  · split
    · rfl
    · exact Thread.past_fflags t m
  · exact Thread.past_fflags t m
@[simp] theorem Thread.advance_rnd (t : Thread) (m : List Nat) : (t.advance m).rnd = t.rnd := by
  unfold Thread.advance; split
  · split
    · rfl
    · exact Thread.past_rnd t m
  · exact Thread.past_rnd t m
@[simp] theorem Thread.advance_rotbase (t : Thread) (m : List Nat) : (t.advance m).rotbase = t.rotbase := by
  unfold Thread.advance; split
  · split
    · rfl
    · exact Thread.past_rotbase t m
  · exact Thread.past_rotbase t m
@[simp] theorem Thread.advance_rotstep (t : Thread) (m : List Nat) : (t.advance m).rotstep = t.rotstep := by
  unfold Thread.advance; split
  · split
    · rfl
    · exact Thread.past_rotstep t m
  · exact Thread.past_rotstep t m
@[simp] theorem Thread.advance_cych (t : Thread) (m : List Nat) : (t.advance m).cych = t.cych := by
  unfold Thread.advance; split
  · split
    · rfl
    · exact Thread.past_cych t m
  · exact Thread.past_cych t m
@[simp] theorem Thread.advance_trapc (t : Thread) (m : List Nat) : (t.advance m).trapc = t.trapc := by
  unfold Thread.advance; split
  · split
    · rfl
    · exact Thread.past_trapc t m
  · exact Thread.past_trapc t m
@[simp] theorem Thread.advance_trapv (t : Thread) (m : List Nat) : (t.advance m).trapv = t.trapv := by
  unfold Thread.advance; split
  · split
    · rfl
    · exact Thread.past_trapv t m
  · exact Thread.past_trapv t m
@[simp] theorem Thread.advance_trappc (t : Thread) (m : List Nat) : (t.advance m).trappc = t.trappc := by
  unfold Thread.advance; split
  · split
    · rfl
    · exact Thread.past_trappc t m
  · exact Thread.past_trappc t m
@[simp] theorem Thread.advance_trapprio (t : Thread) (m : List Nat) : (t.advance m).trapprio = t.trapprio := by
  unfold Thread.advance; split
  · split
    · rfl
    · exact Thread.past_trapprio t m
  · exact Thread.past_trapprio t m
@[simp] theorem Thread.advance_ops (t : Thread) (m : List Nat) : (t.advance m).ops = t.ops := by
  unfold Thread.advance; split
  · split
    · rfl
    · exact Thread.past_ops t m
  · exact Thread.past_ops t m
@[simp] theorem Thread.advance_pend (t : Thread) (m : List Nat) : (t.advance m).pend = t.pend := by
  unfold Thread.advance; split
  · split
    · rfl
    · exact Thread.past_pend t m
  · exact Thread.past_pend t m
@[simp] theorem Thread.advance_pendAt (t : Thread) (m : List Nat) : (t.advance m).pendAt = t.pendAt := by
  unfold Thread.advance; split
  · split
    · rfl
    · exact Thread.past_pendAt t m
  · exact Thread.past_pendAt t m
@[simp] theorem Thread.advance_late (t : Thread) (m : List Nat) : (t.advance m).late = t.late := by
  unfold Thread.advance; split
  · split
    · rfl
    · exact Thread.past_late t m
  · exact Thread.past_late t m
@[simp] theorem Thread.advance_lastPort (t : Thread) (m : List Nat) : (t.advance m).lastPort = t.lastPort := by
  unfold Thread.advance; split
  · split
    · rfl
    · exact Thread.past_lastPort t m
  · exact Thread.past_lastPort t m
@[simp] theorem Thread.advance_noBrk (t : Thread) (m : List Nat) : (t.advance m).noBrk = t.noBrk := by
  unfold Thread.advance; split
  · split
    · rfl
    · exact Thread.past_noBrk t m
  · exact Thread.past_noBrk t m
@[simp] theorem Thread.advance_core (t : Thread) (m : List Nat) : (t.advance m).core = t.core := by
  unfold Thread.advance; split
  · split
    · rfl
    · exact Thread.past_core t m
  · exact Thread.past_core t m
@[simp] theorem Thread.advance_tseam (t : Thread) (m : List Nat) : (t.advance m).tseam = t.tseam := by
  unfold Thread.advance; split
  · split
    · rfl
    · exact Thread.past_tseam t m
  · exact Thread.past_tseam t m
@[simp] theorem Thread.advance_travels (t : Thread) (m : List Nat) : (t.advance m).travels = t.travels := by
  unfold Thread.advance; split
  · split
    · rfl
    · exact Thread.past_travels t m
  · exact Thread.past_travels t m
@[simp] theorem Thread.advance_piece (t : Thread) (m : List Nat) : (t.advance m).piece = t.piece := by
  unfold Thread.advance; split
  · split
    · rfl
    · exact Thread.past_piece t m
  · exact Thread.past_piece t m
@[simp] theorem Thread.advance_poisonV (t : Thread) (m : List Nat) : (t.advance m).poisonV = t.poisonV := by
  unfold Thread.advance; split
  · split
    · rfl
    · exact Thread.past_poisonV t m
  · exact Thread.past_poisonV t m
@[simp] theorem Thread.advance_poisonP (t : Thread) (m : List Nat) : (t.advance m).poisonP = t.poisonP := by
  unfold Thread.advance; split
  · split
    · rfl
    · exact Thread.past_poisonP t m
  · exact Thread.past_poisonP t m
@[simp] theorem Thread.advance_ticket (t : Thread) (m : List Nat) : (t.advance m).ticket = t.ticket := by
  unfold Thread.advance; split
  · split
    · rfl
    · exact Thread.past_ticket t m
  · exact Thread.past_ticket t m
@[simp] theorem Thread.advance_fresh (t : Thread) (m : List Nat) : (t.advance m).fresh = t.fresh := by
  unfold Thread.advance; split
  · split
    · rfl
    · exact Thread.past_fresh t m
  · exact Thread.past_fresh t m
@[simp] theorem Thread.advance_entered (t : Thread) (m : List Nat) : (t.advance m).entered = t.entered := by
  unfold Thread.advance; split
  · split
    · rfl
    · exact Thread.past_entered t m
  · exact Thread.past_entered t m
@[simp] theorem Thread.advance_fline (t : Thread) (m : List Nat) : (t.advance m).fline = t.fline := by
  unfold Thread.advance; split
  · split
    · rfl
    · exact Thread.past_fline t m
  · exact Thread.past_fline t m

end Sys2Proof.Machine
end

