-- ==== Sys2Proof/Tests/Slice0.lean ====
section
/-! SUPPORT. Tests. The words are written out from the encodings of R91, R106 to R110 and the format lines of the rules
named; expected results are worked out from the rules by hand. Theorems named `witness_…` show, for each statement and each
of its clauses, a state and operands that meet its hypotheses. -/

namespace Sys2Proof.Tests

open Machine

set_option maxRecDepth 100000
-- Each kernel evaluation below waits for all earlier checks: one after another, they do not each hold a thread meanwhile.
set_option Elab.async false

/-! ## Small states -/

/-- One thread at a word, which issues. -/
def atWord (w : Nat) : State :=
  let s := State.reset.withFetchWord 32 w
  ⟨s.mem, s.hostMem, { s.sys with focus := [(4, 0)] }⟩

def edit (f : Sys → Sys) (s : State) : State := ⟨s.mem, s.hostMem, f s.sys⟩
def onThread (f : Thread → Thread) (s : State) : State := edit (fun y => { y with threads := y.threads.map f }) s
def onPanel (f : Panel → Panel) (s : State) : State := edit (fun y => { y with panels := y.panels.map f }) s
def onLaunch (f : Launch → Launch) (s : State) : State := edit (fun y => { y with launches := y.launches.map f }) s
def onYoke (f : Yoke → Yoke) (s : State) : State := edit (fun y => { y with yokes := y.yokes.map f }) s
def onPart (f : Partition → Partition) (s : State) : State := edit (fun y => { y with parts := y.parts.map f }) s
def onObject (f : Object → Object) (s : State) : State := edit (fun y => { y with objects := y.objects.map f }) s

def thr (s : State) : Thread := s.sys.threads.headD (Thread.newborn 0 0 0 0 0 0)
def pan (s : State) : Panel := s.sys.panels.headD (Panel.fresh 0 0 none 0 0 0 0 0 0 0 0)
def lau (s : State) : Launch := s.sys.launches.headD (bootLaunch 0 0)
def yok (s : State) : Yoke := s.sys.yokes.headD (Yoke.empty 0 0 0 0 0 0 [])
def prt (s : State) : Partition := s.sys.parts.headD bootPart

def idle : State := atWord 0xBC000000

/-- Registers from v`k`. -/
def withV (k : Nat) (ws : List Word) (s : State) : State :=
  onThread (fun t => (List.range ws.length).foldl (fun t i => t.setV (k + i) (ws.getD i 0)) t) s
def withScratch (a : Nat) (bs : List Byte) (s : State) : State := onPanel (fun p => { p with scratch := Mem.putBytes p.scratch a bs }) s
def withHints (f : Hints → Hints) (s : State) : State := onThread (fun t => { t with hints := f t.hints }) s

/-- One pinned 64 KiB buffer of stack 0 at slot 0, its page at frame 0x20000 under key 5. -/
def buffer : List Word := [0, 0, 0x10000, 0, 0xC7820005, 0x00010000, 0, 0]
def pageZero : PageMap := ⟨0, 0, 0x20000, 5, 1, 0⟩
def withBuffer (s : State) : State :=
  onPanel (fun p => { p with extents := [pageZero] }) (onLaunch (fun l => { l with decls := [buffer], extents := [pageZero] }) s)

/-- The declarations of the only launch, with the page of `withBuffer`. -/
def withDecls (ds : List (List Word)) (s : State) : State := onLaunch (fun l => { l with decls := ds }) (withBuffer s)

/-- One thread that issues alone, and the decode checks of a word pass for it. -/
def Meets (s : State) (i : Instr) : Bool := decide (s.Alone (thr s) (pan s) (lau s) ∧ (thr s).Ready (pan s) i)

/-- The check of an access lets it through. -/
def passes (c : Check) : Bool :=
  match c with
  | .ok a => (match a.target with
    | .home _ _ _ _ _ => true
    | .peer _ => false)
  | _ => false

def walks (c : Check) : Bool :=
  match c with
  | .walk _ _ _ => true
  | _ => false

def traps (c : Check) : Bool :=
  match c with
  | .trap _ _ _ _ _ => true
  | _ => false

/-- The access of the only thread through slot 0. -/
def atSlot (s : State) (off n rights : Nat) : Check := checkAccess s (portOf (pan s) (lau s) (thr s)) 0 off n n rights false

def isOk (c : Check) (a : Access) : Bool :=
  match c with
  | .ok x => x == a
  | _ => false

/-- The thread's seam, in a yoke of 16 units with these tile records at t0, t1 and t2. -/
def withTiles (a b c : QWord) (s : State) : State :=
  onYoke (fun y => { y with units := 16, tiles := ((y.tiles.set 0 a).set 1 b).set 2 c }) s

/-- FP32 tiles of one row and one column, one unit each, of roles A, B and C. -/
def passTiles (s : State) : State := withTiles 0x800400 0x808500 0x810600 s

/-- Registers for a transfer, without a tack. -/
def transfers (s : State) : State := withHints (fun h => { h with first := some 0, hopd := some ⟨8, 0⟩ }) s

/-- The only thread of an outcome. -/
def after (f : Thread → Nat) : Host.Outcome State Fault Refusal → Option Nat
  | .next s => some (f (thr s))
  | .fault _ => none
  | .refused _ => none

/-- Register k of the only thread after an instruction. -/
def regOf (k : Nat) (o : Host.Outcome State Fault Refusal) : Option Nat := after (fun t => (t.getV k).toNat) o

theorem lastWord_of_portable {t : Thread} (h : t.nat = none) : t.LastWord := fun n e => by rw [h] at e; cases e

/-! ## Ill-formed terms (R111, R54, R2, R409, R345, R37, R456, R463, R465) -/

theorem test_wellFormed_refuses :
    wellFormed (.csrr 1 8) = false ∧ wellFormed (.csrw 1 0x103) = false ∧ wellFormed (.csrw 1 0xC10) = false ∧
    wellFormed (.coreReset 288) = false ∧ wellFormed (.stackThrottle 16 true) = false ∧ wellFormed (.rowRefresh 0 1024 0) = false ∧
    wellFormed (.scrubRow 0 0 49152) = false ∧ wellFormed (.zidorLinkDown 18) = false ∧ wellFormed (.zidorLinkTrained 0 256) = false ∧
    wellFormed (.hostQueueDoorbell 4096 0 []) = false ∧ wellFormed (.yokePlacement 8) = false ∧ wellFormed (.cancel 9 0 0) = false ∧
    wellFormed (.domain 0 0 []) = false ∧ wellFormed (.domain 0 256 []) = false ∧ wellFormed (.attest 0 0 [0]) = false := by
  decide +kernel

theorem test_wellFormed_accepts :
    wellFormed (.csrr 1 9) = true ∧ wellFormed (.csrw 1 0x100) = true ∧ wellFormed (.coreReset 287) = true ∧
    wellFormed (.stackThrottle 15 true) = true ∧ wellFormed (.rowRefresh 15 1023 49151) = true ∧
    wellFormed (.zidorLinkTrained 17 255) = true ∧ wellFormed (.hostQueueDoorbell 4095 0 []) = true ∧ wellFormed (.yokePlacement 7) = true ∧ wellFormed (.cancel 8 0 0) = true ∧
    wellFormed (.domain 0 255 []) = true ∧ wellFormed (.attest 0 0 [0, 0, 0, 0, 0, 0, 0, 0]) = true := by
  decide +kernel

/-! ## Words (R91: opcode in bits 31 to 24, then d, a, b; R92 the other formats) -/

theorem test_decode_arithmetic :
    (decode 0x00090803#32).toOption = some (.add 9 8 3) ∧ (decode 0x09080102#32).toOption = some (.mulw 8 1 2) ∧
    (decode 0x28070102#32).toOption = some (.prmt 7 1 2) ∧ (decode 0x290A007F#32).toOption = some (.movi 10 0x7F) ∧
    (decode 0x2C410301#32).toOption = some (.icmps 2 0 1 3 1) := by
  decide +kernel

theorem test_decode_hints :
    (decode 0xF90D4000#32).toOption = some (.rep 3 1 1 0) ∧ (decode 0xFAA00000#32).toOption = some (.hmod 1 2 0 0 0 0 0 0 0) ∧
    (decode 0xFB009420#32).toOption = some (.hopd 0 0x9420) := by
  decide +kernel

theorem test_decode_control :
    (decode 0xA00C0002#32).toOption = some (.bra 12 2) ∧ (decode 0xA4000000#32).toOption = some .exit ∧
    (decode 0xB8000000#32).toOption = some (.enrol 0) ∧ (decode 0xBC000000#32).toOption = some .nop := by
  decide +kernel

theorem test_decode_memory :
    (decode 0x8408148D#32).toOption = some (.ldB32 8 20 0x8D) ∧ (decode 0x7605040A#32).toOption = some (.raddF32 5 4 10) ∧
    (decode 0xD0001400#32).toOption = some (.cpy 0 20 0) := by
  decide +kernel

theorem test_decode_ordering :
    (decode 0xE8000070#32).toOption = some (.fence 1 0x30) ∧ (decode 0xE80000E0#32).toOption = some (.fence 3 0x20) ∧
    (decode 0xEC001820#32).toOption = some (.rel 24 0x20) ∧ (decode 0xE9281418#32).toOption = some (.bind 40 20 24) ∧
    (decode 0xEB1E181A#32).toOption = some (.acq 30 24 26) := by
  decide +kernel

theorem test_decode_refuses_reserved :
    (decode 0x34000000#32).toOption = none ∧ (decode 0xBC000001#32).toOption = none ∧ (decode 0xA2000100#32).toOption = none := by
  decide +kernel

/-! ## Words, steps, memory -/

theorem witness_EncodeThenDecode : isWord (.hmod 1 7 1 1 7 1 1 1 15) = true ∧ wellFormed (.csrr 255 0xFFFF) = true := by decide +kernel

theorem witness_DecodeThenEncode : (decode 0xFFFFFFFE#32).toOption = some (.clauseHeader 0xFFF 15 15 15 1) ∧
    (decode 0x00000000#32).toOption = some (.add 0 0 0) := by decide +kernel

theorem witness_UnassignedOpcodesRefused :
    (0x34 ≤ (0x34000000#32).toNat / 2 ^ 24 ∧ (0x3FFFFFFF#32).toNat / 2 ^ 24 ≤ 0x3F ∧ (0xEF000000#32).toNat / 2 ^ 24 = 0xEF) ∧
    idle.Alone (thr idle) (pan idle) (lau idle) ∧ (thr idle).CanTrap (lau idle) ∧ (thr idle).nat = none ∧
    (thr idle).hints.first = none ∧
    (let s := onThread (fun t => { t with pc := 2 }) idle;
      s.Alone (thr s) (pan s) (lau s) ∧ (thr s).CanTrap (lau s) ∧ (thr s).pc = (s.sys.textOf (lau s)).length) := by decide +kernel

theorem witness_StepRunsTheDecodedWord :
    (let s := State.reset.withFetchWord 32 0x00090803;
      s.sys.agenda = [] ∧ s.sys.shut = false ∧ s.sys.turn ≠ 1 ∧ (match nextStitch s.sys with
        | some (_, x :: st, _) => (x :: st).all fun y => decide (gateOf s.sys y = .go ∧ y.t.swapForm s.sys y.l = y.t
            ∧ s.sys.portableWord y.l y.t = some 0x00090803)
        | _ => false) = true) := by decide +kernel

theorem witness_StepRunsTheAgendaAndTimePasses :
    (edit (fun y => { y with agenda := [.thermalThrottle, .flitCrcRetry 17] }) State.reset).sys.agenda
      = .thermalThrottle :: [.flitCrcRetry 17] ∧
    (let s := edit (fun y => { y with shut := true }) State.reset;
      s.sys.agenda = [] ∧ s.sys.shut = true ∧ 1 < s.sys.dies.length) := by decide +kernel

theorem witness_StepKeepsSafe : Safe State.reset ∧ ∃ s', step State.reset = .next s' := ⟨⟨rfl, rfl⟩, _, rfl⟩

theorem witness_ExecKeepsSafe : Safe State.reset ∧ ∃ s', exec .thermalThrottle State.reset = .next s' := ⟨⟨rfl, rfl⟩, _, rfl⟩

theorem witness_MemoryReadsAfterWrites : Mem.wf [] = true ∧ Mem.wf [(0, 1), (2 ^ 40, 255)] = true := by decide +kernel

/-- R263: little-endian bytes in one line; R2. -/
theorem test_memory_last_write_wins :
    Mem.getNat (Mem.putBytes (Mem.putBytes [] 64 [1, 2, 3, 4]) 66 [0, 9]) 64 4 = 0x09000201 := by decide +kernel

/-! ## Arithmetic words -/

/-- Every arithmetic word, with pairs and quads at even registers: the witness of IntegerArithmetic, AccumulatingWords,
LogicAndSelection, ShiftsAndBitFields, MovesAndHandles and ComparesAndPredicates too, with those below. -/
theorem witness_ArithmeticWordsComplete : idle.Whole ∧
    ∀ i ∈ ([.add 8 2 4, .addi 8 2 0xFF, .sub 8 2 4, .add64 8 2 4, .sub64 8 2 4, .mul 8 2 4, .mulhs 8 2 4, .mulhn 8 2 4, .mac 8 2 4,
      .mulw 8 2 4, .mins 8 2 4, .maxs 8 2 4, .minn 8 2 4, .maxn 8 2 4, .absd 8 2 4, .sel 8 2 4, .and 8 2 4, .or 8 2 4, .xor 8 2 4,
      .andn 8 2 4, .orn 8 2 4, .xnor 8 2 4, .andi 8 2 0, .ori 8 2 0, .xori 8 2 0, .shl 8 2 4, .shr 8 2 4, .sra 8 2 4, .rol 8 2 4,
      .shli 8 2 31, .shri 8 2 31, .srai 8 2 31, .popc 8 2, .clz 8 2, .ctz 8 2, .brev 8 2, .bswap 8 2, .bfx 8 2 4, .bfxs 8 2 4,
      .bfi 8 2 4, .movi 8 0xFFFF, .movhi 8 0xFFFF, .mov 248 248, .icmps 5 2 7 2 4, .icmpn 0 0 0 2 4, .icmpi 7 1 7 2 0x80,
      .plut 7 7 0x80 7 7, .p2v 8, .v2p 2 0xFF] : List Instr),
      laneOk i (thr idle) (pan idle) = true ∧ Meets idle i := by decide +kernel

theorem witness_FloatWordsComplete :
    ∀ i ∈ ([.idot4s 8 2 4, .idot4n 8 2 4, .faddF32 8 2 4, .fsubF32 8 2 4, .fmulF32 8 2 4, .fmacF32 8 2 4,
      .fminF32 8 2 4, .fmaxF32 8 2 4, .fcmpF32 7 2 7 2 4, .faddF64 8 2 4, .fsubF64 8 2 4, .fmulF64 8 2 4, .fmacF64 8 2 4,
      .fminF64 8 2 4, .fmaxF64 8 2 4, .fcmpF64 0 0 0 2 4, .paddH16x2 8 2 4, .pmulH16x2 8 2 4, .pmacH16x2 8 2 4,
      .paddBf16x2 8 2 4, .pmulBf16x2 8 2 4, .pmacBf16x2 8 2 4, .dot2H16 8 2 4, .dot2Bf16 8 2 4, .dot4E4m3 8 2 4, .dot8E2m1 8 2 4,
      .fclass 8 2 3, .fclass 8 2 1, .frcp 8 2, .frsq 8 2, .fsqrt 8 2, .fex2 8 2, .flg2 8 2, .fsin 8 2, .fcos 8 2, .frcpsF64 8 2,
      .cvt 8 2 0 1, .cvti 8 2 3 3, .cvtf 8 2 3 3, .scale 8 2 4, .logc 8 2 4, .frnd 8 2, .hmk 8 2 4, .hadd 8 2 4, .hqry 8 2 0,
      .hqry 8 2 1, .hqry 8 2 2, .hqry 8 2 3] : List Instr),
      laneOk i (thr idle) (pan idle) = true ∧ Meets idle i := by decide +kernel

/-- `PACK`, `UNPK`, `PRMT` and `FMA` need `HOPD`; a thread whose `HMOD` test fails meets the checks too. -/
theorem witness_HintedWordsComplete :
    (let s := withHints (fun h => { h with first := some 0, hopd := some ⟨0, 0xFFFF⟩ }) idle;
      laneOk (.prmt 8 2 4) (thr s) (pan s) = true ∧ Meets s (.prmt 8 2 4)) ∧
    (let s := withHints (fun h => { h with first := some 0, hopd := some ⟨6, 0⟩ }) idle;
      laneOk (.fmaF32 8 2 4) (thr s) (pan s) = true ∧ laneOk (.fmaF64 8 2 4) (thr s) (pan s) = true) ∧
    (let s := withHints (fun h => { h with first := some 0, hopd := some ⟨0, 23⟩ }) idle;
      laneOk (.pack 8 2 4) (thr s) (pan s) = true ∧ Meets s (.unpk 8 2) ∧ laneOk (.unpk 8 2) (thr s) (pan s) = true ∧ s.Whole) ∧
    (let s := withHints (fun h => { h with first := some 0, hmod := some ⟨true, 0, false, false, 0, false, false, false, 0⟩ }) idle;
      laneOk (.add 8 2 4) (thr s) (pan s) = true ∧ (thr s).runs = false ∧ s.Whole) := by decide +kernel

/-- R204, R210, R96, R93, R221: a count of 32, condition 6, an odd pair, a register that the panel does not have, format 4. -/
theorem witness_ArithmeticWordsTrap : idle.Alone (thr idle) (pan idle) (lau idle) ∧ (thr idle).CanTrap (lau idle) ∧
    ∀ i ∈ ([.shli 8 2 32, .icmps 6 0 0 2 4, .icmpi 0 3 0 2 0, .add64 9 2 4, .add 249 2 4, .fclass 8 2 4, .cvt 8 2 1 1] : List Instr),
      (laneCheck i).isSome = true ∧ laneOk i (thr idle) (pan idle) = false := by decide +kernel

theorem witness_FloatWordsOnSpecialValues :
    (let s := withV 2 [0x7F800001, 0, 0xFF800000] idle;
      (∀ k ∈ ([0, 1, 2, 3] : List Byte), Meets s (.fclass 8 2 k) = true) ∧
      floatClass 8 23 ((thr s).src32 (pan s) 2 2).toNat ≠ floatClass 11 52 ((thr s).src64 (pan s) 2 2).toNat ∧
      floatClass 5 10 (((thr s).src32 (pan s) 2 2).toNat % 2 ^ 16) ≠ floatClass 8 23 ((thr s).src32 (pan s) 2 2).toNat ∧
      Meets s (.faddF32 8 2 4) ∧ Meets s (.fcmpF32 7 0 0 2 4) ∧ nan32 ((thr s).src32 (pan s) 2 2) = true) := by
  decide +kernel

/-- R197: the sum wraps, and clamps under sat; R199: the high half of -1 * 1. -/
theorem test_add : regOf 8 (exec (.add 8 2 3) (withV 2 [0x7FFFFFFF, 1] idle)) = some 0x80000000 := by decide +kernel
theorem test_add_sat : regOf 8 (exec (.add 8 2 3) (withHints (fun h => { h with hmod := some ⟨false, 0, false, true, 0, false, false, false, 0⟩ })
    (withV 2 [0x7FFFFFFF, 1] idle))) = some 0x7FFFFFFF := by decide +kernel
theorem test_mulhs : regOf 8 (exec (.mulhs 8 2 3) (withV 2 [0xFFFFFFFF, 1] idle)) = some 0xFFFFFFFF := by decide +kernel
theorem test_mulhn : regOf 8 (exec (.mulhn 8 2 3) (withV 2 [0xFFFFFFFF, 0xFFFFFFFF] idle)) = some 0xFFFFFFFE := by decide +kernel
/-- R204: a count of 32 gives 0, and copies of the sign. -/
theorem test_shl_32 : regOf 8 (exec (.shl 8 2 3) (withV 2 [1, 32] idle)) = some 0 := by decide +kernel
theorem test_sra_32 : regOf 8 (exec (.sra 8 2 3) (withV 2 [0x80000000, 32] idle)) = some 0xFFFFFFFF := by decide +kernel
/-- R205: 32 for 0; R206: the bytes reversed. -/
theorem test_clz_0 : regOf 8 (exec (.clz 8 2) idle) = some 32 := by decide +kernel
theorem test_bswap : regOf 8 (exec (.bswap 8 2) (withV 2 [0x01020304] idle)) = some 0x04030201 := by decide +kernel
/-- R207: four bits from place 8, the sign in the signed form. -/
theorem test_bfxs : regOf 8 (exec (.bfxs 8 2 3) (withV 2 [0x00000F00, 0x00000408] idle)) = some 0xFFFFFFFF := by decide +kernel
/-- R213: 1*1 + 2*2 + 3*3 + 4*4 = 30. -/
theorem test_idot4n : regOf 8 (exec (.idot4n 8 2 3) (withV 2 [0x04030201, 0x04030201] idle)) = some 30 := by decide +kernel
/-- R216: 1.5 + 1.5 = 3, and 1/3 rounded to nearest is 0x3EAAAAAB under the product with FMUL of exact values: 1.5 * 1.5 = 2.25. -/
theorem test_fadd : regOf 8 (exec (.faddF32 8 2 3) (withV 2 [0x3FC00000, 0x3FC00000] idle)) = some 0x40400000 := by decide +kernel
theorem test_fmul : regOf 8 (exec (.fmulF32 8 2 3) (withV 2 [0x3FC00000, 0x3FC00000] idle)) = some 0x40100000 := by decide +kernel
/-- R217: the other operand beside a NaN; R221: bit 5 for a positive subnormal. -/
theorem test_fmin_nan : regOf 8 (exec (.fminF32 8 2 3) (withV 2 [0x7FC00000, 0x3F800000] idle)) = some 0x3F800000 := by decide +kernel
/-- R221: 0x7F800001 is a signalling NaN as FP32, a positive subnormal as the low word of an FP64 pair, as FP16 and as BF16. -/
theorem test_fclass : regOf 8 (exec (.fclass 8 2 0) (withV 2 [0x7F800001] idle)) = some 0x100 ∧
    regOf 8 (exec (.fclass 8 2 1) (withV 2 [0x7F800001] idle)) = some 0x20 ∧
    regOf 8 (exec (.fclass 8 2 2) (withV 2 [0x7F800001] idle)) = some 0x20 := by decide +kernel
/-- R219: the root of 4 is 2. -/
theorem test_fsqrt : regOf 8 (exec (.fsqrt 8 2) (withV 2 [0x40800000] idle)) = some 0x40000000 := by decide +kernel

/-! ## Shuttles and control words -/

/-- The yoke's shuttle 0 from the panel to itself, with these words. -/
def withShuttle (ws : List Word) (s : State) : State :=
  onYoke (fun y => y.setShuttle 0 fun _ => ⟨some (0, 0), ws⟩) s

theorem witness_ShuttleOperands :
    (let s := withShuttle [7] idle;
      s.Alone (thr s) (pan s) (lau s) ∧ (thr s).runs = true ∧ wordOk (.mov 248 0xF0) (thr s) (pan s) = true ∧
      (pan s).yoke = some (yok s).key ∧ s.sys.yokeOf (pan s) = some (yok s) ∧
      (yok s).shuttles.getD 0 ⟨none, []⟩ = ⟨some (0, (pan s).position (lau s) (yok s)), 7 :: []⟩) ∧
    (let s := withShuttle (List.replicate 15 9) idle;
      wordOk (.mov 0xF0 8) (thr s) (pan s) = true ∧
      (yok s).shuttles.getD 0 ⟨none, []⟩ = ⟨some ((pan s).position (lau s) (yok s), 0), List.replicate 15 9⟩) ∧
    (let s := withShuttle [] idle; wordOk (.mov 8 0xF0) (thr s) (pan s) = true ∧
      (yok s).shuttles.getD 0 ⟨none, []⟩ = ⟨some (0, (pan s).position (lau s) (yok s)), []⟩) ∧
    (wordOk (.mov 8 0xF7) (thr idle) (pan idle) = true ∧ (thr idle).CanTrap (lau idle) ∧
      (yok idle).shuttles.getD 7 ⟨none, []⟩ = ⟨none, []⟩) ∧
    (let s := onPanel (fun p => { p with yoke := none }) idle;
      s.Alone (thr s) (pan s) (lau s) ∧ wordOk (.mov 248 0xF7) (thr s) (pan s) = true ∧ (pan s).yoke = none) := by
  decide +kernel

/-- Words whose operands are shuttle 0: two of it, one of it, the destination. -/
theorem witness_ShuttleOperands_sources :
    (let s := withShuttle [7, 9] idle;
      s.Alone (thr s) (pan s) (lau s) ∧ (thr s).runs = true ∧ s.sys.ShuttleHolds (pan s) (yok s) 0 0 ((pan s).position (lau s) (yok s)) [7, 9] ∧
      shuttleField 0 = 0xF0 ∧ ∀ e ∈ twoSourceWords, laneOk (e.1 8 0xF0 0xF0) (thr s) (pan s) = true ∧
        laneOk (e.1 8 2 0xF0) (thr s) (pan s) = true ∧ laneOk (e.1 0xF0 2 4) (thr s) (pan s) = true) ∧
    (let s := withShuttle [7] idle; s.sys.ShuttleHolds (pan s) (yok s) 0 0 ((pan s).position (lau s) (yok s)) [7]) ∧
    (let s := withShuttle (List.replicate 15 9) idle;
      s.sys.ShuttleHolds (pan s) (yok s) 0 ((pan s).position (lau s) (yok s)) 0 (List.replicate 15 9) ∧ s.sys.pushesDue (yok s).key 0 = 0) := by
  decide +kernel

theorem witness_ShuttleOperands_memory :
    (let s := withShuttle [7] (withBuffer (withV 2 [0xFFFC, 0] idle));
      wordOk (.stB32 0xF0 2 0) (thr s) (pan s) = true ∧ s.sys.ShuttleHolds (pan s) (yok s) 0 0 ((pan s).position (lau s) (yok s)) [7] ∧
      passes (atSlot s 0xFFFC 4 rW) = true ∧ passes (atSlot s 0xFFFC 4 rA) = true ∧ (thr s).hints.hopd = none ∧
      ((pan s).position (lau s) (yok s)) = 0 ∧ s.sys.pushesDue (yok s).key 0 = 0 ∧
      ∀ i ∈ ([.atomAdd 0xF0 2 0, .atomMins 0xF0 2 0, .atomMaxs 0xF0 2 0, .atomAnd 0xF0 2 0, .atomOr 0xF0 2 0, .atomXor 0xF0 2 0,
        .atomXchg 0xF0 2 0, .atomFadd 0xF0 2 0] : List Instr), i.atomShape.isSome = true ∧ wordOk i (thr s) (pan s) = true) ∧
    (let s := withShuttle [7] (withBuffer (withV 2 [0xFFFD, 0] idle));
      wordOk (.stB32 0xF0 2 0) (thr s) (pan s) = true ∧ 0xFFFD % 4 ≠ 0 ∧ (thr s).CanTrap (lau s)) ∧
    (let s := withShuttle [1] idle; controlOk (.bri 5 0xF0) true (thr s) (pan s) = true ∧
      1 < (s.sys.textOf (lau s)).length ∧ s.sys.InPlace (lau s) (thr s) 1 ∧ (thr s).CanTrap (lau s) ∧ (s.sys.textOf (lau s)).length ≤ 2) := by
  decide +kernel

theorem idle_portable : (thr idle).nat = none := by decide +kernel

theorem witness_DirectBranches_targets :
    idle.sys.Targets (lau idle) (thr idle) 0 1 none ∧ idle.sys.Targets (lau idle) (thr idle) 0xFFFF 0 none := by
  unfold Sys.Targets
  rw [idle_portable]
  decide +kernel

theorem witness_DirectBranches :
    idle.Alone (thr idle) (pan idle) (lau idle) ∧ idle.sys.InPlace (lau idle) (thr idle) 1 ∧
    controlOk (.bra 5 0) true (thr idle) (pan idle) = true ∧ controlOk (.brc 7 5 0) true (thr idle) (pan idle) = true ∧
    controlOk (.brn 0 5 0) true (thr idle) (pan idle) = true ∧ (thr idle).CanTrap (lau idle) := by decide +kernel

/-- The text has two words, so index 2 is outside it. -/
theorem witness_DirectBranches_outside : ∀ k f, ¬idle.sys.Targets (lau idle) (thr idle) 1 k f := by
  intro k f h
  unfold Sys.Targets at h
  rw [idle_portable] at h
  obtain ⟨h', -, h⟩ := h
  have a : (idle.sys.textOf (lau idle)).length = 2 := by decide +kernel
  have b : (thr idle).pc = 0 := by decide +kernel
  have c : branchOff (thr idle).hints 1 = 1 := by decide +kernel
  omega

theorem witness_ReturnGoesToTheLinkPair :
    (let s := onThread (fun t => { t with link := (0xFFFFFFFF, 1) }) idle;
      s.Alone (thr s) (pan s) (lau s) ∧ controlOk .ret true (thr s) (pan s) = true ∧
      (thr s).link.2.toNat < (s.sys.textOf (lau s)).length ∧ s.sys.InPlace (lau s) (thr s) (thr s).link.2.toNat) ∧
    (let s := onThread (fun t => { t with link := (0, 2) }) idle;
      (s.sys.textOf (lau s)).length ≤ (thr s).link.2.toNat ∧ (thr s).CanTrap (lau s)) := by decide +kernel

theorem witness_CallsIndirectBranchesAndLoops :
    controlOk (.call 5 0) true (thr idle) (pan idle) = true ∧
    (let s := withHints (fun h => { h with first := some 0, hopd := some ⟨8, 1⟩ }) (onPanel (fun p => { p with band := 1 }) idle);
      s.Alone (thr s) (pan s) (lau s) ∧ controlOk (.loop 5 0) true (thr s) (pan s) = true ∧
      (thr s).hints.hopd = some ⟨8, 1⟩) ∧
    controlOk (.bri 5 248) true (thr idle) (pan idle) = true ∧
    ((thr idle).src32 (pan idle) 248 0).toNat < (idle.sys.textOf (lau idle)).length ∧ idle.sys.InPlace (lau idle) (thr idle) 0 ∧
    (let s := withV 237 [2] idle; controlOk (.bri 5 237) true (thr s) (pan s) = true ∧
      (s.sys.textOf (lau s)).length ≤ ((thr s).src32 (pan s) 237 0).toNat) := by decide +kernel

theorem witness_NopAdvances : idle.Whole ∧ ∀ x ∈ idle.sys.stitch, controlOk .nop false x.1 x.2.1 = true := by decide +kernel

theorem witness_YieldWaitExit :
    controlOk (.yield 255) true (thr idle) (pan idle) = true ∧ controlOk (.waitf 0xFFF) false (thr idle) (pan idle) = true ∧
    controlOk .exit true (thr idle) (pan idle) = true ∧ (thr idle).late = [] ∧ idle.sys.reqs = [] := by decide +kernel

/-- The panel's mask 15 with these sets. -/
def withMask (e a : BitVec 128) (s : State) : State := onPanel (fun p => { p with masks := p.masks.set 15 ⟨e, a⟩ }) s

/-- The one launch of the world, as a travelling one. -/
def travels (s : State) : State := onLaunch (fun l => { l with record := l.record.set 0 0x80 }) s

theorem witness_RejoinMasks :
    (let s := withMask 1 0 idle;
      s.Alone (thr s) (pan s) (lau s) ∧ 16 * (pan s).seamOf (thr s).tid + 15 < (pan s).masks.length ∧ (lau s).travelling = false ∧
      controlOk (.enrol 15) false (thr s) (pan s) = true ∧ controlOk (.strike 15) false (thr s) (pan s) = true ∧
      controlOk (.park 5 15) true (thr s) (pan s) = true ∧
      ((pan s).mask 15).enrolled &&& laneBit (pan s) (thr s).tid ≠ 0 ∧
      ((pan s).mask 0).enrolled &&& laneBit (pan s) (thr s).tid = 0 ∧ (thr s).CanTrap (lau s) ∧
      controlOk (.jqry 8 1 15) false (thr s) (pan s) = true ∧ controlOk (.jqry 236 0 15) false (thr s) (pan s) = true) ∧
    (let s := travels idle; s.Alone (thr s) (pan s) (lau s) ∧ (lau s).travelling = true ∧ (thr s).CanTrap (lau s) ∧
      controlOk (.enrol 0) false (thr s) (pan s) = true) := by decide +kernel

/-- R139: the only enrolled lane parks, so it is released to the index after the PARK with its priority, and both sets are cleared. -/
theorem test_park_releases :
    after (fun t => t.pc) (exec (.park 5 15) (withMask 1 0 idle)) = some 1 ∧
    after (fun t => t.prio.toNat) (exec (.park 5 15) (withMask 1 0 idle)) = some 5 ∧
    (match exec (.park 5 15) (withMask 1 0 idle) with
      | .next s => ((pan s).mask 15).enrolled == 0 && (thr s).phase == .ready
      | _ => false) = true := by decide +kernel

/-- R139: with another lane still to arrive it stays parked. -/
theorem test_park_waits :
    (match exec (.park 5 15) (withMask 3 0 idle) with
      | .next s => ((pan s).mask 15).arrived == 1 && (thr s).phase == .parked 15 1 5
      | _ => false) = true := by decide +kernel

/-- R145: the link pair holds the old priority and the next index. -/
theorem test_call : after (fun t => t.link.2.toNat) (exec (.call 5 0) idle) = some 1 := by decide +kernel

theorem witness_HintWords :
    idle.Alone (thr idle) (pan idle) (lau idle) ∧ hintPlaceOk idle.sys (thr idle) (lau idle) = true ∧
    (thr idle).hints = Hints.empty ∧ (thr idle).CanTrap (lau idle) ∧
    (let s := withHints (fun _ => ⟨some 0, some 1, some ⟨0, 0, 0, 0⟩, some ⟨false, 0, false, false, 0, false, false, false, 0⟩,
        some ⟨0, 0⟩⟩) idle;
      (thr s).hints.himm.isSome ∧ (thr s).hints.rep.isSome ∧ (thr s).hints.hmod.isSome ∧ (thr s).hints.hopd.isSome) ∧
    (let s := onThread (fun t => { t with nat := some ⟨0, 0, 15, 15⟩ }) idle;
      s.Alone (thr s) (pan s) (lau s) ∧ (thr s).nat = some ⟨0, 0, 15, 15⟩ ∧ (thr s).hints.first = none ∧
      (11#4).toNat < 12) := by decide +kernel

theorem witness_HintWords_last :
    (let s := onThread (fun t => { t with pc := 1 }) idle;
      s.Alone (thr s) (pan s) (lau s) ∧ hintPlaceOk s.sys (thr s) (lau s) = false ∧ (thr s).CanTrap (lau s)) ∧
    (let s := onThread (fun t => { t with nat := some ⟨0, 1, 15, 15⟩ }) idle; hintPlaceOk s.sys (thr s) (lau s) = false) := by decide +kernel

/-! ## Traps and special registers -/

/-- The thread is in its trap handler. -/
def inHandler (s : State) : State := onThread (fun t => { t with trapc := 0x80000001, trappc := 1, trapprio := 7 }) s

theorem witness_TrapsAndReturns :
    (thr idle).LastWord ∧ Meets idle (.trap 255) ∧ Meets idle (.brk 255) ∧ Meets idle (.svc 255) ∧ Meets idle .rft ∧
    (thr idle).CanTrap (lau idle) ∧ (lau idle).supervisor = false ∧ idle.sys.part? (lau idle).part = some (prt idle) ∧
    (let s := inHandler idle; Meets s .rft ∧ (thr s).trapc.getLsbD 31 = true ∧
      (thr s).trappc.toNat < (s.sys.textOf (lau s)).length) :=
  ⟨lastWord_of_portable (by decide +kernel), by decide +kernel⟩

/-- R426: code and bit 31, the value, the index after the word; R447: 0x100 + i. -/
theorem test_brk : after (fun t => t.trapc.toNat) (exec (.brk 3) idle) = some 0x80000011 ∧
    after (fun t => t.trapv.toNat) (exec (.brk 3) idle) = some 0x103 ∧
    after (fun t => t.trappc.toNat) (exec (.brk 3) idle) = some 1 := by decide +kernel

/-- R448: back to %trappc with %trapprio, bit 31 cleared. -/
theorem test_rft : after (fun t => t.pc) (exec .rft (inHandler idle)) = some 1 ∧
    after (fun t => t.prio.toNat) (exec .rft (inHandler idle)) = some 7 ∧
    after (fun t => t.trapc.toNat) (exec .rft (inHandler idle)) = some 1 := by decide +kernel

theorem witness_PrivilegedWordsTrap :
    idle.Alone (thr idle) (pan idle) (lau idle) ∧ (thr idle).CanTrap (lau idle) ∧ (lau idle).supervisor = false ∧
    (0x800#16).toNat ≤ 0x8FF ∧ 0xC00 ≤ (0xCFF#16).toNat := by decide +kernel

/-- The launch is the partition's supervisor; ticket 1 names a thread of another launch, which waits. -/
def supervising (s : State) : State :=
  let s := onLaunch (fun l => { l with supervisor := true }) s
  let s := onPart (fun p => { p with supervisor := some 2, tickets := [⟨1, 0x13, .thread 9 0, 8⟩] }) s
  edit (fun y => { y with
    launches := y.launches ++ [bootLaunch 8 1]
    panels := y.panels ++ [{ Panel.fresh 9 8 none 0 1 0 1 30 0 1 0 with phase := .running }]
    threads := y.threads ++ [{ Thread.newborn 9 0 0 0 30 1 with phase := .suspended 0, ticket := some 1 }] }) s

theorem witness_SupervisorWords :
    (let s := supervising idle; s.Alone (thr s) (pan s) (lau s) ∧ (lau s).supervisor = true ∧
      s.sys.part? (lau s).part = some (prt s) ∧ (thr s).LastWord) ∧
    (let s := supervising (withV 4 [1, 0, 0x8000003F, 0] idle); Meets s (.brkSet 3 4) ∧ brkImageOk ((thr s).quadWords (pan s) 4) = true) ∧
    Meets (supervising idle) (.brkClr 3) ∧
    (let s := supervising (withV 4 [1] idle); Meets s (.rftResume 4) ∧ Meets s (.rftKill 4) ∧
      s.sys.ticketOf (lau s).part ((thr s).src32 (pan s) 4 0).toNat = some ⟨1, 0x13, .thread 9 0, 8⟩ ∧
      s.sys.launch? 8 = some (bootLaunch 8 1) ∧ (bootLaunch 8 1).ending = none ∧ s.sys.reqs = [] ∧ (bootLaunch 8 1).completion = 0 ∧ (bootLaunch 8 1).retireTack = 0 ∧ s.sys.cmds = [] ∧
      ∀ x ∈ s.sys.panels, x.key = (pan s).key → x.launch = (lau s).key) ∧
    (let s := supervising (withV 4 [2] idle); s.sys.ticketOf (lau s).part ((thr s).src32 (pan s) 4 0).toNat = none) ∧
    (let s := supervising (withV 4 [0, 0xFFFFF, 0xFFFFFFFF, 0xFFFFF] idle); Meets s (.invalTranslation 4) ∧
      invalBase ((thr s).quadWords (pan s) 4) < 2 ^ 52) ∧
    (let s := supervising (withV 4 [0x1FFFF, 15, 0, 0] idle); Meets s (.invalWriteback 4) ∧
      invalSlicesOk ((thr s).quadWords (pan s) 4) = true) ∧
    (let s := supervising (withV 4 [16, 0, 0, 0] idle); Meets s (.invalKey 4) ∧ invalKeyOk ((thr s).quadWords (pan s) 4) = true ∧
      (prt s).keyBase ≤ ((thr s).quadWords (pan s) 4).getD 0 0 ∧
      ((thr s).quadWords (pan s) 4).getD 0 0 < (prt s).keyBase + (prt s).keyCount) ∧
    Meets (supervising (withV 4 [0xFFFF] idle)) (.csrwIldom 4 15) := by
  refine ⟨⟨by decide +kernel, by decide +kernel, by decide +kernel, lastWord_of_portable (by decide +kernel)⟩, ?_⟩
  decide +kernel

theorem witness_SpecialRegisters :
    ([0x000#16, 0x001, 0x002, 0x003, 0x004, 0x005, 0x006, 0x007, 0x009, 0x100, 0x101, 0x102, 0x103, 0x200, 0x201, 0x202, 0x203, 0x300, 0x307,
      0x308, 0x400, 0x401, 0x402, 0x403].all fun n => Meets idle (.csrr 8 n)) = true ∧ Meets idle (.csrrCyc 8) ∧
    (pan idle).pid < (lau idle).panels ∧ idle.sys.yokeOf (pan idle) = some (yok idle) ∧
    (let s := onPanel (fun p => { p with band := 1 }) (withV 8 [4] idle);
      ([0x100#16, 0x101, 0x102, 0x201, 0x202, 0x400, 0x401, 0x402, 0x403].all fun n => Meets s (.csrw 8 n)) = true ∧ 0 < (pan s).band ∧
      ((thr s).src32 (pan s) 8 0).toNat = 4) ∧
    (let s := onPanel (fun p => { p with band := 0 }) (withV 8 [127] idle); Meets s (.csrw 8 0x201) ∧ (pan s).band = 0 ∧
      ((thr s).src32 (pan s) 8 0).toNat < 128) ∧
    (let s := withV 8 [0x800000FF] idle; (thr s).src32 (pan s) 8 0 &&& 0x7FFFFF00 = 0) ∧
    (let s := withV 8 [0x200] idle; (thr s).CanTrap (lau s) ∧ [0x100#16, 0x101, 0x102, 0x201, 0x202, 0x400, 0x403].all (fun n =>
      Meets s (.csrw 8 n) && csrRefuses (pan s) n ((thr s).src32 (pan s) 8 0)) = true) ∧
    csrListed 0x30A = false ∧ Meets idle (.csrr 8 0x30A) ∧
    (let s := withV 8 [1] idle; Meets s (.csrwOflag 8) ∧ (pan s).yoke = some (yok s).key ∧ s.sys.yokeOf (pan s) = some (yok s) ∧
      ((thr s).src32 (pan s) 8 0).toNat ≤ 1) := by decide +kernel

/-- In the supervisor launch, with %l2pidx within the mapping and past it. -/
theorem witness_SpecialRegisters_supervisor :
    (let s := onLaunch (fun l => { l with supervisor := true }) (withV 8 [511] idle);
      s.Alone (thr s) (pan s) (lau s) ∧ (lau s).supervisor = true ∧ s.sys.part? (lau s).part = some (prt s) ∧ (prt s).l2pidx.toNat < 288 ∧
      [0x800#16, 0x809, 0x80A, 0x80B, 0xC00, 0xC01, 0xC10, 0xC1F].all (fun n => Meets s (.csrr 8 n)) = true ∧ Meets s (.csrw 8 0x80A) ∧
      ((thr s).src32 (pan s) 8 0).toNat < 512) ∧
    (288 ≤ (prt (onPart (fun q => { q with l2pidx := 288 }) idle)).l2pidx.toNat) := by decide +kernel

/-- R112: %fflags has five bits. -/
theorem test_csrw_fflags : after (fun t => t.fflags.toNat) (exec (.csrw 8 0x100) (withV 8 [0x1F] idle)) = some 0x1F ∧
    after (fun t => t.trapc.toNat) (exec (.csrw 8 0x100) (withV 8 [0x20] idle)) = some 0x80000001 := by decide +kernel

/-! ## Memory words -/

/-- The last aligned offsets of the 64 KiB buffer. -/
theorem witness_GlobalLoadsAndStoresIssue :
    (let s := withBuffer (withV 2 [0xFFF0, 0] idle);
      (∀ i ∈ ([.ldB8 8 2 15, .ldS8 8 2 15, .ldB16 8 2 7, .ldS16 8 2 7, .ldB32 8 2 3, .ldB64 8 2 1, .ldB128 8 2 0, .stB8 8 2 15,
        .stB16 8 2 7, .stB32 248 2 3, .stB64 8 2 1, .stB128 8 2 0] : List Instr), i.globalShape.isSome = true ∧ Meets s i) ∧
      passes (atSlot s 0xFFF0 16 rRd) = true ∧ passes (atSlot s 0xFFFC 4 rW) = true ∧ (thr s).CanTrap (lau s) ∧
      (0xFFFF + 0) % 2 ≠ 0 ∧ 0x10000 % 16 = 0 ∧ Decl.len ((lau s).decl 0) = 0x10000 ∧ Decl.lacks ((lau s).decl 0) rRd = false) ∧
    (let s := onLaunch (fun l => { l with decls := [[0, 0, 0x10000, 0, 0xC0020005, 0x00010000, 0, 0]] }) idle;
      Decl.lacks ((lau s).decl 0) rRd = true ∧ Decl.lacks ((lau s).decl 0) rW = true) ∧
    (let s := onLaunch (fun l => { l with decls := [[0, 0, 0x10000, 0, 0x87820005, 0x00010000, 0, 0]] }) idle;
      walks (atSlot s 0xFFFC 4 rRd) = true) := by decide +kernel

theorem witness_GlobalLoadsAndStoresIssue_walk :
    (let s := onLaunch (fun l => { l with decls := [[0, 0, 0x10000, 0, 0x87820005, 0x00010000, 0, 0]] }) (withV 2 [0xFFFC, 0] idle);
      Meets s (.ldB32 8 2 0) ∧ walks (atSlot s 0xFFFC 4 rRd) = true ∧ s.sys.walks = []) := by decide +kernel

theorem witness_ScratchpadAccesses :
    (let s := withV 2 [240, 0] idle;
      (∀ i ∈ ([.ldsB32 8 2 3, .ldsB64 8 2 1, .ldsB128 8 2 0, .stsB32 248 2 3, .stsB64 8 2 1, .stsB128 8 2 0] : List Instr),
        i.scratchShape.isSome = true ∧ Meets s i) ∧
      (pan s).handlerOf = none ∧ (lau s).travelling = false ∧ (pan s).scratchLen = 256 ∧ (pan s).stags = [] ∧
      Mem.wf (pan s).scratch = true ∧ (thr s).CanTrap (lau s) ∧ (241 % 2 ≠ 0) ∧ (pan s).scratchLen < 256 + 4) ∧
    (let s := onPanel (fun p => { p with stags := [31] }) idle;
      s.Alone (thr s) (pan s) (lau s) ∧ (touched 252 4).find? (pan s).stags.contains = some 31) ∧
    (let s := travels idle; Meets s (.stsB32 8 2 0) ∧ (lau s).travelling = true ∧ (thr s).CanTrap (lau s)) := by decide +kernel

/-- R271, R255: the store's bytes, little-endian; R290: a live tack word is not written. -/
theorem test_sts :
    (match exec (.stsB32 8 2 0) (withV 8 [0x04030201] (withV 2 [64, 0] idle)) with
      | .next s => Mem.getBytes (pan s).scratch 63 6 == [0, 1, 2, 3, 4, 0]
      | _ => false) = true ∧
    after (fun t => t.trapc.toNat) (exec (.stsB32 8 2 0) (onPanel (fun p => { p with stags := [8] }) (withV 2 [64, 0] idle)))
      = some 0x80000009 := by decide +kernel

theorem witness_AtomicsIssueAndCompute :
    (let s := withBuffer (withV 2 [0xFFF8, 0] idle);
      (∀ i ∈ ([.atomAdd 8 2 1, .atomMins 8 2 1, .atomMaxs 8 2 1, .atomAnd 8 2 1, .atomOr 8 2 1, .atomXor 8 2 1, .atomXchg 8 2 1,
        .atomCas 8 2 1, .atomFadd 8 2 1, .atomAdd64 8 2 0] : List Instr), i.atomShape.isSome = true ∧ Meets s i) ∧
      passes (atSlot s 0xFFFC 4 rA) = true ∧ passes (atSlot s 0xFFF8 8 rA) = true) ∧
    (let s := withHints (fun h => { h with first := some 0, hopd := some ⟨12, 0⟩ }) (withBuffer idle);
      Meets s (.atomCas 248 2 1) = true) := by decide +kernel

/-- One operation of the thread. -/
def withOp (o : Op) (s : State) : State := onThread (fun t => { t with ops := [o] }) s

/-- A home access of four bytes at the page's last word. -/
def lastWord : Access := ⟨0, 0xFFFC, 4, .home 0x2FFFC 5 1 0 false, false, false⟩

/-- The line of that access in core 0's L1. -/
def withL1 (s : State) : State :=
  edit (fun y => y.setCore { y.core 0 with l1 := [⟨0x2FFFC / 128, 5, 0, 0, 0, false, false, 1, 0⟩] }) s

theorem witness_MemoryOperationsEnd :
    (∀ o ∈ ([⟨1, .lds 7, none, [8], none, 0, none⟩, ⟨1, .sts, none, [], none, 0, none⟩, ⟨1, .load true, some lastWord, [8], some 0, 0, none⟩,
        ⟨1, .store 7, some lastWord, [], none, 0, none⟩] : List Op),
      let s := withOp o idle;
      s.sys.opOf (thr s).panel (thr s).tid 1 = some (thr s, pan s, lau s, o) ∧ opReady s.sys (thr s) (pan s) (lau s) o = true ∧
      (pan s).ahead = none) ∧
    (let s := withL1 idle;
      s.sys.poisoned 0x2FFFC = false ∧ (lau s).travelling = false ∧ s.sys.liveIn 0x2FFFC 4 = none ∧
      ((s.sys.core (thr s).core).l1Line (lineOf 0x2FFFC)).any (fun x => x.key == 5) = true) ∧
    (idle.sys.core (thr idle).core).l1Line (lineOf 0x2FFFC) = none ∧ (idle.sys.core (thr idle).core).l1.length < l1Lines ∧ homeDie (lineOf 0x2FFFC * 128) = dieOf (thr idle).core ∧
    idle.sys.l2Line (lineOf 0x2FFFC) = none ∧ 0x2FFFC % 128 + 4 ≤ 128 := by decide +kernel

/-- The thread's only operation, which may end. -/
def ending (o : Op) (s : State) : Bool :=
  let s := withOp o s
  decide (s.sys.opOf (thr s).panel (thr s).tid 1 = some (thr s, pan s, lau s, o) ∧ (pan s).ahead = none) && opReady s.sys (thr s) (pan s) (lau s) o

/-- A word of device 1. -/
def peerWord : Access := ⟨1, 64, 4, .peer 1, false, false⟩

theorem witness_MemoryOperationsEnd_all :
    (∀ k ∈ ([.load true, .store 7, .atom .add 7, .acqr, .relw 7 0x20] : List OpKind), ending ⟨1, k, some lastWord, [8], some 0, 0, none⟩ idle = true) ∧
    (∀ k ∈ ([.load false, .store 7, .atom .cas 7] : List OpKind), ending ⟨1, k, some peerWord, [8], none, 0, none⟩ idle = true) ∧
    (∀ k ∈ ([.aqst 0 4095, .pqry 4, .landing [(8, 1), (9, 2)] false] : List OpKind), ending ⟨1, k, none, [8, 9], none, 0, none⟩ idle = true) ∧
    (let s := withShuttle [7] idle;
      ending ⟨1, .atom .add 7, some lastWord, [0xF0], none, 0, none⟩ s = true ∧ s.sys.ShuttleHolds (pan s) (yok s) 0 0 0 [7]) ∧
    (let c : List (Access × List Byte) := [(⟨0, 0xFFF8, 4, .home 0x2FFF8 5 1 0 false, false, false⟩, [1, 2, 3, 4]), (lastWord, [5, 6, 7, 8])];
      ending ⟨1, .kvap c, none, [], none, 0, none⟩ idle = true ∧ (∀ x ∈ c, x.1.liveTack idle.sys = none ∧ x.1.size = x.2.length ∧
        0 < x.2.length) ∧ 0x2FFF8 % 128 + 4 ≤ 128 ∧ c.Pairwise (fun x y => spansMeet x.1.span y.1.span = false)) ∧
    lastWord.liveTack idle.sys = none ∧ 0 < lastWord.size ∧ idle.sys.poisoned 0x2FFFC = false ∧ dieOf (thr idle).core < idle.sys.dies.length ∧
    ((Tx.start idle).dropL1 (thr idle).core (lineOf 0x2FFFC)).st.sys.l2.length < l2Lines ∧ idle.sys.peerLost (lau idle) 1 = false ∧
    (let s := edit (fun y => { y with links := List.replicate 18 ⟨false, 0, 0, 0, 0, true⟩, domains := [⟨1, [⟨1, 0x3FFFF, 0⟩]⟩] })
        (onLaunch (fun l => { l with record := l.record.set 0 0x100 }) idle);
      ending ⟨1, .store 7, some peerWord, [], none, 0, none⟩ s = true ∧ s.sys.peerLost (lau s) 1 = true) ∧
    (thr idle).phase ≠ .exited ∧ (thr idle).takable (pan idle) = true ∧ (lau idle).supervisor = false ∧ (idle.sys.part? (lau idle).part).isSome = true ∧
    Mem.wf idle.mem = true ∧ Mem.wf idle.hostMem = true := by decide +kernel

/-- R269: a signed byte load extends its sign into 32 bits. -/
theorem test_load_extends : extendLoad true 1 0x80 = 0xFFFFFF80 ∧ extendLoad false 1 0x80 = 0x80 := by decide +kernel

/-- 64 KiB without a translation, and of a peer. -/
def lazyBuffer : List Word := [0, 0, 0x10000, 0, 0x87820005, 0x00010000, 0, 0]

def peerReadable : List Word := [0, 0, 0x10000, 0, 0x87820005, 0x00010100, 0, 0]

def ofPeer (c : Check) : Bool := match c with
  | .ok a => (match a.target with
    | .home _ _ _ _ _ => false
    | .peer _ => true)
  | _ => false

theorem witness_PrefetchesComplete :
    (let s := withBuffer (withV 2 [0xFFFF, 0] idle);
      Meets s (.pref 0 2 0) ∧ Meets s (.pref 2 2 0) ∧ Meets s (.pref 3 2 0) ∧ passes (atSlot s 0xFFFF 1 rRd) = true ∧
      (match atSlot s 0xFFFF 1 rRd with
        | .ok a => !s.sys.routeHeld (lau s) (thr s).core a
        | _ => false) = true ∧ (thr s).CanTrap (lau s) ∧ stackOf (lineOf 0x2FFFF * 128) < s.sys.stks.length) ∧
    (let s := travels (withBuffer (withV 2 [0xFFFF, 0] idle)); Meets s (.pref 0 2 0) ∧ (lau s).travelling = true) ∧
    (let s := withBuffer (withV 2 [0, 1] idle); Meets s (.pref 0 2 0) ∧ traps (atSlot s (2 ^ 32) 1 rRd) = true) ∧
    (let s := withDecls [peerReadable] (withV 2 [0xFFFF, 0] idle); Meets s (.pref 0 2 0) ∧ ofPeer (atSlot s 0xFFFF 1 rRd) = true) ∧
    (let s := withDecls [lazyBuffer] (onPanel (fun p => { p with extents := [] }) (withV 2 [0xFFFF, 0] idle));
      Meets s (.pref 1 2 0) ∧ walks (atSlot s 0xFFFF 1 rRd) = true) ∧
    (let s := edit (fun y => { y with bridge := ⟨true, 0, false⟩ }) (withBuffer (withV 2 [0xFFFF, 0] (onThread (fun t => { t with core := 287 }) idle)));
      Meets s (.pref 0 2 0) ∧ passes (atSlot s 0xFFFF 1 rRd) = true ∧ s.sys.homeHeld (dieOf (thr s).core) 0x2FFFF 1 0 = true) := by
  decide +kernel

/-- The walk of a prefetch of a page that nothing maps. -/
theorem witness_PrefetchesComplete_walk :
    (let w : Walk := ⟨70, 0, 0, (pan idle).key, 0, 65536, 0, false, none, some (1, 0, 0)⟩;
      let s := edit (fun y => { y with walks := [w] }) idle;
      s.sys.walks.find? (fun x => x.key == 70 && s.sys.walking x) = some w ∧ s.sys.part? w.part = some (prt s) ∧
      s.sys.thread? w.panel w.tid = some (thr s)) := by decide +kernel

theorem witness_StitchGoesThreadByThread :
    idle.sys.Calm ∧ idle.sys.thread? 4 0 = some (thr idle) ∧ (form (.add 8 2 4) (thr idle).hints).pops (thr idle).hints = [] ∧
    (form (.add 8 2 4) (thr idle).hints).pushes = [] ∧
    (match exec (.add 8 2 4) (idle.focusOn [(4, 0)]) with
      | .next u => decide (u.sys.panels.map (·.ahead) = idle.sys.panels.map (·.ahead))
      | _ => false) = true := by decide +kernel

/-- The thread runs ahead. -/
def ahead (s : State) : State :=
  onPanel (fun p => { p with ahead := some ⟨[0], [thr s], p.masks, 0, [], [], false⟩ }) s

theorem witness_RunAheadSuppresses :
    (let s := ahead (passTiles idle);
      s.sys.focus = [((thr s).panel, (thr s).tid)] ∧ s.sys.thread? (thr s).panel (thr s).tid = some (thr s) ∧
      s.sys.homeOf (thr s) = some (pan s, lau s) ∧ (pan s).aheadOf (thr s).tid = true ∧ s.sys.Calm ∧ (lau s).travelling = false ∧
      ∀ i ∈ ([.stB8 8 2 0, .stB16 8 2 0, .stB32 8 2 0, .stB64 8 2 0, .stB128 8 2 0, .stsB32 8 2 0, .stsB64 8 2 0, .stsB128 8 2 0,
        .atomAdd 8 2 0, .atomMins 8 2 0, .atomMaxs 8 2 0, .atomAnd 8 2 0, .atomOr 8 2 0, .atomXor 8 2 0, .atomXchg 8 2 0,
        .atomCas 8 2 0, .atomFadd 8 2 0, .atomAdd64 8 2 0, .cpy 0 2 0, .cpym 7 2 1, .cpys 0 2 0, .binc 2 4 6, .binp 2 255, .hrel 255,
        .launch 2, .tkinit 1 2 4, .tkexp 1 2 4, .tkarr 1 2 0, .tkwait 8 2 1 0, .tkkill 1 2, .bbinit 2 4, .bbawait 8 2, .bbrel 2,
        .bind 8 4 2, .unbind 2, .acq 8 2 4, .rel 2 0x3F, .acqr 8 2 0, .relw 8 2 0, .wait 8 2 4, .aqp 4, .trq 4, .kvap 6 2 4, .aqst 8 4 15,
        .psend 0 8 4, .csrrCyc 8, .csrwOflag 8, .resv 63 4, .tset 0 4, .free 0, .tzero 2, .shcfg 1 7 0 0, .fence 0 0x3F, .pqry 8 4,
        .mpre 7 4, .mpost 7 4, .mqry 8 63 3, .tcvt 0 2 7, .mma 0 1 2 7 1, .rast 0 1 2 1 1, .trap 1, .svc 1, .brk 1, .rft,
        .csrr 8 0x800, .csrr 8 0x100, .csrw 8 0x100] : List Instr),
        (i = .csrr 8 0x800 ∨ suppressed (thr s) (pan s) (lau s) i = true) ∧ wordOk i (thr s) (pan s) = true) ∧
    (let s := ahead (transfers (passTiles idle));
      ∀ i ∈ ([.tld 2 63 63 4, .tst 2 63 63 4, .mmag 0 1 2 7 0] : List Instr),
        suppressed (thr s) (pan s) (lau s) i = true ∧ wordOk i (thr s) (pan s) = true) ∧
    (let s := ahead (supervising (withV 4 [1, 0, 0x8000003F, 0] idle));
      ∀ i ∈ ([.brkSet 3 4, .brkClr 3, .rftResume 4, .rftKill 4, .csrwIldom 4 15, .csrr 8 0x800, .invalTranslation 4] : List Instr),
        suppressed (thr s) (pan s) (lau s) i = true ∧ wordOk i (thr s) (pan s) = true) := by decide +kernel

/-! ## Collectives -/

/-- The seam's only lane as the mask in v4 and v5. -/
def oneLane : State := withV 4 [1, 0] idle

theorem witness_CollectivesComplete :
    oneLane.Seam (thr oneLane) (pan oneLane) (lau oneLane) ∧ (pan oneLane).paired = false ∧ (lau oneLane).travelling = false ∧
    (∀ x ∈ oneLane.sys.stitch, (pan oneLane).laneOf x.1.tid < 64 ∧ x.1.hints = (thr oneLane).hints) ∧
    masksOk oneLane.sys (pan oneLane) 4 (oneLane.sys.stitch.map (·.1)) ((oneLane.sys.stitch.map (·.1)).filter (·.runs)) false = true ∧
    ∀ i ∈ ([.ballot 8 2 4, .raddS32 8 2 4, .raddF32 8 2 4, .rminN32 8 2 4, .rmaxN32 8 2 4, .rminF32 8 2 4,
        .rmaxF32 8 2 4, .rminxN32 8 2 4, .scanS32 8 2 4, .matchLanes 8 2 4, .laneid 8 4, .vote 8 2 4] : List Instr),
      (i.collective.any fun c => c.1 == 4 && c.2 (thr oneLane).hints) = true ∧
      formOk (pan oneLane).regs (form i (thr oneLane).hints) (thr oneLane).hints = true := by decide +kernel

/-- `SHFL` and `SHFLX` take a lane number or an operand from `HOPD`, `BCST` a lane. -/
theorem witness_CollectiveResults :
    (let s := withHints (fun h => { h with first := some 0, hopd := some ⟨10, 0⟩ }) oneLane;
      formOk (pan s).regs (form (.shfl 8 2 4) (thr s).hints) (thr s).hints = true ∧ s.Seam (thr s) (pan s) (lau s)) ∧
    (let s := withHints (fun h => { h with first := some 0, hopd := some ⟨0, 1⟩ }) oneLane;
      formOk (pan s).regs (form (.shflx 8 2 4) (thr s).hints) (thr s).hints = true ∧
      (Instr.shflx 8 2 4).collective.any (fun c => c.2 (thr s).hints) = true) ∧
    (let s := withHints (fun h => { h with first := some 0, hopd := some ⟨0, 0x8000⟩ }) oneLane;
      formOk (pan s).regs (form (.bcst 8 2 4) (thr s).hints) (thr s).hints = true ∧
      (Instr.bcst 8 2 4).collective.any (fun c => c.2 (thr s).hints) = true) := by decide +kernel

theorem witness_CollectiveResults_floats :
    (let s := withV 2 [0x7F800001] oneLane;
      (∀ i ∈ ([.raddF32 8 2 4, .rminF32 8 2 4, .rmaxF32 8 2 4, .rminxN32 8 2 4, .matchLanes 8 2 4] : List Instr),
        formOk (pan s).regs (form i (thr s).hints) (thr s).hints = true ∧ i.collective.any (fun c => c.2 (thr s).hints) = true) ∧
      s.Seam (thr s) (pan s) (lau s) ∧ signalled [(thr s).src32 (pan s) 2 2] ≠ 0) := by decide +kernel

/-- R233: the bit of the only lane; R238: one member, none below it. -/
theorem test_ballot : regOf 8 (exec (.ballot 8 2 4) (withV 2 [7] oneLane)) = some 1 := by decide +kernel
theorem test_laneid : regOf 8 (exec (.laneid 8 4) oneLane) = some 0x10000 := by decide +kernel

/-- R235: one member, whose sum with the absent lanes' -0.0 is itself; R237: a signalling NaN alone gives the canonical NaN. -/
theorem test_radd : regOf 8 (exec (.raddF32 8 2 4) (withV 2 [0x40400000] oneLane)) = some 0x40400000 := by decide +kernel

theorem test_rmin_nan : regOf 8 (exec (.rminF32 8 2 4) (withV 2 [0x7F800001] oneLane)) = some 0x7FC00000 ∧
    after (fun t => t.fflags.toNat) (exec (.rminF32 8 2 4) (withV 2 [0x7F800001] oneLane)) = some 0x10 := by decide +kernel

/-! ## Tiles and matrix requests -/

/-- The conditions on the yoke and the seam that all tile words share. -/
def tiled (s : State) : Bool :=
  decide (s.Seam (thr s) (pan s) (lau s) ∧ s.Tiled (thr s) (pan s) (lau s) (yok s))

def wordIn (s : State) (i : Instr) : Bool := tiled s && wordOk i (thr s) (pan s)

theorem witness_TileRecordsAndConfiguration :
    (let s := withTiles 0x800400 0 0 (withV 4 [0x8784FC, 0, 0, 0] idle);
      wordIn s (.resv 63 4) = true ∧ TileRec.refuse ((thr s).quad (pan s) 4) (yok s).units 63 (yok s).tiles = none ∧
      (yok s).tile? 63 = none ∧ s.sys.stitch = [(thr s, pan s, lau s)] ∧ (thr s).CanTrap (lau s)) ∧
    (let s := withTiles 0x800400 0 0 (withV 4 [0x800400, 0, 0, 0] idle);
      wordIn s (.resv 0 4) = true ∧ wordIn s (.tset 0 4) = true ∧
      TileRec.refuse ((thr s).quad (pan s) 4) (yok s).units 0 (yok s).tiles = none ∧ (yok s).tile? 0 = some 0x800400 ∧
      TileRec.base ((thr s).quad (pan s) 4) = TileRec.base 0x800400 ∧ TileRec.size ((thr s).quad (pan s) 4) = TileRec.size 0x800400 ∧
      TileRec.refuse ((thr s).quad (pan s) 4) (yok s).units 5 (yok s).tiles = some 3 ∧
      wordIn s (.free 0) = true ∧ wordIn s (.free 63) = true ∧ (yok s).tile? 63 = none ∧ s.sys.cmds = [] ∧ s.sys.reqs = []) ∧
    (let s := withV 4 [0x3E000000, 0x06000000, 0, 0] idle; wordIn s (.mpre 7 4) = true ∧ preImageOk ((thr s).quad (pan s) 4) = true) ∧
    (let s := withV 4 [0x40000000, 0, 0, 0] idle; wordIn s (.mpost 7 4) = true ∧ postImageOk ((thr s).quad (pan s) 4) = true) ∧
    wordIn idle (.mqry 8 63 3) = true ∧ wordIn idle (.mqry 248 0 5) = true := by decide +kernel

theorem witness_TileRecordsAndConfiguration_refusals :
    (let s := withTiles 0x800400 0 0 (withV 4 [0x800400, 0, 0, 0] idle);
      s.sys.stitch = [(thr s, pan s, lau s)] ∧ (thr s).CanTrap (lau s) ∧ wordIn s (.resv 0 4) = true ∧
      TileRec.refuse ((thr s).quad (pan s) 4) (yok s).units 0 (yok s).tiles = none ∧ (yok s).tile? 0 = some 0x800400 ∧
      wordIn s (.resv 5 4) = true ∧ TileRec.refuse ((thr s).quad (pan s) 4) (yok s).units 5 (yok s).tiles = some 3 ∧
      wordIn s (.tset 5 4) = true) ∧
    (let s := withTiles 0x800400 0 0 (withV 4 [0x8784FC, 0, 0, 0] idle);
      wordIn s (.tset 63 4) = true ∧ TileRec.refuse ((thr s).quad (pan s) 4) (yok s).units 63 (yok s).tiles = none ∧ (yok s).tile? 63 = none ∧
      TileRec.refuse ((thr s).quad (pan s) 4) (yok s).units 0 (yok s).tiles = none ∧ wordIn s (.tset 0 4) = true ∧
      TileRec.base ((thr s).quad (pan s) 4) ≠ TileRec.base 0x800400) ∧
    (let s := edit (fun y => { y with reqs := [{ Req.blank .tzero with yoke := (yok idle).key, x := 0x810600, xn := 2, held := some 3 }] })
        (passTiles idle);
      (yok s).tile? 2 = some 0x810600 ∧ wordIn s (.free 2) = true ∧ (∃ r ∈ s.sys.reqs, r.held.isSome ∧ r.names (yok s).key 2) ∧
      s.sys.stitch = [(thr s, pan s, lau s)] ∧ (thr s).CanTrap (lau s)) ∧
    (let s := withV 4 [0xFFFFFFFF, 0xFFFFFFFF, 0xFFFFFFFF, 0xFFFFFFFF] idle;
      wordIn s (.mpre 7 4) = true ∧ preImageOk ((thr s).quad (pan s) 4) = false ∧ wordIn s (.mpost 7 4) = true ∧
      postImageOk ((thr s).quad (pan s) 4) = false) ∧
    (5 < (6#8).toNat ∧ 3 < (4#8).toNat ∧ (1#8) ≠ 0) := by decide +kernel

theorem witness_MatrixRequestsIssue :
    (let s := passTiles idle;
      wordIn s (.tzero 2) = true ∧ (yok s).tile? 2 = some 0x810600 ∧ wordIn s (.tzero 63) = true ∧ (yok s).tile? 63 = none ∧
      s.sys.stitch = [(thr s, pan s, lau s)] ∧ (thr s).CanTrap (lau s) ∧
      wordIn s (.tcvt 0 2 7) = true ∧ (thr s).hints.hopd = none ∧ (thr s).hints.hmod = none ∧
      wordIn s (.mma 0 1 2 7 1) = true ∧ passReason (yok s) ((yok s).pre.getD 7 idSlot) 0 1 2 = none) ∧
    (let s := transfers (passTiles idle);
      wordIn s (.tld 2 63 63 4) = true ∧ wordIn s (.tst 2 63 63 4) = true ∧ transferRegs (pan s) (thr s).hints 16 1 = true ∧
      transferRegs (pan s) (thr s).hints 16 (TileRec.valueRegs 0x810600) = true ∧ TileRec.blocked 0x810600 = false ∧
      rmodeOf (thr s).hints ≠ 6) ∧
    (let s := withTiles 0x806400 0x80E500 0x816600 idle; wordIn s (.rast 0 1 2 1 1) = true ∧ (yok s).tile? 0 = some 0x806400 ∧
      (yok s).tile? 1 = some 0x80E500 ∧ (yok s).tile? 2 = some 0x816600 ∧ TileRec.role 0x806400 = 0 ∧ TileRec.role 0x80E500 = 1 ∧
      TileRec.role 0x816600 = 2 ∧ TileRec.format 0x806400 = 25 ∧ TileRec.format 0x80E500 = 25 ∧ TileRec.format 0x816600 = 25) ∧
    (let s := transfers (withV 8 [128, 0, 63] (passTiles idle)); wordIn s (.mmag 0 1 2 7 0) = true ∧ modeOf (thr s).hints = 0 ∧
      passReason (yok s) ((yok s).pre.getD 7 idSlot) 0 1 2 = none ∧
      (gatherOf (thr s) (pan s)).1 % 16 = 0 ∧ (gatherOf (thr s) (pan s)).1 + gatherBytes 0x800400 ≤ (pan s).scratchLen) := by
  decide +kernel

/-- With a live tack in the scratchpad, as `HOPD` names it. -/
theorem witness_MatrixRequestsIssue_tack :
    (let s := onPanel (fun p => { p with stags := [31] }) (withV 12 [248, 0]
        (withHints (fun h => { h with first := some 0, hopd := some ⟨12, 3⟩ }) (passTiles idle)));
      wordIn s (.mma 0 1 2 0 0) = true ∧ wordIn s (.tcvt 0 2 0) = true ∧ (thr s).hints.hopd = some ⟨12, 3⟩ ∧
      scratchTrap (pan s).scratchLen 248 8 = none ∧ wordIx 248 ∈ (pan s).stags ∧
      tackRoom (Mem.getNat (pan s).scratch 248 8) 1 0 = true) := by decide +kernel

/-! ## Copies, tacks, bobbins -/

/-- A descriptor at scratchpad address 64, named by v20. -/
def withDesc (ws : List Word) (s : State) : State := withScratch 64 (bytesOfWords ws) (withV 20 [64, 0] (withBuffer s))

/-- 256 bytes of the buffer to scratchpad address 128: one dimension of 16-byte elements. -/
def copyIn : State := withDesc [0x100, 0, 0x80, 0, 0, 0, 0x00100000, 0x00000010, 0, 0, 0, 0, 0, 0, 0, 0] idle

def cmdOf (s : State) (op : Nat) (held : Bool) : Cmd := s.cmdAt (thr s) (pan s) (lau s) op 0 held 64

/-- The same shape as `CopiesAndCounts` asks of a descriptor without a tack. -/
def copies (s : State) (op : Nat) : Bool :=
  (cmdOf s op false).wellFormed && (cmdOf s op false).total != 0 && (cmdOf s op false).aligned
    && ((cmdOf s op false).rangeTrap (lau s) (pan s).scratchLen (s.sys.tilesOf (pan s))).isNone
    && !(cmdOf s op false).tackValid && (cmdOf s op false).dense != 3

theorem witness_CopiesAndCounts :
    (Meets copyIn (.cpy 0 20 0) = true ∧ (lau copyIn).travelling = false ∧ (pan copyIn).handlerOf = none ∧
      ((thr copyIn).src64 (pan copyIn) 20 0).toNat = 64 ∧ 64 + 64 ≤ (pan copyIn).scratchLen ∧ copies copyIn 0 = true ∧
      (thr copyIn).CanTrap (lau copyIn)) ∧
    (let s := withDesc [0x80, 0, 0x100, 0, 0, 0, 0x00400000, 0x00000010, 0, 0, 0, 0, 0, 0, 0, 0] idle;
      Meets s (.cpys 0 20 1) = true ∧ copies s 2 = true) ∧
    (let s := onYoke (fun y => { y with tiles := y.tiles.set 2 0x800000 })
        (withDesc [0x100, 0, 2, 0, 0, 0, 0x00240000, 0x00000010, 0, 0, 0, 0, 0, 0, 0, 0x00000100] idle);
      Meets s (.cpym 0 20 0) = true ∧ copies s 1 = true ∧ (cmdOf s 1 false).dense = 2 ∧
      TileRec.live ((yok s).tiles.getD (cmdOf s 1 false).tile 0) = true) ∧
    (let s := onPanel (fun p => { p with stags := [26] })
        (withDesc [0x100, 0, 0x80, 0, 208, 0, 0xC0100000, 0x00000010, 0, 0, 0, 0, 0, 0, 0, 0] idle);
      Meets s (.cpy 0 20 0) = true ∧ (cmdOf s 0 false).wellFormed = true ∧ (cmdOf s 0 false).tackValid = true ∧
      (cmdOf s 0 false).tackScr = true ∧ scratchTrap (pan s).scratchLen (cmdOf s 0 false).tackAddr 8 = none ∧
      (Tx.start s).tackLive (.scr (pan s).key (cmdOf s 0 false).tackAddr) = true ∧
      tackRoom ((Tx.start s).tackRead (.scr (pan s).key (cmdOf s 0 false).tackAddr)) 1 (cmdOf s 0 false).total = true) ∧
    (let s := withDesc [0x100, 0, 0x80, 0, 0, 0, 0x00100001, 0x00000010, 0, 0, 0, 0, 0, 0, 0, 0] idle;
      Meets s (.cpy 0 20 0) = true ∧ (cmdOf s 0 false).wellFormed = false) := by decide +kernel

/-- A held command whose count index is 3. -/
def heldCmd : Cmd :=
  { cmdOf (withDesc [0x80, 0, 0x100, 0, 0, 0, 0x00400000, 0x00000010, 0, 0, 0, 0, 0, 0, 0x80000003, 0] idle) 2 true with chan := 3 }

theorem witness_CopiesAndCounts_held :
    (let s := withV 0 [0x20, 0, 3, 9] idle; Meets s (.binc 0 2 3) = true ∧ (0x20 + 4 * 3) % 4 = 0 ∧ 0x20 + 4 * 3 + 4 ≤ (pan s).scratchLen ∧
      (pan s).stags = [] ∧ Meets s (.binp 0 0xFF) = true ∧ Meets s (.hrel 0xFF) = true ∧ s.sys.cmds = [] ∧ s.sys.reqs = []) ∧
    (let s := edit (fun y => { y with cmds := [heldCmd] }) (withV 0 [0x20, 0] (withBuffer idle));
      Meets s (.binp 0 8) = true ∧ heldCmd.heldBy (pan s).key 8 = true ∧ heldCmd.patch = true ∧ heldCmd.countIx = 3 ∧ s.sys.reqs = [] ∧
      Meets s (.hrel 8) = true ∧ heldCmd.chan < 8 ∧ heldCmd.total ≠ 0 ∧ heldCmd.aligned = true ∧
      heldCmd.rangeTrap (lau s) (pan s).scratchLen (s.sys.tilesOf (pan s)) = none ∧ heldCmd.tacks = []) ∧
    (Meets idle (.shcfg 1 7 0 0) = true ∧ Meets idle (.shcfg 0 7 0 0) = true ∧ (pan idle).yoke = some (yok idle).key ∧
      idle.sys.yokeOf (pan idle) = some (yok idle) ∧ (yok idle).shuttles.getD 7 ⟨none, []⟩ = ⟨none, []⟩ ∧
      0 < (yok idle).panelCount (lau idle)) := by decide +kernel

/-- R301: the count word at 0x20 + 4 * 3 goes from 7 to 16. -/
theorem test_binc :
    (match exec (.binc 0 2 3) (withV 0 [0x20, 0, 3, 9] (withScratch 44 [7] idle)) with
      | .next s => Mem.getNat (pan s).scratch 44 4 == 16
      | _ => false) = true := by decide +kernel

/-- A tack word at scratchpad address 248, live or not, named by v2. -/
def withTack (live : Bool) (w : List Word) (s : State) : State :=
  onPanel (fun p => { p with stags := if live then [31] else [] }) (withScratch 248 (bytesOfWords w) (withV 2 [248, 0] s))

theorem witness_TackWords :
    (let s := withTack false [0, 0] idle;
      Meets s (.tkinit 1 2 4) = true ∧ (lau s).travelling = false ∧ (pan s).handlerOf = none ∧ 248 % 8 = 0 ∧
      248 + 8 ≤ (pan s).scratchLen ∧ 31 ∉ (pan s).stags) ∧
    (let s := withTack true [0, 0x10000] (withV 4 [0xFFFFFFFF, 0x7FFFFFFF] idle);
      Meets s (.tkinit 1 2 4) = true ∧ 31 ∈ (pan s).stags ∧ (thr s).CanTrap (lau s) ∧ Meets s (.tkarr 1 2 0x3F) = true ∧
      TackWord.arrivals (Mem.getNat (pan s).scratch 248 8) ≠ 0 ∧ Meets s (.tkwait 8 2 1 1) = true) ∧
    (let s := withTack true [0, 0] (withV 4 [0xFFFFFFFF, 0x7FFFFFFF] idle); Meets s (.tkexp 1 2 4) = true ∧
      ((thr s).src64 (pan s) 4 0).toNat < 2 ^ 63 ∧
      tackRoom (Mem.getNat (pan s).scratch 248 8) 0x7FFF 0xFFFFFFFFFFFF = true ∧
      Meets s (.tkkill 1 2) = true ∧ Mem.getNat (pan s).scratch 248 8 % 2 ^ 63 = 0) ∧
    tackRoom (0x7FFEFFFFFFFFFFFF) 1 0 = true := by decide +kernel

/-- R305, R289: the last arrival with nothing pending flips the phase. -/
theorem test_arrive_flips : TackEvent.arrive.apply (2 ^ 48) = (2 ^ 63, false) ∧ TackEvent.arrive.apply (2 ^ 48 + 1) = (1, false) := by
  decide +kernel

/-- A tack word at the buffer's last eight bytes, live or not, named by v2. -/
def withHomeTack (live : Bool) (w : Nat) (s : State) : State :=
  let s := withBuffer (withV 2 [0xFFF8, 0] s)
  ⟨Mem.putBytes s.mem 0x2FFF8 (leBytes 8 w), s.hostMem, { s.sys with tags := if live then [0x2FFF8 / 8] else [] }⟩

/-- The tack's access, for a wait and for the other words. -/
def tackAccess : Access := ⟨0, 0xFFF8, 8, .home 0x2FFF8 5 1 0 false, false, false⟩

def homeTack (s : State) : Bool := isOk (atSlot s 0xFFF8 8 rA) tackAccess && isOk (atSlot s 0xFFF8 8 rRd) tackAccess

theorem witness_TackWords_home :
    (let s := withHomeTack false 0 idle;
      s.Alone (thr s) (pan s) (lau s) ∧ (thr s).CanTrap (lau s) ∧ 0x2FFF8 % 8 = 0 ∧ homeTack s = true ∧ s.sys.tagged (0x2FFF8 / 8) = false ∧
      Mem.wf s.mem = true ∧ Mem.wf s.hostMem = true ∧
      ∀ i ∈ ([.tkinit 0 2 4, .tkexp 0 2 4, .tkarr 0 2 0x3F, .tkwait 8 2 0 1, .tkkill 0 2] : List Instr), Meets s i = true) ∧
    (let s := withHomeTack true (2 ^ 48) (withV 4 [1, 0] idle);
      homeTack s = true ∧ s.sys.tagged (0x2FFF8 / 8) = true ∧ tackRoom (s.homeNat 0x2FFF8 8 5) 0 1 = true ∧
      TackWord.arrivals (s.homeNat 0x2FFF8 8 5) ≠ 0 ∧ s.homeNat 0x2FFF8 8 5 % 2 ^ 63 ≠ 0) ∧
    (let s := withHomeTack true (2 ^ 63) (withV 4 [0, 0x80000000] idle);
      homeTack s = true ∧ s.homeNat 0x2FFF8 8 5 % 2 ^ 63 = 0 ∧ 2 ^ 63 ≤ ((thr s).src64 (pan s) 4 0).toNat ∧
      TackWord.arrivals (s.homeNat 0x2FFF8 8 5) = 0 ∧ ∀ k ∈ List.range 4, (s.sys.core k).l1Line (lineOf 0x2FFF8) = none) := by
  decide +kernel

/-- No tack word there, or one that has no arrival to come or no room: TKMISUSE of each word in the scratchpad. -/
theorem witness_TackWords_misuse :
    (let s := withTack false [0, 0] idle;
      (thr s).CanTrap (lau s) ∧ 248 / 8 ∉ (pan s).stags ∧
      ∀ i ∈ ([.tkexp 1 2 4, .tkarr 1 2 0x3F, .tkwait 8 2 1 1, .tkkill 1 2] : List Instr), Meets s i = true) ∧
    (let s := withTack true [1, 0] (withV 4 [0, 0x80000000] idle);
      2 ^ 63 ≤ ((thr s).src64 (pan s) 4 0).toNat ∧ TackWord.arrivals (Mem.getNat (pan s).scratch 248 8) = 0 ∧
      Mem.getNat (pan s).scratch 248 8 % 2 ^ 63 ≠ 0) ∧
    tackRoom (0x7FFFFFFFFFFFFFFF) 1 0 = false := by decide +kernel

/-- A bobbin of the buffer's first 64 bytes: slots of 256 bytes from offset 4096, between 1 and 8, these pointers, live or not. -/
def withBobbin (live : Bool) (active claim write read released : Word) (s : State) : State :=
  let s := withBuffer s
  ⟨Mem.putBytes s.mem 0x20000 (bytesOfWords [4096, 0, 256, 0x00080001, active * 0x10000, claim, write, read, released, 0, 0, 0]), s.hostMem,
    { s.sys with tags := if live then (List.range 8).map (· + 0x4000) else [] }⟩

/-- The bobbin's access. -/
def theBobbin : Access := ⟨0, 0, 64, .home 0x20000 5 1 0 false, false, false⟩

theorem witness_BobbinWords :
    (let s := withBobbin false 0 0 0 0 0 (withScratch 192 (bytesOfWords [4096, 0, 256, 0x00080001]) (withV 4 [192, 0] idle));
      s.Alone (thr s) (pan s) (lau s) ∧ (lau s).travelling = false ∧ (pan s).handlerOf = none ∧
      isOk (atSlot s 0 64 (rRd + rW + rA)) theBobbin = true ∧ s.sys.tagged (0x20000 / 8) = false ∧
      Meets s (.bbinit 2 4) = true ∧ 192 % 64 = 0 ∧ 192 + 64 ≤ (pan s).scratchLen ∧
      Bobbin.sizesOk ((wordsOf (Mem.getBytes (pan s).scratch 192 64)).take 4) = true ∧
      4096 + 8 * 256 ≤ Decl.len ((lau s).decl 0) ∧ Decl.lacks ((lau s).decl 0) (rRd + rW) = false ∧
      Meets s (.bbawait 8 2) = true ∧ Meets s (.bbrel 2) = true ∧ (thr s).CanTrap (lau s)) ∧
    (let s := withBobbin true 4 1 1 1 0 idle;
      isOk (atSlot s 0 64 (rRd + rW + rA)) theBobbin = true ∧ s.sys.tagged (0x20000 / 8) = true ∧
      Bobbin.released (s.objWords theBobbin.loc 16) ≠ Bobbin.read (s.objWords theBobbin.loc 16)) := by decide +kernel

/-- An image in the scratchpad at 192: refused for its sizes, its place, its rights, or as one that clears. -/
def bobbinImage (live : Bool) (claim released : Word) (w : List Word) : State :=
  withBobbin live 0 claim 0 0 released (withScratch 192 (bytesOfWords w) (withV 4 [192, 0] idle))

theorem witness_BobbinWords_refusals :
    (let s := bobbinImage false 0 0 [4096, 0, 100, 0x00080001];
      Meets s (.bbinit 2 4) = true ∧ (thr s).CanTrap (lau s) ∧ isOk (atSlot s 0 64 (rRd + rW + rA)) theBobbin = true ∧
      Bobbin.sizesOk ((wordsOf (Mem.getBytes (pan s).scratch 192 64)).take 4) = false ∧
      Bobbin.slotBytes ((wordsOf (Mem.getBytes (pan s).scratch 192 64)).take 4) ≠ 0) ∧
    (let s := bobbinImage false 0 0 [0xFF00, 0, 256, 0x00080001];
      let img := (wordsOf (Mem.getBytes (pan s).scratch 192 64)).take 4
      Bobbin.sizesOk img = true ∧ Decl.len ((lau s).decl 0) < 0xFF00 + Bobbin.maxSlots img * Bobbin.slotBytes img) ∧
    (let s := onLaunch (fun l => { l with decls := [buffer, [0, 0, 0x10000, 0, 0x87020005, 0x00010000, 0, 0]] })
        (bobbinImage false 0 0 [0, 0x00100000, 256, 0x00080001]);
      Bobbin.sizesOk ((wordsOf (Mem.getBytes (pan s).scratch 192 64)).take 4) = true ∧ 8 * 256 ≤ Decl.len ((lau s).decl 1) ∧
      Decl.lacks ((lau s).decl 1) (rRd + rW) = true) ∧
    (let s := bobbinImage true 3 3 [0, 0, 0, 0];
      Bobbin.slotBytes ((wordsOf (Mem.getBytes (pan s).scratch 192 64)).take 4) = 0 ∧ s.sys.tagged (0x20000 / 8) = true ∧
      Bobbin.claim (s.objWords theBobbin.loc 16) = Bobbin.released (s.objWords theBobbin.loc 16)) ∧
    (let s := bobbinImage true 4 3 [0, 0, 0, 0]; Bobbin.claim (s.objWords theBobbin.loc 16) ≠ Bobbin.released (s.objWords theBobbin.loc 16)) ∧
    (let s := withBobbin true 4 1 1 1 1 idle;
      Bobbin.released (s.objWords theBobbin.loc 16) = Bobbin.read (s.objWords theBobbin.loc 16)) ∧
    0x20000 % 64 = 0 := by decide +kernel

/-- R294: min slots active, the pointers 0; the words of the image that BBINIT is given stand before them. -/
theorem test_bbinit :
    (match exec (.bbinit 2 4) (bobbinImage false 7 7 [4096, 0, 256, 0x00080001]) with
      | .next s => s.objWords theBobbin.loc 16
      | _ => []) = [4096, 0, 256, 0x00080001, 0x10000, 0, 0, 0, 0, 0, 0, 0, 0, 0, 0, 0] := by decide +kernel

/-! ## Stack words, fences, travel -/

/-- A shelf of one head, 64 elements and 16 tokens in stack 0 (R395): two megabytes. -/
def shelf : List Word := [0, 0, 0x200000, 0, 0xD7820005, 0x00010000, 0x003F0000, 16]

/-- 64 KiB of a peer, that may be written. -/
def peerBuffer : List Word := [0, 0, 0x10000, 0, 0x81820005, 0x00010100, 0, 0]

theorem witness_StackUnitWords :
    (let s := withV 4 [4095] idle; Meets s (.aqst 8 4 0) = true ∧ (lau s).travelling = false ∧ (pan s).handlerOf = none ∧
      (s.sys.part? (lau s).part).any (fun q => q.owns 0) = true ∧ (s.sys.part? (lau s).part).any (fun q => q.owns 15) = false ∧
      Meets s (.aqst 8 4 15) = true ∧ (thr s).CanTrap (lau s)) ∧
    (let s := withDecls [shelf] (withV 2 [0, 0, 0, 0, 15, 0] idle);
      Meets s (.kvap 6 2 4) = true ∧ kindTrap (lau s) ((thr s).src64 (pan s) 2 0).toNat 1 true = none ∧
      0 < Decl.heads ((lau s).decl 0) ∧ 15 < Decl.maxTokens ((lau s).decl 0) ∧
      2 * Decl.dataBytes ((lau s).decl 0) ≤ (pan s).scratchLen ∧
      (recordChunks s (portOf (pan s) (lau s) (thr s)) ((lau s).decl 0) 0 (Decl.shelfOffset ((lau s).decl 0) 15 0 0) []).isSome = true ∧
      (recordChunks s (portOf (pan s) (lau s) (thr s)) ((lau s).decl 0) 0 (Decl.shelfOffset ((lau s).decl 0) 15 0 1) []).isSome = true ∧
      Decl.heads ((lau s).decl 0) ≤ 1 ∧ Decl.maxTokens ((lau s).decl 0) ≤ 16) := by decide +kernel

/-- A query of head 0 over tokens 0 to 16, its result in the peer's slot 1, its vector after the descriptor. -/
theorem witness_StackUnitWords_query :
    (let s := withDecls [shelf, peerBuffer] (withScratch 64 (bytesOfWords [0, 0, 0, 0x00100000, 0, 0, 0, 0, 0, 16]) (withV 4 [64, 0] idle));
      let ws := wordsOf (Mem.getBytes (pan s).scratch 64 64);
      Meets s (.aqp 4) = true ∧ s.sys.postsHeld (clusterOf (thr s).core) < 64 ∧ 64 + 64 + 2 * Decl.dim ((lau s).decl 0) ≤ (pan s).scratchLen ∧ aqpTrap (lau s) ws = none ∧
      (wnat ws 6).testBit 31 = false ∧ handleSlot (dnat ws 2) = 1 ∧ handleOff (dnat ws 2) = 0 ∧
      Decl.stackCount ((lau s).decl 0) * resultStride (Decl.dim ((lau s).decl 0)) ≤ Decl.len ((lau s).decl 1) ∧
      Decl.lacks ((lau s).decl 1) rW = false ∧ Decl.peer ((lau s).decl 1) ≠ 0) := by decide +kernel

/-- A query of head `h` over tokens `a` to `b` of the handle in the first two words, its result in slot 1 at offset 0. -/
def queryOf (ds : List (List Word)) (off h a b : Word) : State :=
  withDecls ds (withScratch 64 (bytesOfWords [off, 0, 0, 0x00100000, 0, 0, h * 0x400000, 0, a, b]) (withV 4 [64, 0] idle))

/-- The conditions of AQP and TRQ that come before those of their kind. -/
def posts (i : Instr) (s : State) : Bool :=
  let ws := wordsOf (Mem.getBytes (pan s).scratch 64 64)
  Meets s i && decide (s.sys.postsHeld (clusterOf (thr s).core) < 64 ∧ 64 + 64 ≤ (pan s).scratchLen ∧ (thr s).CanTrap (lau s)) &&
    noTackOk ws && Decl.valid ((lau s).decl (handleSlot (dnat ws 0)))

theorem witness_StackUnitWords_home :
    (let s := queryOf [shelf, buffer] 0 0 0 16;
      let ws := wordsOf (Mem.getBytes (pan s).scratch 64 64);
      posts (.aqp 4) s = true ∧ 64 + 64 + 2 * Decl.dim ((lau s).decl 0) ≤ (pan s).scratchLen ∧ aqpTrap (lau s) ws = none ∧
      (wnat ws 6).testBit 31 = false ∧ handleSlot (dnat ws 2) = 1 ∧ handleOff (dnat ws 2) = 0 ∧
      Decl.stackCount ((lau s).decl 0) * resultStride (Decl.dim ((lau s).decl 0)) ≤ Decl.len ((lau s).decl 1) ∧
      Decl.lacks ((lau s).decl 1) rW = false ∧
      (let s := onPanel (fun p => { p with extents := [{ pageZero with slot := 1 }] }) s;
        let u := ((Tx.start s).release (thr s).core obsS).st;
        checkPages u (portOf (pan s) (lau s) (thr s)) ((lau s).decl 1) 1 rW
          (pageOffsets ((lau s).decl 1) 0 (Decl.stackCount ((lau s).decl 0) * resultStride (Decl.dim ((lau s).decl 0)))) = none)) := by
  decide +kernel

/-- A sweep of one item over a hierarchy in slot 1, into the bobbin of slot 0. -/
theorem witness_StackUnitWords_sweep :
    (let s := onLaunch (fun l => { l with decls := [buffer, [0, 0, 128, 0, 0xE7820005, 0x00010000, 0, 1]] })
        (withBobbin true 1 0 0 0 0 (withScratch 64 (bytesOfWords [0, 0x00100000]) (withV 4 [64, 0] idle)));
      let ws := wordsOf (Mem.getBytes (pan s).scratch 64 64);
      Meets s (.trq 4) = true ∧ s.sys.postsHeld (clusterOf (thr s).core) < 64 ∧ 64 + 64 + 32 * 1 ≤ (pan s).scratchLen ∧ bits (wnat ws 6) 23 6 = 0 ∧ bits (wnat ws 6) 0 23 = 0 ∧
      (ws.drop 7).any (· != 0) = false ∧ noTackOk ws = true ∧ (wnat ws 6).testBit 31 = false ∧ (wnat ws 6).testBit 29 = false ∧
      kindTrap (lau s) (dnat ws 0) 2 false = none ∧
      (let u := ((Tx.start s).release (thr s).core obsS).st;
        isOk (checkAccess u (portOf (pan s) (lau s) (thr s)) (handleSlot (dnat ws 2)) (handleOff (dnat ws 2)) 64 64 (rRd + rW + rA) false)
          theBobbin = true ∧ (Tx.start u).tackLive theBobbin.loc = true ∧ 32 ≤ Bobbin.slotBytes (u.objWords theBobbin.loc 16))) := by
  decide +kernel

/-- A buffer where a shelf must be, an offset, a head and a range that do not exist (R422). -/
theorem witness_StackUnitWords_errors :
    (let s := queryOf [buffer, buffer] 0 0 0 16; posts (.aqp 4) s = true ∧ Decl.lacks ((lau s).decl 0) rRd = false ∧
      Decl.kind ((lau s).decl 0) ≠ 1) ∧
    (let s := queryOf [shelf, buffer] 64 0 0 16; let ws := wordsOf (Mem.getBytes (pan s).scratch 64 64);
      posts (.aqp 4) s = true ∧ Decl.kind ((lau s).decl 0) = 1 ∧ handleOff (dnat ws 0) ≠ 0 ∧ bits (wnat ws 6) 0 22 = 0 ∧
      (ws.drop 10).any (· != 0) = false) ∧
    (let s := queryOf [shelf, buffer] 0 1 0 16; let ws := wordsOf (Mem.getBytes (pan s).scratch 64 64);
      posts (.aqp 4) s = true ∧ Decl.heads ((lau s).decl 0) ≤ bits (wnat ws 6) 22 8 ∧ bits (wnat ws 6) 0 22 = 0) ∧
    (let s := queryOf [shelf, buffer] 0 0 0 17; let ws := wordsOf (Mem.getBytes (pan s).scratch 64 64);
      posts (.aqp 4) s = true ∧ Decl.maxTokens ((lau s).decl 0) < wnat ws 9) ∧
    (∀ ds ∈ [[buffer], [([0, 0, 128, 0, 0xE7820005, 0x00010000, 0, 1] : List Word)]],
      let s := withDecls ds (withScratch 64 (bytesOfWords [64, 0]) (withV 4 [64, 0] idle));
      let ws := wordsOf (Mem.getBytes (pan s).scratch 64 64);
      posts (.trq 4) s = true ∧ bits (wnat ws 6) 0 23 = 0 ∧ (ws.drop 7).any (· != 0) = false ∧ handleOff (dnat ws 0) ≠ 0) ∧
    (let s := withDecls [shelf] (withV 2 [64, 0, 0, 0] idle); Meets s (.kvap 6 2 4) = true ∧ (thr s).CanTrap (lau s) ∧
      Decl.valid ((lau s).decl 0) = true ∧ Decl.kind ((lau s).decl 0) = 1 ∧ handleOff ((thr s).src64 (pan s) 2 0).toNat ≠ 0) ∧
    (let s := withDecls [buffer] (withV 2 [0, 0, 0, 0] idle); Meets s (.kvap 6 2 4) = true ∧ Decl.valid ((lau s).decl 0) = true ∧
      Decl.kind ((lau s).decl 0) ≠ 1) := by decide +kernel

theorem witness_FencesAndObjects :
    Meets idle (.fence 0 0x3F) = true ∧ Meets idle (.fence 1 0) = true ∧ Meets idle (.fence 3 0x20) = true ∧
    (thr idle).CanTrap (lau idle) ∧ (0x1F#6).getLsbD 5 = false ∧
    (let s := withBuffer (withV 4 [0xFFF8, 0, 8, 0] idle);
      Meets s (.bind 8 4 4) = true ∧ s.sys.part? (lau s).part = some (prt s) ∧ regionTrap ((lau s).decl 0) 0xFFF8 8 = none ∧
      passes (atSlot s 0xFFF8 8 (rRd + rA)) = true ∧ (prt s).freeBinding = some 0 ∧
      Meets s (.unbind 4) = true ∧ Meets s (.acq 8 4 2) = true ∧ passes (atSlot s 0xFFF8 8 rRd) = true ∧
      Meets s (.rel 4 0x3F) = true ∧ s.sys.tags = [] ∧
      Meets s (.acqr 8 4 0) = true ∧ Meets s (.relw 8 4 0) = true ∧ Meets s (.wait 8 4 2) = true ∧
      passes (atSlot s 0xFFF8 4 rRd) = true ∧ passes (atSlot s 0xFFF8 4 rW) = true) := by decide +kernel

/-- Every entry of the binding table in use. -/
theorem witness_FencesAndObjects_full (p : Partition) :
    { p with bindings := (List.range 4096).map fun k => ⟨k, 2, [], 0, 0, [], 0⟩ : Partition }.freeBinding = none := by
  simp only [Partition.freeBinding, List.find?_eq_none, List.any_map]
  intro x hx
  simp only [Bool.not_eq_true, Bool.not_eq_false', List.any_eq_true]
  exact ⟨x, hx, by simp⟩

/-- A record of zeros in executable pages that cover its code address 0. -/
theorem witness_FencesAndObjects_launch :
    (let s := withBuffer (withV 2 [0xFF80, 0] idle);
      Meets s (.launch 2) = true ∧ passes (checkAccess s (portOf (pan s) (lau s) (thr s)) 0 0xFF80 128 64 (rRd + rX) false) = true ∧
      passes (atSlot s 0xFF80 64 rRd) = true ∧ passes (atSlot s 0xFFC0 64 rRd) = true ∧ (lau s).coversCode 0 = true ∧
      dnat (wordsOf (Mem.getBytes s.mem 0x2FF80 128)) 2 = 0) := by decide +kernel

/-- A live tack where REL has its object, and a record whose code no executable page covers. -/
theorem witness_FencesAndObjects_refusals :
    (let s := withBuffer (withV 4 [0xFFF8, 0] (edit (fun y => { y with tags := [0x2FFF8 / 8] }) idle));
      Meets s (.rel 4 0x3F) = true ∧ (thr s).CanTrap (lau s) ∧ (match atSlot s 0xFFF8 8 (rRd + rA) with
        | .ok a => (Tx.start s).tackLive a.loc
        | _ => false) = true) ∧
    (let s := withBuffer (withV 2 [0xFF80, 0] idle);
      let s : State := ⟨Mem.putBytes s.mem 0x2FF88 [0, 0, 2], s.hostMem, s.sys⟩;
      Meets s (.launch 2) = true ∧ (thr s).CanTrap (lau s) ∧ (match atSlot s 0xFF80 64 rRd, atSlot s 0xFFC0 64 rRd with
        | .ok x, .ok y =>
          let u := ((Tx.start s).release (thr s).core 0b111100#6).st
          let v := (((Tx.start u).rekeyAccess x).rekeyAccess y).st
          !x.target.spoiled v.sys && !y.target.spoiled v.sys
            && !(lau s).coversCode (dnat (wordsOf (u.accessBytes x 64 ++ u.accessBytes y 64)) 2)
        | _, _ => false) = true) := by decide +kernel

/-- An overflow area of 320 bytes (R381). -/
def spoolBuffer : List Word := [0, 0, 320, 0, 0xF1820005, 0x00010000, 0, 0]

/-- A travelling launch of one piece with one entry point at index 1; its only core holds the piece. -/
def travelWorld : State :=
  onThread (fun t => { t with piece := some 0, tseam := some (0, 0) })
    (onObject (fun o => { o with marker := some ⟨[⟨0, 2, 1, 0xFFFFFF, 0⟩], [⟨1, 0, 0x0F, [8, 9], 0xFFFFFF⟩], true⟩, handlers := [(0, 8)] })
      (withDecls [spoolBuffer] (travels (onLaunch (fun l => { l with holders := [[0]] }) (withV 4 [1, 0] idle)))))

theorem witness_TravelWords :
    (let s := travelWorld;
      s.Alone (thr s) (pan s) (lau s) ∧ wordOk (.travel 5 4) (thr s) (pan s) = true ∧ (thr s).nat = none ∧
      (lau s).travelling = true ∧ (pan s).handlerOf = none ∧
      (((s.sys.objectOf (lau s)).bind (·.marker)).any fun m => (m.entryAt 1).isSome) = true ∧
      ((thr s).src32 (pan s) 4 0).toNat = 1 ∧ 1 < (s.sys.textOf (lau s)).length ∧
      320 * ((pan s).pid * (lau s).threads + (thr s).tid) + 320 ≤ (((lau s).kind3.map (lau s).decl).map Decl.len).getD 0) ∧
    ((lau idle).travelling = false ∧ (thr idle).CanTrap (lau idle)) ∧
    (let s := onObject (fun o => { o with handlers := [(0, 8)] }) (withV 4 [0, 2] idle);
      Meets s (.psend 0 8 4) = true ∧ psendTrap s.sys (thr s) (pan s) (lau s) 0 8 4 = none ∧
      s.sys.handler (lau s) 0 = some (0, 0, 8) ∧ s.sys.panelByPid (lau s) 0 = some (pan s) ∧ s.sys.panel? (pan s).key = some (pan s) ∧
      (pan s).phase ≠ .out ∧ s.sys.spoolUse (pan s).core < 256) ∧
    (let s := onObject (fun o => { o with handlers := [(0, 8)] })
        (onLaunch (fun l => { l with record := l.record.set 5 1, nextYoke := 2 }) (withV 4 [1, 0] idle));
      psendTrap s.sys (thr s) (pan s) (lau s) 0 8 4 = none ∧ s.sys.panelByPid (lau s) 1 = none ∧
      1 / (lau s).perYoke < (lau s).nextYoke) ∧
    Meets idle (.pqry 8 4) = true ∧ 5 ≤ (5#8).toNat := by decide +kernel

/-- TRAVEL to an index outside the text, to one that is no entry point, and with no room in the overflow area, in the launch as it is and
as its partition's supervisor. -/
theorem witness_TravelWords_refusals :
    (let s := withV 4 [2, 0] travelWorld; wordOk (.travel 5 4) (thr s) (pan s) = true ∧ (thr s).CanTrap (lau s) ∧ (thr s).nat = none ∧
      (s.sys.textOf (lau s)).length ≤ ((thr s).src32 (pan s) 4 0).toNat) ∧
    (let s := withV 4 [0, 0] travelWorld;
      ((s.sys.objectOf (lau s)).bind (·.marker)).any (fun m => (m.entryAt 0).isNone) = true ∧ (thr s).fresh = false ∧
      (lau s).supervisor = false ∧ s.sys.part? (lau s).part = some (prt s) ∧ ((thr s).src32 (pan s) 4 0).toNat = 0) ∧
    (let s := onLaunch (fun l => { l with decls := [[0, 0, 319, 0, 0xF1820005, 0x00010000, 0, 0]] }) travelWorld;
      ((s.sys.objectOf (lau s)).bind (·.marker)).any (fun m => (m.entryAt 1).isSome) = true ∧
      (((lau s).kind3.map (lau s).decl).map Decl.len).getD 0 < 320 * ((pan s).pid * (lau s).threads + (thr s).tid) + 320) ∧
    (let s := onLaunch (fun l => { l with supervisor := true }) (withV 4 [0, 0] travelWorld);
      wordOk (.travel 5 4) (thr s) (pan s) = true ∧ (lau s).supervisor = true ∧ (thr s).CanTrap (lau s)) := by decide +kernel

/-- A spool that is full, and a handler that the launch does not have. -/
theorem witness_TravelWords_messages :
    (let s := onObject (fun o => { o with handlers := [(0, 8)] }) (withV 4 [0, 2] idle);
      s.sys.messageHeld ((pan s).key, (thr s).tid) (some (pan s).key) s.sys.serial = false ∧
      psendTrap s.sys (thr s) (pan s) (lau s) 1 8 4 = some (tILLOP, 0) ∧ tILLOP ≠ tMARKMISS ∧ (thr s).CanTrap (lau s) ∧
      (let q : Parcel := ⟨0, (lau s).key, List.replicate 8 0, [], .spool (pan s).core, none, 0, ((pan s).key, 0)⟩;
        256 ≤ (edit (fun y => { y with parcels := List.replicate 256 q }) s).sys.spoolUse (pan s).core)) := by decide +kernel

/-! ## Links, the mailbox, partitions -/

/-- The first die's cycle count is past the patience of links and bridge; link 17 belongs to a domain that the launch uses. -/
def linkWorld : State :=
  edit (fun y => { y with
    dies := [⟨2400001, [], 0, []⟩, Die.reset], links := (List.replicate 18 Link.reset).set 0 ⟨true, 0, 0, 0, 0, false⟩
    domains := [⟨1, [⟨5, 0x20000, 0⟩]⟩] }) (onLaunch (fun l => { l with record := l.record.set 0 0x100 }) idle)

theorem witness_LinkBridgeAndHeatEvents :
    (let x (k : Nat) := linkWorld.sys.links.getD k Link.reset; let now := (linkWorld.sys.die 0).cyc;
      (x 0).up = true ∧ (x 1).up = false ∧ (x 1).raised = false ∧ (x 1).since + 2400000 ≤ now ∧
      (∀ q ∈ linkWorld.sys.parts, linkWorld.sys.usesLink 1 q = false) ∧
      (x 17).up = false ∧ (x 17).raised = false ∧ (x 17).since + 2400000 ≤ now ∧ linkWorld.sys.parts = [prt linkWorld] ∧
      linkWorld.sys.usesLink 17 (prt linkWorld) = true) ∧
    linkWorld.sys.bridge.training = false ∧ bridgeOverdue linkWorld.sys = false ∧
    (let s := edit (fun y => { y with bridge := ⟨true, 0, false⟩, launches := [] }) linkWorld;
      s.sys.bridge.training = true ∧ s.sys.bridge.raised = false ∧ s.sys.bridge.since + 2400000 < (s.sys.die 0).cyc ∧ bridgeOverdue s.sys = true ∧
      s.sys.parts = [prt s] ∧ s.sys.launches = []) := by decide +kernel

/-- What has gone down raises its fault once: links and the bridge whose mark stands. -/
theorem witness_LinkBridgeAndHeatEvents_raised :
    (let s := edit (fun y => { y with links := y.links.set 17 ⟨false, 0, 0, 0, 0, true⟩, bridge := ⟨true, 0, true⟩ }) linkWorld;
      (s.sys.links.getD 17 Link.reset).raised = true ∧ s.sys.bridge.raised = true ∧ bridgeOverdue s.sys = false ∧ 17 < 18) := by decide +kernel

/-- Bring-up is over; the only partition has a log and a queue, its launch is silent. -/
def mailWorld : State :=
  onPart (fun p => { p with vlog := [(7, 5)] }) (edit (fun y => { y with booted := true, queues := [⟨4095, 0, 0, 4, 0, 0⟩] }) idle)

theorem witness_MailboxCommands :
    mailWorld.sys.Commands 0 0 0 ∧ mailWorld.sys.Commands 1 9 0 ∧
    (mailWorld.sys.part? 0).isSome = true ∧ (∀ q ∈ mailWorld.sys.queues, q.num ≠ 0) ∧
    mailWorld.sys.queues.find? (fun c => c.num == 4095) = some ⟨4095, 0, 0, 4, 0, 0⟩ ∧
    (∀ l ∈ mailWorld.sys.launches, l.part = 0 → l.id.toNat ≠ 2) ∧
    (mailWorld.sys.launches.filter fun l => l.part == 0 && l.id.toNat == 1) = [lau mailWorld] ∧
    mailWorld.sys.launch? (lau mailWorld).key = some (lau mailWorld) ∧ (lau mailWorld).Silent ∧
    (∀ c ∈ mailWorld.sys.cmds, c.launch ≠ (lau mailWorld).key) ∧ (lau mailWorld).ending = none ∧ mailWorld.sys.reqs = [] ∧
    (let s := edit (fun y => { y with reqs := [{ Req.blank .tzero with launch := (lau mailWorld).key, granted := true }] }) mailWorld;
      (lau s).phase = .live ∧ s.sys.unfinished (lau s).key = true) ∧
    mailWorld.sys.part? 0 = some (prt mailWorld) ∧ (prt mailWorld).vlog[0]? = some (7, 5) ∧
    ([0, 0, 0, 0, 0, 0, 0, 1] : List Word).length = 8 := by decide +kernel

/-- A page table of one page: index 1 of the lowest 32 MiB, at local address 0x100000, key 1, readable and writable. -/
def tableBytes : List (Nat × Nat) :=
  [(0, 2 ^ 63 + 4096), (4096, 2 ^ 63 + 8192), (8192, 2 ^ 63 + 12288),
   (12288 + 8, 2 ^ 63 + 2 ^ 59 + 2 ^ 58 + 2 ^ 54 + 2 ^ 37 + 16 * 65536)]

def withTable (s : State) : State :=
  ⟨tableBytes.foldl (fun m x => Mem.putBytes m x.1 (leBytes 8 x.2)) s.mem, s.hostMem, s.sys⟩

def ringDecl : List Word := [0, 0, 128, 0, 0x81820001, 0x00010000, 0, 0]

/-- A supervisor record with 4,096 declarations from address 0 on, its ring in the table's page. -/
def superWorld : State :=
  let s := withTable ⟨State.reset.mem, Mem.putBytes [] 22 [0], { State.reset.sys with booted := true }⟩
  ⟨Mem.putBytes s.mem 0x10FFE0 (bytesOfWords ringDecl), Mem.putBytes s.hostMem 28 (leBytes 4 0x800000), s.sys⟩

def createArgs : CreateArgs :=
  { part := 7, l2p := [], stackMask := 1, keyBase := 1, keyCount := 16, rootStack := 0, rootLocal := 0, codeStore := [],
    contextStore := [], signers := [], deadline := false, heldQuota := 1, objectQuota := 1, mapQuota := 1, superRecord := 0,
    bootAddr := 0, bootCount := 0, writes := [] }

theorem witness_PartitionsComeAndGo :
    (let s := superWorld; let a := createArgs;
      let t0 := (Tx.start s).hostWrites a.writes
      let q := partitionOf a
      let t1 := t0.mod fun y => { y.writeKeys q true with parts := insertBy Partition.num q y.parts }
      let ws := wordsOf (Mem.getBytes t1.st.hostMem a.superRecord 128)
      let t2 := t1.ringOf q ws
      let t3 := t2.2.mod (updPart q.num fun q => { q with ring := ringDecl })
      let t4 := t3.arrive { q with ring := ringDecl } ws 7 false true none
      s.sys.booted = true ∧ a.bootCount = 0 ∧ s.sys.createOk a = true ∧ t2.1 = some ringDecl ∧ t3.sys.heldCount < 4096 ∧
      t3.sys.heldOf a.part < a.heldQuota ∧ t3.halt.isNone = true ∧ t4.halt.isNone = true) ∧
    (let s := superWorld; let a := { createArgs with heldQuota := 0 };
      let q := partitionOf a
      let t1 := ((Tx.start s).hostWrites a.writes).mod fun y => { y.writeKeys q true with parts := insertBy Partition.num q y.parts }
      let t2 := t1.ringOf q (wordsOf (Mem.getBytes t1.st.hostMem a.superRecord 128))
      s.sys.createOk a = true ∧ t2.1 = some ringDecl ∧ a.heldQuota ≤ t2.2.sys.heldOf a.part ∧ t2.2.halt.isNone = true) ∧
    (let s := edit (fun y => { y with parts := [{ bootPart with unsupervised := true }], launches := [] }) superWorld
      let q := prt s
      let ws := wordsOf (Mem.getBytes s.hostMem 0 128)
      let t2 := (Tx.start s).ringOf q ws
      s.sys.part? 0 = some q ∧ q.unsupervised = true ∧ t2.1 = some ringDecl ∧ 128 ≤ Decl.len ringDecl ∧ s.sys.superComing 0 = false ∧
      t2.2.sys.heldCount < 4096 ∧ t2.2.sys.heldOf 0 < q.heldQuota ∧ q.tearing = false ∧
      (t2.2.arrive q ws 7 false true none).halt.isNone = true ∧ t2.2.halt.isNone = true ∧ (∀ l ∈ s.sys.launches, l.part ≠ 0)) ∧
    (let s := edit (fun y => { y with parts := [{ bootPart with unsupervised := true, heldQuota := 0 }] }) superWorld;
      (prt s).heldQuota ≤ s.sys.heldOf 0) ∧
    (let r : StreamRec := ⟨77, 0, 7, [], true⟩;
      let s := edit (fun y => { y with parts := [{ bootPart with unsupervised := true }], stream := [r] }) superWorld;
      s.sys.part? 0 = some (prt s) ∧ s.sys.superComing 0 = true ∧ bootPart.unsupervised = false) := by decide +kernel

/-! ## The front end and the scheduler -/

/-- A record of one panel of one thread, its code at address 64. -/
def smallRecord : List Word := [0x01010000, 5, 64, 0, 0x00001000, 0, 0xF0000800, 0] ++ List.replicate 24 0

/-- A launch of `smallRecord` as an arrival makes it. -/
def arrived (s : State) (source : Option (Nat × Word)) : Launch := Launch.ofRecord s.sys.serial 0 7 smallRecord false source

/-- What a record without buffers and tiles must pass first. -/
def passesFirst (s : State) (l : Launch) : Bool :=
  (l.earlyReason s.sys (prt s) false).isNone && l.bufferCount == 0 && l.tileCount == 0 && decide (l.units ≤ 256) && !l.travelling
    && (s.sys.verified l).isNone

theorem witness_LaunchesArriveAndAreChecked :
    mailWorld.sys.queues.find? (fun c => c.num == 4095) = some ⟨4095, 0, 0, 4, 0, 0⟩ ∧
    (let r : StreamRec := ⟨77, 0, 7, smallRecord, false⟩; let s := edit (fun y => { y with stream := [r] }) mailWorld;
      s.sys.nextOffer = some (4096, .stream r) ∧ s.sys.part? 0 = some (prt s) ∧ passesFirst s (arrived s none) = true) ∧
    (let k : Queue := ⟨4095, 0, 4096, 4, 0, 1⟩;
      let s : State := ⟨mailWorld.mem, Mem.putBytes (Mem.putBytes [] 4096 (leBytes 8 8192)) 8192 (bytesOfWords smallRecord),
        { mailWorld.sys with queues := [k] }⟩;
      let e := wordsOf (Mem.getBytes s.hostMem (k.base + 32 * (k.head.toNat % 2 ^ k.j)) 32);
      s.sys.nextOffer = some (4095, .queue k) ∧ wnat e 2 = 0 ∧ (e.drop 3).all (· == 0) = true ∧
      wordsOf (Mem.getBytes s.hostMem (dnat e 0) 128) = smallRecord ∧ passesFirst s (arrived s (some (4095, 0))) = true) := by
  decide +kernel

/-- A launch whose code address is no multiple of 64 fails step 1 (R68). -/
theorem witness_LaunchesArriveAndAreChecked_signature :
    (let s := onLaunch (fun l => { l with record := smallRecord.set 2 4, phase := .checking }) idle; let l := lau s;
      nextCheck s = some l ∧ s.sys.part? l.part = some (prt s) ∧
      (match checkObject s l with | some (.error n) => n == 1 | _ => false) = true ∧
      ((Tx.start s).readObject l.part l.code).2.halt.isNone = true ∧ s.sys.awaiting l.part l.code = [l] ∧ l.Silent ∧
      s.sys.objects.all (fun o => o.key != s.sys.serial) = true) := by decide +kernel

/-- A launch ready for its walk: one page at virtual address 65536. -/
def walkWorld (s : State) : State :=
  onLaunch (fun l => { l with phase := .ready, decls := [[65536, 0, 128, 0, 0xC1820001, 0x00010000, 0, 0]] }) s

theorem cachedExtents_of_empty (s : Sys) (p : Partition) (k : Nat) (d : List Word) (e : s.dies.flatMap (·.extents) = []) :
    s.cachedExtents p k d = none := by
  simp [Sys.cachedExtents, e]

/-- The pages of a translation, or the address that fails. -/
def pinned {s0 : State} (r : Except Nat (List PageMap) × Tx s0) : List PageMap ⊕ Nat :=
  match r.1 with
  | .ok pages => .inl pages
  | .error va => .inr va

theorem pinSlot_fails {s0 : State} {tx : Tx s0} {p : Partition} {k va : Nat} {d : List Word}
    (e : tx.sys.dies.flatMap (·.extents) = []) (h : pinned (tx.pinPages p k d (Decl.pages d) []) = .inr va) :
    tx.pinSlot p k d = (.error va, (tx.pinPages p k d (Decl.pages d) []).2) := by
  unfold Tx.pinSlot
  rw [cachedExtents_of_empty _ _ _ _ e]
  generalize tx.pinPages p k d (Decl.pages d) [] = r at h ⊢
  obtain ⟨_ | _, u⟩ := r <;> simp_all [pinned]

theorem pinSlot_holds {s0 : State} {tx : Tx s0} {p : Partition} {k : Nat} {pages : List PageMap} {d : List Word}
    (e : tx.sys.dies.flatMap (·.extents) = []) (h : pinned (tx.pinPages p k d (Decl.pages d) []) = .inl pages) :
    tx.pinSlot p k d = (.ok pages, (tx.pinPages p k d (Decl.pages d) []).2.mod fun s => s.cacheExtents p d pages) := by
  unfold Tx.pinSlot
  rw [cachedExtents_of_empty _ _ _ _ e]
  generalize tx.pinPages p k d (Decl.pages d) [] = r at h ⊢
  obtain ⟨_ | _, u⟩ := r <;> simp_all [pinned]

theorem pinFold {s0 : State} (tx u : Tx s0) (p : Partition) (l : Launch) (k : Nat)
    (g : Tx s0 → Partition → Nat → List Word → Except Nat (List PageMap) × Tx s0) (r : Except Nat (List PageMap))
    (hr : g tx p k (l.decl k) = (r, u)) :
    (List.foldl (fun (acc : Except (Nat × Nat) (List PageMap) × Tx s0) slot =>
      match acc.1 with
      | .error _ => acc
      | .ok pages => match g acc.2 p slot (l.decl slot) with
        | (.ok more, tx) => (.ok (pages ++ more), tx)
        | (.error va, tx) => (.error (slot, va), tx)) (.ok [], tx) [k]) = (r.mapError fun va => (k, va), u) := by
  cases r <;> simp only [List.foldl_cons, List.foldl_nil, hr, List.nil_append, Except.mapError]

theorem pinAll_of_one {s0 : State} {tx u : Tx s0} {p : Partition} {l : Launch} {k : Nat} {r : Except Nat (List PageMap)}
    (h : l.pinnedSlots = [k]) (hr : tx.pinSlot p k (l.decl k) = (r, u)) : tx.pinAll p l = (r.mapError fun va => (k, va), u) := by
  unfold Tx.pinAll
  rw [h]
  exact pinFold tx u p l k Tx.pinSlot r hr

/-- The launch that waits for its walk, and the rest of the hypotheses. -/
def awaitsWalk (s : State) : Bool :=
  decide (s.sys.launch? (lau s).key = some (lau s) ∧ s.sys.part? (lau s).part = some (prt s) ∧ (lau s).phase = .ready ∧
    (lau s).translated = false ∧ (lau s).Silent)

theorem witness_LaunchesArriveAndAreChecked_unwalked :
    awaitsWalk (walkWorld idle) = true ∧ ∃ u, (Tx.start (walkWorld idle)).pinAll (prt (walkWorld idle)) (lau (walkWorld idle)) =
      (.error (0, 65536), u) ∧ pinVerdict (.error (0, 65536)) = .error (0, 65536) ∧ u.halt = none :=
  ⟨by decide +kernel, _, pinAll_of_one (k := 0) (by decide +kernel) (pinSlot_fails (va := 65536) (by decide +kernel) (by decide +kernel)),
    rfl, by decide +kernel⟩

theorem witness_LaunchesArriveAndAreChecked_walked :
    awaitsWalk (walkWorld (withTable idle)) = true ∧
    ∃ u e, (Tx.start (walkWorld (withTable idle))).pinAll (prt (walkWorld (withTable idle))) (lau (walkWorld (withTable idle))) = (.ok e, u) ∧
      pinVerdict (.ok e) = .ok e ∧ u.halt = none :=
  ⟨by decide +kernel, _, [⟨0, 1, 0x100000, 1, 2, 0⟩],
    pinAll_of_one (k := 0) (by decide +kernel) (pinSlot_holds (by decide +kernel) (by decide +kernel)), rfl, by decide +kernel⟩

/-- Gorlux may put the object's words, cut into clauses of one word, beside the copy. -/
theorem witness_LaunchesArriveAndAreChecked_gorlux :
    (let s := onPart (fun q => { q with codeStore := [⟨0, 0, 1024⟩] }) idle; let o := s.sys.objects.headD (bootObject 0 []);
      s.sys.object? o.key = some o ∧ s.sys.part? o.part = some (prt s) ∧ s.sys.gorluxAt o = true ∧
      gorluxOk s.sys o (prt s) (o.text.flatMap fun w => [0xFDFFC000, w]) ((List.range o.text.length).flatMap fun k => [k, k]) = true) := by
  decide +kernel

/-- The launch has placed nothing yet. -/
def unplaced (s : State) : State :=
  edit (fun y => { y with panels := [], yokes := [], threads := [] }) (onLaunch (fun l => { l with phase := .ready, nextYoke := 0 }) s)

/-- A deadline launch beside one whose panel takes a core's whole scratchpad. -/
def pressed : State :=
  onPanel (fun p => { p with scratchLen := 256 * 1024 })
    (edit (fun y => { y with launches := y.launches ++ [{ bootLaunch 90 3 with phase := .ready, cls := 7, nextYoke := 0, order := 1 }] }) idle)

theorem witness_PlacementAndStart :
    planOf (unplaced idle) 0 = .fresh (lau (unplaced idle)) false [0] ∧
    (let s := onYoke (fun y => { y with phase := .out }) (onPanel (fun p => { p with phase := .out }) idle);
      planOf s 0 = .again (yok s) [0]) ∧
    (let s := onObject (fun o => { o with marker := some ⟨[⟨0, 1, 1, 0xFFFFFF, 0⟩], [⟨0, 0, 0, [], 0xFFFFFF⟩], true⟩ })
        (unplaced (onLaunch (fun l => { l with record := l.record.set 0 0x80 }) idle));
      planOf s 0 = .pin (lau s) [[0]] [0]) ∧
    planOf pressed 0 = .evict [(yok pressed).key] ∧
    (let s := unplaced (onLaunch (fun l => { l with record := l.record.set 6 0xF0200800 }) idle);
      planOf s 0 = .fail (lau s) ∧ (lau s).Silent) ∧
    planOf idle 0 = .wait ∧
    (let s := onPanel (fun p => { p with phase := .placed }) idle;
      s.sys.panel? (pan s).key = some (pan s) ∧ s.sys.launchOf (pan s) = some (lau s) ∧ startReady s.sys (pan s) = true) := by
  decide +kernel

theorem witness_PlacementAndStart_choice :
    (unplaced idle).firstWant 0 = some (.next (lau (unplaced idle))) ∧ (unplaced idle).sys.part? 0 = some (prt (unplaced idle)) ∧
    (∀ l ∈ pressed.sys.launches, l.cls ≤ 7 ∧ l.order < 2 ^ 128) ∧ (∀ y ∈ pressed.sys.yokes, y.yid < 2 ^ 32 ∧ y.order < 2 ^ 128) ∧
    ((pressed.firstWant 0).any fun w => w.launch.cls == 7 && w.unstarted) = true ∧
    (let p := prt (unplaced idle); let x := (lau (unplaced idle)).shape;
      findCluster (unplaced idle).sys p (lau (unplaced idle)).units [x] = some [0] ∧ (∀ k ∈ p.clusters, k.1 < 72) ∧
      deal [⟨5, 1, ⟨0, 0, 0, 0⟩⟩, ⟨6, 0, ⟨0, 0, 0, 0⟩⟩] [x] = some [6]) := by decide +kernel

/-! ## Panels and waits -/

/-- A pinned declaration of 128 bytes, whose page the launch's extents hold. -/
def small : List Word := [0, 0, 128, 0, 0xC7820005, 0x00010000, 0, 0]
def withSmall (s : State) : State :=
  onPanel (fun p => { p with extents := [pageZero] }) (onLaunch (fun l => { l with decls := [small], extents := [pageZero] }) s)

theorem extended_small : (withSmall idle).Extended 0 0 small := by
  unfold State.Extended
  decide +kernel

theorem witness_PanelsSwitchAndEnd :
    (let s := onPanel (fun p => { p with phase := .stopping }) idle;
      s.sys.panel? (pan s).key = some (pan s) ∧ s.sys.launchOf (pan s) = some (lau s) ∧ switchReady s.sys (pan s) (lau s) = true ∧
      s.sys.reqs = []) ∧
    (let s := onPanel (fun p => { p with phase := .out }) idle;
      s.sys.part? (lau s).part = some (prt s) ∧ resumeReady s.sys (pan s) = true ∧ (lau s).pinnedSlots = [] ∧ (lau s).deferred = [] ∧
      (lau s).travelling = false) ∧
    (let s := onPanel (fun p => { p with ahead := some ⟨[0], [thr idle], [], 1, [], [], true⟩ }) idle;
      (pan s).ahead.isSome = true ∧ aheadOver s.sys (pan s) = true) ∧
    (let s := onThread (fun t => { t with phase := .exited }) idle; retireReady s.sys (pan s) (lau s) = true) ∧
    (let s := edit (fun y => { y with panels := [], yokes := [], threads := [] }) idle;
      s.sys.launch? (lau s).key = some (lau s) ∧ launchOver s.sys (lau s) = true ∧ (lau s).Silent ∧ (lau s).ending = none) ∧
    (let e : Late := ⟨tTACKST, 64, 0, none, 0, 0, true, true⟩; let s := onThread (fun t => { t with late := [e] }) idle;
      s.sys.thread? (thr s).panel (thr s).tid = some (thr s) ∧ s.sys.homeOf (thr s) = some (pan s, lau s) ∧
      lateDue s.sys (thr s) (pan s) (lau s) = some e ∧ supervisorCode e.code = false ∧ (thr s).CanTrap (lau s)) ∧
    (let s := onYoke (fun y => { y with overflow := true }) (onLaunch (fun l => { l with overflow := .live 0 0 })
        (onThread (fun t => { t with phase := .exited }) idle)); replayReady s.sys (lau s) = true ∧ (lau s).deferred = []) := by
  decide +kernel

theorem witness_PanelsSwitchAndEnd_resume :
    (let s := onPanel (fun p => { p with phase := .out }) idle;
      s.sys.panel? (pan s).key = some (pan s) ∧ s.sys.launchOf (pan s) = some (lau s) ∧
      s.sys.part? (lau s).part = some (prt s) ∧ resumeReady s.sys (pan s) = true ∧ (lau s).pinnedSlots = [] ∧ (lau s).deferred = [] ∧
      s.resumeFits (pan s) = true ∧ s.sys.imagesSpoiled (pan s) (lau s) = false ∧ (lau s).travelling = false) := by decide +kernel

/-- A panel that is out, in a launch whose pinned page no table maps. -/
def resumeWorld : State := walkWorld (onPanel (fun p => { p with phase := .out }) idle)

theorem witness_PanelsSwitchAndEnd_unmapped :
    (let s := onLaunch (fun l => { l with phase := .live }) resumeWorld;
      s.sys.panel? (pan s).key = some (pan s) ∧ s.sys.launchOf (pan s) = some (lau s) ∧
      s.sys.part? (lau s).part = some (prt s) ∧ resumeReady s.sys (pan s) = true ∧ s.sys.imagesSpoiled (pan s) (lau s) = false ∧
      (lau s).travelling = false) ∧
    (∃ u, (Tx.start (onLaunch (fun l => { l with phase := .live }) resumeWorld)).pinAll (prt resumeWorld)
        (lau (onLaunch (fun l => { l with phase := .live }) resumeWorld)) =
      (.error (0, 65536), u) ∧ pinVerdict (.error (0, 65536)) = .error (0, 65536) ∧ u.halt = none ∧ (u.sys.part? 0).isSome = true) :=
  ⟨by decide +kernel, _, pinAll_of_one (k := 0) (by decide +kernel) (pinSlot_fails (va := 65536) (by decide +kernel) (by decide +kernel)),
    rfl, by decide +kernel, by decide +kernel⟩

theorem witness_PanelsSwitchAndEnd_ring :
    (let s := onPart (fun q => { q with ring := small, faults := [⟨List.replicate 16 0⟩] }) (withSmall idle);
      s.sys.part? 0 = some (prt s) ∧ (prt s).faults = [⟨List.replicate 16 0⟩] ∧ ringReady s (prt s) = true ∧
      s.Extended 0 0 (prt s).ring ∧ 64 ≤ Decl.len (prt s).ring) := by
  unfold State.Extended
  decide +kernel

/-- A 32-bit word at the start of the first buffer. -/
def word0 (bin : Bool) : Access := ⟨0, 0, 4, .home 0x20000 5 1 0 false, false, bin⟩

def waits (x : Pend) : State := onThread (fun t => { t with pend := some x }) (withBuffer idle)

/-- The thread and its home, and nothing late. -/
def homed (s : State) : Bool :=
  decide (s.sys.thread? (thr s).panel (thr s).tid = some (thr s) ∧ s.sys.homeOf (thr s) = some (pan s, lau s)) && (lateDue s.sys (thr s) (pan s) (lau s)).isNone

theorem witness_WaitsEnd_held :
    (let s := waits (.acq (word0 false) [4, 5] 0); homed s = true ∧ acqReady s (thr s) (pan s) (lau s) (word0 false) 0 = true ∧ s.sys.poisoned 0x20000 = false) ∧
    (let s := waits (.wait (word0 false) [4] 1 5 none); homed s = true ∧ waitReady s (thr s) (pan s) (lau s) (word0 false) 1 5 = true ∧ s.sys.poisoned 0x20000 = false) ∧
    (let s := waits (.fence 0 0x3F); homed s = true ∧ releaseReady s.sys (thr s) (pan s) (lau s) (.fence 0 0x3F) = true) ∧
    (let x : Pend := .rel (word0 false) 0x3F [] 70; let s := waits x;
      homed s = true ∧ releaseReady s.sys (thr s) (pan s) (lau s) x = true ∧ (word0 false).target.isHome = true ∧ (word0 false).target.spoiled s.sys = false ∧
      (Tx.start s).tackLive (word0 false).loc = false) ∧
    (let x : Pend := .tkarr (.scr (pan idle).key 64) 0; let s := waits x; homed s = true ∧ releaseReady s.sys (thr s) (pan s) (lau s) x = true) ∧
    (let s := waits (.inval 0 [0, 0, 0, 0] 0); homed s = true ∧ invalReady s.sys (pan s) (lau s) (thr s) 0 [0, 0, 0, 0] 0 = true ∧
      s.sys.part? (lau s).part = some (prt s)) ∧
    (let s := waits (.ildom 0 0); homed s = true ∧ (pan s).lets (thr s).tid = true) ∧
    (let s := waits (.free 3); homed s = true ∧ s.sys.yokeOf (pan s) = some (yok s) ∧ freeReady s.sys (thr s) (pan s) (yok s) 3 = true ∧
      s.sys.threads = [thr s]) := by decide +kernel

/-- One outstanding operation of the thread. -/
def theOp (k : OpKind) (a : Option Access) : Op := ⟨70, k, a, [6, 7], none, 0, none⟩
def withOne (k : OpKind) (a : Option Access) (s : State) : State := onThread (fun t => { t with ops := [theOp k a] }) s

theorem witness_WaitsEnd_operations :
    (let k : OpKind := .tkwait (.scr (pan idle).key 64) true;
      let s := onPanel (fun p => { p with stags := [8] }) (withOne k none idle);
      homed s = true ∧ (thr s).ops.find? (fun x => x.id == 70) = some (theOp k none) ∧ (pan s).phase ≠ .out ∧
      s.sys.panel? (pan idle).key = some (pan s) ∧ wordIx 64 ∈ (pan s).stags ∧ (Mem.getNat (pan s).scratch 64 8).testBit 63 ≠ true) ∧
    (let k : OpKind := .bbawait theBobbin; let s := withOne k none (withBobbin true 4 1 1 0 0 idle);
      homed s = true ∧ (thr s).ops.find? (fun x => x.id == 70) = some (theOp k none) ∧ (pan s).phase ≠ .out ∧
      s.sys.poisoned 0x20000 = false ∧ s.sys.tagged (wordIx 0x20000) = true ∧ bbawaitReady s (lau s) (dieOf (thr s).core) theBobbin 70 = true) := by decide +kernel

theorem witness_WaitsEnd_walks :
    (let w : Walk := ⟨70, 0, 0, (pan idle).key, 0, 65536, 1, false, none, none⟩;
      let s := edit (fun y => { y with walks := [w] }) (withTable idle);
      homed s = true ∧ s.sys.walks.find? (fun x => x.key == 70 && s.sys.walking x) = some w ∧ s.sys.part? w.part = some (prt s) ∧
      (match walk s (prt s) w.va with | .ok _ leaf => Leaf.grants leaf w.right | _ => false) = true) ∧
    (let w : Walk := ⟨70, 0, 0, (pan idle).key, 0, 0, 1, false, none, none⟩;
      let s := edit (fun y => { y with walks := [w] }) idle;
      s.sys.walks.find? (fun x => x.key == 70 && s.sys.walking x) = some w ∧ walk s (prt s) w.va = .bad) := by decide +kernel

/-- A bin's cursor: 65,536 bytes of bin, so that 64 more fit and 65,537 do not. -/
def appends (x : DWord) : State := withOne (.atom .add x) (some (word0 true)) (withBuffer idle)

theorem witness_WaitsEnd_appends :
    (homed (appends 64) = true ∧ (thr (appends 64)).ops.find? (fun x => x.id == 70) = some (theOp (.atom .add 64) (some (word0 true))) ∧
      appendReady (appends 64).sys (thr (appends 64)) (pan (appends 64)) (lau (appends 64)) (theOp (.atom .add 64) (some (word0 true))) = true ∧
      (appends 64).sys.poisoned 0x20000 = false ∧ (word0 true).liveTack (appends 64).sys = none ∧
      (((appends 64).sys.core (thr (appends 64)).core).l1Line (lineOf 0x20000)).isNone = true ∧
      (appends 64).homeNat 0x20000 4 5 + 64 ≤ (lau (appends 64)).binLength (word0 true)) ∧
    (let s := appends 65537;
      appendReady s.sys (thr s) (pan s) (lau s) (theOp (.atom .add 65537) (some (word0 true))) = true ∧
      (lau s).binLength (word0 true) < s.homeNat 0x20000 4 5 + 65537 ∧ (s.sys.yokeOf (pan s)).any (·.overflow) = false ∧
      s.sys.launch? (lau s).key = some (lau s) ∧ (lau s).deferred = []) := by decide +kernel

/-! ## Engines -/

/-- 128 bytes of `small` to scratchpad address 128. -/
def copySmall : State := withSmall (withDesc [0, 0, 0x80, 0, 0, 0, 0x04100000, 8, 0, 0, 0, 0, 0, 0, 0, 0] idle)
def withCmd (c : Cmd) (s : State) : State := edit (fun y => { y with cmds := [c] }) s

/-- The command of `copySmall`, and those of an empty box and of a bobbin's slot in `small`. -/
def theCmd : Cmd := cmdOf copySmall 0 false
def emptyCmd : Cmd := cmdOf (withDesc [0, 0, 0x80, 0, 0, 0, 0x00100000, 0, 0, 0, 0, 0, 0, 0, 0, 0] idle) 0 false
def slotCmd : Cmd := { cmdOf (withDesc [0, 0, 0, 0, 0, 0, 0x04300000, 8, 0, 0, 0, 0, 0, 0, 0, 0] idle) 0 false with started := true }

/-- The command's launch, with no tack. -/
def commanded (s : State) (c : Cmd) : Bool :=
  decide (s.sys.cmd? c.key = some c ∧ s.sys.launch? c.launch = some (lau s)) && c.tacks.isEmpty

theorem witness_CopyAndMatrixEvents_start :
    (let s := withCmd theCmd copySmall; commanded s theCmd = true ∧ cmdStartReady s.sys theCmd = true ∧ theCmd.total = 128) ∧
    (let s := withCmd emptyCmd copySmall; commanded s emptyCmd = true ∧ cmdStartReady s.sys emptyCmd = true ∧ emptyCmd.total = 0 ∧
      emptyCmd.slot = none) ∧
    (let s := withCmd slotCmd (withSmall (withBobbin true 4 1 1 1 0 idle)); commanded s slotCmd = true ∧ slotClaimReady s slotCmd = true ∧
      claimable s (lau s) slotCmd = some 1 ∧ s.Extended (lau s).part slotCmd.panel ((lau s).decl (handleSlot slotCmd.denseAddr)) ∧
      handleOff slotCmd.denseAddr < Decl.len ((lau s).decl (handleSlot slotCmd.denseAddr))) := by
  unfold State.Extended
  decide +kernel

theorem witness_CopyAndMatrixEvents_delivery :
    (let c := { theCmd with started := true }; let s := withCmd c copySmall;
      commanded s c = true ∧ deliveryReady s c = true ∧ c.op = 0 ∧ c.dense = 1 ∧ s.Extended (lau s).part c.panel ((lau s).decl c.memSlot) ∧
      s.sys.poisonLines = [] ∧ c.delivered % c.elem = 0 ∧ c.memEnd ≤ Decl.len ((lau s).decl c.memSlot)) ∧
    (let c := { theCmd with started := true, delivered := 128 }; let s := withCmd c copySmall;
      commanded s c = true ∧ cmdDoneReady s.sys c = true ∧ c.slot = none) ∧
    (let c := { theCmd with started := true };
      let s := withCmd c (onLaunch (fun l => { l with decls := [[0, 0, 128, 0, 0x87820005, 0x00010000, 0, 0]] }) copySmall);
      commanded s c = true ∧ (c.scoutFault s (lau s)).isSome = true ∧ scoutReady s c = true ∧ s.sys.part? (lau s).part = some (prt s)) := by
  unfold State.Extended
  decide +kernel

theorem witness_CopyAndMatrixEvents_requests :
    (let r : Req := { Req.blank .tzero with
        key := 70, launch := (lau idle).key, yoke := (yok idle).key, panel := (pan idle).key, x := 0x810600, xn := 2 };
      let s := edit (fun y => { y with reqs := [r] }) (passTiles idle);
      s.sys.req? 70 = some r ∧ s.sys.yoke? r.yoke = some (yok s) ∧ grantReady s.sys r = true ∧
      (let g := { r with granted := true }; let u := edit (fun y => { y with reqs := [g] }) (passTiles idle);
        u.sys.req? 70 = some g ∧ reqReady u.sys g = true ∧ g.tack = none)) := by decide +kernel

/-- A parcel of the travelling launch, or a message to its panel. -/
def parcel (message : Bool) (x : ParcelPhase) : Parcel :=
  ⟨70, (lau idle).key, [1, if message then 0x02000000 else 0x01000002, 1, 0, 0, 0, 0, 1], [11, 22], x,
    if message then some (pan idle).key else none, 0, ((pan idle).key, 0)⟩
def withParcel (message : Bool) (x : ParcelPhase) (s : State) : State := edit (fun y => { y with parcels := [parcel message x] }) s

theorem witness_TravelEvents_travel :
    (let s := onThread (fun t => { t with phase := .departing 1 0 [] 0 0 false }) travelWorld;
      s.sys.thread? (thr s).panel (thr s).tid = some (thr s) ∧ s.sys.homeOf (thr s) = some (pan s, lau s) ∧
      departReady s.sys (thr s) (pan s) = true ∧ (lau s).out = false ∧
      ((s.sys.objectOf (lau s)).bind (·.marker)).any (fun m => decide (255 ≥ (m.pieceAt 1).getD 0 ∧
        (lau s).holders.getD ((m.pieceAt 1).getD 0) [] ≠ [])) = true) ∧
    (let q := parcel false (.net 0); let s := withParcel false (.net 0) travelWorld;
      s.sys.parcel? q.key = some q ∧ s.sys.launch? q.launch = some (lau s) ∧ q.isMessage = false ∧ s.sys.delivers q = true ∧ s.sys.spoolUse 0 < 256 ∧
      s.sys.spilledAt 0 = false) ∧
    (let q := parcel false (.spool 0); let s := withParcel false (.spool 0) (onThread (fun t => { t with phase := .flying }) travelWorld);
      s.sys.oldestTravel 0 = some q ∧ s.sys.thread? q.src.1 q.src.2 = some (thr s) ∧ s.sys.panel? q.src.1 = some (pan s) ∧
      ((s.sys.objectOf (lau s)).bind (·.marker)).isSome = true ∧ roomFor s.sys 0 (lau s) = true ∧ (lau s).out = false) ∧
    (let s := withParcel false (.spilled 0) travelWorld; s.sys.oldestSpilled 0 = some (parcel false (.spilled 0)) ∧ s.sys.spoolUse 0 < 256) ∧
    (let q := parcel false .waiting; let s := withParcel false .waiting travelWorld;
      s.sys.launch? (lau s).key = some (lau s) ∧ s.sys.pinnedParcels (lau s) = [q] ∧ q.isMessage = false ∧
      (lau s).holders.getD (bits (wnat (s.unspill (lau s) q).header 5) 24 8) [] ≠ []) := by decide +kernel

theorem witness_TravelEvents_messages :
    (let q := parcel true (.net 0); let s := withParcel true (.net 0) idle;
      s.sys.parcel? q.key = some q ∧ messageReady s.sys q = true) ∧
    (let q := parcel true (.spool 0); let s := withParcel true (.spool 0) idle;
      s.sys.oldestMessage 0 = some q ∧ s.sys.launch? q.launch = some (lau s) ∧ handlerReady s.sys 0 q = true) := by decide +kernel

/-- A query of stack 0 over the shelf of one head, its 320 bytes of result in 512 pinned ones. -/
def results : List Word := [0, 0, 512, 0, 0xC7820005, 0x00010000, 0, 0]
def theQuery (unposted : List Nat) (posted : List (Nat × List Host.Cell)) : Query :=
  ⟨70, (lau idle).key, (pan idle).key, 0, 0, 0, [0, 0, 0, 0, 0, 0, 0, 0, 0, 16, 0, 0, 0, 0, 0, 0], [], shelf, results, unposted, posted, [], none⟩
def withQuery (q : Query) (s : State) : State :=
  edit (fun y => { y with queries := [q] }) (onPanel (fun p => { p with extents := [pageZero] }) (onLaunch (fun l => { l with decls := [results], extents := [pageZero] }) s))

/-- A sweep of one item into a bobbin of this package or of a peer. -/
def theSweep (bobbin : List Word) (posted : Bool) (left : List Nat) (last : Option Nat) : Sweep :=
  ⟨70, (lau idle).key, (pan idle).key, 0, 0, 0, List.replicate 16 0, [List.replicate 8 0], [0, 0, 128, 0, 0xE7820005, 0x00010000, 0, 1],
    bobbin, posted, [], left, [], last, false, false, none⟩
def withSweep (q : Sweep) (s : State) : State := edit (fun y => { y with sweeps := [q] }) s

theorem witness_StackEvents_queries :
    (let q := theQuery [0] []; let s := withQuery q idle;
      s.sys.query? q.key = some q ∧ q.postReady s.sys 0 = true) ∧
    (let q := theQuery [] [(0, [])]; let s := withQuery q idle;
      s.sys.query? q.key = some q ∧ s.sys.launch? q.launch = some (lau s) ∧ q.posted.find? (fun e => e.1 == 0) = some (0, []) ∧
      q.resultReady s.sys 0 = true ∧ q.tack = none ∧ s.Extended q.part q.panel q.result ∧
      handleOff (dnat q.desc 2) + (stackIndex q.shelf 0 + 1) * resultStride (Decl.dim q.shelf) ≤ Decl.len q.result) := by
  unfold State.Extended
  decide +kernel

theorem walk_is_picked (s : State) (q : Sweep) (i : Nat) (h : (!q.posted || !s.sys.queryLives q.panel) = false)
    (hb : ((Tx.start s).sweepBobbin q).1 = .away) (hl : q.lastSlot = none) (hi : q.left = [i]) : q.move s = some (.walk i) := by
  unfold Sweep.move
  simp [h, hb, hl, hi, pickItem]

theorem witness_StackEvents_sweeps :
    (let q := theSweep buffer false [0] none; let s := withSweep q idle;
      s.sys.query? q.key = none ∧ s.sys.sweep? q.key = some q ∧ q.postReady s.sys q.stack = true) ∧
    (let q := theSweep peerBuffer true [0] none; let s := withSweep q idle;
      s.sys.sweep? q.key = some q ∧ s.sys.launch? q.launch = some (lau s) ∧ (s.sys.stack q.stack).errors = []) ∧
    (theSweep peerBuffer true [0] none).move (withSweep (theSweep peerBuffer true [0] none) idle) = some (.walk 0) ∧
    (let q := theSweep buffer true [] (some 0); let s := withSweep q (withBobbin true 4 1 1 0 0 idle);
      s.sys.sweep? q.key = some q ∧ s.sys.launch? q.launch = some (lau s) ∧ q.move s = some .done ∧ q.tack = none) :=
  ⟨by decide +kernel, by decide +kernel, walk_is_picked _ _ 0 (by decide +kernel) (by decide +kernel) rfl rfl, by decide +kernel⟩

theorem witness_StackEvents_rows :
    (let x : Stack := { Stack.reset with deferred := [(3, 5, 0)], errors := [(0, 1, 0, true), (0, 2, 15, false)] };
      let s := edit (fun y => { y with dies := [⟨2 ^ 40, [], 0, []⟩, Die.reset], stks := y.stks.set 0 x }) idle;
      s.sys.scanning 0 = false ∧ (3, 5, 0) ∈ (s.sys.stack 0).deferred ∧
      0 + slackCycles ((s.sys.stack 0).classAt 3 5) ≤ (s.sys.die (0 / 8)).cyc ∧ (s.sys.stack 0).errorAt 1023 49151 = none ∧
      (s.sys.stack 0).errorAt 0 1 = some true ∧ (s.sys.stack 0).errorAt 0 2 = some false ∧ 0 < s.sys.stks.length) := by decide +kernel

/-- A device that the registration of the domain names. -/
def peerWorld : State := edit (fun y => { y with domains := [⟨1, [⟨5, 0x20000, 0⟩]⟩] }) (withSmall idle)

/-- The core of the boot thread holds a line, clean or dirty in its first byte, that no launch owns. -/
def lineWorld (dirty : BitVec 128) : State :=
  let c := (thr idle).core
  edit (fun y => (y.setCore { y.core c with l1 := [⟨2 ^ 33, 5, 0, dirty, 0, false, false, 1, 0⟩] })) idle

/-- Also the witness of what LinkBridgeAndHeatEvents says of accesses, errors and reset. -/
theorem witness_OutsideAccessesAndReset :
    (let s := withTable idle; s.sys.part? 9 = none ∧ s.sys.part? 0 = some (prt s) ∧
      (let r := (Tx.start s).windowSpans 0 rRd (linePieces 65530 200);
        r.2.halt.isNone && r.1.length == 3 && r.1.any fun x => x.1.isNone) = true ∧
      (let r := (Tx.start s).windowSpans 0 rRd (linePieces 65600 200);
        r.2.halt.isNone && r.1.length == 3 && r.1.all fun x => x.1.any fun a => !r.2.sys.poisoned a.1) = true ∧
      (let r := (Tx.start s).windowSpans 0 rW (linePieces 65600 200);
        r.2.halt.isNone && r.1.all fun x => x.1.any fun a => (r.2.sys.liveIn a.1 x.2.2).isNone) = true) ∧
    (let s := peerWorld; let r : PeerRequest := ⟨1, 5, 0, small, 0, .load 128⟩;
      s.sys.knowsPeer { r with device := 6 } = false ∧ s.sys.knowsPeer r = true ∧ s.sys.part? r.part = some (prt s) ∧
      (let e := (Tx.start s).engineAddr r.part 0 288 r.decl r.offset rRd;
        e.1 = some (0x20000, 5, 1, 0) ∧ e.2.halt = none ∧ e.2.sys.poisoned 0x20000 = false ∧ e.2.sys.liveIn 0x20000 4 = none) ∧
      (prt s).owns (stackOf 0x20000) = true ∧ peerNeeds r.op = (128, rRd) ∧ peerNeeds (.atomic 0x92 1) = (4, rA) ∧
      (atomOf 0x92).isSome = true ∧
      ((Tx.start s).engineAddr r.part 0 288 (List.replicate 8 0) 0 rW).1.isNone = true ∧
      (prt (onPart (fun q => { q with stackMask := 2 }) s)).owns (stackOf 0x20000) = false) ∧
    idle.sys.panel? (pan idle).key = some (pan idle) ∧ idle.sys.panel? 0 = none ∧ (lau idle).Silent ∧ (lau idle).ending = none ∧
    idle.sys.cmds = [] ∧ idle.sys.reqs = [] ∧ (∀ l ∈ idle.sys.launches, l.Silent ∧ l.ending = none) ∧
    (let c := (thr idle).core; ((lineWorld 0).sys.core c).l1Line (2 ^ 33) ≠ none ∧
      (((lineWorld 1).sys.core c).l1Line (2 ^ 33)).any (fun x => x.dirty != 0) = true ∧ (lineWorld 1).sys.ownersOf c (2 ^ 33) = []) ∧
    0 < idle.sys.stks.length := by
  decide +kernel

/-- Two ranges of one record each: a write beside a live tack and one on another page. -/
theorem witness_OutsideAccessesAndReset_written :
    (let s := withTable idle; let r := (Tx.start s).windowSpans 0 rW (linePieces 65600 200);
      Mem.wf s.mem = true ∧ Mem.wf s.hostMem = true ∧
      (r.1.map fun x => (x.1.map fun a => lineOf a.1)) = [some 8192, some 8193, some 8194] ∧
      r.1.all (fun x => x.1.any fun a => a.1 % 128 + x.2.2 ≤ 128 && (r.2.sys.liveIn a.1 x.2.2).isNone) = true) ∧
    (let s := peerWorld; let r : PeerRequest := ⟨1, 5, 0, small, 0, .store [1, 2, 3, 4]⟩;
      let e := (Tx.start s).engineAddr r.part 0 288 r.decl r.offset rW;
      peerNeeds r.op = (4, rW) ∧ e.1 = some (0x20000, 5, 1, 0) ∧ 0x20000 % 128 + 4 ≤ 128 ∧ e.2.sys.l2.length < l2Lines ∧
      Mem.wf s.mem = true ∧ Mem.wf s.hostMem = true) := by
  decide +kernel

/-- R263: the host's bytes are at their page's frame; R272: a peer's add leaves the sum and answers the old word. -/
theorem test_outside_writes :
    (match exec (.hostMemAccess 0 65600 (.write [1, 2, 3])) (withTable idle) with
      | .next u => u.homeBytes (0x100000 + 63) 5 1
      | _ => []) = [0, 1, 2, 3, 0] ∧
    (match exec (.peerRequest ⟨1, 5, 0, small, 0, .atomic 0x92 7⟩) (⟨Mem.putBytes peerWorld.mem 0x20000 [5], peerWorld.hostMem, peerWorld.sys⟩ : State) with
      | .next u => (u.homeNat 0x20000 4 5, u.sys.notices)
      | _ => (0, [])) = (12, [.peerAnswer 5 (some [5, 0, 0, 0])]) := by decide +kernel

/-! ## A few events, with results worked out from the rules -/

/-- The mailbox of function 1 may not create (R459); QSET binds queue 9 with 2^4 entries (R457). -/
theorem test_mailbox :
    (match exec (.destroy 1 0) mailWorld with | .next s => s.sys.replies | _ => []) = [⟨1, 1, []⟩] ∧
    (match exec (.qset 0 9 0 64 4) mailWorld with | .next s => s.sys.queues.map (·.num) | _ => []) = [4095, 9] := by decide +kernel

/-- A doorbell tail of 16 entries is taken, one of 17 is not (R457). -/
theorem test_doorbell :
    (match exec (.hostQueueDoorbell 4095 16 []) mailWorld with | .next s => s.sys.queues.map (·.tail) | _ => []) = [16] ∧
    (match exec (.hostQueueDoorbell 4095 17 []) mailWorld with | .next s => s.sys.queues.map (·.tail) | _ => []) = [0] := by
  decide +kernel

/-- The granted `TZERO` of a stale region leaves zeros (R330); its request is gone. -/
theorem test_tzero_completes :
    (let g : Req := { Req.blank .tzero with
        key := 70, launch := (lau idle).key, yoke := (yok idle).key, panel := (pan idle).key, x := 0x810600, xn := 2, granted := true };
      let s := edit (fun y => { y with reqs := [g] }) (onYoke (fun y => { y with region := Mem.putBytes [] 16384 [1, 2, 3, 4] }) (passTiles idle));
      match exec (.matrixRequestComplete 70) s with | .next u => (u.sys.reqs.length, (yok u).region) | _ => (9, [])) = (0, []) := by
  decide +kernel

/-- An append that fits writes the old count to its register and adds (R340). -/
theorem test_append :
    (match exec (.binningAppend (pan idle).key 0 70) (appends 64) with
      | .next s => ((thr s).getV 6, s.homeNat 0x20000 4 5, (thr s).ops.length)
      | _ => (9, 9, 9)) = (0, 64, 0) := by decide +kernel

/-- A parcel becomes its thread again at the entry point that carries v8 and v9 (R82, R376). -/
theorem test_parcel_to_thread :
    (match exec (.spoolParcelToThread 0) (withParcel false (.spool 0) (onThread (fun t => { t with phase := .flying }) travelWorld)) with
      | .next s => (decide ((thr s).phase = .ready), (thr s).pc, (thr s).getV 8, (thr s).getV 9, (thr s).travels)
      | _ => (false, 0, 0, 0, 0)) = (true, 1, 11, 22, 1) := by decide +kernel

/-- The throttle moves the limit by 16 and not below 16 (R408). -/
theorem test_throttle :
    (match exec (.stackThrottle 0 true) idle with | .next s => (s.sys.stack 0).limit | _ => 0) = 176 ∧
    (match exec (.stackThrottle 0 false) idle with | .next s => (s.sys.stack 0).limit | _ => 0) = 192 := by decide +kernel

/-- Power-on reset with good firmware (R473): the package answers, and no partition is there. -/
theorem test_power_on :
    (match exec (.powerOnReset ⟨true, [], [], []⟩) idle with | .next s => (s.sys.booted, s.sys.parts.length, s.sys.threads.length) | _ => (false, 9, 9))
      = (true, 0, 0) := by decide +kernel

/-- Firmware that fails its check (R473): the fuses are not read, and nothing answers. -/
theorem test_bad_firmware :
    (match exec (.powerOnReset ⟨false, [7], [], []⟩) idle with | .next s => (s.sys.booted, s.sys.harv == State.reset.sys.harv) | _ => (true, false)) = (false, true) := by
  decide +kernel

/-- A range of length 0 meets no page (R451). -/
theorem test_empty_range : pageIn 100 0 0 = false ∧ pageIn 65535 2 1 = true ∧ pageIn 65536 1 0 = false := by decide

/-- A comparator with the repeat match 1 on the first word of a group stops its target before repeat 1 only (R445). -/
theorem test_comparator_between_repeats :
    (let t : Thread := { Thread.newborn 0 0 5 0 30 0 with hints := { Hints.empty with rep := some ⟨3, 0, 0, 0⟩, first := some 4 } }
     let c : Comparator := ⟨(lau idle).id, 4, some 1⟩
     (c.hits (lau idle) t, c.hits (lau idle) { t with repidx := 1 }, c.hits (lau idle) { t with repidx := 2 })) = (false, true, false) := by
  decide

end Sys2Proof.Tests
end

/-! ## What a step can end in

Every arm of `exec` ends a step under way (`Tx`), and a `Tx` writes the byte stores only through writes that keep their form,
never refuses, and stops for one reason. So one look at the arms settles what all of them keep. -/

namespace Sys2Proof.Machine

variable {s0 : State}

/-- The outcome is the end of a step under way that began in `s`. -/
def EndsTx (s : State) (o : Host.Outcome State Fault Refusal) : Prop := ∃ tx : Tx s, o = tx.done

@[simp] theorem EndsTx.done {s : State} (tx : Tx s) : EndsTx s tx.done := ⟨tx, rfl⟩

/-- A step that does nothing. -/
@[simp] theorem EndsTx.stays (s : State) : EndsTx s (.next s) := ⟨Tx.start s, rfl⟩

/-- An event happens, or leaves the state as it is. -/
@[simp] theorem EndsTx.event (s : State) (isDue : Bool) (f : Tx s → Tx s) : EndsTx s (eventStep s isDue f) := by
  unfold eventStep
  split
  · exact .done _
  · exact .stays s

theorem EndsTx.not_refused {s : State} {o : Host.Outcome State Fault Refusal} (h : EndsTx s o) (r : Refusal) :
    o ≠ .refused r := by
  obtain ⟨tx, rfl⟩ := h
  exact tx.done_not_refused r

theorem EndsTx.memOk {s t : State} {o : Host.Outcome State Fault Refusal} (h : EndsTx s o) (ho : o = .next t) (ok : s.memOk) :
    t.memOk := by
  obtain ⟨tx, rfl⟩ := h
  exact Tx.done_memOk ho ok

/-! ### The shared shapes that look at the stitch or at the mailbox first -/

theorem collective_ends (i : Instr) (m : BitVec 8) (ok : Hints → Bool) (f : List Half → (Half → Member → Nat) × BitVec 5)
    (s : State) : EndsTx s (collective i m ok f s) := by
  unfold collective
  extract_lets tx
  split
  · exact .done _
  · extract_lets fm all live half
    split
    · exact .done _
    · split
      · exact .done _
      · split <;> exact .done _

theorem tileWord_ends (i : Instr) (ok : Hints → Panel → Bool)
    (go : (s : State) → Tx s → Thread → Panel → Launch → Yoke → List Thread → Tx s) (s : State) :
    EndsTx s (tileWord i ok go s) := by
  unfold tileWord
  extract_lets tx
  split <;> exact .done _

theorem mailbox_ends (s : State) (fn : Nat) (vf : Bool) (part : Nat) (run : Nat → Tx s → Nat × List Word × Tx s) :
    EndsTx s (mailbox s fn vf part run) := by
  unfold mailbox
  split
  · exact .stays s
  · split <;> exact .done _

theorem execSignatureCheck_ends (launch : Nat) (s : State) : EndsTx s (execSignatureCheck launch s) := by
  unfold execSignatureCheck
  split
  · exact .stays s
  · split
    · exact .event s _ _
    · exact .stays s

theorem execPageWalkComplete_ends (k : Nat) (s : State) : EndsTx s (execPageWalkComplete k s) := by
  unfold execPageWalkComplete
  split
  · exact .stays s
  · extract_lets drop found
    split
    · exact .done _
    · exact .done _
    · exact .done _
    · exact .done _
    · split <;> exact .done _

/-! ### The instructions and the events -/

/-- Whatever the row, its meaning is the end of a step under way. -/
theorem exec_ends (i : Instr) (s : State) : EndsTx s (exec i s) := by
  cases i
  case shfl | shflx | bcst | vote | ballot | raddS32 | raddF32 | rminN32 | rmaxN32 | rminF32 | rmaxF32 | rminxN32 | scanS32
      | matchLanes | laneid =>
    dsimp -zeta only [exec, execShfl, execShflx, execBcst, execVote, execBallot, execRaddS32, execRaddF32, execRminN32,
      execRmaxN32, execRminF32, execRmaxF32, execRminxN32, execScanS32, execMatchLanes, execLaneid]
    exact collective_ends _ _ _ _ s
  case resv | free | tset | tld | tst | tzero | mma | mmag | rast | mpost | mpre | tcvt | mqry =>
    dsimp -zeta only [exec, execResv, execFree, execTset, execTld, execTst, execTzero, execMma, execMmag, execRast, execMpost,
      execMpre, execTcvt, execMqry]
    exact tileWord_ends _ _ _ s
  case create | destroy | super | qset | cancel | evict | domain | vlog | attest | resync =>
    dsimp -zeta only [exec, execCreate, execDestroy, execSuper, execQset, execCancel, execEvict, execDomain, execVlog,
      execAttest, execResync]
    exact mailbox_ends s _ _ _ _
  case yokePlacement | bridgeRetrainTimeout | zidorLinkDownTimeout | bridgeRetrainStart | zidorLinkDown | refreshSlackExpiry =>
    dsimp -zeta only [exec, execYokePlacement, execBridgeRetrainTimeout, execZidorLinkDownTimeout, execBridgeRetrainStart,
      execZidorLinkDown, execRefreshSlackExpiry]
    exact .event s _ _
  -- an event that names a record: it may be gone, and nothing happens
  case runAheadEnd | interleaveSwitchEnd | launchArrival | extentWalk | gorluxTranslation | panelStart | panelSwitchOut
      | panelResume | memoryOpComplete | lateReport | binningAppend | deferredAppendReplay | copyCommandStart
      | bobbinSlotClaim | copyChunkDelivery | scoutFault | copyCommandComplete | tkwaitComplete | bbawaitComplete
      | acqSatisfied | waitDone | matrixGrant | matrixRequestComplete | freeRecordClear | travelDeparture | parcelArrival
      | spoolParcelToThread | overflowReadback | parcelSendOnPin | messageArrival | handlerPanelStart | queryPost
      | stackResultWrite | sweepResultWrite | faultRecordPost | panelRetire | launchRetire | hostMemAccess | peerRequest
      | releaseComplete | invalComplete =>
    dsimp -zeta only [exec, execRunAheadEnd, execInterleaveSwitchEnd, execLaunchArrival, execExtentWalk,
      execGorluxTranslation, execPanelStart, execPanelSwitchOut, execPanelResume, execMemoryOpComplete, execLateReport,
      execBinningAppend, execDeferredAppendReplay, execCopyCommandStart, execBobbinSlotClaim, execCopyChunkDelivery,
      execScoutFault, execCopyCommandComplete, execTkwaitComplete, execBbawaitComplete,
      execAcqSatisfied, execWaitDone, execMatrixGrant, execMatrixRequestComplete, execFreeRecordClear, execTravelDeparture,
      execParcelArrival, execSpoolParcelToThread, execOverflowReadback, execParcelSendOnPin, execMessageArrival,
      execHandlerPanelStart, execQueryPost, execStackResultWrite, execSweepResultWrite, execFaultRecordPost, execPanelRetire,
      execLaunchRetire, execHostMemAccess, execPeerRequest, execReleaseComplete, execInvalComplete]
    repeat' split
    all_goals simp only [EndsTx.done, EndsTx.stays, EndsTx.event]
  case signatureCheck => exact execSignatureCheck_ends _ s
  case pageWalkComplete => exact execPageWalkComplete_ends _ s
  -- an event of chance, which happens in any state
  case occupancyReport | rowRefresh | scrubRow | stackThrottle | flitCrcRetry | thermalThrottle | thermalThrottleEnd
      | powerOnReset =>
    dsimp -zeta only [exec, execOccupancyReport, execRowRefresh, execScrubRow, execStackThrottle, execFlitCrcRetry,
      execThermalThrottle, execThermalThrottleEnd, execPowerOnReset]
    exact .done _
  -- every other word, and what is left of the events, is written as the end of one `Tx`
  all_goals exact .done _

end Sys2Proof.Machine

/-! ## The moves of a step -/

namespace Sys2Proof.Machine

/-- The state in which a move is made. -/
def Move.state : Move → State
  | .agenda _ s | .event _ s | .word _ s | .whole s _ => s

theorem State.tick_memOk (s : State) : s.tick.memOk ↔ s.memOk := Iff.rfl
theorem State.turned_memOk (s : State) : s.turned.memOk ↔ s.memOk := Iff.rfl
theorem State.answerStray_memOk (s : State) : s.answerStray.memOk ↔ s.memOk := Iff.rfl

/-- Time passes only after a step that answers a next state. -/
theorem tickOutcome_eq_next {o : Host.Outcome State Fault Refusal} {t : State} (h : tickOutcome o = .next t) :
    ∃ u, o = .next u ∧ t = u.tick := by
  cases o with
  | next u => exact ⟨u, rfl, by injection h with h; exact h.symm⟩
  | fault f => cases h
  | refused r => cases h

theorem outcomeOf_eq_next {s t : State} {f : Option Fault} (h : outcomeOf s f = .next t) : t = s := by
  cases f with
  | none => injection h with h; exact h.symm
  | some f => cases h

theorem silentMove_memOk {s : State} {m : Move} (ok : s.memOk) (h : silentMove s = some m) : m.state.memOk := by
  obtain ⟨x, -, rfl⟩ := Option.map_eq_some_iff.mp h
  exact (x.run s).ok ok

theorem issueMove_memOk {s : State} {m : Move} (ok : s.memOk) (h : issueMove s = some m) : m.state.memOk := by
  obtain ⟨r, -, rfl⟩ := Option.map_eq_some_iff.mp h
  split
  · next tx _ => exact tx.ok ok
  · next tx _ => exact tx.ok ok

theorem eventMove_memOk {s : State} {m : Move} (ok : s.memOk) (h : eventMove s = some m) : m.state.memOk := by
  have event {m : Move} (h : (freePick s.sys.nonce (due s)).map (fun i => Move.event i s) = some m) : m.state.memOk := by
    obtain ⟨e, -, rfl⟩ := Option.map_eq_some_iff.mp h
    exact ok
  unfold eventMove at h
  extract_lets ev at h
  split at h
  · exact event h
  · next m' hm =>
    split at h
    · cases h
      split at hm
      · cases hm
      · exact silentMove_memOk ok hm
    · exact event h

theorem nextMove_memOk {s : State} (ok : s.memOk) : (nextMove s).state.memOk := by
  unfold nextMove
  split
  · exact ok
  · exact ok
  · split
    · exact ok
    · split
      · exact s.answerStray_memOk.mpr ok
      · extract_lets t
        have okt : t.memOk := s.turned_memOk.mpr ok
        split
        · cases he : eventMove t with
          | some m => exact eventMove_memOk okt he
          | none =>
            cases hi : issueMove t with
            | some m => exact issueMove_memOk okt hi
            | none => exact okt
        · split
          · next u hi => exact u.turned_memOk.mpr (issueMove_memOk ok hi)
          · next u f hi => exact u.turned_memOk.mpr (issueMove_memOk ok hi)
          · next u _ _ hi => exact issueMove_memOk ok hi
          · cases he : eventMove t with
            | some m => exact eventMove_memOk okt he
            | none => exact okt

theorem step_memOk {s t : State} (ok : s.memOk) (h : step s = .next t) : t.memOk := by
  have okm := nextMove_memOk ok
  unfold step at h
  split at h
  all_goals
    obtain ⟨u, hu, rfl⟩ := tickOutcome_eq_next h
    rw [State.tick_memOk]
  · next i x hm => rw [hm] at okm; exact (exec_ends i x).memOk hu okm
  · next e x hm =>
    rw [hm] at okm
    obtain ⟨i, hi⟩ := Event.run_is_exec e
    exact (exec_ends i x).memOk (hi x ▸ hu) okm
  · next i x hm => rw [hm] at okm; exact (exec_ends i x).memOk hu okm
  · next x f hm => rw [hm] at okm; rw [outcomeOf_eq_next hu]; exact okm

end Sys2Proof.Machine

namespace Sys2Proof

open Machine

/-- Settles O9: every arm of `exec` ends a `Tx`, and a `Tx` carries the fact that it keeps both byte stores' form. -/
theorem execKeepsSafe : Obligations.ExecKeepsSafe := by
  unfold Obligations.ExecKeepsSafe
  intro i s t safe h
  exact (exec_ends i s).memOk h safe

/-- Settles O8: the state in which the next move is made is safe, and so is what `exec`, or a step that is whole, makes of it. -/
theorem stepKeepsSafe : Obligations.StepKeepsSafe := by
  unfold Obligations.StepKeepsSafe
  intro s t safe h
  exact step_memOk safe h

end Sys2Proof

/-! ## Byte stores: what is read after a write (R4, R263) -/

namespace Sys2Proof.Machine.Mem

@[simp] theorem get_nil (x : Nat) : get [] x = 0 := rfl

/-- Below the first address of a store in canonical form, it reads 0. -/
theorem get_of_lt {x : Nat} : ∀ {lo : Nat} {m : List Host.Cell}, wfFrom lo m = true → x < lo → get m x = 0
  | _, [], _, _ => rfl
  | lo, (a, b) :: t, hm, hx => by
    obtain ⟨⟨ha, -⟩, -⟩ := wfFrom_cons.mp hm
    rw [get, if_pos (by omega)]

theorem get_put_from {x : Nat} {v : Byte} (y : Nat) : ∀ {lo : Nat} {m : List Host.Cell}, wfFrom lo m = true →
    get (put m x v) y = if y = x then v else get m y
  | _, [], _ => by
    rw [put]
    split
    · next hv => simp [hv]
    · simp only [get]; grind
  | lo, (a, b) :: t, hm => by
    obtain ⟨-, ht⟩ := wfFrom_cons.mp hm
    have below : y ≤ a → get t y = 0 := fun h => get_of_lt ht (by omega)
    have ih := get_put_from (x := x) (v := v) y ht
    simp only [put, get]
    split
    · -- before the first entry
      split <;> simp only [get] <;> grind
    · split
      · -- at it: the entry goes, or has a new byte
        split
        · grind
        · simp only [get]; grind
      · -- after it
        simp only [get]; grind

/-- A byte read after one byte is written. -/
theorem get_put {m : List Host.Cell} (hm : wf m = true) (x : Nat) (v : Byte) (y : Nat) :
    get (put m x v) y = if y = x then v else get m y := get_put_from y hm

/-- Addresses that a run of bytes does not reach. -/
theorem get_putBytes_outside : ∀ (bs : List Byte) {m : List Host.Cell} {a b : Nat}, wf m = true →
    (b < a ∨ a + bs.length ≤ b) → get (putBytes m a bs) b = get m b
  | [], _, _, _, _, _ => rfl
  | x :: bs, m, a, b, hm, hb => by
    rw [List.length_cons] at hb
    rw [putBytes, get_putBytes_outside bs (wf_put hm) (by omega), get_put hm, if_neg (by omega)]

/-- Addresses within the run. -/
theorem get_putBytes_inside : ∀ (bs : List Byte) {m : List Host.Cell} {a k : Nat}, wf m = true → (h : k < bs.length) →
    get (putBytes m a bs) (a + k) = bs[k]
  | x :: bs, m, a, 0, hm, _ => by
    rw [putBytes, get_putBytes_outside bs (wf_put hm) (by omega), get_put hm, if_pos (by omega)]
    rfl
  | x :: bs, m, a, k + 1, hm, h => by
    rw [putBytes, show a + (k + 1) = a + 1 + k by omega, get_putBytes_inside bs (wf_put hm) (by simpa using h)]
    rfl

/-- What is left of a store reads as before where it is left, and 0 elsewhere. -/
theorem get_filter_from (p : Nat → Bool) (y : Nat) : ∀ {lo : Nat} {m : List Host.Cell}, wfFrom lo m = true →
    get (m.filter fun c => p c.1) y = if p y = true then get m y else 0
  | _, [], _ => by simp
  | lo, (a, b) :: t, hm => by
    obtain ⟨-, ht⟩ := wfFrom_cons.mp hm
    have below : y ≤ a → get t y = 0 := fun h => get_of_lt ht (by omega)
    have ih := get_filter_from p y ht
    rw [List.filter_cons]
    split <;> simp only [get] <;> grind

theorem get_zero {m : List Host.Cell} (hm : wf m = true) (a n b : Nat) :
    get (zero m a n) b = if a ≤ b ∧ b < a + n then 0 else get m b := by
  rw [zero, get_filter_from (fun x => x < a || a + n ≤ x) b hm]
  grind

end Sys2Proof.Machine.Mem

namespace Sys2Proof

open Machine

/-- Settles O11, by induction on the run and on the store. -/
theorem memoryReadsAfterWrites : Obligations.MemoryReadsAfterWrites := by
  unfold Obligations.MemoryReadsAfterWrites
  refine ⟨fun m a bs hm => ⟨fun k h => ?_, fun b hb => ?_⟩, fun m a n b hm => ?_, fun b => ?_⟩
  · exact Mem.get_putBytes_inside bs hm h
  · exact Mem.get_putBytes_outside bs hm hb
  · exact Mem.get_zero hm a n b
  · exact Mem.get_nil b

end Sys2Proof

/-! ## Time and the agenda -/

namespace Sys2Proof.Machine

theorem step_of_switchEnd {s : State} {e : Event} (h : s.sys.switchEnd = some e) : step s = tickOutcome (e.run s) := by
  unfold step nextMove
  rw [h]

theorem step_of_agenda {s : State} {i : Instr} {rest : List Instr} (h : s.sys.switchEnd = none) (ha : s.sys.agenda = i :: rest) :
    step s = tickOutcome (exec i (s.withSys { s.sys with agenda := rest })) := by
  unfold step nextMove
  rw [h, ha]
  rfl

theorem step_of_shut {s : State} (h : s.sys.switchEnd = none) (ha : s.sys.agenda = []) (hs : s.sys.shut = true) :
    step s = .next s.tick := by
  unfold step nextMove
  rw [h, ha]
  simp only [hs, if_true]
  rfl

theorem step_of_stray {s : State} {fn : Nat} {rest : List Nat} (h : s.sys.switchEnd = none) (ha : s.sys.agenda = [])
    (hs : s.sys.shut = false) (hb : s.sys.booted = true) (hf : s.sys.strays = fn :: rest) :
    step s = .next ((s.withSys { s.sys with strays := rest }).answered fn 2 []).tick := by
  have hw : s.answerStray = (s.withSys { s.sys with strays := rest }).answered fn 2 [] := by
    simp [State.answerStray, State.withSys, State.answered, hf]
  unfold step nextMove
  rw [h, ha]
  simp [hs, hb, hf, tickOutcome, outcomeOf, hw]

/-- A die's cycle count goes on by an amount of its own. -/
theorem State.tick_die (s : State) {d : Nat} (hd : d < s.sys.dies.length) :
    s.tick.sys.die d = { s.sys.die d with cyc := ((s.sys.die d).cyc + (Config.ticks s.sys.nonce d).getD 1) % 2 ^ 64 } := by
  simp [State.tick, Sys.die, List.getD, hd]

end Sys2Proof.Machine

namespace Sys2Proof

open Machine

/-- Settles O6: the order in which `nextMove` looks, and the fields that `tick` writes. -/
theorem stepRunsTheAgendaAndTimePasses : Obligations.StepRunsTheAgendaAndTimePasses := by
  unfold Obligations.StepRunsTheAgendaAndTimePasses
  refine ⟨fun s panel tid h => ?_, fun s i rest h ha => ?_, fun s h ha hs => ?_, fun s fn rest h ha hs hb hf => ?_,
    fun s => ⟨rfl, rfl, rfl, ?_, fun d hd => ?_⟩⟩
  · exact step_of_switchEnd h
  · exact step_of_agenda h ha
  · exact step_of_shut h ha hs
  · exact step_of_stray h ha hs hb hf
  · simp [State.tick]
  · exact s.tick_die hd

end Sys2Proof

/-! ## Walks that meet an address in no stack (R245 to R249) -/

namespace Sys2Proof.Machine

variable {s0 : State}

theorem walk_hole_of_root {s : State} {q : Partition} {va : Nat} (hva : va < 2 ^ 52) (ho : q.owns q.rootStack = true)
    (hr : stackBytes ≤ q.rootLocal) : walk s q va = .hole := by
  unfold walk
  rw [if_neg (by omega), if_neg (by simp [ho]), if_pos hr]

theorem walk_ok_within {s : State} {q : Partition} {va a leaf : Nat} (h : walk s q va = .ok a leaf) :
    q.rootLocal < stackBytes ∧ Leaf.frame leaf < stackBytes := by
  unfold walk at h
  split at h
  · cases h
  · split at h
    · cases h
    · split at h
      · cases h
      · next hr =>
        split at h
        · split at h
          · cases h
          · next hl => cases h; exact ⟨by omega, by omega⟩
        · next r hne => exact absurd h (hne a leaf)

theorem Tx.rekeyWalk_quiet (tx : Tx s0) (p : Partition) (va : Nat) : Quiet (tx.rekeyWalk p va) tx :=
  Tx.each_quiet (fun tx _ => tx.rekey_quiet _ _) _ tx

@[simp] theorem Tx.noticeDrop_halt (tx : Tx s0) (p : Partition) (va : Nat) : (tx.noticeDrop p va).halt = tx.halt := by
  unfold Tx.noticeDrop
  split <;> rfl

/-- A walk made at once stops the step where it meets an address in no stack, and nowhere else. -/
theorem Tx.walkNow_halt (tx : Tx s0) {part : Nat} {q : Partition} (hq : tx.sys.part? part = some q) (core va rights : Nat) :
    (tx.walkNow part core va rights).2.halt = if walk tx.st q va = .hole then some .stackHole else tx.halt := by
  have hk : (tx.rekeyWalk q va).halt = tx.halt := (tx.rekeyWalk_quiet q va).halt
  unfold Tx.walkNow
  rw [hq]
  dsimp only
  split
  · next hw => simp [hw]
  · next hw => simp [hw, hk]
  · next hw => simp [hw]
  · next ad leaf hw =>
    split
    · simp [hw, hk]
    · have hs := ((tx.rekeyWalk q va).setAD_quiet q ad (isWrite rights)).halt
      rw [hw, if_neg (by simp), Tx.mod_halt, hs, hk]

/-- What a thread waits for is walked: the step stops exactly where the walk meets an address in no stack. -/
theorem execPageWalkComplete_waited {s : State} {k : Nat} {w : Walk} {q : Partition}
    (hw : s.sys.walks.find? (fun x => x.key == k && s.sys.walking x) = some w) (hq : s.sys.part? w.part = some q)
    (hp : w.pref = none) (hs : walk s q w.va ≠ .spoiled) :
    ∃ tx : Tx s, exec (.pageWalkComplete k) s = tx.done ∧
      tx.halt = if walk s q w.va = .hole then some .stackHole else none := by
  have hh := (Tx.start s).walkNow_halt hq w.core w.va w.right
  dsimp -zeta only [exec, execPageWalkComplete]
  rw [hw]
  dsimp only
  rw [hp, hq]
  dsimp only [Option.map_some, Option.getD_some]
  split
  · next h _ => cases h
  · next h _ => cases h
  · next h _ _ => cases h
  · next h => exact absurd h hs
  · split
    · next tx htx => rw [htx] at hh; exact ⟨_, rfl, hh⟩
    · next tx htx => rw [htx] at hh; exact ⟨_, rfl, hh⟩

theorem Tx.done_of_stopped {tx : Tx s0} {f : Fault} (h : tx.halt = some f) : tx.done = .fault f := by rw [Tx.done, h]

end Sys2Proof.Machine

namespace Sys2Proof

open Machine

/-- Settles O10: every arm of `exec` ends a `Tx`, which cannot refuse, and the walk's one fault is `Tx.walkNow`'s. -/
theorem nothingIsRefused : Obligations.NothingIsRefused := by
  unfold Obligations.NothingIsRefused
  refine ⟨fun i s => ⟨(exec_ends i s).not_refused, fun f _ => ?_⟩,
    fun s q va => ⟨walk_hole_of_root, fun a leaf => walk_ok_within⟩, fun s k w q hw hq hp => ⟨fun hh => ?_, fun hh hs => ?_⟩⟩
  · cases f
    rfl
  · obtain ⟨tx, he, ht⟩ := execPageWalkComplete_waited hw hq hp (by simp [hh])
    rw [he, Tx.done_of_stopped (ht.trans (if_pos hh))]
  · obtain ⟨tx, he, ht⟩ := execPageWalkComplete_waited hw hq hp hs
    exact ⟨tx.st, he.trans (Tx.done_of_halt (ht.trans (if_neg hh)))⟩

end Sys2Proof

/-! ## One thread that issues alone (R115, R125, R426)

What `engineWord` does for a stitch of one thread: the word's own part runs once, and nothing follows it. -/

namespace Sys2Proof.Machine

variable {s0 s : State} {t : Thread} {p : Panel} {l : Launch} {i : Instr}

/-- `b` comes from `a` without a stop, a new walk or a change of a panel, so nothing is left to do after it. -/
structure Tx.Settled (b a : Tx s0) : Prop where
  halt : b.halt = a.halt
  panels : b.sys.panels = a.sys.panels
  walks : b.sys.walks = a.sys.walks

namespace Tx.Settled

theorem trans {a b c : Tx s0} (h : Settled c b) (k : Settled b a) : Settled c a :=
  ⟨h.halt.trans k.halt, h.panels.trans k.panels, h.walks.trans k.walks⟩

theorem setThread (tx : Tx s0) (f : Sys → Thread) : Settled (tx.mod fun y => y.setThread (f y)) tx := ⟨rfl, rfl, rfl⟩

theorem advance (tx : Tx s0) (t : Thread) (l : Launch) : Settled (tx.advance t l) tx := ⟨rfl, rfl, rfl⟩

theorem updYoke (tx : Tx s0) (p : Panel) (f : Yoke → Yoke) : Settled (tx.updYoke p f) tx := by
  unfold Tx.updYoke
  refine ⟨rfl, ?_, ?_⟩ <;> (simp only [Tx.mod_sys]; split <;> rfl)

theorem updPart (tx : Tx s0) (n : Nat) (f : Partition → Partition) : Settled (tx.mod (updPart n f)) tx :=
  ⟨rfl, updPart_field (·.panels) (fun _ => rfl) n f tx.sys, updPart_field (·.walks) (fun _ => rfl) n f tx.sys⟩

theorem ite {c : Prop} [Decidable c] {a b tx : Tx s0} (ha : Settled a tx) (hb : Settled b tx) : Settled (if c then a else b) tx := by
  split
  · exact ha
  · exact hb

end Tx.Settled

/-- No panel begins to run ahead. -/
theorem Tx.beginAhead_of_calm {tx : Tx s0} (h : tx.sys.Calm) : tx.beginAhead = tx := by
  have : tx.sys.panels.filter (fun p => p.ahead.any fun a => a.saved.isEmpty) = [] :=
    List.filter_eq_nil_iff.mpr fun p hp => by simp [h p hp]
  rw [Tx.beginAhead, this]
  rfl

/-- Where no walk is new, the threads keep what they did. -/
theorem Tx.orWalks_of_walks {a b : Tx s0} (h : b.sys.walks = a.sys.walks) : a.orWalks b = b := by
  have : b.sys.walks.filter (fun w => w.pref.isNone && !a.sys.walks.contains w) = [] :=
    List.filter_eq_nil_iff.mpr fun w hw => by simp [← h, hw]
  rw [Tx.orWalks, this]
  rfl

theorem aheadOf_alone (h : s.Alone t p l) : p.aheadOf t.tid = false := by
  obtain ⟨-, -, -, hahead, -⟩ := h
  simp [Panel.aheadOf, hahead]

/-- The stitch of one thread: its part runs once. -/
theorem Tx.eachThread_alone (h : s.Alone t p l) {f : Tx s → Thread → Panel → Launch → Tx s × Bool} {r : Tx s} {more : Bool}
    (hf : f (Tx.start s) t p l = (r, more)) (hr : r.Settled (Tx.start s)) : (Tx.start s).eachThread f = r := by
  obtain ⟨hfocus, hthread, hhome, -, hcalm⟩ := h
  unfold Tx.eachThread
  simp only [Tx.start_sys, hfocus, List.foldl_cons, List.foldl_nil, if_true, hthread, hhome, hf]
  rw [Tx.orWalks_of_walks hr.walks]
  exact Tx.beginAhead_of_calm fun q hq => hcalm q (hr.panels ▸ hq)

/-- Bit 31 with a trap's code (R424). -/
theorem trapWord_eq (code : Byte) : BitVec.ofNat 32 (2 ^ 31 + code.toNat) = 0x80000000#32 ||| code.setWidth 32 := by
  apply BitVec.eq_of_toNat_eq
  have hc : code.toNat < 2 ^ 31 := by omega
  rw [BitVec.toNat_ofNat, Nat.mod_eq_of_lt (by omega), BitVec.toNat_or, BitVec.toNat_setWidth,
    Nat.mod_eq_of_lt (a := code.toNat) (by omega)]
  exact Nat.two_pow_add_eq_or_of_lt hc 1

/-- A trap that the thread takes itself (R426). -/
theorem Tx.raise_alone (h : s.Alone t p l) (hc : t.CanTrap l) {code : Byte} (hs : supervisorCode code = false) (value : Word) :
    (Tx.start s).raise t code value = (Tx.start s).mod fun y => y.setThread (t.trapped s l code value t.self) := by
  have ha := aheadOf_alone h
  obtain ⟨-, -, hhome, -, -⟩ := h
  obtain ⟨hbit, hentry⟩ := hc
  have hb : t.trapc.toNat.testBit 31 = false := hbit
  unfold Tx.raise Tx.raiseAt
  simp only [Tx.start_sys, hhome, ha, hs, Bool.false_and, Bool.false_eq_true, if_false]
  unfold Tx.trapEntry
  rw [if_neg (by simp [hb, hentry]), trapWord_eq]
  rfl

/-- An engine or system word whose checks fail is `ILLOP` (R115). -/
theorem engineWord_illop (h : s.Alone t p l) (hc : t.CanTrap l) {ok : Thread → Panel → Launch → Bool}
    (go : (s : State) → Tx s → Thread → Panel → Launch → Tx s) (hok : (wordOk i t p && ok t p l) = false) :
    engineWord i ok go s = .next (s.withThread (t.trapped s l tILLOP 0 t.self)) := by
  have he := Tx.raise_alone h hc (code := tILLOP) rfl 0
  unfold engineWord
  rw [Tx.eachThread_alone h (r := (Tx.start s).raise t tILLOP 0) (more := true) (by simp [hok])
    (he ▸ Tx.Settled.setThread _ _), he]
  rfl

/-- One whose checks pass, and that names no shuttle, does its own part. -/
theorem engineWord_ready (h : s.Alone t p l) (hr : t.Ready p i) {ok : Thread → Panel → Launch → Bool}
    {go : (s : State) → Tx s → Thread → Panel → Launch → Tx s} (hok : ok t p l = true) (hi : shunsTravel i = false)
    {r : Tx s} (hgo : go s (Tx.start s) t p l = r) (hset : r.Settled (Tx.start s)) : engineWord i ok go s = .next r.st := by
  obtain ⟨hword, hruns, hpops, hpushes⟩ := hr
  have ha := aheadOf_alone h
  unfold engineWord
  rw [Tx.eachThread_alone h (r := r) (more := true) (by simp [hword, hok, hruns, ha, hi, Tx.shuttled, hpops, hpushes, hgo]) hset,
    Tx.done_of_halt hset.halt]

/-! ### Operands of one register -/

theorem fieldOk_le {regs f n : Nat} {sh z : Bool} (h : fieldOk regs f n sh z = true) : f ≤ 248 := by
  unfold fieldOk at h
  split at h
  · omega
  · split at h
    · omega
    · simp only [Bool.and_eq_true, beq_iff_eq] at h
      omega

theorem wordOk_field_le (h : wordOk i t p = true) {o : Opnd} (ho : o ∈ (form i t.hints).ops) : o.f ≤ 248 := by
  unfold wordOk formOk at h
  simp only [Bool.and_eq_true, List.all_eq_true] at h
  obtain ⟨⟨⟨⟨⟨⟨hops, -⟩, -⟩, -⟩, -⟩, -⟩, -⟩ := h
  exact fieldOk_le (Bool.and_eq_true_iff.mp (hops o ho)).1

/-- The registers of an operand of one register. -/
theorem Opnd.regs_one (t : Thread) (p : Panel) (o : Opnd) (hn : o.n = 1) (hp : o.pairs = 0) (hf : o.f < 240) :
    o.regs t p = [physReg p.regs p.band t.rotbase (o.at t)] := by
  simp [Opnd.regs, hf, Opnd.width, hp, hn, Thread.group]

/-- A source of one register is read as `src32` reads it. -/
theorem readSrcs_one (tx : Tx s0) (t : Thread) (p : Panel) (d : BitVec 8) (o : Opnd) (hf : o.f = d.toNat) (hn : o.n = 1)
    (hp : o.pairs = 0) (hle : o.f ≤ 248) (hsh : ¬(240 ≤ o.f ∧ o.f < 248)) :
    readSrcs tx t p [o] = ([(t.src32 p d o.st).toNat], tx) := by
  unfold readSrcs Thread.src32
  by_cases hlt : o.f < 240
  · have hd : d ≠ 248 := fun e => by rw [e] at hf; simp at hf; omega
    rw [if_pos hlt, if_neg hd, Opnd.regs_one t p o hn hp hlt, Opnd.at, hf]
    simp [Thread.getNat, readSrcs]
  · have hd : d = 248 := BitVec.eq_of_toNat_eq (by rw [← hf]; simp; omega)
    rw [if_neg hlt, if_neg (by omega), if_pos hd]
    rfl

/-- A result of one register is written as `put32` writes it. -/
theorem Tx.give_put32 (tx : Tx s0) {d : BitVec 8} {o : Opnd} (hr : t.Ready p i) (hdst : (form i t.hints).dst = some o)
    (hf : o.f = d.toNat) (hn : o.n = 1) (hp : o.pairs = 0) (hst : o.st = 1) (l : Launch) (v : Nat) :
    tx.give t p l i v = tx.advance (t.put32 p d (BitVec.ofNat 32 v)) l := by
  obtain ⟨hword, -, -, hpushes⟩ := hr
  have hle : o.f ≤ 248 := wordOk_field_le hword (List.mem_of_find?_eq_some hdst)
  have hsh : ¬(240 ≤ o.f ∧ o.f < 248) := fun hc => by simp [Form.pushes, hdst, hc] at hpushes
  unfold Tx.give Thread.put32
  simp only [hdst, if_neg hsh]
  by_cases hlt : o.f < 240
  · have hd : d ≠ 248 := fun e => by rw [e] at hf; simp at hf; omega
    rw [if_neg hd, Opnd.regs_one t p o hn hp hlt, Opnd.at, hf, hst]
    rfl
  · have hd : d = 248 := BitVec.eq_of_toNat_eq (by rw [← hf]; simp; omega)
    rw [if_pos hd, Opnd.regs, if_neg hlt]
    rfl

/-! ### System words that may stand anywhere in a clause -/

section

variable {super : Bool} {ok : Thread → Panel → Launch → Bool} {go : (s : State) → Tx s → Thread → Panel → Launch → Tx s}

theorem systemWord_ready (h : s.Alone t p l) (hr : t.Ready p i) (hs : super = true → l.supervisor = true) (hok : ok t p l = true)
    (hi : shunsTravel i = false) {r : Tx s} (hgo : go s (Tx.start s) t p l = r) (hset : r.Settled (Tx.start s)) :
    systemWord i false super ok go s = .next r.st := by
  refine engineWord_ready h hr ?_ hi hgo hset
  cases super <;> simp_all

theorem systemWord_illop (h : s.Alone t p l) (hc : t.CanTrap l) (hok : ok t p l = false) :
    systemWord i false super ok go s = .next (s.withThread (t.trapped s l tILLOP 0 t.self)) :=
  engineWord_illop h hc go (by simp [hok])

/-- A system word whose own part is `ILLOP` takes it, whoever runs the word. -/
theorem systemWord_raises (h : s.Alone t p l) (hc : t.CanTrap l) (hr : t.Ready p i) (hok : ok t p l = true)
    (hi : shunsTravel i = false) (hgo : go s (Tx.start s) t p l = (Tx.start s).raise t tILLOP 0) :
    systemWord i false super ok go s = .next (s.withThread (t.trapped s l tILLOP 0 t.self)) := by
  by_cases hs : super = true → l.supervisor = true
  · have he := hgo.trans (Tx.raise_alone h hc rfl 0)
    exact systemWord_ready h hr hs hok hi he (Tx.Settled.setThread _ _)
  · exact engineWord_illop h hc go (by simp_all)

end

end Sys2Proof.Machine

/-! ## Special registers (R53 to R56, R111, R112) -/

namespace Sys2Proof.Machine

variable {s0 s : State} {t : Thread} {p : Panel} {l : Launch}

/-! ### What a number names -/

theorem superCsr_of_lt {n : Nat} (hn : n < 0x800) : superCsr n = false := by
  simp [superCsr]
  omega

theorem csrValue_cwp (s : Sys) (t : Thread) (p : Panel) (l : Launch) {k : Nat} (hk : k < 8) :
    csrValue s t p l (0x300 + k) = some (s.cwp (clusterOf t.core) k) := by
  unfold csrValue
  repeat rw [if_neg (by omega)]
  rw [if_pos (by omega), Nat.add_sub_cancel_left]

theorem csrValue_harv (s : Sys) (t : Thread) (p : Panel) (l : Launch) {k : Nat} (hk : k < 10) :
    csrValue s t p l (0x800 + k) = some (s.harv.getD k 0).toNat := by
  unfold csrValue
  repeat rw [if_neg (by omega)]
  rw [if_pos (by omega), Nat.add_sub_cancel_left]

theorem csrValue_ildom (s : Sys) (t : Thread) (p : Panel) (l : Launch) {k : Nat} (hk : k < 16) :
    csrValue s t p l (0xC10 + k) = some (s.ildom.getD k 0).toNat := by
  unfold csrValue
  repeat rw [if_neg (by omega)]
  rw [if_pos (by omega), Nat.add_sub_cancel_left]

/-- A number that is not listed has no value (R111). -/
theorem csrValue_of_not_listed (s : Sys) (t : Thread) (p : Panel) (l : Launch) {n : Nat} (hn : csrListed n = false) :
    csrValue s t p l n = none := by
  simp only [csrListed, Bool.or_eq_false_iff, Bool.and_eq_false_iff, decide_eq_false_iff_not, beq_eq_false_iff_ne] at hn
  unfold csrValue
  repeat rw [if_neg (by omega)]

/-- The registers that `CSRW` writes by number (R112, R424, R55). -/
theorem mem_of_csrMask {n m : Nat} (h : csrMask n = some m) :
    n ∈ [0x100, 0x101, 0x102, 0x201, 0x202, 0x400, 0x401, 0x402, 0x403, 0x80A] := by
  unfold csrMask at h
  simp only [List.mem_cons, List.not_mem_nil, or_false]
  split_ifs at h <;> omega

/-- The read-only registers of R111 and R53, and numbers that are not listed. -/
theorem csrMask_none {n : Nat}
    (hn : n ∈ [0x000, 0x001, 0x002, 0x003, 0x004, 0x005, 0x006, 0x007, 0x008, 0x009, 0x200, 0x203, 0x80B, 0xC00, 0xC01] ∨
      (0x300 ≤ n ∧ n ≤ 0x308) ∨ (0x800 ≤ n ∧ n ≤ 0x809) ∨ csrListed n = false) : csrMask n = none := by
  cases hm : csrMask n with
  | none => rfl
  | some m =>
    have hw := mem_of_csrMask hm
    simp only [List.mem_cons, List.not_mem_nil, or_false] at hw hn
    have hl : csrListed n = true := by
      rcases hw with rfl | rfl | rfl | rfl | rfl | rfl | rfl | rfl | rfl | rfl <;> rfl
    simp only [hl, Bool.true_eq_false, or_false] at hn
    omega

/-! ### Reads -/

/-- What a read of a listed number does; one of `%cyc` also latches (R111). -/
theorem csrRead_listed {i : Instr} {d : BitVec 8} {n v : Nat} (h : s.Alone t p l) (hr : t.Ready p i)
    (hform : form i t.hints = mkForm [dW d 1] HintSet.none) (hi : shunsTravel i = false)
    (hs : superCsr n = true → l.supervisor = true) (hv : csrValue s.sys t p l n = some v) :
    csrRead i n s =
      .next (s.going ((if n = 0x008 then t.latch (s.sys.die (dieOf t.core)).cyc else t).put32 p d (BitVec.ofNat 32 v)) l) := by
  have hgive (u : Thread) (hu : u.Ready p i) (hh : u.hints = t.hints) :
      (Tx.start s).give u p l i v = (Tx.start s).advance (u.put32 p d (BitVec.ofNat 32 v)) l :=
    Tx.give_put32 _ hu (by rw [hh, hform]; rfl) rfl rfl rfl rfl l v
  unfold csrRead
  refine systemWord_ready h hr hs rfl hi ?_ (Tx.Settled.advance _ _ _)
  simp only [Tx.start_sys, hv]
  split
  · exact hgive _ hr rfl
  · exact hgive _ hr rfl

theorem exec_csrr (d : BitVec 8) (n : BitVec 16) (s : State) : exec (.csrr d n) s = csrRead (.csrr d n) n.toNat s := rfl

/-- A listed number other than that of `%cyc` is read into d. -/
theorem exec_csrr_listed {d : BitVec 8} {n : BitVec 16} {v : Word} (h : s.Alone t p l) (hr : t.Ready p (.csrr d n))
    (hs : superCsr n.toNat = true → l.supervisor = true) (hn : n.toNat ≠ 0x008)
    (hv : (csrValue s.sys t p l n.toNat).map (BitVec.ofNat 32) = some v) :
    exec (.csrr d n) s = .next (s.going (t.put32 p d v) l) := by
  obtain ⟨x, hx, rfl⟩ := Option.map_eq_some_iff.mp hv
  rw [exec_csrr, csrRead_listed h hr rfl rfl hs hx, if_neg hn]

/-- One that any thread may name. -/
theorem exec_csrr_open {d : BitVec 8} {n : BitVec 16} {v : Word} (h : s.Alone t p l) (hr : t.Ready p (.csrr d n))
    (hlt : n.toNat < 0x800) (hn : n.toNat ≠ 0x008) (hv : (csrValue s.sys t p l n.toNat).map (BitVec.ofNat 32) = some v) :
    exec (.csrr d n) s = .next (s.going (t.put32 p d v) l) :=
  exec_csrr_listed h hr (by simp [superCsr_of_lt hlt]) hn hv

/-- `%cyc` is read, and its upper half latched (R111). -/
theorem exec_csrrCyc {d : BitVec 8} (h : s.Alone t p l) (hr : t.Ready p (.csrrCyc d)) :
    exec (.csrrCyc d) s = .next (s.going ((t.latch (s.sys.die (dieOf t.core)).cyc).put32 p d
      (BitVec.ofNat 32 ((s.sys.die (dieOf t.core)).cyc % 2 ^ 32))) l) :=
  csrRead_listed (n := 0x008) h hr rfl rfl (by simp [superCsr]) rfl

theorem exec_csrr_unlisted {d : BitVec 8} {n : BitVec 16} (h : s.Alone t p l) (hc : t.CanTrap l) (hr : t.Ready p (.csrr d n))
    (hn : csrListed n.toNat = false) : Takes (.csrr d n) s t l tILLOP 0 := by
  rw [Takes, exec_csrr, csrRead]
  refine systemWord_raises h hc hr rfl rfl ?_
  simp only [Tx.start_sys, csrValue_of_not_listed s.sys t p l hn]

/-! ### Values that do not fit -/

/-- The bits of a word above its lowest `k`. -/
theorem and_high_bits {v : Nat} (k : Nat) (hv : v < 2 ^ 32) (hk : k ≤ 32) : v &&& (2 ^ 32 - 2 ^ k) = 2 ^ k * (v / 2 ^ k) := by
  have hm : 2 ^ 32 - 2 ^ k = 2 ^ k * (2 ^ (32 - k) - 1) := by
    rw [Nat.mul_sub, ← pow_add, Nat.add_sub_cancel' hk, Nat.mul_one]
  apply Nat.eq_of_testBit_eq
  intro j
  rw [hm, Nat.testBit_and, Nat.testBit_two_pow_mul, Nat.testBit_two_pow_mul, Nat.testBit_two_pow_sub_one, Nat.testBit_div_two_pow]
  by_cases hj : k ≤ j
  · by_cases hj32 : j < 32
    · simp [hj, show j - k < 32 - k by omega]
    · have : v.testBit j = false := Nat.testBit_lt_two_pow (hv.trans_le (Nat.pow_le_pow_right (by omega) (by omega)))
      simp [hj, this]
  · simp [hj]

/-- A word has no bit above its lowest `k`. -/
theorem and_high_bits_eq_zero {v : Nat} (k : Nat) (hv : v < 2 ^ 32) (hk : k ≤ 32) : v &&& (2 ^ 32 - 2 ^ k) = 0 ↔ v < 2 ^ k := by
  rw [and_high_bits k hv hk, Nat.mul_eq_zero, Nat.div_eq_zero_iff]
  simp

/-- The model's checks of a value to be written, its field's mask and its range, refuse what `csrRefuses` names; with a band
of 0 the mask still refuses 128 and above (assumption log 78). -/
theorem csrRefuses_eq (p : Panel) {n : BitVec 16} {m : Nat} (hm : csrMask n.toNat = some m) (w : Word) :
    csrRefuses p n w = (w.toNat &&& (0xFFFFFFFF - m) != 0 || !csrRangeOk p n.toNat w.toNat) := by
  have field (k : Nat) (hk : k ≤ 32) : (w.toNat &&& (2 ^ 32 - 2 ^ k) != 0) = decide (2 ^ k ≤ w.toNat) := by
    rw [Bool.eq_iff_iff, bne_iff_ne, decide_eq_true_iff, Ne, and_high_bits_eq_zero k w.isLt hk, Nat.not_lt]
  have h3 : (w.toNat &&& (0xFFFFFFFF - 7) != 0) = decide (8 ≤ w.toNat) := field 3 (by omega)
  have h5 : (w.toNat &&& (0xFFFFFFFF - 0x1F) != 0) = decide (32 ≤ w.toNat) := field 5 (by omega)
  have h7 : (w.toNat &&& (0xFFFFFFFF - 0x7F) != 0) = decide (128 ≤ w.toNat) := field 7 (by omega)
  have h8 : (w.toNat &&& (0xFFFFFFFF - 0xFF) != 0) = decide (256 ≤ w.toNat) := field 8 (by omega)
  have h9 : (w.toNat &&& (0xFFFFFFFF - 0x1FF) != 0) = decide (512 ≤ w.toNat) := field 9 (by omega)
  have full : (w.toNat &&& (0xFFFFFFFF - 0xFFFFFFFF) != 0) = false := by rw [Nat.sub_self, Nat.and_zero]; rfl
  have trapc : (w.toNat &&& (0xFFFFFFFF - 0x800000FF) != 0) = (w &&& 0x7FFFFF00 != 0) := by
    rw [Bool.eq_iff_iff, bne_iff_ne, bne_iff_ne, Ne, Ne, ← BitVec.toNat_inj, BitVec.toNat_and]
    rfl
  have hn := mem_of_csrMask hm
  simp only [List.mem_cons, List.not_mem_nil, or_false] at hn
  unfold csrMask at hm
  unfold csrRefuses csrRangeOk
  rcases hn with hn | hn | hn | hn | hn | hn | hn | hn | hn | hn <;>
    simp only [hn, Nat.reduceEqDiff, reduceIte, or_false, or_true, Option.some.injEq, Bool.not_true, Bool.or_false] at hm ⊢ <;>
    subst hm <;> simp only [h3, h5, h7, h8, h9, full, trapc]
  all_goals
    rw [Bool.eq_iff_iff]
    simp only [Bool.or_eq_true, Bool.and_eq_true, Bool.not_or, Bool.not_eq_eq_eq_not, Bool.not_true, beq_eq_false_iff_ne,
      decide_eq_true_eq, decide_eq_false_iff_not]
    omega

/-! ### Writes -/

/-- The panel's yoke is changed, and the thread goes on. -/
theorem Tx.updYoke_going {y : Yoke} (hy : s.sys.yokeOf p = some y) (f : Yoke → Yoke) :
    (((Tx.start s).updYoke p f).advance t l).st = (s.withSys (s.sys.setYoke (f y))).going t l := by
  simp only [Tx.updYoke, Tx.mod, Tx.advance, Tx.start_st, hy]
  rfl

/-- The launch's partition is changed, and the thread goes on. -/
theorem Tx.updPart_going {n : Nat} {q : Partition} (hq : s.sys.part? n = some q) (f : Partition → Partition) :
    (((Tx.start s).mod (updPart n f)).advance t l).st = (s.withSys (s.sys.setPart (f q))).going t l := by
  simp only [Tx.mod, Tx.advance, Tx.start_st, updPart_some hq]
  rfl

theorem csrPut_settled (tx : Tx s0) (t : Thread) (p : Panel) (l : Launch) (n v : Nat) : (tx.csrPut t p l n v).Settled tx :=
  have go (u : Thread) := Tx.Settled.advance tx u l
  .ite (go _) <| .ite (go _) <| .ite ((Tx.Settled.advance _ t l).trans (.updYoke tx p _)) <| .ite (go _) <| .ite (go _) <|
    .ite (go _) <| .ite (go _) <| .ite (go _) <| .ite (go _) ((Tx.Settled.advance _ t l).trans (.updPart tx l.part _))

theorem exec_csrw (d : BitVec 8) (n : BitVec 16) (s : State) : exec (.csrw d n) s = execCsrw d n s := rfl

/-- The source that `CSRW` reads: `REP` does not step it. -/
theorem readSrcs_csr {i : Instr} {d : BitVec 8} (tx : Tx s0) (hr : t.Ready p i)
    (hform : form i t.hints = mkForm [{ aR d 1 with st := 0 }] HintSet.none) :
    readSrcs tx t p ((form i t.hints).srcs t.hints) = ([(t.src32 p d 0).toNat], tx) := by
  obtain ⟨hword, -, hpops, -⟩ := hr
  have hsrcs : (form i t.hints).srcs t.hints = [{ aR d 1 with st := 0 }] := by
    rw [hform]
    unfold Form.srcs
    cases t.hints.hopd <;> rfl
  have hle := wordOk_field_le hword (o := { aR d 1 with st := 0 }) (by rw [hform]; exact List.mem_singleton_self _)
  rw [Form.pops, hsrcs] at hpops
  rw [hsrcs]
  refine readSrcs_one tx t p d _ rfl rfl rfl hle fun hsh => ?_
  simp [hsh] at hpops

/-- A writable register whose value fits is written. -/
theorem exec_csrw_fits {d : BitVec 8} {n : BitVec 16} {m : Nat} (h : s.Alone t p l) (hr : t.Ready p (.csrw d n))
    (hs : superCsr n.toNat = true → l.supervisor = true) (hm : csrMask n.toNat = some m)
    (hw : csrRefuses p n (t.src32 p d 0) = false) :
    exec (.csrw d n) s = .next ((Tx.start s).csrPut t p l n.toNat (t.src32 p d 0).toNat).st := by
  rw [csrRefuses_eq p hm] at hw
  rw [exec_csrw, execCsrw]
  refine systemWord_ready h hr hs (by rw [hm]; rfl) rfl ?_ (csrPut_settled _ _ _ _ _ _)
  simp only [readSrcs_csr _ hr rfl, hm, List.getD_cons_zero, Option.getD_some, hw, Bool.false_eq_true, if_false]

/-- One that any thread may write. -/
theorem exec_csrw_open {d : BitVec 8} {n : BitVec 16} {m : Nat} {u : State} (h : s.Alone t p l) (hr : t.Ready p (.csrw d n))
    (hlt : n.toNat < 0x800) (hm : csrMask n.toNat = some m) (hw : csrRefuses p n (t.src32 p d 0) = false)
    (hu : ((Tx.start s).csrPut t p l n.toNat (t.src32 p d 0).toNat).st = u) : exec (.csrw d n) s = .next u :=
  hu ▸ exec_csrw_fits h hr (by simp [superCsr_of_lt hlt]) hm hw

/-- A register that `CSRW` does not write by number: read-only, or not listed (R111). -/
theorem exec_csrw_unwritable {d : BitVec 8} {n : BitVec 16} (h : s.Alone t p l) (hc : t.CanTrap l) (hm : csrMask n.toNat = none) :
    Takes (.csrw d n) s t l tILLOP 0 := by
  rw [Takes, exec_csrw, execCsrw]
  exact systemWord_illop h hc (by rw [hm]; rfl)

/-- A value that does not fit (R112). -/
theorem exec_csrw_refused {d : BitVec 8} {n : BitVec 16} (h : s.Alone t p l) (hc : t.CanTrap l) (hr : t.Ready p (.csrw d n))
    (hw : csrRefuses p n (t.src32 p d 0) = true) : Takes (.csrw d n) s t l tILLOP 0 := by
  cases hm : csrMask n.toNat with
  | none => exact exec_csrw_unwritable h hc hm
  | some m =>
    rw [csrRefuses_eq p hm] at hw
    rw [Takes, exec_csrw, execCsrw]
    refine systemWord_raises h hc hr (by rw [hm]; rfl) rfl ?_
    simp only [readSrcs_csr _ hr rfl, hm, List.getD_cons_zero, Option.getD_some, hw, if_true]

theorem exec_csrwOflag (d : BitVec 8) (s : State) : exec (.csrwOflag d) s = execCsrwOflag d s := rfl

/-- Writing 1 to the miss mark clears it, writing 0 leaves it (R112). -/
theorem exec_csrwOflag_fits {d : BitVec 8} {y : Yoke} (h : s.Alone t p l) (hr : t.Ready p (.csrwOflag d))
    (hy : s.sys.yokeOf p = some y) (hw : (t.src32 p d 0).toNat ≤ 1) :
    exec (.csrwOflag d) s = .next ((s.withSys (s.sys.setYoke { y with oflag := y.oflag && t.src32 p d 0 == 0 })).going t l) := by
  have hz : ((t.src32 p d 0).toNat == 0) = (t.src32 p d 0 == 0) := by
    rw [Bool.eq_iff_iff, beq_iff_eq, beq_iff_eq, ← BitVec.toNat_inj]
    rfl
  have hput := Tx.updYoke_going (t := t) (l := l) hy fun y => { y with oflag := y.oflag && (t.src32 p d 0).toNat == 0 }
  rw [exec_csrwOflag, execCsrwOflag, ← hz, ← hput]
  refine systemWord_ready h hr (by simp) rfl rfl ?_ ((Tx.Settled.advance _ t l).trans (.updYoke _ p _))
  simp only [readSrcs_csr _ hr rfl, List.getD_cons_zero, if_neg (Nat.not_lt.mpr hw)]

/-- Any other value is refused. -/
theorem exec_csrwOflag_refused {d : BitVec 8} (h : s.Alone t p l) (hc : t.CanTrap l) (hr : t.Ready p (.csrwOflag d))
    (hw : 1 < (t.src32 p d 0).toNat) : Takes (.csrwOflag d) s t l tILLOP 0 := by
  rw [Takes, exec_csrwOflag, execCsrwOflag]
  refine systemWord_raises h hc hr rfl rfl ?_
  simp only [readSrcs_csr _ hr rfl, List.getD_cons_zero, if_pos (show (t.src32 p d 0).toNat > 1 from hw)]

end Sys2Proof.Machine

namespace Sys2Proof
open Machine

/-- Settles O32: a read puts `csrValue` into d, a write that `csrRefuses` lets pass is `Tx.csrPut`, and all else is `ILLOP`. -/
theorem specialRegisters : Obligations.SpecialRegisters := by
  unfold Obligations.SpecialRegisters
  intro s t p l h
  refine ⟨fun d n v hm hr => ?_, fun d hr hp => ?_, fun d y hy => ⟨fun hr => ?_, fun hr => ?_⟩, fun d k hr => ?_,
    fun d hr => exec_csrrCyc h hr, fun q hl hq => ?_, fun d => ?_,
    fun d y hr _ hy => ⟨exec_csrwOflag_fits h hr hy, fun hw hc => exec_csrwOflag_refused h hc hr hw⟩,
    fun d n hn hc => exec_csrw_unwritable h hc (csrMask_none hn), fun d n hn hr hc => exec_csrr_unlisted h hc hr hn⟩
  · -- the registers of R111 that need nothing but the thread, its panel and its launch
    simp only [List.mem_cons, List.not_mem_nil, or_false, Prod.mk.injEq] at hm
    rcases hm with ⟨rfl, rfl⟩ | ⟨rfl, rfl⟩ | ⟨rfl, rfl⟩ | ⟨rfl, rfl⟩ | ⟨rfl, rfl⟩ | ⟨rfl, rfl⟩ | ⟨rfl, rfl⟩ | ⟨rfl, rfl⟩ |
      ⟨rfl, rfl⟩ | ⟨rfl, rfl⟩ | ⟨rfl, rfl⟩ | ⟨rfl, rfl⟩ | ⟨rfl, rfl⟩ | ⟨rfl, rfl⟩ | ⟨rfl, rfl⟩ | ⟨rfl, rfl⟩ | ⟨rfl, rfl⟩ |
      ⟨rfl, rfl⟩ | ⟨rfl, rfl⟩
    all_goals exact exec_csrr_open h hr (by simp) (by simp) (by simp [csrValue, arbqOf, List.countP_eq_length_filter])
  · exact exec_csrr_open h hr (by simp) (by simp) (by simp [csrValue, Launch.yidOf, Nat.not_le.mpr hp])
  · exact exec_csrr_open h hr (by simp) (by simp) (by simp [csrValue, Sys.phaseOf, hy])
  · exact exec_csrr_open h hr (by simp) (by simp) (by cases ho : y.oflag <;> simp [csrValue, hy, ho])
  · -- `%cwp` of a channel
    have hk : (0x300 + k.setWidth 16 : BitVec 16).toNat = 0x300 + k.toNat := by bv_omega
    refine exec_csrr_open h hr (by omega) (by omega) ?_
    rw [hk, csrValue_cwp _ _ _ _ k.isLt, Sys.cwp]
    cases (s.sys.queue (clusterOf t.core) k.toNat).head? with
    | none => rfl
    | some c => cases hc : c.started <;> simp [hc]
  · -- the supervisor's registers
    have reads (n : BitVec 16) (v : Word) (hn : n.toNat ≠ 0x008) (hv : (csrValue s.sys t p l n.toNat).map (BitVec.ofNat 32) = some v) :
        ∀ d, t.Ready p (.csrr d n) → exec (.csrr d n) s = .next (s.going (t.put32 p d v) l) :=
      fun d hr => exec_csrr_listed h hr (fun _ => hl) hn hv
    refine ⟨fun k hk => ?_, reads _ _ (by simp) (by simp [csrValue, hq]), fun hi => reads _ _ (by simp) ?_,
      fun hi => reads _ _ (by simp) ?_, reads _ _ (by simp) (by simp [csrValue, hq]), reads _ _ (by simp) (by simp [csrValue, hq]),
      fun k hk => ?_, fun d hr hw => ?_⟩
    · have hn : (BitVec.ofNat 16 (0x800 + k)).toNat = 0x800 + k := Nat.mod_eq_of_lt (by omega)
      exact reads _ _ (by omega) (by rw [hn, csrValue_harv _ _ _ _ hk]; simp)
    · simp [csrValue, hq, Partition.l2pval, hi]
    · cases hf : q.l2p.find? fun e => e.1 == q.l2pidx.toNat <;>
        simp [csrValue, hq, Partition.l2pval, Nat.not_le.mpr hi, hf]
    · have hn : (BitVec.ofNat 16 (0xC10 + k)).toNat = 0xC10 + k := Nat.mod_eq_of_lt (by omega)
      exact reads _ _ (by omega) (by rw [hn, csrValue_ildom _ _ _ _ hk]; simp)
    · rw [exec_csrw_fits h hr (fun _ => hl) rfl (by simpa [csrRefuses] using hw)]
      exact (congrArg _ (Tx.updPart_going hq _)).trans (by simp)
  · -- the registers that any thread writes
    refine ⟨fun hr hw => ?_, fun hr hw => ?_, fun y hr hy hw => ?_, fun hr hb hw hw' => ?_, fun hr hb hw hw' => ?_,
      fun n hn hr hb hw => ?_, fun hr hw => ?_, fun hr => ?_, fun hr => ?_, fun hr hw => ?_,
      fun n hr hc hw => exec_csrw_refused h hc hr hw⟩
    · exact exec_csrw_open h hr (by simp) rfl (by simpa [csrRefuses] using hw) rfl
    · exact exec_csrw_open h hr (by simp) rfl (by simpa [csrRefuses, Nat.lt_succ_iff] using hw) rfl
    · exact exec_csrw_open h hr (by simp) rfl (by simpa [csrRefuses] using hw) (Tx.updYoke_going hy _)
    · exact exec_csrw_open h hr (by simp) rfl (by simp [csrRefuses]; omega) (by simp [Tx.csrPut, hb.ne']; rfl)
    · exact exec_csrw_open h hr (by simp) rfl (by simp [csrRefuses]; omega) (by simp [Tx.csrPut, hb.ne']; rfl)
    · rcases hn with rfl | rfl
      · exact exec_csrw_open h hr (by simp) rfl (by simp [csrRefuses, hb, hw]) (by simp [Tx.csrPut, hb]; rfl)
      · exact exec_csrw_open h hr (by simp) rfl (by simp [csrRefuses, hb, hw]) (by simp [Tx.csrPut, hb]; rfl)
    · exact exec_csrw_open h hr (by simp) rfl (by simpa [csrRefuses] using hw) (by simp [Tx.csrPut]; rfl)
    · exact exec_csrw_open h hr (by simp) rfl rfl (by simp [Tx.csrPut]; rfl)
    · exact exec_csrw_open h hr (by simp) rfl rfl (by simp [Tx.csrPut]; rfl)
    · exact exec_csrw_open h hr (by simp) rfl (by simpa [csrRefuses] using hw) (by simp [Tx.csrPut]; rfl)

end Sys2Proof

/-! ## Words that only the supervisor may run (R446) -/

namespace Sys2Proof.Machine

variable {s : State} {t : Thread} {p : Panel} {l : Launch}

/-- Whatever its own part does, a supervisor's word in another launch is `ILLOP` (R446, R115). -/
theorem systemWord_unprivileged (h : s.Alone t p l) (hc : t.CanTrap l) (hl : l.supervisor = false) (i : Instr) (last : Bool)
    (ok : Thread → Panel → Launch → Bool) (go : (s : State) → Tx s → Thread → Panel → Launch → Tx s) :
    systemWord i last true ok go s = .next (s.withThread (t.trapped s l tILLOP 0 t.self)) :=
  engineWord_illop h hc go (by simp [hl])

theorem superCsr_eq_true {n : Nat} (hn : (0x800 ≤ n ∧ n ≤ 0x8FF) ∨ (0xC00 ≤ n ∧ n ≤ 0xCFF)) : superCsr n = true := by
  simpa [superCsr] using hn

end Sys2Proof.Machine

namespace Sys2Proof
open Machine

/-- Settles O30: each of the words is a `systemWord` whose check that the launch is the supervisor fails. -/
theorem privilegedWordsTrap : Obligations.PrivilegedWordsTrap := by
  unfold Obligations.PrivilegedWordsTrap
  intro i s t p l h hc hl hi
  have illop (last : Bool) (ok : Thread → Panel → Launch → Bool) (go : (s : State) → Tx s → Thread → Panel → Launch → Tx s) :=
    systemWord_unprivileged h hc hl i last ok go
  rcases hi with ⟨a, rfl⟩ | ⟨a, rfl⟩ | ⟨k, a, rfl⟩ | ⟨k, rfl⟩ | ⟨a, rfl⟩ | ⟨a, rfl⟩ | ⟨a, rfl⟩ | ⟨d, n, rfl⟩ |
    ⟨d, n, rfl, hn⟩ | ⟨d, n, rfl, hn⟩
  · change execRftResume a s = _
    exact illop _ _ _
  · change execRftKill a s = _
    exact illop _ _ _
  · change execBrkSet k a s = _
    exact illop _ _ _
  · change execBrkClr k s = _
    exact illop _ _ _
  · change execInvalTranslation a s = _
    exact illop _ _ _
  · change execInvalWriteback a s = _
    exact illop _ _ _
  · change execInvalKey a s = _
    exact illop _ _ _
  · change execCsrwIldom d n s = _
    exact illop _ _ _
  · rw [Takes, exec_csrr, csrRead, superCsr_eq_true hn]
    exact illop _ _ _
  · rw [Takes, exec_csrw, execCsrw, superCsr_eq_true hn]
    exact illop _ _ _

end Sys2Proof

/-! ## Least and sorted entries -/

namespace Sys2Proof.Machine

theorem leastBy_mem {α : Type} {key : α → Nat} {x : α} : ∀ {l : List α}, leastBy key l = some x → x ∈ l
  | y :: ys, h => by
    unfold leastBy at h
    split at h
    · cases h; exact List.mem_cons_self
    · next z hz =>
      split at h
      · cases h; exact List.mem_cons_self
      · cases h; exact List.mem_cons_of_mem _ (leastBy_mem hz)

theorem leastBy_eq_none {α : Type} {key : α → Nat} : ∀ {l : List α}, leastBy key l = none → l = []
  | [], _ => rfl
  | y :: ys, h => by
    unfold leastBy at h
    split at h
    · cases h
    · split at h <;> cases h

theorem leastBy_le {α : Type} {key : α → Nat} {x : α} : ∀ {l : List α}, leastBy key l = some x → ∀ y ∈ l, key x ≤ key y
  | z :: zs, h, y, hy => by
    unfold leastBy at h
    rcases List.mem_cons.mp hy with rfl | hy
    · split at h
      · cases h; exact Nat.le_refl _
      · split at h <;> cases h <;> omega
    · split at h
      · next hn => rw [leastBy_eq_none hn] at hy; cases hy
      · next w hw =>
        have := leastBy_le hw y hy
        split at h <;> cases h <;> omega

theorem mem_insertBy {α : Type} {key : α → Nat} {x y : α} : ∀ {l : List α}, y ∈ insertBy key x l ↔ y = x ∨ y ∈ l
  | [] => by simp [insertBy]
  | z :: zs => by
    unfold insertBy
    split
    · simp
    · simp [mem_insertBy (l := zs), or_left_comm]

theorem insertBy_sorted {α : Type} {key : α → Nat} {x : α} : ∀ {l : List α}, l.Pairwise (fun a b => key a ≤ key b) →
    (insertBy key x l).Pairwise fun a b => key a ≤ key b
  | [], _ => by simp [insertBy]
  | z :: zs, h => by
    obtain ⟨hz, hzs⟩ := List.pairwise_cons.mp h
    unfold insertBy
    split
    · next hlt =>
      refine List.pairwise_cons.mpr ⟨fun y hy => ?_, h⟩
      rcases List.mem_cons.mp hy with rfl | hy
      · exact hlt.le
      · exact hlt.le.trans (hz y hy)
    · next hge =>
      refine List.pairwise_cons.mpr ⟨fun y hy => ?_, insertBy_sorted hzs⟩
      rcases mem_insertBy.mp hy with rfl | hy
      · exact Nat.not_lt.mp hge
      · exact hz y hy

theorem foldl_insertBy {α : Type} {key : α → Nat} : ∀ (l acc : List α), acc.Pairwise (fun a b => key a ≤ key b) →
    (l.foldl (fun acc x => insertBy key x acc) acc).Pairwise (fun a b => key a ≤ key b) ∧
      ∀ x, x ∈ l.foldl (fun acc x => insertBy key x acc) acc ↔ x ∈ l ∨ x ∈ acc
  | [], acc, h => ⟨h, by simp⟩
  | y :: l, acc, h => by
    obtain ⟨hs, hm⟩ := foldl_insertBy l (insertBy key y acc) (insertBy_sorted h)
    refine ⟨hs, fun x => (hm x).trans ?_⟩
    rw [mem_insertBy, List.mem_cons]
    tauto

theorem sortBy_sorted {α : Type} (key : α → Nat) (l : List α) : (sortBy key l).Pairwise fun a b => key a ≤ key b :=
  (foldl_insertBy l [] List.Pairwise.nil).1

@[simp] theorem mem_sortBy {α : Type} {key : α → Nat} {l : List α} {x : α} : x ∈ sortBy key l ↔ x ∈ l :=
  ((foldl_insertBy l [] List.Pairwise.nil).2 x).trans (by simp)

end Sys2Proof.Machine

/-! ## Placement (R45 to R61) -/

namespace Sys2Proof.Machine

variable {s : State}

/-! ### Yokes and panels that are added -/

/-- `b` has `n` yokes more than `a`, and one panel more on each of `cores`. -/
structure Sys.Seats (b a : Sys) (n : Nat) (cores : List Nat) : Prop where
  yokes : b.yokes.length = a.yokes.length + n
  panels : b.panels.map (·.core) = a.panels.map (·.core) ++ cores

theorem Sys.Seats.refl (a : Sys) : a.Seats a 0 [] := ⟨rfl, by simp⟩

theorem Sys.Seats.trans {a b c : Sys} {n m : Nat} {xs ys : List Nat} (h : c.Seats b m ys) (k : b.Seats a n xs) :
    c.Seats a (n + m) (xs ++ ys) :=
  ⟨by rw [h.yokes, k.yokes, Nat.add_assoc], by rw [h.panels, k.panels, List.append_assoc]⟩

theorem Sys.addPanel_seats (s : Sys) (l : Launch) (y : Yoke) (pid core : Nat) : (s.addPanel l y pid core).Seats s 0 [core] :=
  ⟨rfl, by simp [Sys.addPanel, Panel.fresh]⟩

theorem Sys.foldl_addPanel_seats (l : Launch) (y : Yoke) : ∀ (ps : List (Nat × Nat)) (s : Sys),
    (ps.foldl (fun s x => s.addPanel l y x.1 x.2) s).Seats s 0 (ps.map (·.2))
  | [], s => .refl s
  | x :: ps, s => (Sys.foldl_addPanel_seats l y ps _).trans (s.addPanel_seats l y x.1 x.2)

theorem Sys.addYoke_seats (s : Sys) (l : Launch) (yid : Nat) (overflow : Bool) (ps : List (Nat × Nat)) :
    (s.addYoke l yid overflow ps).Seats s 1 (ps.map (·.2)) :=
  (Sys.foldl_addPanel_seats l _ ps _).trans (n := 1) (xs := []) ⟨by simp, by simp⟩

theorem pairFrom_cores (a : Nat) (cores : List Nat) : (pairFrom a cores).map (·.2) = cores := by
  unfold pairFrom
  apply List.ext_getElem
  · simp
  · intro i h _
    simp only [List.length_map, List.length_range] at h
    simp [h]

theorem Sys.placeFresh_seats (s : Sys) (l : Launch) (overflow : Bool) (cores : List Nat) :
    (s.placeFresh l overflow cores).Seats s 1 cores := by
  have seats (a b : Launch) (yid k : Nat) (o : Bool) : ((s.setLaunch a).addYoke b yid o (pairFrom k cores)).Seats s 1 cores := by
    have h := (s.setLaunch a).addYoke_seats b yid o (pairFrom k cores)
    rw [pairFrom_cores] at h
    exact ⟨h.yokes, h.panels⟩
  unfold Sys.placeFresh
  split
  · exact seats _ _ _ _ _
  · exact seats _ _ _ _ _

theorem Sys.placeRest_seats (p : Partition) (launch : Nat) : ∀ {n : Nat} {s u : Sys}, Sys.placeRest p launch n s = some u →
    ∃ more, u.Seats s n more
  | 0, s, u, h => by
    cases h
    exact ⟨[], .refl s⟩
  | n + 1, s, u, h => by
    unfold Sys.placeRest at h
    split at h
    · cases h
    · next l _ =>
      split at h
      · next cores _ =>
        obtain ⟨more, hm⟩ := Sys.placeRest_seats p launch h
        have := hm.trans (s.placeFresh_seats _ false cores)
        exact ⟨cores ++ more, Nat.add_comm 1 n ▸ this⟩
      · cases h

/-- The next yoke of a launch, and all its further yokes or none of them (R47). -/
theorem Sys.placeNext_seats (s : Sys) (l : Launch) (overflow : Bool) (cores : List Nat) :
    ∃ more m, (s.placeNext l overflow cores).Seats s (1 + m) (cores ++ more) ∧
      (m = 0 ∧ more = [] ∨ overflow = false ∧ m = l.yokes - (l.nextYoke + 1)) := by
  have h := s.placeFresh_seats l overflow cores
  have one : ∃ more m, (s.placeFresh l overflow cores).Seats s (1 + m) (cores ++ more) ∧
      (m = 0 ∧ more = [] ∨ overflow = false ∧ m = l.yokes - (l.nextYoke + 1)) := ⟨[], 0, by simpa using h, .inl ⟨rfl, rfl⟩⟩
  unfold Sys.placeNext
  dsimp only
  split
  · exact one
  · next ho =>
    cases hr : (s.part? l.part).bind fun p => Sys.placeRest p l.key (l.yokes - (l.nextYoke + 1)) (s.placeFresh l overflow cores) with
    | none => exact one
    | some u =>
      obtain ⟨p, -, hp⟩ := Option.bind_eq_some_iff.mp hr
      obtain ⟨more, hm⟩ := Sys.placeRest_seats p l.key hp
      exact ⟨more, _, hm.trans h, .inr ⟨by simpa using ho, rfl⟩⟩

/-! ### Yokes that are switched out -/

theorem Sys.settleYoke_panels (s : Sys) (y : Yoke) : (s.settleYoke y).panels = s.panels := by
  unfold Sys.settleYoke
  dsimp only
  split <;> rfl

theorem Sys.foldl_settleYoke_panels : ∀ (ys : List Yoke) (s : Sys), (ys.foldl (fun s y => s.settleYoke y) s).panels = s.panels
  | [], _ => rfl
  | y :: ys, s => (Sys.foldl_settleYoke_panels ys _).trans (s.settleYoke_panels y)

/-- The panels of the chosen yokes stop, but for those that are out (R49). -/
theorem Sys.beginEvict_stops (s : Sys) (ys : List Nat) (own : Bool) : ∀ p ∈ (s.beginEvict ys own).panels,
    p.yoke.any ys.contains = true → p.phase = .stopping ∨ p.phase = .out := by
  intro p hp hy
  unfold Sys.beginEvict at hp
  rw [Sys.foldl_settleYoke_panels] at hp
  obtain ⟨q, hq, rfl⟩ := List.mem_map.mp hp
  have hyq : q.yoke.any ys.contains = true := by
    split at hy <;> exact hy
  have hgone : ((s.panels.filter fun p => p.yoke.any ys.contains).map (·.key)).contains q.key = true := by
    rw [List.contains_iff_mem]
    exact List.mem_map_of_mem (List.mem_filter.mpr ⟨hq, hyq⟩)
  by_cases ho : q.phase = .out
  · right
    rw [if_neg (by simp [ho]), ho]
  · left
    rw [if_pos (by simp only [hgone, Bool.true_or, Bool.true_and, bne_iff_ne]; exact ho)]

theorem Tx.settleTravel_panels {s0 : State} (tx : Tx s0) (l : Launch) :
    (tx.settleTravel l).sys.panels = tx.sys.panels ∧ (tx.settleTravel l).halt = tx.halt := by
  unfold Tx.settleTravel
  split <;> exact ⟨rfl, rfl⟩

theorem Tx.each_settleTravel_panels {s0 : State} : ∀ (ls : List Launch) (tx : Tx s0),
    (tx.each ls Tx.settleTravel).sys.panels = tx.sys.panels ∧ (tx.each ls Tx.settleTravel).halt = tx.halt
  | [], _ => ⟨rfl, rfl⟩
  | l :: ls, tx => by
    obtain ⟨hp, hh⟩ := Tx.each_settleTravel_panels ls (tx.settleTravel l)
    obtain ⟨kp, kh⟩ := tx.settleTravel_panels l
    exact ⟨hp.trans kp, hh.trans kh⟩

/-! ### What YOKE_PLACEMENT does with a plan -/

theorem exec_yokePlacement_wait {n : Nat} (h : planOf s n = .wait) : exec (.yokePlacement n) s = .next s := by
  change execYokePlacement n s = _
  simp only [execYokePlacement, eventStep, if_true, Tx.start_st, h]
  rfl

theorem exec_yokePlacement_fresh {n : Nat} {l : Launch} {o : Bool} {cores : List Nat} (h : planOf s n = .fresh l o cores) :
    exec (.yokePlacement n) s = .next (s.withSys (s.sys.placeNext l o cores)) := by
  change execYokePlacement n s = _
  simp only [execYokePlacement, eventStep, if_true, Tx.start_st, h]
  rfl

theorem exec_yokePlacement_again {n : Nat} {y : Yoke} {cores : List Nat} (h : planOf s n = .again y cores) :
    exec (.yokePlacement n) s = .next (s.withSys (s.sys.placeAgain y cores)) := by
  change execYokePlacement n s = _
  simp only [execYokePlacement, eventStep, if_true, Tx.start_st, h]
  rfl

theorem exec_yokePlacement_pin {n : Nat} {l : Launch} {hs : List (List Nat)} {cores : List Nat} (h : planOf s n = .pin l hs cores) :
    exec (.yokePlacement n) s = .next (s.withSys (s.sys.placeTravel l hs cores)) := by
  change execYokePlacement n s = _
  simp only [execYokePlacement, eventStep, if_true, Tx.start_st, h]
  rfl

theorem exec_yokePlacement_fail {n : Nat} {l : Launch} (h : planOf s n = .fail l) (hl : l.Silent) :
    ∃ u, exec (.yokePlacement n) s = .next u ∧ u.sys.Gone l.key := by
  obtain ⟨hh, hg, -⟩ := (Tx.start s).endLaunch_silent l 0x0E false hl
  refine ⟨_, ?_, hg⟩
  change execYokePlacement n s = _
  simp only [execYokePlacement, eventStep, if_true, Tx.start_st, h]
  exact Tx.done_of_halt hh

theorem exec_yokePlacement_evict {n : Nat} {ys : List Nat} (h : planOf s n = .evict ys) :
    ∃ u, exec (.yokePlacement n) s = .next u ∧
      ∀ p ∈ u.sys.panels, p.yoke.any ys.contains = true → p.phase = .stopping ∨ p.phase = .out := by
  have key (own : Bool) (ls : List Launch) := Tx.each_settleTravel_panels ls ((Tx.start s).mod fun s => s.beginEvict ys own)
  change ∃ u, execYokePlacement n s = _ ∧ _
  simp only [execYokePlacement, eventStep, if_true, Tx.start_st, h]
  exact ⟨_, Tx.done_of_halt (key _ _).2, fun p hp => Sys.beginEvict_stops s.sys ys _ p ((key _ _).1 ▸ hp)⟩

end Sys2Proof.Machine

/-! ### Whose turn it is, and what its plan comes to -/

namespace Sys2Proof.Machine

variable {s : Sys} {p : Partition}

/-- A want that fits is never an eviction. -/
theorem Want.place_ne_evict {w : Want} {ys : List Nat} : w.place s p ≠ some (.evict ys) := by
  cases w with
  | travel l =>
    simp only [Want.place]
    split
    · simp [Option.bind_eq_some_iff]
    · simp
  | _ => simp [Want.place, Option.bind_eq_some_iff]

/-- A new yoke that is no overflow yoke is the next of its launch, on a cluster that it fits. -/
theorem Want.place_fresh {w : Want} {l : Launch} {cores : List Nat} (h : w.place s p = some (.fresh l false cores)) :
    w = .next l ∧ findCluster s p l.units (List.replicate l.nextPanels l.shape) = some cores := by
  cases w with
  | next l' =>
    obtain ⟨cs, hcs, he⟩ := Option.map_eq_some_iff.mp h
    cases he
    exact ⟨rfl, (Option.filter_eq_some_iff.mp hcs).1⟩
  | overflow l' => simp [Want.place] at h
  | again l' y => simp [Want.place] at h
  | whole l' => simp [Want.place, Option.bind_eq_some_iff] at h
  | travel l' =>
    simp only [Want.place] at h
    split at h
    · simp [Option.bind_eq_some_iff] at h
    · cases h
  | checking l' => cases h

/-- A plan waits, fails the launch, is what the want comes to, or evicts the want's victims. -/
theorem Want.plan_cases (w : Want) (s : Sys) (p : Partition) :
    w.plan s p = .wait ∨ w.plan s p = .fail w.launch ∨ w.place s p = some (w.plan s p) ∨
      ∃ u ys, w.plan s p = .evict ys ∧ w.evictTill u p (w.victims u) [] = some ys := by
  unfold Want.plan
  apply iteInduction (motive := fun q => q = .wait ∨ q = .fail w.launch ∨ w.place s p = some q ∨
    ∃ u ys, q = .evict ys ∧ w.evictTill u p (w.victims u) [] = some ys)
  · exact fun _ => .inl rfl
  · intro _
    split
    · exact .inr (.inl rfl)
    · split
      · next h => exact .inr (.inr (.inl h))
      · dsimp only
        split
        · exact .inl rfl
        · split
          · next ys h => exact .inr (.inr (.inr ⟨_, ys, rfl, h⟩))
          · exact .inl rfl

/-- Only a launch of class 7 and an overflow yoke have victims (R49, R341). -/
theorem Want.victims_eq_nil {w : Want} (ho : ∀ l, w ≠ .overflow l) (hc : w.launch.cls ≠ 7) (s : Sys) : w.victims s = [] := by
  unfold Want.victims
  dsimp only
  split
  · next l => exact absurd rfl (ho l)
  · rw [if_pos hc]

/-- The plan of a partition is that of its first want. -/
theorem planOf_of_ne_wait {st : State} {n : Nat} (h : planOf st n ≠ .wait) :
    ∃ w p, st.firstWant n = some w ∧ st.sys.part? n = some p ∧ planOf st n = w.plan st.sys p := by
  unfold planOf at h ⊢
  split at h
  · next w p hw hp => exact ⟨w, p, hw, hp, rfl⟩
  · exact absurd rfl h

theorem planOf_fresh {st : State} {n : Nat} {l : Launch} {cores : List Nat} (h : planOf st n = .fresh l false cores) :
    st.firstWant n = some (.next l) ∧
      ∃ p, st.sys.part? n = some p ∧ findCluster st.sys p l.units (List.replicate l.nextPanels l.shape) = some cores := by
  obtain ⟨w, p, hw, hp, hplan⟩ := planOf_of_ne_wait (by rw [h]; exact Plan.noConfusion)
  rw [h] at hplan
  rcases w.plan_cases st.sys p with hq | hq | hq | ⟨_, _, hq, -⟩ <;> rw [← hplan] at hq
  · cases hq
  · cases hq
  · obtain ⟨rfl, hc⟩ := Want.place_fresh hq
    exact ⟨hw, p, hp, hc⟩
  · cases hq

/-- An eviction serves a launch of class 7 or an overflow yoke. -/
theorem planOf_evict {st : State} {n : Nat} {w : Want} {ys : List Nat} (hw : st.firstWant n = some w)
    (h : planOf st n = .evict ys) : w.launch.cls = 7 ∨ ∃ l, w = .overflow l := by
  by_contra hno
  obtain ⟨hc, ho⟩ := not_or.mp hno
  obtain ⟨w', p, hw', hp, hplan⟩ := planOf_of_ne_wait (by rw [h]; exact Plan.noConfusion)
  cases hw.symm.trans hw'
  rw [h] at hplan
  rcases w.plan_cases st.sys p with hq | hq | hq | ⟨u, _, -, hv⟩
  · rw [← hplan] at hq; cases hq
  · rw [← hplan] at hq; cases hq
  · rw [← hplan] at hq; exact Want.place_ne_evict hq
  · rw [Want.victims_eq_nil (not_exists.mp ho) hc] at hv
    cases hv

/-! ### The order of wants (R45, R51) -/

/-- Where a want stands among those of its class: what has started before what has not. -/
def Want.stage (s : Sys) : Want → Nat
  | .again l y => if y.forOverflow && s.overflowWanted l then 1 else 0
  | .whole _ => 0
  | .overflow l => if s.yokes.any fun y => y.launch == l.key && y.forOverflow then 1 else 2
  | .next _ | .travel _ | .checking _ => 3

/-- What orders the evicted yokes of a launch. -/
def Want.yokeRank : Want → Nat
  | .again _ y => y.yid + 1
  | _ => 0

theorem Want.rank_eq (s : Sys) (w : Want) :
    w.rank s = ((7 - w.launch.cls) * 4 + w.stage s) * 2 ^ 256 + w.launch.order * 2 ^ 64 + w.yokeRank := by
  cases w <;> rfl

theorem Want.stage_le (s : Sys) (w : Want) : w.stage s ≤ 3 ∧ (w.stage s = 3 ↔ w.unstarted = true) := by
  cases w with
  | again l y | overflow l =>
    simp only [Want.stage, Want.unstarted]
    split <;> simp
  | _ => simp [Want.stage, Want.unstarted]

theorem Want.yokeRank_of_unstarted {w : Want} (h : w.unstarted = true) : w.yokeRank = 0 := by
  cases w with
  | again l y => cases h
  | _ => rfl

/-- The wants of a launch are its own, and name yokes of the table. -/
theorem State.mem_wantsOf {st : State} {l : Launch} {w : Want} (h : w ∈ st.wantsOf l) :
    w.launch = l ∧ ∀ l' y, w = .again l' y → y ∈ st.sys.yokes := by
  unfold State.wantsOf at h
  dsimp only at h
  split at h
  · cases h
  · split at h
    · split at h
      · cases List.mem_singleton.mp h; exact ⟨rfl, fun _ _ h => by cases h⟩
      · cases h
    · split at h
      · cases h
      · split at h
        · split at h
          · cases List.mem_singleton.mp h; exact ⟨rfl, fun _ _ h => by cases h⟩
          · split at h
            · cases List.mem_singleton.mp h; exact ⟨rfl, fun _ _ h => by cases h⟩
            · cases h
        · rcases List.mem_append.mp h with h | h
          · rcases List.mem_append.mp h with h | h
            · split at h
              · cases List.mem_singleton.mp h; exact ⟨rfl, fun _ _ h => by cases h⟩
              · cases h
            · obtain ⟨y, hy, rfl⟩ := List.mem_map.mp h
              exact ⟨rfl, fun _ _ h => by cases h; exact List.mem_of_mem_filter hy⟩
          · split at h
            · cases List.mem_singleton.mp h; exact ⟨rfl, fun _ _ h => by cases h⟩
            · cases h

/-- Numbers that fit their places compare place by place. -/
theorem lex_of_le {a b x y B : Nat} (h : a * B + x ≤ b * B + y) (hy : y < B) : a < b ∨ (a = b ∧ x ≤ y) := by
  rcases Nat.lt_trichotomy a b with hab | rfl | hab
  · exact .inl hab
  · exact .inr ⟨rfl, by omega⟩
  · have : (b + 1) * B ≤ a * B := Nat.mul_le_mul_right B hab
    rw [Nat.add_mul] at this
    omega

section

variable {st : State} {n : Nat} (hl : ∀ l ∈ st.sys.launches, l.cls ≤ 7 ∧ l.order < 2 ^ 128)
  (hy : ∀ y ∈ st.sys.yokes, y.yid < 2 ^ 32 ∧ y.order < 2 ^ 128)

include hy in
theorem Want.age_lt {l : Launch} {w : Want} (ho : l.order < 2 ^ 128) (h : w ∈ st.wantsOf l) :
    w.launch.order * 2 ^ 64 + w.yokeRank < 2 ^ 256 := by
  obtain ⟨rfl, hyoke⟩ := State.mem_wantsOf h
  have : w.yokeRank ≤ 2 ^ 32 := by
    cases w with
    | again l y =>
      have := (hy y (hyoke l y rfl)).1
      simp only [Want.yokeRank]
      omega
    | _ => simp [Want.yokeRank]
  omega

include hl hy in
/-- The first want has the highest class, in it has started if any has, and of those that have not is the oldest. -/
theorem State.firstWant_first {w : Want} (hw : st.firstWant n = some w) {l : Launch} (hm : l ∈ st.sys.launches) (hn : l.part = n)
    {v : Want} (hv : v ∈ st.wantsOf l) : v.launch.cls ≤ w.launch.cls ∧ (v.launch.cls = w.launch.cls →
      (v.unstarted = false → w.unstarted = false) ∧
      (v.unstarted = true → w.unstarted = true → w.launch.order ≤ v.launch.order)) := by
  obtain ⟨lw, hlw, hvw⟩ := List.mem_flatMap.mp (leastBy_mem hw)
  have hle := leastBy_le hw v (List.mem_flatMap.mpr ⟨l, List.mem_filter.mpr ⟨hm, by simpa using hn⟩, hv⟩)
  have hlw := hl lw (List.mem_of_mem_filter hlw)
  have hlv := hl l hm
  have av := Want.age_lt hy hlv.2 hv
  obtain ⟨rfl, -⟩ := State.mem_wantsOf hv
  obtain ⟨rfl, -⟩ := State.mem_wantsOf hvw
  obtain ⟨sw, uw⟩ := w.stage_le st.sys
  obtain ⟨sv, uv⟩ := v.stage_le st.sys
  rw [Want.rank_eq, Want.rank_eq, Nat.add_assoc, Nat.add_assoc] at hle
  have hlex := lex_of_le hle av
  refine ⟨by omega, fun hc => ⟨fun hs => ?_, fun hs hs' => ?_⟩⟩
  · have : v.stage st.sys ≠ 3 := fun h => by simp [uv.mp h] at hs
    have : w.stage st.sys ≠ 3 := by omega
    simpa [uw] using this
  · have := uv.mpr hs
    have := uw.mpr hs'
    rw [Want.yokeRank_of_unstarted hs, Want.yokeRank_of_unstarted hs'] at hlex
    omega

include hy in
/-- Victims go in the order of their class, lowest first, and in it the yoke placed last first (R49). -/
theorem Want.victims_ordered {w : Want} (ho : ∀ l, w ≠ .overflow l) :
    ((w.victims st.sys).map fun y => (((st.sys.launch? y.launch).map (·.cls)).getD 0, y.order)).Pairwise
      fun a b => a.1 < b.1 ∨ (a.1 = b.1 ∧ b.2 ≤ a.2) := by
  unfold Want.victims
  dsimp only
  split
  · next l => exact absurd rfl (ho l)
  · split
    · exact List.Pairwise.nil
    · rw [List.map_map, List.pairwise_map, List.pairwise_reverse]
      refine (sortBy_sorted _ _).imp_of_mem ?_
      intro a b ha hb hab
      have cand {x : Nat × Yoke} : x ∈ sortBy (fun x => (7 - x.1) * 2 ^ 128 + x.2.order)
          ((st.sys.yokes.filter fun y => y.phase == .placed && !st.sys.leaving y).filterMap fun y =>
            (st.sys.launch? y.launch).bind fun x =>
              if x.part = w.launch.part ∧ x.cls < 7 ∧ x.supervisor = false then some (x.cls, y) else none) →
          x.1 < 7 ∧ x.2.order < 2 ^ 128 ∧ ((st.sys.launch? x.2.launch).map (·.cls)).getD 0 = x.1 := by
        intro hx
        obtain ⟨y, hy', hx⟩ := List.mem_filterMap.mp (mem_sortBy.mp hx)
        obtain ⟨l, hl, hx⟩ := Option.bind_eq_some_iff.mp hx
        split at hx
        · next hc =>
          cases hx
          exact ⟨hc.2.1, (hy y (List.mem_of_mem_filter hy')).2, by simp [hl]⟩
        · cases hx
      obtain ⟨ca, -, ka⟩ := cand ha
      obtain ⟨cb, ob, kb⟩ := cand hb
      simp only [Function.comp, ka, kb]
      rcases lex_of_le hab ob with h | ⟨h, h'⟩
      · left; omega
      · right; omega

end

/-! ### Clusters and cores (R58 to R60) -/

/-- The cluster that a yoke goes to has the lowest load of those that it fits, and of these the lowest number. -/
theorem findCluster_least {units : Nat} {xs : List Shape} {cs : List Nat} (h : findCluster s p units xs = some cs)
    (hk : ∀ k ∈ p.clusters, k.1 < 72) :
    ∃ k ∈ p.clusters, fitCluster s k.2 units xs = some cs ∧ ∀ j ∈ p.clusters, (fitCluster s j.2 units xs).isSome = true →
      s.load k.2 < s.load j.2 ∨ (s.load k.2 = s.load j.2 ∧ k.1 ≤ j.1) := by
  obtain ⟨f, hf, rfl⟩ := Option.map_eq_some_iff.mp h
  obtain ⟨k, hkm, hkf⟩ := List.mem_filterMap.mp (leastBy_mem hf)
  obtain ⟨d, hd, rfl⟩ := Option.map_eq_some_iff.mp hkf
  refine ⟨k, hkm, hd, fun j hj hfit => ?_⟩
  obtain ⟨e, he⟩ := Option.isSome_iff_exists.mp hfit
  have hle := leastBy_le hf (s.load j.2, j.1, e) (List.mem_filterMap.mpr ⟨j, hj, by simp [he]⟩)
  have := hk j hj
  exact lex_of_le hle (by omega)

/-- A panel goes to a core that it fits with the fewest panels, and the others are dealt to what room is left. -/
theorem deal_cons {rooms : List Room} {x : Shape} {rest : List Shape} {c : Nat} {cs : List Nat}
    (h : deal rooms (x :: rest) = some (c :: cs)) : ∃ r ∈ rooms, r.core = c ∧ r.fits x = true ∧
      (∀ q ∈ rooms, q.fits x = true → r.panels ≤ q.panels) ∧
      deal (rooms.map fun q => if q.core = c then q.take x else q) rest = some cs := by
  unfold deal at h
  split at h
  · cases h
  · next r hr =>
    obtain ⟨cs', hcs, he⟩ := Option.map_eq_some_iff.mp h
    cases he
    obtain ⟨hm, hfit⟩ := List.mem_filter.mp (leastBy_mem hr)
    exact ⟨r, hm, rfl, hfit, fun q hq hqf => leastBy_le hr q (List.mem_filter.mpr ⟨hq, hqf⟩), hcs⟩

/-! ### The start of a panel (R42) -/

theorem Thread.setVs_ids : ∀ (ws : List (Nat × Word)) (t : Thread), (t.setVs ws).panel = t.panel ∧ (t.setVs ws).tid = t.tid
  | [], _ => ⟨rfl, rfl⟩
  | w :: ws, t => by
    obtain ⟨hp, ht⟩ := Thread.setVs_ids ws (t.setV w.1 w.2)
    exact ⟨hp.trans (by simp), ht.trans (by simp)⟩

theorem Sys.newThread_ids (s : Sys) (l : Launch) (p : Panel) (tid : Nat) :
    ((s.newThread l p tid).panel, (s.newThread l p tid).tid) = (p.key, tid) := by
  unfold Sys.newThread
  dsimp only
  have h (t : Thread) (ws : List (Nat × Word)) : ((t.setVs ws).panel, (t.setVs ws).tid) = (t.panel, t.tid) :=
    Prod.ext (Thread.setVs_ids ws t).1 (Thread.setVs_ids ws t).2
  split <;> exact h _ _

/-- Every thread number of a panel has its thread. -/
theorem Sys.startThreads_threads (s : Sys) (l : Launch) (p : Panel) :
    (s.startThreads l p).threads.map (fun t => (t.panel, t.tid)) =
        s.threads.map (fun t => (t.panel, t.tid)) ++ (List.range p.nthr).map (fun k => (p.key, k)) ∧
      (s.startThreads l p).panels = s.panels := by
  have key : ∀ (ks : List Nat) (s : Sys),
      (ks.foldl (fun s tid => { s with threads := s.threads ++ [s.newThread l p tid] }) s).threads.map (fun t => (t.panel, t.tid)) =
        s.threads.map (fun t => (t.panel, t.tid)) ++ ks.map (fun k => (p.key, k)) ∧
      (ks.foldl (fun s tid => { s with threads := s.threads ++ [s.newThread l p tid] }) s).panels = s.panels := by
    intro ks
    induction ks with
    | nil => exact fun s => ⟨by simp, rfl⟩
    | cons k ks ih =>
      intro s
      obtain ⟨ht, hp⟩ := ih { s with threads := s.threads ++ [s.newThread l p k] }
      refine ⟨?_, hp⟩
      rw [List.foldl_cons, ht]
      simp only [List.map_append, List.map_cons, List.map_nil, Sys.newThread_ids, List.append_assoc, List.cons_append, List.nil_append]
  exact key _ s

theorem Sys.sendLine_rest (s : Sys) (core : Nat) (l : Launch) (ix : Nat) : (s.sendLine core l ix).rest = s.rest := by
  unfold Sys.sendLine
  split
  · split
    · exact s.fillLine_rest _ _
    · rfl
  · rfl

theorem Sys.sendLine_keeps (s : Sys) (core : Nat) (l : Launch) (ix : Nat) :
    (s.sendLine core l ix).panels = s.panels ∧ (s.sendLine core l ix).threads = s.threads := by
  have hp := congrArg Sys.panels (s.sendLine_rest core l ix)
  have ht := congrArg Sys.threads (s.sendLine_rest core l ix)
  exact ⟨hp, ht⟩

theorem exec_panelStart {s : State} {p : Panel} {l : Launch} (hp : s.sys.panel? p.key = some p) (hl : s.sys.launchOf p = some l)
    (hr : startReady s.sys p = true) : ∃ u, exec (.panelStart p.key) s = .next u ∧
      u.sys.panel? p.key = some { p with phase := .running } ∧
      u.sys.threads.map (fun t => (t.panel, t.tid)) =
        s.sys.threads.map (fun t => (t.panel, t.tid)) ++ (List.range p.nthr).map fun k => (p.key, k) := by
  let tx := (Tx.start s).mod fun s =>
    ((s.setPanel { p with phase := .running }).startThreads l p).sendLine p.core l (s.startOf l p).1
  have hq := tx.acquire_quiet p.core obsC
  obtain ⟨hsp, hst⟩ :=
    ((s.sys.setPanel { p with phase := .running }).startThreads l p).sendLine_keeps p.core l (s.sys.startOf l p).1
  obtain ⟨ht, hpan⟩ := Sys.startThreads_threads (s.sys.setPanel { p with phase := .running }) l p
  refine ⟨(tx.acquire p.core obsC).st, ?_, ?_, ?_⟩
  · change execPanelStart p.key s = _
    simp only [execPanelStart, hp, hl, eventStep, hr, if_true]
    exact Tx.done_of_halt hq.halt
  · refine (congrArg (findKey Panel.key p.key) (hq.panels.trans (hsp.trans hpan))).trans ?_
    exact findKey_putKey (x := { p with phase := .running }) (by rw [show findKey _ _ _ = _ from hp]; rfl)
  · exact (congrArg (List.map _) (hq.threads.trans hst)).trans ht

end Sys2Proof.Machine

namespace Sys2Proof
open Machine

/-- Settles O54: what `exec` does with each plan, what `planOf` can come to, and what the least of a list is. -/
theorem placementAndStart : Obligations.PlacementAndStart := by
  unfold Obligations.PlacementAndStart
  intro s n
  refine ⟨fun l o cores h => ?_, fun y cores => exec_yokePlacement_again, fun l hs cores => exec_yokePlacement_pin,
    fun ys => exec_yokePlacement_evict, fun l => exec_yokePlacement_fail, exec_yokePlacement_wait, fun l cores => planOf_fresh,
    fun hl hy w hw => ⟨fun l hm hn v hv => State.firstWant_first hl hy hw hm hn hv, fun ys => planOf_evict hw,
      fun ho => Want.victims_ordered hy ho⟩,
    fun p units xs cs => findCluster_least, fun rooms x rest c cs => deal_cons, fun p l => exec_panelStart⟩
  obtain ⟨more, m, ⟨hyokes, hpanels⟩, hm⟩ := s.sys.placeNext_seats l o cores
  exact ⟨_, more, m, exec_yokePlacement_fresh h, by rw [State.withSys, hyokes, Nat.add_assoc],
    by rw [State.withSys, hpanels, List.append_assoc], hm⟩

end Sys2Proof

/-! ## Panels that leave and come back (R64, R436, R466) -/

namespace Sys2Proof.Machine

variable {s0 s : State} {p : Panel} {l : Launch}

open Tx (Quiet)

theorem Sys.launchOf_key {y : Sys} (h : y.launchOf p = some l) : l.key = p.launch := key_of_findKey h

theorem Sys.launch?_of_launchOf {y : Sys} (h : y.launchOf p = some l) : y.launch? l.key = some l := by
  rw [Sys.launchOf_key h]
  exact h

/-- A table of panels read through a change that keeps their keys. -/
theorem Sys.panel?_map {y z : Sys} {f : Panel → Panel} (hf : ∀ q, (f q).key = q.key) (hz : z.panels = y.panels.map f) (k : Nat) :
    z.panel? k = (y.panel? k).map f := by
  unfold Sys.panel?
  rw [hz]
  exact findKey_map hf k y.panels

theorem findKey_isSome {α : Type} {key : α → Nat} {k : Nat} {xs : List α} : (findKey key k xs).isSome = true ↔ k ∈ xs.map key := by
  simp [findKey]

theorem putKey_keys {α : Type} (key : α → Nat) (x : α) (xs : List α) : (putKey key x xs).map key = xs.map key := by
  unfold putKey
  rw [List.map_map]
  refine List.map_congr_left fun y _ => ?_
  simp only [Function.comp]
  split
  · next h => exact h.symm
  · rfl

/-- A thread that is written twice. -/
theorem Sys.setThread_setThread (y : Sys) {t u : Thread} (hp : t.panel = u.panel) (ht : t.tid = u.tid) :
    (y.setThread t).setThread u = y.setThread u := by
  unfold Sys.setThread
  simp only [List.map_map, Sys.mk.injEq, true_and, and_true]
  refine List.map_congr_left fun x _ => ?_
  simp only [Function.comp, hp, ht]
  split
  · exact if_pos ⟨hp, ht⟩
  · rfl

theorem foldl_setThread_keeps : ∀ (ts : List Thread) (y : Sys),
    (ts.foldl (fun y t => y.setThread t) y).panels = y.panels ∧ (ts.foldl (fun y t => y.setThread t) y).reqs = y.reqs
  | [], _ => ⟨rfl, rfl⟩
  | t :: ts, y => foldl_setThread_keeps ts (y.setThread t)

/-! ### The end of a run-ahead (R432) -/

/-- What the end of a run-ahead leaves of its panel. -/
theorem Tx.closeAhead_panels (tx : Tx s0) (p : Panel) (l : Launch) (a : RunAhead) :
    (tx.closeAhead p l a).halt = tx.halt ∧ (tx.closeAhead p l a).sys.reqs = tx.sys.reqs ∧
      (tx.closeAhead p l a).sys.panels = putKey Panel.key { p with
        masks := if a.saved.isEmpty then p.masks else a.savedMasks, ahead := none, batch := some (tx.sys.nextTicket l.part) }
        tx.sys.panels := by
  let k := tx.sys.nextTicket l.part
  let open_ (x : Partition) : Partition := { x with
    nextTicket := (if k + 1 ≥ noTicket then 1 else k + 1), tickets := x.tickets ++ [⟨k, tPGFLT, .batch p.key, l.key⟩] }
  let post (x : Partition) : Partition := { x with
    faults := x.faults ++ (List.range a.records.length).map fun i => (a.records.getD i ⟨[]⟩).inBatch i a.records.length k }
  have hpan : (updPart l.part post (updPart l.part open_ tx.sys)).panels = tx.sys.panels :=
    (updPart_field (·.panels) (fun _ => rfl) _ _ _).trans (updPart_field (·.panels) (fun _ => rfl) _ _ _)
  have hreq : (updPart l.part post (updPart l.part open_ tx.sys)).reqs = tx.sys.reqs :=
    (updPart_field (·.reqs) (fun _ => rfl) _ _ _).trans (updPart_field (·.reqs) (fun _ => rfl) _ _ _)
  unfold Tx.closeAhead Tx.openTicket
  simp only [Tx.mod_sys, Tx.mod_halt, Tx.notice, (foldl_setThread_keeps _ _).1, (foldl_setThread_keeps _ _).2, true_and]
  exact ⟨hreq, congrArg (putKey Panel.key _) hpan⟩

theorem exec_runAheadEnd {a : RunAhead} {q : Partition} (hp : s.sys.panel? p.key = some p) (hl : s.sys.launchOf p = some l)
    (hq : s.sys.part? l.part = some q) (ha : p.ahead = some a) (ho : aheadOver s.sys p = true) :
    ∃ u, exec (.runAheadEnd p.key) s = .next u ∧
      u.sys.panel? p.key = some { p with masks := a.savedMasks, ahead := none, batch := some q.nextTicket } := by
  obtain ⟨hh, -, hpan⟩ := (Tx.start s).closeAhead_panels p l a
  have hsaved : a.saved.isEmpty = false := by
    unfold aheadOver at ho
    rw [ha] at ho
    simp only [Bool.and_eq_true, Bool.not_eq_true'] at ho
    exact ho.1
  have hk : s.sys.nextTicket l.part = q.nextTicket := by rw [Sys.nextTicket, hq]; rfl
  refine ⟨((Tx.start s).closeAhead p l a).st, ?_, ?_⟩
  · change execRunAheadEnd p.key s = _
    simp only [execRunAheadEnd, hp, ha, hl, eventStep, ho, if_true]
    exact Tx.done_of_halt hh
  · rw [hsaved, Tx.start_sys, hk] at hpan
    refine (congrArg (findKey Panel.key p.key) hpan).trans ?_
    exact findKey_putKey (x := { p with masks := a.savedMasks, ahead := none, batch := some q.nextTicket })
      (by rw [show findKey _ _ _ = _ from hp]; rfl)

/-! ### Switching out (R436) -/

/-- `b` comes from `a` without a stop; every panel still stands in its place, and every request. -/
structure Tx.Standing (b a : Tx s0) : Prop where
  halt : b.halt = a.halt
  keys : b.sys.panels.map Panel.key = a.sys.panels.map Panel.key
  reqs : b.sys.reqs = a.sys.reqs

namespace Tx.Standing

theorem refl (a : Tx s0) : Standing a a := ⟨rfl, rfl, rfl⟩

theorem trans {a b c : Tx s0} (h : Standing c b) (k : Standing b a) : Standing c a :=
  ⟨h.halt.trans k.halt, h.keys.trans k.keys, h.reqs.trans k.reqs⟩

theorem of_quiet {a b : Tx s0} (h : Quiet b a) : Standing b a := ⟨h.halt, by rw [h.panels], h.reqs⟩

theorem each {α : Type} {f : Tx s0 → α → Tx s0} (hf : ∀ tx x, (∀ r ∈ tx.sys.reqs, r.held = none) → Standing (f tx x) tx) :
    ∀ (xs : List α) (tx : Tx s0), (∀ r ∈ tx.sys.reqs, r.held = none) → Standing (tx.each xs f) tx
  | [], tx, _ => .refl tx
  | x :: xs, tx, h => by
    have h1 := hf tx x h
    exact (each hf xs (f tx x) (h1.reqs ▸ h)).trans h1

end Tx.Standing

open Tx (Standing)

theorem Tx.stopAhead_standing (tx : Tx s0) (p : Panel) (l : Launch) : Standing (tx.stopAhead p l) tx := by
  unfold Tx.stopAhead
  split
  · obtain ⟨hh, hr, hp⟩ := tx.closeAhead_panels p l _
    exact ⟨hh, by rw [hp, putKey_keys], hr⟩
  · exact .refl tx

/-- Without held requests nothing is discarded. -/
theorem Tx.discardHeld_standing (tx : Tx s0) (panel : Nat) (h : ∀ r ∈ tx.sys.reqs, r.held = none) :
    Standing (tx.discardHeld panel) tx := by
  unfold Tx.discardHeld
  split
  · exact .refl tx
  · have hnone : tx.sys.reqs.filter (fun r => r.panel == panel && r.held.isSome) = [] :=
      List.filter_eq_nil_iff.mpr fun r hr => by simp [h r hr]
    have hall : tx.sys.reqs.filter (fun r => !(r.panel == panel && r.held.isSome)) = tx.sys.reqs :=
      List.filter_eq_self.mpr fun r hr => by simp [h r hr]
    dsimp only
    rw [hnone]
    exact ⟨rfl, rfl, hall⟩

theorem Tx.unpopHeld_standing (tx : Tx s0) (p : Panel) : Standing (tx.unpopHeld p) tx := by
  obtain ⟨hh, -, hr⟩ := tx.unpopHeld_rest p
  have hpan := congrArg Sys.panels hr
  have hreq := congrArg Sys.reqs hr
  exact ⟨hh, congrArg (List.map Panel.key) hpan, hreq⟩

theorem Tx.imageWrite_quiet (tx : Tx s0) (q : Partition) (i : Image) (off : Nat) (bs : List Byte) : Quiet (tx.imageWrite q i off bs) tx :=
  Tx.each_quiet (fun tx _ => tx.homeWrite_quiet _ _ _ _ _ _) _ tx

/-- `b` comes from `a` without a stop and without a change of a panel. -/
structure Tx.Seated (b a : Tx s0) : Prop where
  halt : b.halt = a.halt
  panels : b.sys.panels = a.sys.panels

namespace Tx.Seated

theorem refl (a : Tx s0) : Seated a a := ⟨rfl, rfl⟩

theorem trans {a b c : Tx s0} (h : Seated c b) (k : Seated b a) : Seated c a := ⟨h.halt.trans k.halt, h.panels.trans k.panels⟩

theorem of_quiet {a b : Tx s0} (h : Quiet b a) : Seated b a := ⟨h.halt, h.panels⟩

theorem updPart (tx : Tx s0) (n : Nat) (f : Partition → Partition) : Seated (tx.mod (updPart n f)) tx :=
  ⟨rfl, updPart_field (·.panels) (fun _ => rfl) n f tx.sys⟩

theorem each {α : Type} {f : Tx s0 → α → Tx s0} (hf : ∀ tx x, Seated (f tx x) tx) : ∀ (xs : List α) (tx : Tx s0), Seated (tx.each xs f) tx
  | [], tx => .refl tx
  | x :: xs, tx => (each hf xs (f tx x)).trans (hf tx x)

end Tx.Seated

open Tx (Seated)

theorem Tx.keepImage_seated (tx : Tx s0) (part : Nat) (owner : ImageOf) (data : Nat) (ws : List Word) :
    Seated (tx.keepImage part owner data ws) tx := by
  have h0 : Seated (tx.mod fun s => s.dropImages part fun o => o == owner) tx := .updPart tx _ _
  unfold Tx.keepImage
  dsimp only
  split
  · exact h0
  · split
    · exact h0
    · exact (Seated.of_quiet (Tx.imageWrite_quiet _ _ _ _ _)).trans ((Seated.updPart _ _ _).trans h0)

theorem Tx.keepImages_seated (tx : Tx s0) (p : Panel) (l : Launch) : Seated (tx.keepImages p l) tx := by
  unfold Tx.keepImages
  dsimp only
  have h1 := Seated.each (f := fun tx (q : Panel) => tx.keepImage l.part (.panel q.key) (panelImageData q) (panelImage tx.sys q l))
    (fun tx q => tx.keepImage_seated _ _ _ _) (tx.sys.groupOf p) tx
  have travel (u : Tx s0) (hu : Seated u tx) : Seated (if l.travelling && (u.sys.panelsOf l.key).all (·.phase == .out)
      then u.keepImage l.part (.launch l.key) 0 (launchImage u.sys l) else u) tx := by
    split
    · exact (u.keepImage_seated _ _ _ _).trans hu
    · exact hu
  refine travel _ ?_
  split
  · split
    · exact (Tx.keepImage_seated _ _ _ _ _).trans h1
    · exact h1
  · exact h1

theorem Tx.settle_seated (tx : Tx s0) (p : Panel) : Seated (tx.settle p) tx := by
  unfold Tx.settle
  dsimp only
  have travel (u : Tx s0) (hu : Seated u tx) : Seated (match u.sys.launchOf p with
      | some l => u.settleTravel l
      | none => u) tx := by
    split
    · obtain ⟨hp, hh⟩ := u.settleTravel_panels _
      exact Seated.trans ⟨hh, hp⟩ hu
    · exact hu
  refine travel _ ?_
  split
  · exact ⟨rfl, Sys.settleYoke_panels _ _⟩
  · exact .refl tx

/-- A panel that is switched out is out. -/
theorem Tx.switchOut_out (tx : Tx s0) (hp : tx.sys.panel? p.key = some p) (hr : ∀ r ∈ tx.sys.reqs, r.held = none) :
    (tx.switchOut p l).halt = tx.halt ∧ ∃ q, (tx.switchOut p l).sys.panel? p.key = some q ∧ q.phase = .out := by
  let keys := (tx.sys.groupOf p).map (·.key)
  let cores := ((tx.sys.threads.filter fun t => keys.contains t.panel).map (·.core) ++ [p.core]).eraseDups
  let u := tx.each (tx.sys.groupOf p) fun tx q => ((tx.stopAhead q l).discardHeld q.key).unpopHeld q
  let v := u.each cores fun tx c => tx.release c visAll
  let w := v.mod fun s => s.halt keys l.travelling
  have hu : Standing u tx := Standing.each (fun tx q h =>
    have h1 := tx.stopAhead_standing q l
    (Tx.unpopHeld_standing _ q).trans ((Tx.discardHeld_standing _ q.key (h1.reqs ▸ h)).trans h1)) _ tx hr
  have hv : Standing v tx := (Standing.of_quiet (Tx.each_quiet (fun tx c => tx.release_quiet c visAll) _ u)).trans hu
  have hw : Seated ((w.settle p).keepImages p l) w := (Tx.keepImages_seated _ p l).trans (w.settle_seated p)
  have hmine : keys.contains p.key = true := by
    rw [List.contains_iff_mem]
    exact List.mem_map_of_mem (List.mem_filter.mpr ⟨mem_of_findKey hp, by simp⟩)
  have hthere : (v.sys.panel? p.key).isSome = true := by
    rw [Sys.panel?, findKey_isSome, hv.keys, ← findKey_isSome]
    exact Option.isSome_iff_exists.mpr ⟨p, hp⟩
  obtain ⟨x, hx⟩ := Option.isSome_iff_exists.mp hthere
  have hxk : x.key = p.key := key_of_findKey hx
  refine ⟨hw.halt.trans hv.halt, { x with phase := .out }, ?_, rfl⟩
  have hpan := Sys.panel?_map (y := v.sys) (z := ((w.settle p).keepImages p l).sys)
    (f := fun q => if keys.contains q.key then { q with phase := .out } else q)
    (fun q => by split <;> rfl) hw.panels p.key
  refine hpan.trans ?_
  rw [hx, Option.map_some, hxk, if_pos hmine]

theorem exec_panelSwitchOut (hp : s.sys.panel? p.key = some p) (hl : s.sys.launchOf p = some l) (hr : switchReady s.sys p l = true)
    (hheld : ∀ r ∈ s.sys.reqs, r.held = none) :
    ∃ u q, exec (.panelSwitchOut p.key) s = .next u ∧ u.sys.panel? p.key = some q ∧ q.phase = .out := by
  obtain ⟨hh, q, hq, hout⟩ := (Tx.start s).switchOut_out (l := l) hp hheld
  refine ⟨_, q, ?_, hq, hout⟩
  change execPanelSwitchOut p.key s = _
  simp only [execPanelSwitchOut, hp, hl, eventStep, hr, if_true]
  exact Tx.done_of_halt hh

end Sys2Proof.Machine

/-! ### Resuming (R64, R436) -/

namespace Sys2Proof.Machine

variable {s0 s : State} {p : Panel} {l : Launch}

open Tx (Quiet)

theorem Tx.pinAll_nil (tx : Tx s0) (q : Partition) (h : l.pinnedSlots = []) : tx.pinAll q l = (.ok [], tx) := by
  rw [Tx.pinAll, h]
  rfl

/-- Threads that come back change no panel and no launch. -/
theorem Sys.seatThread_keeps (y : Sys) (l : Launch) (core : Nat) (t : Thread) :
    (y.seatThread l core t).panels = y.panels ∧ (y.seatThread l core t).launches = y.launches := by
  unfold Sys.seatThread
  split <;> exact ⟨rfl, rfl⟩

theorem foldl_seatThread_keeps (l : Launch) (core : Nat) : ∀ (ts : List Thread) (y : Sys),
    (ts.foldl (fun y t => y.seatThread l core t) y).panels = y.panels ∧
      (ts.foldl (fun y t => y.seatThread l core t) y).launches = y.launches
  | [], _ => ⟨rfl, rfl⟩
  | t :: ts, y => by
    obtain ⟨hp, hl⟩ := foldl_seatThread_keeps l core ts (y.seatThread l core t)
    obtain ⟨kp, kl⟩ := y.seatThread_keeps l core t
    exact ⟨hp.trans kp, hl.trans kl⟩

/-- A restored panel runs, or waits for its start. -/
theorem Sys.restore_keeps (y : Sys) (p : Panel) (l : Launch) (extents : List PageMap) (hp : y.panel? p.key = some p) :
    (y.restore p l extents).launches = y.launches ∧ ∃ v, (y.restore p l extents).panel? p.key = some v ∧
      v.phase = if y.threadsOf p.key = [] then .placed else .running := by
  let keys := (y.groupOf p).map (·.key)
  let f (q : Panel) : Panel :=
    if q.key = p.key then { q with phase := (if !(y.threadsOf p.key).isEmpty then .running else .placed), extents := extents }
    else if keys.contains q.key then { q with phase := .running, extents := extents, core := p.core } else q
  have hf (q : Panel) : (f q).key = q.key := by
    unfold f
    split
    · rfl
    · split <;> rfl
  let z : Sys := { y.follow keys p.core with
    parcels := if l.travelling then (y.follow keys p.core).parcels else (y.follow keys p.core).parcels.map (Parcel.sentAgain keys)
    panels := y.panels.map f }
  let ts := z.threads.filter fun (t : Thread) => keys.contains t.panel
  let z' := ts.foldl (fun (s : Sys) t => s.seatThread l p.core t) z
  let g (q : Panel) : Panel := if q.handlerOf = some p.key then
    { q with core := (((z'.repost (clusterOf p.core)).thread? q.key 0).map (·.core)).getD q.core } else q
  have hr : y.restore p l extents = (z'.repost (clusterOf p.core)).mapPanels g := rfl
  obtain ⟨hpan, hlau⟩ := foldl_seatThread_keeps l p.core ts z
  have hz : z'.panel? p.key = some (f p) := by
    have := Sys.panel?_map (z := z') hf hpan p.key
    rw [this, hp]
    rfl
  rw [hr]
  refine ⟨hlau, g (f p), ?_, ?_⟩
  · refine (Sys.panel?_map (y := z') (f := g) (fun q => ?_) rfl p.key).trans (by rw [hz]; rfl)
    unfold g
    split <;> rfl
  · have hphase : (g (f p)).phase = (f p).phase := by
      unfold g
      split <;> rfl
    rw [hphase]
    unfold f
    rw [if_pos rfl]
    cases y.threadsOf p.key <;> simp

theorem Tx.rejoin_of_not_travelling {tx : Tx s0} (h : l.travelling = false) : tx.rejoin l = tx := by
  unfold Tx.rejoin
  rw [h]
  rfl

theorem Sys.dropImages_keeps (y : Sys) (n : Nat) (gone : ImageOf → Bool) :
    (y.dropImages n gone).panels = y.panels ∧ (y.dropImages n gone).launches = y.launches :=
  ⟨updPart_field (·.panels) (fun _ => rfl) _ _ y, updPart_field (·.launches) (fun _ => rfl) _ _ y⟩

/-- A panel with nothing to translate comes back. -/
theorem Tx.resume_untranslated (tx : Tx s0) (q : Partition) (hp : tx.sys.panel? p.key = some p) (hl : tx.sys.launch? l.key = some l)
    (hpin : l.pinnedSlots = []) (hsp : tx.sys.imagesSpoiled p l = false) (ht : l.travelling = false) :
    (tx.resume p l q).halt = tx.halt ∧ ∃ v, (tx.resume p l q).sys.panel? p.key = some v ∧
      v.phase = if tx.sys.threadsOf p.key = [] then .placed else .running := by
  let mate (u : Tx s0) (e : Nat × Nat × Nat) : Bool :=
    e.1 == p.key || (p.yoke.isSome && (u.sys.panel? e.1).any fun (q : Panel) => q.yoke == p.yoke)
  let a := tx.mod fun s => (s.restore p l []).dropRestored p l
  let b := a.mod fun s => if s.withdrawn p.key then s else s.postAgain (l.deferred.filter (mate a))
  let keys := List.map Panel.key (b.sys.groupOf p)
  let c := b.each (List.map Thread.core (b.sys.threads.filter fun t => keys.contains t.panel) ++ [p.core]).eraseDups
    fun tx c => tx.acquire c obsC
  obtain ⟨hlau, v, hv, hphase⟩ := tx.sys.restore_keeps p l [] hp
  have hd : ((tx.sys.restore p l []).dropRestored p l).panels = (tx.sys.restore p l []).panels ∧
      ((tx.sys.restore p l []).dropRestored p l).launches = (tx.sys.restore p l []).launches := Sys.dropImages_keeps _ _ _
  have hb : b.sys.panels = (tx.sys.restore p l []).panels ∧ b.sys.launches = (tx.sys.restore p l []).launches := by
    show (if a.sys.withdrawn p.key then a.sys else _).panels = _ ∧ (if a.sys.withdrawn p.key then a.sys else _).launches = _
    split <;> exact hd
  have hc : Quiet c b := Tx.each_quiet (fun tx c => tx.acquire_quiet c obsC) _ b
  have hlc : c.sys.launch? l.key = some l := by
    rw [Sys.launch?, hc.launches, hb.2, hlau]
    exact hl
  have hres : tx.resume p l q = c := by
    unfold Tx.resume
    rw [hsp, tx.pinAll_nil q hpin]
    simp only [show pinVerdict (.ok []) = .ok [] from rfl, Bool.false_eq_true, if_false]
    have hre : (match c.sys.launch? l.key with
        | some l => c.rejoin l
        | none => c) = c := by
      rw [hlc]
      exact Tx.rejoin_of_not_travelling ht
    exact hre
  refine ⟨hres ▸ hc.halt, v, ?_, hphase⟩
  rw [hres, Sys.panel?, hc.panels, hb.1]
  exact hv

theorem exec_panelResume {q : Partition} (hp : s.sys.panel? p.key = some p) (hl : s.sys.launchOf p = some l)
    (hq : s.sys.part? l.part = some q) (hr : resumeReady s.sys p = true) (hf : s.resumeFits p = true) :
    exec (.panelResume p.key) s = ((Tx.start s).resume p l q).done := by
  change execPanelResume p.key s = _
  simp only [execPanelResume, hp, hl, hq, eventStep, hr, hf, Bool.and_self, if_true]

theorem Tx.noticeDrop_launches (tx : Tx s0) (q : Partition) (va : Nat) : (tx.noticeDrop q va).sys.launches = tx.sys.launches := by
  unfold Tx.noticeDrop
  split <;> rfl

theorem Tx.pinPages_launches (q : Partition) (slot : Nat) (d : List Word) : ∀ (ps : List Nat) (acc : List PageMap) (tx : Tx s0),
    (tx.pinPages q slot d ps acc).2.sys.launches = tx.sys.launches
  | [], _, _ => rfl
  | v :: ps, acc, tx => by
    unfold Tx.pinPages
    extract_lets va
    generalize walk tx.st q va = w
    clear_value va
    have hk := tx.rekeyWalk_quiet q va
    cases w with
    | hole => rfl
    | bad => exact (Tx.noticeDrop_launches _ _ _).trans hk.launches
    | spoiled => rfl
    | ok ad leaf =>
      dsimp only
      split
      · rfl
      · exact (Tx.pinPages_launches q slot d ps _ _).trans ((Tx.setAD_quiet _ _ _ _).launches.trans hk.launches)

theorem Tx.pinSlot_launches (tx : Tx s0) (q : Partition) (slot : Nat) (d : List Word) :
    (tx.pinSlot q slot d).2.sys.launches = tx.sys.launches := by
  have h := tx.pinPages_launches q slot d (Decl.pages d) []
  unfold Tx.pinSlot
  generalize tx.pinPages q slot d (Decl.pages d) [] = r at h ⊢
  generalize tx.sys.cachedExtents q slot d = c
  obtain ⟨r, u⟩ := r
  cases c with
  | some pages => rfl
  | none => cases r <;> exact h

/-- A translation changes no launch. -/
theorem Tx.pinAll_launches (tx : Tx s0) (q : Partition) (l : Launch) : (tx.pinAll q l).2.sys.launches = tx.sys.launches := by
  unfold Tx.pinAll
  have key : ∀ (slots : List Nat) (acc : Except (Nat × Nat) (List PageMap) × Tx s0),
      (slots.foldl (fun (acc : Except (Nat × Nat) (List PageMap) × Tx s0) slot =>
        match acc.1 with
        | .error _ => acc
        | .ok pages => match acc.2.pinSlot q slot (l.decl slot) with
          | (.ok more, tx) => (.ok (pages ++ more), tx)
          | (.error va, tx) => (.error (slot, va), tx)) acc).2.sys.launches = acc.2.sys.launches := by
    intro slots
    induction slots with
    | nil => exact fun _ => rfl
    | cons k slots ih =>
      intro acc
      rw [List.foldl_cons, ih]
      split
      · rfl
      · have h := acc.2.pinSlot_launches q k (l.decl k)
        split <;> next he => rw [he] at h; exact h
  exact key _ _

/-- What the record of a failed translation says (R64, assumption log 186). -/
def resumeRecord (y : Sys) (p : Panel) (l : Launch) (slot va : Nat) : RecordInfo :=
  { RecordInfo.of tPGFLT 2 l.id with
    pid := p.pid, value := BitVec.ofNat 32 (va - Decl.base (l.decl slot)), slot := slot, offset := va
    write := isWrite (Decl.rights (l.decl slot)), core := y.logical l.part p.core }

theorem Tx.resumeFault_st (tx : Tx s0) {x : Partition} (hx : tx.sys.part? l.part = some x) (slot va : Nat) :
    (tx.resumeFault p l slot va).halt = tx.halt ∧ (tx.resumeFault p l slot va).sys.launches = tx.sys.launches ∧
      (tx.resumeFault p l slot va).st =
        let v := tx.st.faultPosted x (resumeRecord tx.sys p l slot va) (.panel p.key) l.key
        v.withSys (v.sys.setPanel { p with resumeTicket := some x.nextTicket }) := by
  have hnum : x.num = l.part := key_of_findKey hx
  have hx' : tx.sys.part? x.num = some x := hnum ▸ hx
  have hst := tx.postTicket_st x (resumeRecord tx.sys p l slot va) (.panel p.key) l.key hx'
  have hk : (tx.postTicket x.num (resumeRecord tx.sys p l slot va) (.panel p.key) l.key).1 = x.nextTicket := by
    show tx.sys.nextTicket x.num = _
    rw [Sys.nextTicket, hx']
    rfl
  have hf : tx.resumeFault p l slot va = (tx.postTicket x.num (resumeRecord tx.sys p l slot va) (.panel p.key) l.key).2.mod
      fun s => s.setPanel { p with resumeTicket := some x.nextTicket } := by
    rw [← hk, hnum]
    rfl
  have ht := tx.postTicket_tacked x.num (resumeRecord tx.sys p l slot va) (.panel p.key) l.key
  rw [hf, ← hst]
  exact ⟨ht.halt, ht.launches, rfl⟩

theorem exec_panelResume_fault {q x : Partition} {slot va : Nat} (hp : s.sys.panel? p.key = some p) (hl : s.sys.launchOf p = some l)
    (hq : s.sys.part? l.part = some q) (hr : resumeReady s.sys p = true) (hsp : s.sys.imagesSpoiled p l = false)
    (ht : l.travelling = false) (hv : pinVerdict ((Tx.start s).pinAll q l).1 = .error (slot, va))
    (hh : ((Tx.start s).pinAll q l).2.halt = none) (hx : ((Tx.start s).pinAll q l).2.sys.part? l.part = some x) :
    exec (.panelResume p.key) s = .next ((((Tx.start s).pinAll q l).2.resumeFault p l slot va).st) := by
  have hf : s.resumeFits p = true := by simp only [State.resumeFits, hl, hq, hv]
  obtain ⟨fh, fl, -⟩ := ((Tx.start s).pinAll q l).2.resumeFault_st (p := p) hx slot va
  have hla : (((Tx.start s).pinAll q l).2.resumeFault p l slot va).sys.launch? l.key = some l := by
    rw [Sys.launch?, fl, Tx.pinAll_launches]
    exact Sys.launch?_of_launchOf hl
  have hres : (Tx.start s).resume p l q = ((Tx.start s).pinAll q l).2.resumeFault p l slot va := by
    unfold Tx.resume
    rw [Tx.start_sys, hsp]
    simp only [Bool.false_eq_true, if_false, hv, hla]
    exact Tx.rejoin_of_not_travelling ht
  rw [exec_panelResume hp hl hq hr hf, hres]
  exact Tx.done_of_halt (fh.trans hh)

end Sys2Proof.Machine

/-! ### Retirement (R466, R467) -/

namespace Sys2Proof.Machine

variable {s0 s : State} {p : Panel} {l : Launch}

open Tx (Quiet Seated)

theorem Sys.launch?_setLaunch {y : Sys} {x : Launch} (h : (y.launch? x.key).isSome = true) : (y.setLaunch x).launch? x.key = some x :=
  findKey_putKey h

/-- A travelling launch that is settled has lost its holders at most. -/
theorem Tx.settleTravel_launch (tx : Tx s0) (hl : tx.sys.launch? l.key = some l) :
    ∃ x, (tx.settleTravel l).sys.launch? l.key = some x ∧ x.retired = l.retired := by
  unfold Tx.settleTravel
  split
  · exact ⟨{ l with holders := l.holders.map fun _ => [] },
      Sys.launch?_setLaunch (y := tx.sys) (x := { l with holders := l.holders.map fun _ => [] })
        (Option.isSome_iff_exists.mpr ⟨l, hl⟩), rfl⟩
  · exact ⟨l, hl, rfl⟩

theorem Sys.settleYoke_launches (y : Sys) (k : Yoke) : (y.settleYoke k).launches = y.launches := by
  unfold Sys.settleYoke
  dsimp only
  split <;> rfl

theorem Tx.settle_launch (tx : Tx s0) (hl : tx.sys.launchOf p = some l) :
    ∃ x, (tx.settle p).sys.launch? l.key = some x ∧ x.retired = l.retired := by
  have settled (u : Tx s0) (hu : u.sys.launches = tx.sys.launches) : ∃ x, (match u.sys.launchOf p with
      | some l => u.settleTravel l
      | none => u).sys.launch? l.key = some x ∧ x.retired = l.retired := by
    have hul : u.sys.launchOf p = some l := (congrArg (findKey Launch.key p.launch) hu).trans hl
    rw [hul]
    exact u.settleTravel_launch (Sys.launch?_of_launchOf hul)
  unfold Tx.settle
  dsimp only
  refine settled _ ?_
  split
  · exact Sys.settleYoke_launches _ _
  · rfl

theorem exec_panelRetire (hp : s.sys.panel? p.key = some p) (hl : s.sys.launchOf p = some l) (hr : retireReady s.sys p l = true) :
    ∃ u x, exec (.panelRetire p.key) s = .next u ∧ u.sys.panel? p.key = none ∧ u.sys.launch? l.key = some x ∧
      x.retired = if p.handlerOf.isSome then l.retired else l.retired + 1 := by
  let tx := (Tx.start s).mod fun s => s.retirePanel p l
  have hs := tx.settle_seated p
  have hmine : ∃ l', tx.sys.launchOf p = some l' ∧ l'.key = l.key ∧
      l'.retired = if p.handlerOf.isSome then l.retired else l.retired + 1 := by
    have hk := Sys.launchOf_key hl
    show ∃ l', (s.sys.retirePanel p l).launchOf p = some l' ∧ _
    unfold Sys.retirePanel
    dsimp only
    split
    · exact ⟨l, hl, rfl, rfl⟩
    · have := Sys.launch?_setLaunch (y := s.sys) (x := { l with retired := l.retired + 1, lastDie := dieOf p.core })
        (Option.isSome_iff_exists.mpr ⟨l, Sys.launch?_of_launchOf hl⟩)
      exact ⟨_, (congrArg _ hk.symm).trans this, rfl, rfl⟩
  obtain ⟨l', hl', hk, hret⟩ := hmine
  obtain ⟨x, hx, hxr⟩ := tx.settle_launch hl'
  refine ⟨(tx.settle p).st, x, ?_, ?_, hk ▸ hx, hxr.trans hret⟩
  · change execPanelRetire p.key s = _
    simp only [execPanelRetire, hp, hl, eventStep, hr, if_true]
    exact Tx.done_of_halt hs.halt
  · exact (congrArg (findKey Panel.key p.key) hs.panels).trans (findKey_dropKey Panel.key p.key _)

theorem exec_launchRetire {k : Nat} (hl : s.sys.launch? k = some l) (ho : launchOver s.sys l = true) (hs : l.Silent)
    (he : l.ending = none ∨ ∀ c ∈ s.sys.cmds, c.launch ≠ l.key) : ∃ u, exec (.launchRetire k) s = .next u ∧ u.sys.Gone k := by
  have hk : l.key = k := key_of_findKey hl
  change ∃ u, execLaunchRetire k s = _ ∧ _
  simp only [execLaunchRetire, hl, eventStep, ho, if_true]
  cases hend : l.ending with
  | none =>
    obtain ⟨hh, hg, -⟩ := (Tx.start s).endLaunch_silent l l.endStatus true hs
    exact ⟨_, Tx.done_of_halt hh, hk ▸ hg⟩
  | some status =>
    obtain ⟨hh, hg, -⟩ := (Tx.start s).finishEnd_silent l status (by rw [hk]; exact hl) hs (he.resolve_left (by simp [hend]))
    exact ⟨_, Tx.done_of_halt hh, hk ▸ hg⟩

/-! ### Late reports, fault records, replays and resets -/

/-- A report is due at a point where the thread does not run ahead. -/
theorem aheadOf_of_lateDue {y : Sys} {t : Thread} {e : Late} (h : lateDue y t p l = some e) : p.aheadOf t.tid = false := by
  unfold lateDue at h
  split at h
  · unfold latePoint at h
    split at h
    · cases h
    · next hno =>
      simp only [Bool.or_eq_true, not_or, Bool.not_eq_true] at hno
      exact hno.1
  · cases h

/-- A thread that does not run ahead takes its own trap (R426). -/
theorem Tx.raiseAt_trapped (tx : Tx s0) {t : Thread} {code : Byte} (hh : tx.sys.homeOf t = some (p, l)) (ha : p.aheadOf t.tid = false)
    (hs : supervisorCode code = false) (hc : t.CanTrap l) (value : Word) (i : Info) (back : Nat) :
    tx.raiseAt t code value i back = tx.mod fun y => y.setThread (t.trapped tx.st l code value back) := by
  obtain ⟨hbit, hentry⟩ := hc
  have hb : t.trapc.toNat.testBit 31 = false := hbit
  unfold Tx.raiseAt
  simp only [hh, ha, hs, Bool.false_and, Bool.false_eq_true, if_false]
  unfold Tx.trapEntry
  rw [if_neg (by simp [hb, hentry]), trapWord_eq]
  rfl

theorem exec_lateReport {t : Thread} {e : Late} (ht : s.sys.thread? t.panel t.tid = some t) (hh : s.sys.homeOf t = some (p, l))
    (hd : lateDue s.sys t p l = some e) (hs : supervisorCode e.code = false) (hc : t.CanTrap l) :
    exec (.lateReport t.panel t.tid) s =
      .next (s.withThread ({ t with late := t.late.erase e, pend := none }.trapped s l e.code e.value e.pc)) := by
  let t' : Thread := { t with late := t.late.erase e, pend := none }
  have ha : p.aheadOf t.tid = false := aheadOf_of_lateDue hd
  have hraise := ((Tx.start s).mod fun s => s.setThread t').raiseAt_trapped (t := t') hh ha hs hc e.value ⟨e.slot, e.offset, e.write⟩ e.pc
  have hset := s.sys.setThread_setThread (t := t') (u := t'.trapped s l e.code e.value e.pc) rfl rfl
  change execLateReport t.panel t.tid s = _
  simp only [execLateReport, ht, hh, hd]
  refine (congrArg Tx.done hraise).trans ?_
  exact congrArg (fun y => Host.Outcome.next (State.withSys s y)) hset

/-- A write at an address that the device's extents hold changes memory and caches only. -/
theorem Tx.deviceWrite_quiet (tx : Tx s0) {part : Nat} {d : List Word} {off : Nat} (bs : List Byte)
    (hpart : (tx.sys.part? part).isSome = true)
    (hpage : (tx.sys.extentPage part 0 d ((Decl.base d + (Decl.place d off).2) / 65536)).isSome = true) :
    Quiet (tx.deviceWrite part d off bs) tx := by
  obtain ⟨q, hq⟩ := Option.isSome_iff_exists.mp hpart
  obtain ⟨m, hm⟩ := Option.isSome_iff_exists.mp hpage
  have ha : Quiet (tx.engineAddr part 0 288 d off rW).2 tx := by
    unfold Tx.engineAddr
    simp only [hq, hm]
    split
    · exact .refl tx
    · exact tx.rekey_quiet _ _
  unfold Tx.deviceWrite
  generalize tx.engineAddr part 0 288 d off rW = r at ha
  obtain ⟨a, u⟩ := r
  cases a with
  | none => exact ha
  | some a => exact (Tx.homeBytesAt_quiet _ _ _ _ _ _).trans ha

/-- A declaration that the extents hold is written as far as it goes. -/
theorem Tx.deviceWrite_extended {tx : Tx s} (hq : Quiet tx (Tx.start s)) {part : Nat} {d : List Word} (h : s.Extended part 0 d)
    {off : Nat} (hoff : off < Decl.len d) (bs : List Byte) : Quiet (tx.deviceWrite part d off bs) (Tx.start s) := by
  obtain ⟨-, hpart, hpage⟩ := h
  refine (tx.deviceWrite_quiet bs ?_ ?_).trans hq
  · have := hq.field (fun y => y.part? part) fun _ => rfl
    rw [this]
    exact hpart
  · have := hq.field (fun y => y.extentPage part 0 d ((Decl.base d + (Decl.place d off).2) / 65536)) fun _ => rfl
    rw [this]
    exact hpage off hoff

theorem exec_faultRecordPost {n : Nat} {q : Partition} {r : FaultRec} {rest : List FaultRec} (hq : s.sys.part? n = some q)
    (hf : q.faults = r :: rest) (hr : ringReady s q = true) (hx : s.Extended n 0 q.ring) (hlen : 64 ≤ Decl.len q.ring) :
    ∃ u v, exec (.faultRecordPost n) s = .next u ∧ u.sys.part? n = some v ∧ v.faults = rest := by
  have hnum : q.num = n := key_of_findKey hq
  have hr' := hr
  unfold ringReady at hr
  simp only [Bool.and_eq_true, bne_iff_ne, hnum] at hr
  obtain ⟨⟨-, hslots⟩, hroom⟩ := hr
  obtain ⟨w, hw⟩ : ∃ w, s.ringWord n q.ring 0 = some w := by
    cases h : s.ringWord n q.ring 0 with
    | none => rw [h] at hroom; cases hroom
    | some w => exact ⟨w, rfl⟩
  have hoff : 64 + 64 * (w % ringSlots q.ring) < Decl.len q.ring := by
    have := Nat.mod_lt w (Nat.pos_of_ne_zero hslots)
    unfold ringSlots at this hslots ⊢
    omega
  let a := (Tx.start s).deviceWrite n q.ring (64 + 64 * (w % ringSlots q.ring)) (bytesOfWords r.words)
  let b := a.deviceWrite n q.ring 0 (leBytes 4 (w + 1))
  have ha : Quiet a (Tx.start s) := Tx.deviceWrite_extended (.refl _) hx hoff _
  have hb : Quiet b (Tx.start s) := Tx.deviceWrite_extended ha hx (by omega) _
  have hbq : b.sys.part? n = some q := (hb.field (fun y => y.part? n) fun _ => rfl).trans hq
  refine ⟨(b.mod (updPart n fun p => { p with faults := rest })).st, { q with faults := rest }, ?_, ?_, rfl⟩
  · change execFaultRecordPost n s = _
    simp only [execFaultRecordPost, hq, hf, hw, eventStep, hr', if_true]
    exact Tx.done_of_halt hb.halt
  · exact (congrArg (fun y : Sys => y.part? n) (updPart_some hbq _)).trans (Sys.part?_setPart hbq hnum)

theorem exec_deferredAppendReplay {k : Nat} (hl : s.sys.launch? k = some l) (hr : replayReady s.sys l = true)
    (hd : l.deferred = []) :
    ∃ u x, exec (.deferredAppendReplay k) s = .next u ∧ u.sys.launch? k = some x ∧ x.overflow = .none := by
  have hk : l.key = k := key_of_findKey hl
  let a := (Tx.start s).each ((s.sys.overflowPanels l).map (·.core)).eraseDups fun tx c => tx.release c visAll
  let f (x : Launch) : Launch := if x.key = k then { x with overflow := .none } else x
  have ha : Quiet a (Tx.start s) := Tx.each_quiet (fun tx c => tx.release_quiet c visAll) _ _
  refine ⟨(a.mod fun s => s.mapLaunches f).st, f l, ?_, ?_, ?_⟩
  · change execDeferredAppendReplay k s = _
    simp only [execDeferredAppendReplay, hl, eventStep, hr, if_true, hd]
    exact Tx.done_of_halt ha.halt
  · show findKey Launch.key k (a.sys.launches.map f) = _
    rw [findKey_map (fun x => by unfold f; split <;> rfl), ha.launches, Tx.start_sys, show findKey Launch.key k _ = _ from hl]
    rfl
  · unfold f
    rw [if_pos hk]

/-- A core that is reset keeps nothing but what is out (R475). -/
theorem exec_coreReset (s : State) (core : Nat) : ∃ u, exec (.coreReset core) s = .next u ∧
    (∀ t ∈ u.sys.threads, t.core = core → ∃ p, s.sys.panel? t.panel = some p ∧ p.phase = .out) ∧
    (∀ p ∈ u.sys.panels, p.core = core → p.phase = .out) ∧ u.sys.core core = Core.empty core := by
  let a := (Tx.start s).each ((s.sys.core core).l1.map (·.line)) fun tx line => tx.dropL1 core line
  have ha : Quiet a (Tx.start s) := Tx.each_quiet (fun tx line => tx.dropL1_quiet core line) _ _
  refine ⟨(a.mod fun s => s.resetCore core).st, Tx.done_of_halt ha.halt, fun t ht hcore => ?_, fun p hp hcore => ?_, ?_⟩
  · obtain ⟨-, hkeep⟩ := List.mem_filter.mp ht
    simp only [Bool.and_eq_true, Bool.or_eq_true, bne_iff_ne, hcore, ne_eq, not_true_eq_false, false_or] at hkeep
    obtain ⟨p, hp, hout⟩ := (Option.any_eq_true _ _).mp hkeep.1
    have hpan : a.st.sys.panel? t.panel = s.sys.panel? t.panel := ha.field (fun y => y.panel? t.panel) fun _ => rfl
    exact ⟨p, hpan ▸ hp, by simpa using hout⟩
  · obtain ⟨hm, hkeep⟩ := List.mem_filter.mp hp
    by_contra hno
    simp only [Bool.not_eq_true', List.contains_eq_mem, decide_eq_false_iff_not] at hkeep
    exact hkeep (List.mem_map_of_mem (List.mem_filter.mpr ⟨hm, by simp [hcore, hno]⟩))
  · show (findKey Core.id core (dropKey Core.id core a.st.sys.cores)).getD (Core.empty core) = _
    rw [findKey_dropKey]
    rfl

end Sys2Proof.Machine

namespace Sys2Proof
open Machine

/-- Settles O55: each event by what it leaves of the panel, the launch or the core that it is about. -/
theorem panelsSwitchAndEnd : Obligations.PanelsSwitchAndEnd := by
  unfold Obligations.PanelsSwitchAndEnd
  intro s
  refine ⟨fun p l hp hl hr => exec_panelSwitchOut hp hl hr, fun p l q hp hl hq hr hpin hf hsp _ ht => ?_,
    fun p l a q hp hl hq ha ho => exec_runAheadEnd hp hl hq ha ho, fun p l => exec_panelRetire, fun k l => exec_launchRetire,
    fun t p l e => exec_lateReport, fun n q r rest => exec_faultRecordPost, fun k l => exec_deferredAppendReplay,
    fun p l q x slot va hp hl hq hr hsp ht hv hh hx => ?_, exec_coreReset s⟩
  · obtain ⟨hh, v, hv, hphase⟩ := (Tx.start s).resume_untranslated q hp (Sys.launch?_of_launchOf hl) hpin hsp ht
    exact ⟨_, v, (exec_panelResume hp hl hq hr hf).trans (Tx.done_of_halt hh), hv, hphase⟩
  · rw [exec_panelResume_fault hp hl hq hr hsp ht hv hh hx, (Tx.resumeFault_st _ hx slot va).2.2]
    rfl

end Sys2Proof

/-! ## Launches that arrive (R39, R457) -/

namespace Sys2Proof.Machine

variable {s0 s : State} {l : Launch}

open Tx (Quiet)

/-! ### Doorbells -/

theorem Tx.hostWrites_st : ∀ (ws : List Host.Cell) (tx : Tx s0), (tx.hostWrites ws).halt = tx.halt ∧
    (tx.hostWrites ws).st = ⟨tx.st.mem, ws.foldl (fun m (c : Host.Cell) => Mem.putBytes m c.1 [c.2]) tx.st.hostMem, tx.st.sys⟩
  | [], _ => ⟨rfl, rfl⟩
  | c :: ws, tx => Tx.hostWrites_st ws (tx.hostPoke c.1 [c.2])

theorem exec_hostQueueDoorbell {k : Nat} {q : Queue} (tail : Word) (writes : List Host.Cell)
    (hq : s.sys.queues.find? (fun c => c.num == k) = some q) :
    exec (.hostQueueDoorbell k tail writes) s =
      .next ⟨s.mem, writes.foldl (fun m (c : Host.Cell) => Mem.putBytes m c.1 [c.2]) s.hostMem,
        if (tail - s.sys.publishedHead q).toNat ≤ 2 ^ q.j then { s.sys with queues := putKey Queue.num { q with tail := tail } s.sys.queues }
        else s.sys⟩ := by
  obtain ⟨hh, hst⟩ := Tx.hostWrites_st writes (Tx.start s)
  have hsys : ((Tx.start s).hostWrites writes).sys = s.sys := by
    have h := congrArg State.sys hst
    exact h
  change execHostQueueDoorbell k tail writes s = _
  unfold execHostQueueDoorbell
  simp only [hsys, hq]
  split
  · next hgt =>
    rw [if_neg (by omega), Tx.done_of_halt hh, hst]
    rfl
  · next hle =>
    rw [if_pos (by omega), Tx.done_of_halt (by exact hh)]
    exact congrArg (fun u : State => (Host.Outcome.next
      (u.withSys { u.sys with queues := putKey Queue.num { q with tail := tail } u.sys.queues }) : Host.Outcome State Fault Refusal)) hst

/-! ### Records -/

/-- A record that passes the first checks, names no buffers and no tiles, and whose object is not verified, becomes a launch that
is being checked. -/
theorem Tx.arrive_checking (tx : Tx s0) {p : Partition} {ws : List Word} {cap : Nat} {supervisor : Bool} {source : Option (Nat × Word)}
    (hl : l = Launch.ofRecord tx.sys.serial p.num cap ws supervisor source) (he : l.earlyReason tx.sys p false = none)
    (hb : l.bufferCount = 0) (ht : l.tileCount = 0) (hu : l.units ≤ 256) (htr : l.travelling = false) (hv : tx.sys.verified l = none) :
    tx.arrive p ws cap false supervisor source = tx.take.mod fun s => { s with launches := s.launches ++ [l] } := by
  have he' : l.earlyReason tx.take.sys p false = none := he
  have hdecls : l.decls = [] := by rw [hl]; rfl
  have htiles : l.tiles = [] := by rw [hl]; rfl
  have hfails : l.fails = [] := by rw [hl]; rfl
  have htok : tilesOk l = true := by simp [tilesOk, ht, hu, htiles]
  have hdok (ildom : List Word) : declsOk ildom p l = true := by simp [declsOk, hb, hdecls, htr]
  have hsame : ({ l with decls := [], tiles := [] } : Launch) = l := by rw [← hdecls, ← htiles]
  have hsame' : ({ l with decls := [], tiles := [], fails := [] } : Launch) = l := by rw [← hdecls, ← htiles, ← hfails]
  unfold Tx.arrive
  rw [show tx.fresh = tx.sys.serial from rfl, ← hl]
  simp only [he', hb, ht, Nat.min_zero, if_true, Option.getD_some, Option.isSome_some, declsOf, tilesOf, List.range_zero, List.map_nil,
    hsame, htok, hdok, htr, Bool.and_self, Bool.false_and, Bool.false_eq_true, if_false, List.append_nil, hsame']
  rw [show (tx.take.mod fun s => { s with launches := s.launches ++ [l] }).sys.verified l = none from hv]

theorem Tx.each_unpend : ∀ (ts : List Thread) (tx : Tx s0),
    ∃ us, (tx.each ts fun tx t => tx.mod fun s => s.setThread { t with pend := none }) = tx.mod fun s => { s with threads := us }
  | [], tx => ⟨tx.sys.threads, rfl⟩
  | t :: ts, tx => by
    obtain ⟨us, h⟩ := Tx.each_unpend ts (tx.mod fun s => s.setThread { t with pend := none })
    exact ⟨us, h⟩

theorem exec_launchArrival_stream {n : Nat} {r : StreamRec} {q : Partition} (ho : s.sys.nextOffer = some (n, .stream r))
    (hq : s.sys.part? r.part = some q) (hl : l = Launch.ofRecord s.sys.serial q.num r.cap r.words r.supervisor none)
    (he : l.earlyReason s.sys q false = none) (hb : l.bufferCount = 0) (ht : l.tileCount = 0) (hu : l.units ≤ 256)
    (htr : l.travelling = false) (hv : s.sys.verified l = none) :
    ∃ u, exec .launchArrival s = .next u ∧ u.sys.stream = dropKey StreamRec.key r.key s.sys.stream ∧
      u.sys.launches = s.sys.launches ++ [l] ∧ u.sys.rr = n + 1 := by
  let a := (Tx.start s).mod fun s => { s with rr := n + 1 }
  let b := a.mod fun s => { s with stream := dropKey StreamRec.key r.key s.stream }
  obtain ⟨us, hus⟩ := Tx.each_unpend (b.sys.threads.filter fun t => t.pend == some (.launch r.key)) b
  have harr := (b.mod fun s => { s with threads := us }).arrive_checking (p := q) hl he hb ht hu htr hv
  have htake : a.takeStream r q = (b.mod fun s => { s with threads := us }).arrive q r.words r.cap false r.supervisor none :=
    congrArg (fun tx => Tx.arrive tx q r.words r.cap false r.supervisor none) hus
  refine ⟨s.withSys { s.sys with
    rr := n + 1, stream := dropKey StreamRec.key r.key s.sys.stream, threads := us, serial := s.sys.serial + 1
    launches := s.sys.launches ++ [l] }, ?_, rfl, rfl, rfl⟩
  change execLaunchArrival s = _
  simp only [execLaunchArrival, ho, hq]
  show (a.takeStream r q).done = _
  rw [htake, harr]
  simp only [Tx.done, Tx.mod, Tx.take, Tx.start, State.withSys, a, b]

@[simp] theorem Tx.publish_sys (tx : Tx s0) (source : Option (Nat × Word)) : (tx.publish source).sys = tx.sys := by
  unfold Tx.publish
  split
  · rfl
  · split <;> rfl

@[simp] theorem Tx.publish_halt (tx : Tx s0) (source : Option (Nat × Word)) : (tx.publish source).halt = tx.halt := by
  unfold Tx.publish
  split
  · rfl
  · split <;> rfl

end Sys2Proof.Machine

/-! ## Records of a host queue and their checks (R39, R62, R63, R67) -/

namespace Sys2Proof.Machine

variable {s0 s : State} {l : Launch}

open Tx (Quiet)

/-- An entry whose record cannot be read is passed over with a notice; else its record arrives. -/
theorem Tx.takeEntry_host (tx : Tx s0) {k : Queue} (p : Partition) :
    let e := wordsOf (Mem.getBytes tx.st.hostMem (k.base + 32 * (k.head.toNat % 2 ^ k.j)) 32)
    let u := tx.mod fun s => { s with queues := putKey Queue.num { k with head := k.head + 1 } s.queues }
    wnat e 2 = 0 → (∀ w ∈ e.drop 3, w = 0) →
    tx.takeEntry k p = (u.notice (.recordDropped k.num k.head)).publish (some (k.num, k.head)) ∨
      tx.takeEntry k p = u.arrive p (wordsOf (Mem.getBytes tx.st.hostMem (dnat e 0) 128)) 7 false false (some (k.num, k.head)) := by
  intro e u hw hz
  have hread (a n : Nat) : tx.st.readHost a n = if Config.hostReadFails tx.st.sys.nonce a = true then none
    else some (Mem.getBytes tx.st.hostMem a n) := rfl
  have hrec : u.st.readHost (dnat e 0) 128 = if Config.hostReadFails tx.st.sys.nonce (dnat e 0) = true then none
    else some (Mem.getBytes tx.st.hostMem (dnat e 0) 128) := rfl
  have hany : ((e.drop 3).any fun w => w != 0) = false := by
    rw [List.any_eq_false]
    intro w hm
    simp [hz w hm]
  have hbad : (bits (wnat e 2) 0 31 != 0 || (e.drop 3).any fun w => w != 0) = false := by rw [hany, hw]; rfl
  have hvirt : (wnat e 2).testBit 31 = false := by rw [hw]; rfl
  unfold Tx.takeEntry
  dsimp only
  by_cases hc : Config.hostReadFails tx.st.sys.nonce (k.base + 32 * (k.head.toNat % 2 ^ k.j)) = true
  · rw [hread, if_pos hc]
    exact .inl rfl
  · rw [hread, if_neg hc]
    simp only [Option.isNone_some, Bool.false_eq_true, if_false, Option.getD_some]
    rw [hvirt, hbad]
    simp only [Bool.false_eq_true, if_false]
    rw [hrec]
    by_cases hd : Config.hostReadFails tx.st.sys.nonce (dnat e 0) = true
    · rw [if_pos hd]
      exact .inl rfl
    · rw [if_neg hd]
      exact .inr rfl

theorem exec_launchArrival_queue {n : Nat} {k : Queue} {q : Partition} (ho : s.sys.nextOffer = some (n, .queue k))
    (hq : s.sys.part? k.part = some q) :
    let e := wordsOf (Mem.getBytes s.hostMem (k.base + 32 * (k.head.toNat % 2 ^ k.j)) 32)
    wnat e 2 = 0 → (∀ w ∈ e.drop 3, w = 0) →
    l = Launch.ofRecord s.sys.serial q.num 7 (wordsOf (Mem.getBytes s.hostMem (dnat e 0) 128)) false (some (k.num, k.head)) →
    l.earlyReason s.sys q false = none → l.bufferCount = 0 → l.tileCount = 0 → l.units ≤ 256 → l.travelling = false →
    s.sys.verified l = none →
    ∃ u, exec .launchArrival s = .next u ∧ u.sys.queues = putKey Queue.num { k with head := k.head + 1 } s.sys.queues ∧
      (u.sys.launches = s.sys.launches ++ [l] ∨
        (u.sys.launches = s.sys.launches ∧ u.sys.notices = s.sys.notices ++ [.recordDropped k.num k.head])) := by
  intro e hw hz hl he hb ht hu htr hv
  let a := (Tx.start s).mod fun s => { s with rr := n + 1 }
  let b := a.mod fun s => { s with queues := putKey Queue.num { k with head := k.head + 1 } s.queues }
  have hexec : exec .launchArrival s = (a.takeEntry k q).done := by
    change execLaunchArrival s = _
    simp only [execLaunchArrival, ho, hq]
    rfl
  rw [hexec]
  rcases a.takeEntry_host (k := k) q hw hz with h | h
  · rw [h]
    have hsys := (b.notice (.recordDropped k.num k.head)).publish_sys (some (k.num, k.head))
    have hh : ((b.notice (.recordDropped k.num k.head)).publish (some (k.num, k.head))).halt = none := by
      rw [Tx.publish_halt]
      rfl
    refine ⟨_, Tx.done_of_halt hh, ?_, .inr ⟨?_, ?_⟩⟩
    · exact (congrArg Sys.queues hsys).trans rfl
    · exact (congrArg Sys.launches hsys).trans rfl
    · exact (congrArg Sys.notices hsys).trans rfl
  · have harr := b.arrive_checking (p := q) (ws := wordsOf (Mem.getBytes s.hostMem (dnat e 0) 128)) (cap := 7) (supervisor := false)
      (source := some (k.num, k.head)) hl he hb ht hu htr hv
    rw [show a.takeEntry k q = _ from h.trans harr]
    refine ⟨s.withSys { s.sys with
      rr := n + 1, queues := putKey Queue.num { k with head := k.head + 1 } s.sys.queues, serial := s.sys.serial + 1
      launches := s.sys.launches ++ [l] }, ?_, rfl, .inl rfl⟩
    simp only [Tx.done, Tx.mod, Tx.take, Tx.start, State.withSys, a, b]

/-! ### The end of a launch that the front end turns away -/

/-- A change of one partition that keeps its number is read through what it keeps. -/
theorem part?_updPart {α : Type} (g : Partition → α) {f : Partition → Partition} (hf : ∀ q, (f q).num = q.num ∧ g (f q) = g q)
    (m n : Nat) (y : Sys) : ((updPart m f y).part? n).map g = (y.part? n).map g := by
  unfold updPart
  split
  · next q hq =>
    have hnum : (f q).num = m := (hf q).1.trans (key_of_findKey hq)
    by_cases hn : n = m
    · subst hn
      rw [Sys.part?_setPart hq hnum, hq]
      exact congrArg some (hf q).2
    · exact congrArg (Option.map g) (findKey_putKey_ne (by rw [hnum]; exact Ne.symm hn) y.parts)
  · rfl

/-- A rejected launch without record, tack and office: it is gone, the logs of refused signatures stay, and so does every object
that is not marked. -/
theorem Tx.reject_silent (tx : Tx s0) (l : Launch) (status : Nat) (h : l.Silent) :
    (tx.reject l status).halt = tx.halt ∧ (tx.reject l status).sys.Gone l.key ∧
      (∀ n, ((tx.reject l status).sys.part? n).map (·.vlog) = (tx.sys.part? n).map (·.vlog)) ∧
      ∀ o ∈ tx.sys.objects, o.evict = false → o ∈ (tx.reject l status).sys.objects := by
  obtain ⟨hh, hg, -⟩ := tx.endLaunch_silent l status false h
  refine ⟨hh, hg, ?_⟩
  obtain ⟨h1, h2, h3⟩ := h
  have hw : tx.writeCompletion l status = tx := by unfold Tx.writeCompletion; rw [if_pos h1]
  have hparts (y : Sys) (n : Nat) : ((y.dropLaunch l).evictObjects.part? n).map (·.vlog) = (y.part? n).map (·.vlog) := by
    refine part?_updPart (·.vlog) ?_ l.part n y
    exact fun _ => ⟨rfl, rfl⟩
  have hobj (y : Sys) : ∀ o ∈ y.objects, o.evict = false → o ∈ (y.dropLaunch l).evictObjects.objects := by
    intro o ho he
    refine List.mem_filter.mpr ⟨?_, by simp [he]⟩
    show o ∈ (updPart l.part _ y).objects
    rw [updPart_field (·.objects) (fun _ => rfl)]
    exact ho
  unfold Tx.reject Tx.endLaunch
  simp only [Bool.false_eq_true, if_false, hw, h2, h3, if_true]
  split
  · exact ⟨hparts tx.sys, hobj tx.sys⟩
  · exact ⟨hparts tx.sys, hobj tx.sys⟩

theorem Tx.turnAway_silent (tx : Tx s0) (l : Launch) (reason : Nat) (h : l.Silent) :
    (tx.turnAway l reason).halt = tx.halt ∧ (tx.turnAway l reason).sys.Gone l.key ∧
      (∀ n, ((tx.turnAway l reason).sys.part? n).map (·.vlog) = (tx.sys.part? n).map (·.vlog)) ∧
      ∀ o ∈ tx.sys.objects, o.evict = false → o ∈ (tx.turnAway l reason).sys.objects := by
  unfold Tx.turnAway
  rw [Tx.publish_halt, Tx.publish_sys]
  exact tx.reject_silent l reason h

/-! ### Signature checks (R67 to R71) -/

/-- A launch that has its object's verdict is turned away or accepted. -/
theorem Tx.finishChecks_cases (tx : Tx s0) (l : Launch) (o : Object) :
    (∃ r, tx.finishChecks l o = tx.turnAway l r) ∨ tx.finishChecks l o = tx.accept l o := by
  unfold Tx.finishChecks
  dsimp only
  split
  · exact .inl ⟨_, rfl⟩
  · split
    · exact .inl ⟨_, rfl⟩
    · split
      · exact .inl ⟨_, rfl⟩
      · split
        · exact .inl ⟨_, rfl⟩
        · split
          · exact .inl ⟨_, rfl⟩
          · exact .inr rfl

theorem Launch.settle_phase (l : Launch) (h : l.phase = .held) : l.settle.phase ≠ .checking := by
  unfold Launch.settle
  split
  · exact LaunchPhase.noConfusion
  · rw [h]
    exact LaunchPhase.noConfusion

theorem mem_putKey_self {α : Type} {key : α → Nat} {x y : α} {xs : List α} (hy : y ∈ putKey key x xs) (hk : key y = key x) : y = x := by
  obtain ⟨z, -, rfl⟩ := List.mem_map.mp hy
  by_cases h : key z = key x
  · exact if_pos h
  · rw [if_neg h] at hk
    exact absurd hk h

theorem mem_putKey_of_mem {α : Type} {key : α → Nat} {x y : α} {xs : List α} (hy : y ∈ xs) (hk : key y = key x) : x ∈ putKey key x xs :=
  List.mem_map.mpr ⟨y, hy, if_pos hk⟩

/-- An accepted launch is no longer being checked, and its object stands in the table. -/
theorem Tx.accept_silent (tx : Tx s0) (l : Launch) {o : Object} (h : l.Silent) (ho : o ∈ tx.sys.objects) :
    (tx.accept l o).halt = tx.halt ∧ (∀ x ∈ (tx.accept l o).sys.launches, x.key = l.key → x.phase ≠ .checking) ∧
      ∃ o' ∈ (tx.accept l o).sys.objects, o'.part = o.part ∧ o'.code = o.code := by
  obtain ⟨-, -, h3⟩ := h
  unfold Tx.accept
  simp only [h3, Bool.false_eq_true, if_false, Tx.publish_sys, Tx.publish_halt]
  refine ⟨rfl, fun x hx hk => ?_, { o with
    used := tx.sys.serial, launched := if l.travelling then o.launched else some (o.launched.getD l.order) }, ?_, rfl, rfl⟩
  · rw [mem_putKey_self hx (by rw [Launch.settle_key]; exact hk)]
    exact Launch.settle_phase _ rfl
  · exact mem_putKey_of_mem (key := Object.key) ho rfl

/-- What the checks that read the verified copy leave. -/
theorem Tx.finishChecks_silent (tx : Tx s0) (l : Launch) {o : Object} (h : l.Silent) (ho : o ∈ tx.sys.objects) (he : o.evict = false) :
    (tx.finishChecks l o).halt = tx.halt ∧ (∀ x ∈ (tx.finishChecks l o).sys.launches, x.key = l.key → x.phase ≠ .checking) ∧
      ∃ o' ∈ (tx.finishChecks l o).sys.objects, o'.part = o.part ∧ o'.code = o.code := by
  rcases tx.finishChecks_cases l o with ⟨r, hr⟩ | hr
  · obtain ⟨hh, hg, -, hobj⟩ := tx.turnAway_silent l r h
    rw [hr]
    exact ⟨hh, fun x hx hk => absurd hk (hg x hx), o, hobj o ho he, rfl, rfl⟩
  · rw [hr]
    exact tx.accept_silent l h ho

/-- Reads through the tables of a partition leave launches, objects, new keys, and the logs of refused signatures. -/
structure Tx.Read (b a : Tx s0) : Prop where
  launches : b.sys.launches = a.sys.launches
  objects : b.sys.objects = a.sys.objects
  serial : b.sys.serial = a.sys.serial
  vlog : ∀ n, (b.sys.part? n).map (·.vlog) = (a.sys.part? n).map (·.vlog)

namespace Tx.Read

theorem refl (a : Tx s0) : Read a a := ⟨rfl, rfl, rfl, fun _ => rfl⟩

theorem trans {a b c : Tx s0} (h : Read c b) (k : Read b a) : Read c a :=
  ⟨h.launches.trans k.launches, h.objects.trans k.objects, h.serial.trans k.serial, fun n => (h.vlog n).trans (k.vlog n)⟩

theorem of_quiet {a b : Tx s0} (h : Quiet b a) : Read b a :=
  ⟨h.launches, h.objects, h.serial, fun n => h.field (fun y => (y.part? n).map (·.vlog)) fun _ => rfl⟩

theorem updPart (tx : Tx s0) (m : Nat) {f : Partition → Partition} (hf : ∀ q, (f q).num = q.num ∧ (f q).vlog = q.vlog) :
    Read (tx.mod (updPart m f)) tx :=
  ⟨updPart_field (·.launches) (fun _ => rfl) m f tx.sys, updPart_field (·.objects) (fun _ => rfl) m f tx.sys,
    updPart_field (·.serial) (fun _ => rfl) m f tx.sys, fun n => part?_updPart (·.vlog) hf m n tx.sys⟩

end Tx.Read

open Tx (Read)

theorem Tx.noticeDrop_read (tx : Tx s0) (q : Partition) (va : Nat) : Read (tx.noticeDrop q va) tx := by
  unfold Tx.noticeDrop
  split
  · exact ⟨rfl, rfl, rfl, fun _ => rfl⟩
  · exact .refl tx

theorem Tx.walkNow_read (tx : Tx s0) (part core va rights : Nat) : Read (tx.walkNow part core va rights).2 tx := by
  unfold Tx.walkNow
  split
  · exact .refl tx
  · next q _ =>
    have hk := Read.of_quiet (tx.rekeyWalk_quiet q va)
    generalize walk tx.st q va = w
    generalize va / 65536 = page
    cases w with
    | hole => exact ⟨rfl, rfl, rfl, fun _ => rfl⟩
    | bad => exact (Tx.noticeDrop_read _ _ _).trans hk
    | spoiled => exact .refl tx
    | ok ad leaf =>
      dsimp only
      split
      · exact hk
      · have hs := (Read.of_quiet (Tx.setAD_quiet _ q ad (isWrite rights))).trans hk
        exact (Read.updPart _ part (f := fun p => { p with tlb := Tlb.mk core page (BitVec.ofNat 64 leaf) (isWrite rights) ::
          (p.tlb.filter fun t => !(t.core == core && t.vpage == page)) }) fun _ => ⟨rfl, rfl⟩).trans hs

theorem Tx.virtAddr_read (tx : Tx s0) (part va rights : Nat) : Read (tx.virtAddr part va rights).2 tx := by
  have hw := tx.walkNow_read part 288 va rights
  unfold Tx.virtAddr
  split
  · exact .refl tx
  · generalize tx.walkNow part 288 va rights = r at hw ⊢
    generalize va % 65536 = off
    obtain ⟨leaf, u⟩ := r
    cases leaf with
    | none => exact hw
    | some leaf =>
      dsimp only
      split
      · exact hw
      · exact (Read.of_quiet (Tx.rekey_quiet _ _ _)).trans hw

theorem Tx.readVirt_read (tx : Tx s0) (part va n : Nat) : Read (tx.readVirt part va n).2 tx := by
  unfold Tx.readVirt
  generalize linePieces va n = xs
  have key : ∀ (xs : List (Nat × Nat)) (acc : Option (List Byte) × Tx s0),
      Read (xs.foldl (fun (acc : Option (List Byte) × Tx s0) x =>
        match acc.1 with
        | none => acc
        | some bs => match acc.2.virtAddr part x.1 rRd with
          | (none, tx) => (none, tx)
          | (some (a, k, _, _), tx) => (some (bs ++ tx.st.homeBytes a x.2 k), tx)) acc).2 acc.2 := by
    intro xs
    induction xs with
    | nil => exact fun acc => .refl acc.2
    | cons x xs ih =>
      intro acc
      refine (ih _).trans ?_
      obtain ⟨bs, u⟩ := acc
      cases bs with
      | none => exact .refl u
      | some bs =>
        have h := u.virtAddr_read part x.1 rRd
        dsimp only
        generalize u.virtAddr part x.1 rRd = r at h ⊢
        obtain ⟨a, v⟩ := r
        cases a <;> exact h
  exact key xs (some [], tx)

theorem Tx.readObject_read (tx : Tx s0) (part code : Nat) : Read (tx.readObject part code).2 tx := by
  have h := tx.readVirt_read part code 64
  unfold Tx.readObject
  split
  · exact .refl tx
  · generalize tx.readVirt part code 64 = r at h ⊢
    obtain ⟨bs, u⟩ := r
    cases bs with
    | none => exact h
    | some bs => exact (Tx.readVirt_read _ _ _ _).trans h

end Sys2Proof.Machine

/-! ## Signature checks, extent walks and translations (R41, R67 to R76) -/

namespace Sys2Proof.Machine

variable {s0 s : State} {l : Launch}

open Tx (Quiet Read)

/-! ### Signature checks -/

/-- Room for code is made out of other objects alone. -/
theorem Sys.makeRoom_keeps {p : Partition} {bytes : Nat} : ∀ {n : Nat} {y z : Sys}, y.makeRoom p bytes n = some z →
    z.launches = y.launches ∧ z.serial = y.serial ∧ z.objects ⊆ y.objects
  | 0, y, z, h => by
    unfold Sys.makeRoom at h
    split at h
    · cases h
      exact ⟨rfl, rfl, fun _ => id⟩
    · cases h
  | n + 1, y, z, h => by
    unfold Sys.makeRoom at h
    split at h
    · cases h
      exact ⟨rfl, rfl, fun _ => id⟩
    · split at h
      · cases h
      · obtain ⟨hl, hs, ho⟩ := Sys.makeRoom_keeps h
        exact ⟨hl, hs, fun x hx => List.mem_of_mem_filter (ho hx)⟩

theorem Sys.makeRoom_getD_keeps (p : Partition) (bytes n : Nat) (y : Sys) :
    ((y.makeRoom p bytes n).getD y).launches = y.launches ∧ ((y.makeRoom p bytes n).getD y).serial = y.serial ∧
      ((y.makeRoom p bytes n).getD y).objects ⊆ y.objects := by
  cases h : y.makeRoom p bytes n with
  | none => exact ⟨rfl, rfl, fun _ => id⟩
  | some z => exact Sys.makeRoom_keeps h

theorem Tx.putCode_quiet (tx : Tx s0) (p : Partition) (places : List Nat) (bs : List Byte) : Quiet (tx.putCode p places bs) tx :=
  Tx.each_quiet (fun tx _ => Tx.each_quiet (fun tx _ => tx.homeWrite_quiet _ _ _ _ _ _) _ tx) _ tx

/-- The launch that is checked next is admitted by its partition. -/
theorem admits_of_checkObject {q : Partition} {r : Except Nat (List Byte × Sys)} (hq : s.sys.part? l.part = some q)
    (hr : checkObject s l = some r) : q.admits l = true := by
  unfold checkObject at hr
  rw [hq] at hr
  dsimp only at hr
  by_contra h
  rw [if_pos (by simpa using h)] at hr
  cases hr

/-- A refused signature turns away the one launch that waits for it, and the partition's log has its entry. -/
theorem Tx.refuse_silent (tx : Tx s0) {q : Partition} (n reason : Nat) (h : l.Silent)
    (hq : (tx.sys.part? l.part).map (·.vlog) = some q.vlog) :
    let u := (tx.mod (updPart l.part fun p => { p with vlog := p.vlog ++ [(n, l.id)] })).turnAway l reason
    u.halt = tx.halt ∧ u.sys.Gone l.key ∧ ∀ v, u.sys.part? l.part = some v → v.vlog = q.vlog ++ [(n, l.id)] := by
  intro u
  obtain ⟨hh, hg, hlog, -⟩ := (tx.mod (updPart l.part fun p => { p with vlog := p.vlog ++ [(n, l.id)] })).turnAway_silent l reason h
  refine ⟨hh, hg, fun v hv => ?_⟩
  obtain ⟨p, hp, hpv⟩ := Option.map_eq_some_iff.mp hq
  have hput : (updPart l.part (fun p => { p with vlog := p.vlog ++ [(n, l.id)] }) tx.sys).part? l.part =
      some { p with vlog := p.vlog ++ [(n, l.id)] } := by
    rw [updPart_some hp]
    have hn : p.num = l.part := key_of_findKey hp
    exact Sys.part?_setPart hp hn
  have hl : some v.vlog = some (p.vlog ++ [(n, l.id)]) := by
    have h := hlog l.part
    rw [show u.sys.part? l.part = some v from hv] at h
    exact h.trans (congrArg (Option.map (·.vlog)) hput)
  rw [Option.some.inj hl, hpv]

/-- The table with room made for an object's code. -/
def Tx.withRoom (tx : Tx s0) (p : Partition) (bs : List Byte) : Tx s0 :=
  tx.mod fun s => (s.makeRoom p (CodeObj.bytes bs) s.objects.length).getD s

/-- The places of an object's code, one on each die. -/
def Tx.newPlaces (tx : Tx s0) (p : Partition) (bs : List Byte) : List Nat :=
  ((tx.withRoom p bs).sys.codePlaces p (CodeObj.bytes bs)).getD []

/-- The entry that a verified object gets. -/
def Tx.newObject (tx : Tx s0) (p : Partition) (code : Nat) (bs : List Byte) : Object :=
  CodeObj.make p (tx.withRoom p bs).fresh code (tx.newPlaces p bs) bs

/-- The verified object enters the table, its code the code store. -/
def Tx.enterObject (tx : Tx s0) (p : Partition) (code : Nat) (bs : List Byte) : Tx s0 :=
  ((tx.withRoom p bs).putCode p (tx.newPlaces p bs) bs).take.mod fun s => { s with objects := s.objects ++ [tx.newObject p code bs] }

/-- The launches that wait for the object go on. -/
def Tx.settleChecks (tx : Tx s0) (p : Partition) (code : Nat) (o : Object) : Tx s0 :=
  tx.each (tx.sys.settledBy p code) fun tx x => tx.finishChecks x ((tx.sys.object? o.key).getD o)

/-- What an object's entry leaves, and the entry itself under its new key. -/
theorem Tx.enterObject_spec (tx : Tx s0) (p : Partition) (code : Nat) (bs : List Byte) (hk : ∀ o ∈ tx.sys.objects, o.key ≠ tx.sys.serial) :
    (tx.enterObject p code bs).halt = tx.halt ∧ (tx.enterObject p code bs).sys.launches = tx.sys.launches ∧
      tx.newObject p code bs ∈ (tx.enterObject p code bs).sys.objects ∧
      (tx.enterObject p code bs).sys.object? (tx.newObject p code bs).key = some (tx.newObject p code bs) := by
  obtain ⟨hl, hs, ho⟩ := Sys.makeRoom_getD_keeps p (CodeObj.bytes bs) tx.sys.objects.length tx.sys
  have hput := (tx.withRoom p bs).putCode_quiet p (tx.newPlaces p bs) bs
  have hobj : (tx.enterObject p code bs).sys.objects = (tx.withRoom p bs).sys.objects ++ [tx.newObject p code bs] :=
    congrArg (fun xs => xs ++ [tx.newObject p code bs]) hput.objects
  have hkey : (tx.newObject p code bs).key = tx.sys.serial := hs
  refine ⟨hput.halt, hput.launches.trans hl, ?_, ?_⟩
  · rw [hobj]
    exact List.mem_append_right _ (List.mem_singleton_self _)
  · have hnone : findKey Object.key (tx.newObject p code bs).key (tx.withRoom p bs).sys.objects = none :=
      List.find?_eq_none.mpr fun x hx => by simpa [hkey] using hk x (ho hx)
    show findKey _ _ (tx.enterObject p code bs).sys.objects = _
    rw [hobj, findKey_append, hnone]
    simp [findKey]

/-- The launches that a verdict settles where one launch waits for it. -/
theorem Sys.settledBy_one {q : Partition} {r : Except Nat (List Byte × Sys)} {y : Sys} (hq : s.sys.part? l.part = some q)
    (hr : checkObject s l = some r) (hw : s.sys.awaiting l.part l.code = [l]) (hy : y.launches = s.sys.launches) :
    y.settledBy q l.code = [l] := by
  have hnum : q.num = l.part := key_of_findKey hq
  have hone : y.awaiting l.part l.code = [l] := by
    unfold Sys.awaiting
    rw [hy]
    exact hw
  unfold Sys.settledBy
  rw [hnum, hone]
  simp [admits_of_checkObject hq hr]

theorem exec_signatureCheck_error {q : Partition} {n : Nat} (hn : nextCheck s = some l) (hq : s.sys.part? l.part = some q)
    (hr : checkObject s l = some (.error n)) (hh : ((Tx.start s).readObject l.part l.code).2.halt = none)
    (hw : s.sys.awaiting l.part l.code = [l]) (hl : l.Silent) (hv : s.sys.verified l = none) :
    ∃ u, exec (.signatureCheck l.key) s = .next u ∧ (∀ x ∈ u.sys.launches, x.key = l.key → x.phase ≠ .checking) ∧
      u.sys.Gone l.key ∧ ∀ v, u.sys.part? l.part = some v → v.vlog = q.vlog ++ [(n, l.id)] := by
  have hread := (Tx.start s).readObject_read l.part l.code
  obtain ⟨hh', hg, hlog⟩ := ((Tx.start s).readObject l.part l.code).2.refuse_silent (q := q) n l.unsignedReason hl
    ((hread.vlog l.part).trans (congrArg (Option.map (·.vlog)) hq))
  refine ⟨_, ?_, fun x hx hk => absurd hk (hg x hx), hg, hlog⟩
  change execSignatureCheck l.key s = _
  unfold execSignatureCheck
  rw [hn]
  dsimp only
  rw [hq, hr]
  dsimp only
  rw [eventStep, if_pos (by simp), show (Tx.start s).sys.verified l = none from hv]
  dsimp only
  rw [Sys.settledBy_one hq hr hw hread.launches]
  exact Tx.done_of_halt (hh'.trans hh)

theorem exec_signatureCheck_ok {q : Partition} {r : List Byte × Sys} (hn : nextCheck s = some l) (hq : s.sys.part? l.part = some q)
    (hr : checkObject s l = some (.ok r)) (hh : ((Tx.start s).readObject l.part l.code).2.halt = none)
    (hw : s.sys.awaiting l.part l.code = [l]) (hl : l.Silent) (hk : ∀ o ∈ s.sys.objects, o.key ≠ s.sys.serial)
    (hv : s.sys.verified l = none) :
    ∃ u, exec (.signatureCheck l.key) s = .next u ∧ (∀ x ∈ u.sys.launches, x.key = l.key → x.phase ≠ .checking) ∧
      ∃ o ∈ u.sys.objects, o.part = l.part ∧ o.code = l.code := by
  have hread := (Tx.start s).readObject_read l.part l.code
  have hexec : exec (.signatureCheck l.key) s =
      ((((Tx.start s).readObject l.part l.code).2.enterObject q l.code r.1).settleChecks q l.code
        (((Tx.start s).readObject l.part l.code).2.newObject q l.code r.1)).done := by
    change execSignatureCheck l.key s = _
    unfold execSignatureCheck
    rw [hn]
    dsimp only
    rw [hq, hr]
    dsimp only
    rw [eventStep, if_pos (by simp), show (Tx.start s).sys.verified l = none from hv]
    rfl
  generalize ((Tx.start s).readObject l.part l.code).2 = a at hh hread hexec
  obtain ⟨hh', hlaun, ho, hfind⟩ := a.enterObject_spec q l.code r.1 (by rw [hread.objects, hread.serial]; exact hk)
  have hsettle : (a.enterObject q l.code r.1).settleChecks q l.code (a.newObject q l.code r.1) =
      (a.enterObject q l.code r.1).finishChecks l (a.newObject q l.code r.1) := by
    unfold Tx.settleChecks
    rw [Sys.settledBy_one hq hr hw (hlaun.trans hread.launches)]
    show (a.enterObject q l.code r.1).finishChecks l (((a.enterObject q l.code r.1).sys.object? _).getD _) = _
    rw [hfind]
    rfl
  obtain ⟨hh'', hph, o, ho', hp, hc⟩ := (a.enterObject q l.code r.1).finishChecks_silent l hl ho rfl
  have hnum : q.num = l.part := key_of_findKey hq
  rw [hexec, hsettle]
  exact ⟨_, Tx.done_of_halt (hh''.trans (hh'.trans hh)), hph, o, ho', hp.trans hnum, hc⟩

/-! ### Extent walks -/

/-- A walk that pins every page leaves the launch with its extents. -/
theorem exec_extentWalk_ok {k : Nat} {q : Partition} {e : List PageMap} (hl : s.sys.launch? k = some l)
    (hq : s.sys.part? l.part = some q) (hp : l.phase = .ready) (ht : l.translated = false)
    (he : pinVerdict ((Tx.start s).pinAll q l).1 = .ok e) :
    exec (.extentWalk k) s =
      (((Tx.start s).pinAll q l).2.mod fun s => s.setLaunch { l with walked := l.pinnedSlots, extents := e }).done := by
  change execExtentWalk k s = _
  unfold execExtentWalk
  rw [hl]
  dsimp only
  rw [hq]
  dsimp only
  rw [eventStep, if_pos (by simp [walkDue, hp, ht]), he]

/-- A walk that finds a page it cannot pin rejects the launch. -/
theorem exec_extentWalk_error {k : Nat} {n : Nat × Nat} {q : Partition} (hl : s.sys.launch? k = some l)
    (hq : s.sys.part? l.part = some q) (hp : l.phase = .ready) (ht : l.translated = false)
    (he : pinVerdict ((Tx.start s).pinAll q l).1 = .error n) :
    exec (.extentWalk k) s = (((Tx.start s).pinAll q l).2.reject l 0x0D).done := by
  change execExtentWalk k s = _
  unfold execExtentWalk
  rw [hl]
  dsimp only
  rw [hq]
  dsimp only
  rw [eventStep, if_pos (by simp [walkDue, hp, ht]), he]

/-! ### Translations -/

theorem exec_gorluxTranslation {k : Nat} {o : Object} {q : Partition} (text : List Word) (map : List Nat)
    (ho : s.sys.object? k = some o) (hq : s.sys.part? o.part = some q) (hg : s.sys.gorluxAt o = true)
    (hne : text ≠ []) (hok : gorluxOk s.sys o q text map = true) :
    let places := ((s.sys.setObject { o with gorlux := [] }).codePlaces q (4 * text.length)).getD []
    let u := ((Tx.start s).putCode q places (bytesOfWords text)).st
    exec (.gorluxTranslation k text map) s = .next (u.withSys (u.sys.setObject
      { { o with native := text, nmap := map, nativeOn := true }.refreshed with gorlux := places })) := by
  intro places u
  have hh := ((Tx.start s).putCode_quiet q places (bytesOfWords text)).halt
  change execGorluxTranslation k text map s = _
  unfold execGorluxTranslation
  rw [ho]
  dsimp only
  rw [hq]
  dsimp only
  rw [eventStep, if_pos (by simp [hg, hok]), if_neg (by simpa using hne)]
  exact Tx.done_of_halt hh

theorem exec_gorluxTranslation_nil {k : Nat} {o : Object} {q : Partition} (map : List Nat)
    (ho : s.sys.object? k = some o) (hq : s.sys.part? o.part = some q) (hg : s.sys.gorluxAt o = true) :
    exec (.gorluxTranslation k [] map) s = .next (s.withSys (s.sys.setObject { o with gaveUp := true })) := by
  change execGorluxTranslation k [] map s = _
  unfold execGorluxTranslation
  rw [ho]
  dsimp only
  rw [hq]
  dsimp only
  rw [eventStep, if_pos (by simp [hg])]
  exact Tx.done_of_halt rfl

end Sys2Proof.Machine

namespace Sys2Proof

open Machine

/-- Settles O53: one lemma per event; what a record's checks read is a read through the partition's tables, which leaves launches,
objects and logs as they are. -/
theorem launchesArriveAndAreChecked : Obligations.LaunchesArriveAndAreChecked := by
  intro s
  refine ⟨fun k tail writes q hq => exec_hostQueueDoorbell tail writes hq, fun n r q ho hq => ?_, fun n k q ho hq => ?_,
    fun l q r hn hq hr hh hw hl hk hv => ?_, fun k l q hl hq hp ht => ?_,
    fun k o q text map ho hq hg => ⟨exec_gorluxTranslation text map ho hq hg, exec_gorluxTranslation_nil map ho hq hg⟩⟩
  · intro l he hb ht hu htr hv
    exact exec_launchArrival_stream ho hq rfl he hb ht hu htr hv
  · intro e ws l hw hz he hb ht hu htr hv
    exact exec_launchArrival_queue ho hq hw hz rfl he hb ht hu htr hv
  · cases r with
    | error n => exact exec_signatureCheck_error hn hq hr hh hw hl hv
    | ok r => exact exec_signatureCheck_ok hn hq hr hh hw hl hk hv
  · intro r hh
    refine ⟨fun e he => (exec_extentWalk_ok hl hq hp ht he).trans (Tx.done_of_halt hh), fun e he hs => ?_⟩
    obtain ⟨hh', hg, -⟩ := r.2.reject_silent l 0x0D hs
    exact ⟨_, (exec_extentWalk_error hl hq hp ht he).trans (Tx.done_of_halt (hh'.trans hh)), hg⟩

end Sys2Proof

/-! ## The issue of a stitch in portable text (R72, R113, R125, R126) -/

namespace Sys2Proof.Machine

variable {s : State} {x : Standing} {st : List Standing} {core : Nat} {c : CoreSched}

/-- The instruction that a fetch comes to: what no rule decodes runs as the unassigned opcode (R114). -/
def Fetched.instr : Fetched → Instr
  | .word i => i
  | .bad => .unassignedOpcode

theorem fetchWord_portable_ok {w : Word} {i : Instr} (h : decode w = .ok i) : fetchWord none (some w) = .word i := by
  unfold fetchWord
  simp only [h]

theorem fetchWord_error {n : Option Native} {w : Word} {e : DecodeError} (h : decode w = .error e) : fetchWord n (some w) = .bad := by
  unfold fetchWord
  simp only [h]

/-- A thread that stands at a word of portable text fetches that word. -/
theorem Sys.fetch_portable {y : Sys} {l : Launch} {t : Thread} {w : Word} (h : y.portableWord l t = some w) :
    y.fetch l t = fetchWord none (some w) := by
  unfold Sys.portableWord at h
  split at h
  · next hn =>
    unfold Sys.textOf at h
    unfold Sys.fetch Sys.objectOf
    split at h
    · next o ho => simp only [ho, hn, h]
    · simp at h
  · cases h

/-- With nothing before the word, the stitch runs what its first thread fetches, in the state with the issue marked. -/
theorem issueStitch_run (hg : ∀ y ∈ x :: st, gateOf s.sys y = .go) (hf : ∀ y ∈ x :: st, s.sys.fetchSpoiled core y.l y.t = false)
    (hw : ∀ y ∈ x :: st, y.t.swapForm s.sys y.l = y.t) :
    ∃ tx : Tx s, issueStitch s core (x :: st) c = .run (s.sys.fetch x.l x.t).instr tx ∧ tx.st.turned = s.issued core (x :: st) c := by
  have hgate : ((x :: st).any fun y => gateOf s.sys y != .go) = false := List.any_eq_false.mpr fun y hy => by simp [hg y hy]
  have hspoil : ((x :: st).any fun y => s.sys.fetchSpoiled core y.l y.t) = false := List.any_eq_false.mpr fun y hy => by simp [hf y hy]
  have hswap : ((x :: st).any fun y => y.t.swapForm s.sys y.l != y.t) = false := List.any_eq_false.mpr fun y hy => by simp [hw y hy]
  unfold issueStitch
  simp only [hgate, hspoil, hswap, Bool.false_eq_true, if_false]
  cases s.sys.fetch x.l x.t with
  | word i => exact ⟨_, rfl, rfl⟩
  | bad => exact ⟨_, rfl, rfl⟩

/-- The stitch is what comes next where nothing stands before the issue. -/
theorem step_of_issue {r : Nat × List Standing × CoreSched} {i : Instr} {tx : Tx s} (h : s.sys.switchEnd = none)
    (ha : s.sys.agenda = []) (hs : s.sys.shut = false) (hf : s.sys.strays = [])
    (ht : ¬(s.sys.turn = 1 ∧ Config.freeBool s.sys.nonce = true)) (hn : nextStitch s.sys = some r)
    (hi : issueStitch s r.1 r.2.1 r.2.2 = .run i tx) : step s = tickOutcome (exec i tx.st.turned) := by
  have hm : issueMove s = some (.word i tx.st) := by
    unfold issueMove
    simp only [hn, Option.map_some, hi]
  unfold step nextMove
  rw [h, ha]
  simp only [hs, hf, List.isEmpty_nil, Bool.not_true, Bool.and_false, Bool.false_eq_true, if_false, if_neg ht, hm]

end Sys2Proof.Machine

namespace Sys2Proof

open Machine

/-- Settles O5: nothing stands before the issue of the stitch, whose first thread fetches the word that it stands at. -/
theorem stepRunsTheDecodedWord : Obligations.StepRunsTheDecodedWord := by
  unfold Obligations.StepRunsTheDecodedWord
  intro s core x st c w he ha hs hr ht hn hg hf hsw hw
  obtain ⟨tx, hrun, htx⟩ := issueStitch_run (c := c) hg hf hsw
  have hstep : step s = tickOutcome (exec (fetchWord none (some w)).instr (s.issued core (x :: st) c)) := by
    rw [step_of_issue he ha hs hr ht hn hrun, htx, Sys.fetch_portable hw]
  refine ⟨fun i hi => ?_, fun e hi => ?_⟩
  · rw [hstep, fetchWord_portable_ok hi]
    rfl
  · rw [hstep, fetchWord_error hi]
    rfl

end Sys2Proof

/-! ## Commands of a mailbox (R459) -/

namespace Sys2Proof.Machine

variable {s0 s : State} {fn part n : Nat}

theorem Sys.Commands.withPart {y : Sys} (h : y.Commands fn part n) (m : Nat) : y.Commands fn m (if fn = 0 then m else fn - 1) := by
  obtain ⟨hb, hf, hp, -⟩ := h
  exact ⟨hb, hf, hp, rfl⟩

/-- What a function may command is run for the partition that it names. -/
theorem mailbox_run (h : s.sys.Commands fn part n) {vf : Bool} (hv : fn = 0 ∨ vf = true) {run : Nat → Tx s → Nat × List Word × Tx s}
    {status : Nat} {data : List Word} {tx : Tx s} (hr : run n (Tx.start s) = (status, data, tx)) (hh : tx.halt = none) :
    mailbox s fn vf part run = .next (tx.st.answered fn status data) := by
  obtain ⟨hb, hf, hp, rfl⟩ := h
  have hthere : (!s.sys.booted || decide (fn > 8) || (fn != 0 && (s.sys.part? (fn - 1)).isNone)) = false := by
    rw [hb]
    by_cases h0 : fn = 0
    · simp [h0]
    · simp [hf, hp h0]
  have hmay : (fn != 0 && !vf) = false := by
    rcases hv with rfl | rfl <;> simp
  unfold mailbox
  simp only [hthere, hmay, Bool.false_eq_true, if_false, hr]
  exact Tx.done_of_halt hh

/-- What only function 0 may command, another is answered with status 1. -/
theorem mailbox_forbidden (h : s.sys.Commands fn part n) (h0 : fn ≠ 0) (m : Nat) (run : Nat → Tx s → Nat × List Word × Tx s) :
    mailbox s fn false m run = .next (s.answered fn 1 []) := by
  obtain ⟨hb, hf, hp, -⟩ := h
  unfold mailbox
  rw [if_neg (by simp [hb, hf, Option.isSome_iff_ne_none.mp (hp h0)]), if_pos (by simp [h0])]
  rfl

/-! ### Queues (R457) -/

theorem exec_qset_bind (h : s.sys.Commands fn part n) {k base j : Nat} (hp : (s.sys.part? n).isSome = true) (hk : k < 4096)
    (hj : 4 ≤ j) (hj' : j ≤ 16) (hb : base % 64 = 0) (hq : ∀ q ∈ s.sys.queues, q.num ≠ k) :
    exec (.qset fn k part base j) s = .next ((s.withSys { s.sys with
      queues := s.sys.queues ++ [⟨k, n, base, j, 0, 0⟩] }).answered fn 0 []) := by
  have hnone : (Tx.start s).sys.queues.find? (fun q => q.num == k) = none :=
    List.find?_eq_none.mpr fun q hm => by simpa using hq q hm
  have hlegal : ¬(k ≥ 4096 ∨ j < 4 ∨ j > 16 ∨ base % 64 ≠ 0 ∨ ((Tx.start s).sys.part? n).isNone = true) := by
    have hpart : ((Tx.start s).sys.part? n).isNone = false := Option.isNone_eq_false_iff.mpr hp
    simp only [hpart, Bool.false_eq_true, or_false]
    omega
  change execQset fn k part base j s = _
  unfold execQset
  refine mailbox_run h (.inr rfl) (tx := (Tx.start s).mod fun y => { y with queues := y.queues ++ [⟨k, n, base, j, 0, 0⟩] }) ?_ rfl
  simp only [hnone]
  rw [if_neg (by omega), if_neg hlegal]
  rfl

/-- No launch has a source in a queue that is unbound. -/
theorem Sys.unbind_source {y : Sys} {q : Queue} (hq : q ∈ y.queues) {mine : Queue → Bool} (hm : mine q = true) :
    ∀ l ∈ (y.unbind mine).launches, ∀ c, l.source ≠ some (q.num, c) := by
  intro l hl c hs
  have hgone : ((y.queues.filter mine).map (·.num)).contains q.num = true :=
    List.contains_iff_mem.mpr (List.mem_map.mpr ⟨q, List.mem_filter.mpr ⟨hq, hm⟩, rfl⟩)
  obtain ⟨l0, -, rfl⟩ := List.mem_map.mp hl
  split at hs
  · cases hs
  · next hn => exact hn (by rw [hs]; exact hgone)

theorem exec_qset_unbind (h : s.sys.Commands fn part n) {k : Nat} (base : Nat) {q : Queue}
    (hq : s.sys.queues.find? (fun c => c.num == k) = some q) (hn : q.part = n) :
    exec (.qset fn k part base 0) s = .next ((s.withSys (s.sys.unbind fun x => x.num == k)).answered fn 0 []) := by
  have hq' : (Tx.start s).sys.queues.find? (fun c => c.num == k) = some q := hq
  change execQset fn k part base 0 s = _
  unfold execQset
  refine mailbox_run h (.inr rfl) (tx := (Tx.start s).mod fun y => y.unbind fun x => x.num == k) ?_ rfl
  simp only [hq', hn, or_true, and_self, if_true]
  rfl

/-! ### Cancelling (R462) -/

/-- `CANCEL` ends the launches of that ID, one by one. -/
theorem exec_cancel (h : s.sys.Commands fn part n) {id : Nat} {ls : List Launch} (hp : (s.sys.part? n).isSome = true)
    (hl : (s.sys.launches.filter fun l => l.part == n && l.id.toNat == id) = ls)
    (hh : ((Tx.start s).each ls fun tx l => tx.cancelLaunch l.key false).halt = none) :
    exec (.cancel fn part id) s =
      .next (((Tx.start s).each ls fun tx l => tx.cancelLaunch l.key false).st.answered fn 0 []) := by
  have hpart : ((Tx.start s).sys.part? n).isNone = false := Option.isNone_eq_false_iff.mpr hp
  change execCancel fn part id s = _
  unfold execCancel
  refine mailbox_run h (.inr rfl) ?_ hh
  simp only [hpart, Bool.false_eq_true, if_false, ← hl]
  rfl

theorem Tx.turnAway_replies (tx : Tx s0) {l : Launch} (reason : Nat) (h : l.Silent) :
    (tx.turnAway l reason).sys.replies = tx.sys.replies := by
  obtain ⟨-, -, hr, -⟩ := tx.endLaunch_silent l reason false h
  unfold Tx.turnAway
  rw [Tx.publish_sys]
  exact hr

/-- A silent launch without commands and granted requests is gone once it is cancelled, live or not. -/
theorem Tx.cancelLaunch_silent (tx : Tx s0) {l : Launch} (hl : tx.sys.launch? l.key = some l) (he : l.ending = none) (h : l.Silent)
    (hc : ∀ c ∈ tx.sys.cmds, c.launch ≠ l.key) (hr : ∀ r ∈ tx.sys.reqs, r.launch = l.key → r.granted = false) :
    (tx.cancelLaunch l.key false).halt = tx.halt ∧ (tx.cancelLaunch l.key false).sys.Gone l.key ∧
      (tx.cancelLaunch l.key false).sys.replies = tx.sys.replies := by
  unfold Tx.cancelLaunch
  simp only [hl, he, Option.isSome_none, Bool.false_eq_true, if_false]
  split
  · obtain ⟨hh, hg, -⟩ := tx.turnAway_silent l 0x12 h
    exact ⟨hh, hg, tx.turnAway_replies 0x12 h⟩
  · exact tx.terminate_silent l 0x12 hl h he hc hr

/-- A live launch with work under way begins its end: the work goes on, what its threads did so far has reached memory. -/
theorem Tx.cancelLaunch_unfinished (tx : Tx s0) {l : Launch} (hl : tx.sys.launch? l.key = some l) (he : l.ending = none)
    (hp : l.phase = .live) (hu : tx.sys.unfinished l.key = true) :
    ∃ l', (tx.drainStores l).sys.launch? l.key = some l' ∧ l'.key = l.key ∧
      tx.cancelLaunch l.key false = (tx.drainStores l).mod fun y => y.beginEnd l' 0x12 := by
  have hd := tx.drainStores_drained l
  obtain ⟨l', hl', hk, -⟩ := hd.launch hl
  have hu' : (tx.drainStores l).sys.unfinished l.key = true :=
    (hd.field (fun y => y.unfinished l.key) fun _ => rfl).trans hu
  refine ⟨l', hl', hk, ?_⟩
  unfold Tx.cancelLaunch
  simp only [hl, hp, he, ne_eq, not_true_eq_false, if_false, Option.isSome_none, Bool.false_eq_true]
  unfold Tx.terminate
  simp only [hl, he, hl', hu', Option.getD_some, if_true]

theorem Sys.beginEnd_launch {y : Sys} {l l' : Launch} (status : Nat) (hl : y.launch? l.key = some l') :
    ∃ v, (y.beginEnd l status).launch? l.key = some v ∧ v.ending = some status :=
  ⟨_, findKey_putKey (key := Launch.key) (x := { l with
    ending := some status, nextYoke := l.yokes, deferred := [], overflow := .none, phase := .live }) (by
      rw [updPart_field (·.launches) (fun _ => rfl)]
      exact Option.isSome_of_eq_some hl), rfl⟩

/-- The threads of the panels of a launch that begins its end are gone. -/
theorem Sys.beginEnd_threads {y : Sys} {l : Launch} (status : Nat) {p : Panel} (hp : p ∈ y.panels) (hl : p.launch = l.key) :
    ∀ t ∈ (y.beginEnd l status).threads, t.panel ≠ p.key := by
  intro t ht hk
  have hmine : ((y.panelsOf l.key).map (·.key)).contains p.key = true :=
    List.contains_iff_mem.mpr (List.mem_map.mpr ⟨p, List.mem_filter.mpr ⟨hp, by simp [hl]⟩, rfl⟩)
  have := (List.mem_filter.mp ht).2
  rw [hk, hmine] at this
  cases this

theorem exec_cancel_silent (h : s.sys.Commands fn part n) {id : Nat} {l : Launch} (hp : (s.sys.part? n).isSome = true)
    (hf : (s.sys.launches.filter fun l => l.part == n && l.id.toNat == id) = [l]) (hl : s.sys.launch? l.key = some l)
    (he : l.ending = none) (hs : l.Silent) (hc : ∀ c ∈ s.sys.cmds, c.launch ≠ l.key)
    (hr : ∀ r ∈ s.sys.reqs, r.launch = l.key → r.granted = false) :
    ∃ u, exec (.cancel fn part id) s = .next u ∧ u.sys.Gone l.key ∧ u.sys.replies = s.sys.replies ++ [⟨fn, 0, []⟩] := by
  obtain ⟨hh, hg, hrep⟩ := (Tx.start s).cancelLaunch_silent hl he hs hc hr
  exact ⟨_, exec_cancel h hp hf hh, hg, congrArg (fun rs => rs ++ [(⟨fn, 0, []⟩ : Reply)]) hrep⟩

theorem exec_cancel_unfinished (h : s.sys.Commands fn part n) {id : Nat} {l : Launch} (hp : (s.sys.part? n).isSome = true)
    (hf : (s.sys.launches.filter fun l => l.part == n && l.id.toNat == id) = [l]) (hl : s.sys.launch? l.key = some l)
    (he : l.ending = none) (hph : l.phase = .live) (hu : s.sys.unfinished l.key = true) :
    ∃ u v, exec (.cancel fn part id) s = .next u ∧ u.sys.launch? l.key = some v ∧ v.ending = some 0x12 ∧
      ∀ x ∈ s.sys.panels, x.launch = l.key → ∀ t ∈ u.sys.threads, t.panel ≠ x.key := by
  obtain ⟨l', hl', hk, hcan⟩ := (Tx.start s).cancelLaunch_unfinished hl he hph hu
  have hd := (Tx.start s).drainStores_drained l
  have heach : ((Tx.start s).each [l] fun tx l => tx.cancelLaunch l.key false) = _ := hcan
  have hexec := exec_cancel h hp hf (by rw [heach]; exact hd.halt)
  rw [heach] at hexec
  have hpanels : ((Tx.start s).drainStores l).sys.panels = s.sys.panels := hd.field (·.panels) fun _ => rfl
  rw [← hk] at hl' ⊢
  obtain ⟨v, hv, hve⟩ := Sys.beginEnd_launch 0x12 hl'
  exact ⟨_, v, hexec, hv, hve, fun x hx => Sys.beginEnd_threads 0x12 (hpanels ▸ hx)⟩

/-! ### Attestation and the summary image (R463, R465) -/

theorem wordsOf_length : ∀ bs : List Byte, (wordsOf bs).length = bs.length / 4
  | [] | [_] | [_, _] | [_, _, _] => by simp [wordsOf]
  | _ :: _ :: _ :: _ :: bs => by
    rw [wordsOf, List.length_cons, wordsOf_length bs]
    simp only [List.length_cons]
    omega

theorem digest_length (bs : List Byte) : (digest bs).length = 8 := by
  have := wordsOf_length ((Config.sha3 bs).take 32)
  simp only [List.length_take] at this
  simp only [digest, List.length_append, List.length_replicate]
  omega

theorem attestHead_length (p : Partition) (nonce : List Word) : (attestHead p nonce).length = 42 := by
  simp [attestHead, digest_length]

/-- The nonce stands behind the four words of the mark, the partition and two zeros. -/
theorem attestHead_nonce (p : Partition) {nonce : List Word} (h : nonce.length = 8) (rest : List Word) :
    ((attestHead p nonce ++ rest).drop 4).take 8 = nonce := by
  have hmap : (List.range 8).map (fun i => nonce.getD i 0) = nonce := by
    apply List.ext_getElem
    · simp [h]
    · intro i _ hi
      simp [List.getD, hi]
  simp only [attestHead, hmap, List.append_assoc, List.cons_append, List.nil_append, List.drop_succ_cons, List.drop_zero]
  exact List.take_left' h

/-- The identity key's signature in its 605 words. -/
def attestTail (p : Partition) (nonce : List Word) : List Word :=
  let sig := wordsOf ((Config.identitySign (Config.sha3 (bytesOfWords (attestHead p nonce)))).take 2420)
  sig ++ List.replicate (605 - sig.length) 0

theorem attestTail_length (p : Partition) (nonce : List Word) : (attestTail p nonce).length = 605 := by
  have := wordsOf_length ((Config.identitySign (Config.sha3 (bytesOfWords (attestHead p nonce)))).take 2420)
  simp only [List.length_take] at this
  simp only [attestTail, List.length_append, List.length_replicate]
  omega

theorem exec_attest (h : s.sys.Commands fn part n) (nonce : List Word) {p : Partition} (hp : s.sys.part? n = some p) :
    exec (.attest fn part nonce) s = .next (s.answered fn 0 (attestHead p nonce ++ attestTail p nonce)) := by
  have hp' : (Tx.start s).sys.part? n = some p := hp
  change execAttest fn part nonce s = _
  unfold execAttest
  refine mailbox_run h (.inr rfl) (tx := Tx.start s) ?_ rfl
  simp only [hp', List.append_assoc, attestTail]

theorem State.summaryOf_length (s : State) (fn n : Nat) : (s.summaryOf fn n).length = 16 := by
  unfold State.summaryOf
  split
  · simp
  · split <;> simp

theorem State.summary_length (s : State) (fn : Nat) : (s.summary fn).length = 180 := by
  have hlink (k : Nat) : (if fn = 0 then linkWords (s.sys.links.getD k Link.reset) else [0, 0]).length = 2 := by
    split <;> rfl
  simp only [State.summary, List.length_append, List.length_flatMap, State.summaryOf_length, hlink, List.map_const']
  simp

theorem exec_resync (h : s.sys.Commands fn part n) (buffer : Nat) :
    exec (.resync fn buffer) s = .next (State.answered ⟨s.mem, Mem.putBytes s.hostMem buffer (bytesOfWords (s.summary fn)),
      s.sys⟩ fn 0 (if fn = 0 then [BitVec.ofNat 32 s.sys.corrected] else [])) := by
  change execResync fn buffer s = _
  exact mailbox_run (h.withPart 0) (.inr rfl) (tx := (Tx.start s).hostPoke buffer (bytesOfWords (s.summary fn))) rfl rfl

/-! ### Objects, domains, logs (R13, R69, R70) -/

theorem exec_evict (h : s.sys.Commands fn part n) (code : Nat) (hp : (s.sys.part? n).isSome = true) :
    exec (.evict fn part code) s = .next ((s.withSys (Sys.dropLines { s.sys with
      objects := (s.sys.objects.map fun o => if o.part = n ∧ o.code = code then { o with evict := true } else o).filter
        fun o => !o.evict || s.sys.objectUsed o })).answered fn 0 []) := by
  have hpart : ((Tx.start s).sys.part? n).isNone = false := Option.isNone_eq_false_iff.mpr hp
  change execEvict fn part code s = _
  unfold execEvict
  refine mailbox_run h (.inr rfl) (tx := (Tx.start s).mod fun y => Sys.evictObjects { y with
    objects := y.objects.map fun o => if o.part = n ∧ o.code = code then { o with evict := true } else o }) ?_ rfl
  simp only [hpart, Bool.false_eq_true, if_false]
  rfl

theorem exec_vlog (h : s.sys.Commands fn part n) {k : Nat} {q : Partition} {e : Nat × Word} (hp : s.sys.part? n = some q)
    (he : q.vlog[k]? = some e) : exec (.vlog fn part k) s = .next (s.answered fn 0 [BitVec.ofNat 32 e.1, e.2]) := by
  have hb : ((Tx.start s).sys.part? n).bind (fun p => p.vlog[k]?) = some e := by
    change (s.sys.part? n).bind _ = _
    rw [hp]
    exact he
  change execVlog fn part k s = _
  unfold execVlog
  refine mailbox_run h (.inr rfl) (tx := Tx.start s) ?_ rfl
  simp only [hb]

theorem exec_domain (h : s.sys.Commands 0 part n) {d : Nat} (peers : List DomainPeer) (hd : d ≠ 0) (hd' : d ≤ 255) :
    exec (.domain 0 d peers) s = .next ((s.withSys { s.sys with
      domains := ⟨d, peers⟩ :: s.sys.domains.filter fun x => x.num != d }).answered 0 0 []) := by
  change execDomain 0 d peers s = _
  unfold execDomain
  refine mailbox_run (h.withPart 0) (.inl rfl) (tx := (Tx.start s).mod fun y => { y with
    domains := ⟨d, peers⟩ :: y.domains.filter fun x => x.num != d }) ?_ rfl
  rw [if_neg (by omega)]
  rfl

end Sys2Proof.Machine

namespace Sys2Proof

open Machine

/-- Settles O51: each command's part of `mailbox`; a cancelled launch ends at once unless it has work under way. -/
theorem mailboxCommands : Obligations.MailboxCommands := by
  unfold Obligations.MailboxCommands
  intro s fn part n h
  refine ⟨fun k base j => exec_qset_bind h, fun k base q hq hn => ⟨_, exec_qset_unbind h base hq hn, rfl, rfl, ?_⟩,
    fun id hp hl => ?_, fun id l hp hf hl he => ⟨exec_cancel_silent h hp hf hl he, exec_cancel_unfinished h hp hf hl he⟩,
    fun code => exec_evict h code,
    fun k q e => exec_vlog h, fun nonce hp hn => ?_, fun buffer => ⟨exec_resync h buffer, s.summary_length fn, rfl⟩, ?_,
    fun h0 d peers a r => ?_⟩
  · have hk : q.num = k := by simpa using List.find?_some hq
    subst hk
    exact Sys.unbind_source (List.mem_of_find?_eq_some hq) (by simp)
  · have hnil : (s.sys.launches.filter fun l => l.part == n && l.id.toNat == id) = [] :=
      List.filter_eq_nil_iff.mpr fun l hm => by simpa using hl l hm
    exact exec_cancel h hp hnil rfl
  · obtain ⟨p, hp⟩ := Option.isSome_iff_exists.mp hp
    have hnum : p.num = n := key_of_findKey hp
    refine ⟨_, exec_attest h nonce hp, by simp [attestHead_length, attestTail_length], rfl, ?_, attestHead_nonce p hn _⟩
    rw [← hnum]
    rfl
  · rintro rfl d peers hd hd'
    exact exec_domain h peers hd hd'
  · change execDomain fn d peers s = _ ∧ execCreate fn a s = _ ∧ execDestroy fn part s = _ ∧ execSuper fn part r s = _
    exact ⟨mailbox_forbidden h h0 _ _, mailbox_forbidden h h0 _ _, mailbox_forbidden h h0 _ _, mailbox_forbidden h h0 _ _⟩

end Sys2Proof

/-! ## A stitch served thread by thread (R125)

What a word does that changes nothing of a stitch but its threads, each by itself. -/

namespace Sys2Proof.Machine

variable {s0 s : State}

/-- A thread of the tables, with its panel and its launch. -/
def Sys.threadAt (y : Sys) (id : Nat × Nat) : Option (Thread × Panel × Launch) :=
  (y.thread? id.1 id.2).bind fun t => (y.homeOf t).map fun h => (t, h.1, h.2)

theorem Sys.stitch_eq (y : Sys) : y.stitch = y.focus.filterMap y.threadAt := rfl

theorem Sys.threadAt_some {y : Sys} {id : Nat × Nat} {x : Thread × Panel × Launch} (h : y.threadAt id = some x) :
    y.thread? id.1 id.2 = some x.1 ∧ y.homeOf x.1 = some (x.2.1, x.2.2) := by
  simp only [Sys.threadAt, Option.bind_eq_some_iff, Option.map_eq_some_iff] at h
  obtain ⟨t, ht, ⟨p, l⟩, hh, rfl⟩ := h
  exact ⟨ht, hh⟩

theorem Sys.threadAt_id {y : Sys} {id : Nat × Nat} {x : Thread × Panel × Launch} (h : y.threadAt id = some x) :
    x.1.panel = id.1 ∧ x.1.tid = id.2 := Sys.thread?_id (Sys.threadAt_some h).1

/-- The panel of a thread has the key that the thread names. -/
theorem Sys.homeOf_some {y : Sys} {t : Thread} {p : Panel} {l : Launch} (h : y.homeOf t = some (p, l)) :
    y.panel? t.panel = some p ∧ y.launch? p.launch = some l := by
  unfold Sys.homeOf at h
  split at h
  · next q hq =>
    obtain ⟨l', hl, e⟩ := Option.map_eq_some_iff.mp h
    cases e
    exact ⟨hq, hl⟩
  · cases h

/-- Another thread's change leaves an entry of the tables as it was. -/
theorem Sys.threadAt_setThread_ne {y : Sys} {t : Thread} {id : Nat × Nat} (h : (t.panel, t.tid) ≠ id) :
    (y.setThread t).threadAt id = y.threadAt id := by
  unfold Sys.threadAt
  rw [Sys.thread?_setThread_ne fun e => h (Prod.ext e.1 e.2)]
  rfl

/-- All but the threads is the same. -/
def Sys.SameBut (a b : Sys) : Prop := { a with threads := [] } = { b with threads := [] }

namespace Sys.SameBut

theorem refl (a : Sys) : SameBut a a := rfl

theorem field {a b : Sys} (h : SameBut a b) {α : Type} (f : Sys → α) (hf : ∀ y : Sys, f { y with threads := [] } = f y) : f a = f b := by
  rw [← hf a, show _ = _ from h, hf]

theorem trans {a b c : Sys} (h : SameBut c b) (k : SameBut b a) : SameBut c a := Eq.trans h k

theorem setThread (y : Sys) (t : Thread) : SameBut (y.setThread t) y := rfl

theorem nmapOf {a b : Sys} (h : SameBut a b) (l : Launch) : a.nmapOf l = b.nmapOf l := h.field (·.nmapOf l) fun _ => rfl

end Sys.SameBut

/-- What `eachThread` does for one thread of the stitch, while none before it has stalled. -/
def Tx.serve (f : Tx s0 → Thread → Panel → Launch → Tx s0 × Bool) (acc : Tx s0 × Bool) (id : Nat × Nat) : Tx s0 × Bool :=
  if acc.2 then
    match acc.1.sys.threadAt id with
    | some x => f acc.1 x.1 x.2.1 x.2.2
    | none => acc
  else acc

theorem Tx.eachThread_eq (tx : Tx s0) (f : Tx s0 → Thread → Panel → Launch → Tx s0 × Bool) :
    tx.eachThread f = (tx.orWalks (tx.sys.focus.foldl (Tx.serve f) (tx, true)).1).beginAhead := by
  have step : (fun (acc : Tx s0 × Bool) (id : Nat × Nat) =>
      if acc.2 then
        match acc.1.sys.thread? id.1 id.2 with
        | some t =>
          match acc.1.sys.homeOf t with
          | some (p, l) => f acc.1 t p l
          | none => acc
        | none => acc
      else acc) = Tx.serve f := by
    funext acc id
    unfold Tx.serve Sys.threadAt
    cases acc.1.sys.thread? id.1 id.2 with
    | none => rfl
    | some t => cases h : acc.1.sys.homeOf t <;> simp [h]
  unfold Tx.eachThread
  exact congrArg (fun g => (tx.orWalks (tx.sys.focus.foldl g (tx, true)).1).beginAhead) step

theorem Tx.serve_some {f : Tx s0 → Thread → Panel → Launch → Tx s0 × Bool} {tx : Tx s0} {id : Nat × Nat}
    {x : Thread × Panel × Launch} (h : tx.sys.threadAt id = some x) : Tx.serve f (tx, true) id = f tx x.1 x.2.1 x.2.2 := by
  simp [Tx.serve, h]

/-- Threads that each change by themselves: what one does is not seen by the next. -/
theorem Tx.foldl_serve {f : Tx s0 → Thread → Panel → Launch → Tx s0 × Bool} {g : Thread → Panel → Launch → Thread} :
    ∀ (ids : List (Nat × Nat)) (tx : Tx s0), ids.Nodup → (∀ id ∈ ids, ∃ x, tx.sys.threadAt id = some x ∧
      ((g x.1 x.2.1 x.2.2).panel, (g x.1 x.2.1 x.2.2).tid) = id ∧
      ∀ b : Tx s0, b.sys.SameBut tx.sys → f b x.1 x.2.1 x.2.2 = (b.mod (·.setThread (g x.1 x.2.1 x.2.2)), true)) →
    ids.foldl (Tx.serve f) (tx, true)
      = (tx.mod ((ids.filterMap tx.sys.threadAt).foldl fun y x => y.setThread (g x.1 x.2.1 x.2.2)), true)
  | [], _, _, _ => rfl
  | id :: ids, tx, hn, h => by
    obtain ⟨hnew, hn⟩ := List.nodup_cons.mp hn
    obtain ⟨x, hx, hid, hf⟩ := h id List.mem_cons_self
    have hat : ∀ j ∈ ids, (tx.mod (·.setThread (g x.1 x.2.1 x.2.2))).sys.threadAt j = tx.sys.threadAt j := fun j hj =>
      Sys.threadAt_setThread_ne (hid ▸ fun e => hnew (e ▸ hj))
    rw [List.foldl_cons, Tx.serve_some hx, hf tx (.refl _), Tx.foldl_serve ids _ hn, List.filterMap_congr hat,
      List.filterMap_cons_some hx]
    · rfl
    · intro j hj
      obtain ⟨z, hz, hid', hf'⟩ := h j (List.mem_cons_of_mem _ hj)
      exact ⟨z, (hat j hj).trans hz, hid', fun b hb => hf' b (hb.trans (Sys.SameBut.setThread _ _))⟩

/-- Each change of a thread leaves the panels and the walks. -/
theorem Sys.foldl_setThread_sameBut {α : Type} (g : α → Thread) : ∀ (xs : List α) (y : Sys),
    (xs.foldl (fun y x => y.setThread (g x)) y).SameBut y
  | [], y => .refl y
  | x :: xs, y => (Sys.foldl_setThread_sameBut g xs (y.setThread (g x))).trans (Sys.SameBut.setThread y _)

theorem State.Whole.threads (h : s.Whole) : ∀ id ∈ s.sys.focus, ∃ x ∈ s.sys.stitch, s.sys.threadAt id = some x := by
  obtain ⟨-, -, hlen, -, -⟩ := h
  intro id hid
  obtain ⟨x, hx⟩ := Option.isSome_iff_exists.mp (List.filterMap_length_eq_length.mp hlen id hid)
  exact ⟨x, List.mem_filterMap.mpr ⟨id, hid, hx⟩, hx⟩

/-- A word that moves each thread of a whole stitch by itself. -/
theorem Tx.eachThread_whole (h : s.Whole) {f : Tx s → Thread → Panel → Launch → Tx s × Bool} {g : Thread → Panel → Launch → Thread}
    (hid : ∀ t p l, (g t p l).panel = t.panel ∧ (g t p l).tid = t.tid)
    (hf : ∀ b : Tx s, b.sys.SameBut s.sys → ∀ x ∈ s.sys.stitch,
      f b x.1 x.2.1 x.2.2 = (b.mod (·.setThread (g x.1 x.2.1 x.2.2)), true)) :
    ((Tx.start s).eachThread f).done = .next (s.withStitch g) := by
  have hat := State.Whole.threads h
  obtain ⟨-, hnodup, -, -, hcalm⟩ := h
  have hsame := Sys.foldl_setThread_sameBut (fun x : Thread × Panel × Launch => g x.1 x.2.1 x.2.2) s.sys.stitch s.sys
  rw [Tx.eachThread_eq, Tx.start_sys, Tx.foldl_serve (g := g) s.sys.focus (Tx.start s) hnodup, Tx.orWalks_of_walks,
    Tx.beginAhead_of_calm]
  · rfl
  · exact fun q hq => hcalm q ((hsame.field (·.panels) fun _ => rfl) ▸ hq)
  · exact hsame.field (·.walks) fun _ => rfl
  · intro id hin
    obtain ⟨x, hx, hs⟩ := hat id hin
    obtain ⟨hp, ht⟩ := Sys.threadAt_id hs
    obtain ⟨hp', ht'⟩ := hid x.1 x.2.1 x.2.2
    exact ⟨x, hs, Prod.ext (hp'.trans hp) (ht'.trans ht), fun b hb => hf b hb x hx⟩

end Sys2Proof.Machine

namespace Sys2Proof

open Machine

/-- Settles O25: each thread of the stitch only goes on. -/
theorem nopAdvances : Obligations.NopAdvances := by
  unfold Obligations.NopAdvances
  refine ⟨rfl, fun s h hok => ?_⟩
  refine Tx.eachThread_whole h (fun t p l => ⟨Thread.advance_panel t _, Thread.advance_tid t _⟩) fun b hb x hx => ?_
  simp only [hok x hx, if_true, ← hb.nmapOf]
  rfl

end Sys2Proof

/-! ## Control words of one thread (R143 to R155) -/

namespace Sys2Proof.Machine

variable {s0 s : State} {t : Thread} {p : Panel} {l : Launch} {i : Instr}

section

variable {last : Bool} {f : (s : State) → Tx s → Thread → Panel → Launch → Tx s}

/-- A control word whose decode checks pass does its own part. -/
theorem control_ready (h : s.Alone t p l) (hok : controlOk i last t p = true) {r : Tx s} (hf : f s (Tx.start s) t p l = r)
    (hset : r.Settled (Tx.start s)) : control i last f s = .next r.st := by
  unfold control Tx.eachOf
  rw [Tx.eachThread_alone h (r := r) (more := true) (by simp only [hok, if_true, hf]) hset, Tx.done_of_halt hset.halt]

/-- One whose own part is a trap takes it. -/
theorem control_raises (h : s.Alone t p l) (hc : t.CanTrap l) (hok : controlOk i last t p = true) {code : Byte} {value : Word}
    (hs : supervisorCode code = false) (hf : f s (Tx.start s) t p l = (Tx.start s).raise t code value) :
    control i last f s = .next (s.withThread (t.trapped s l code value t.self)) :=
  control_ready h hok (hf.trans (Tx.raise_alone h hc hs value)) (Tx.Settled.setThread _ _)

end

/-- A word that ends run-ahead on a poisoned operand goes on outside run-ahead. -/
theorem Tx.unlessPoisoned_alone (h : s.Alone t p l) (tx : Tx s0) (go : Tx s0 → Tx s0) : tx.unlessPoisoned i t p go = go tx := by
  simp [Tx.unlessPoisoned, aheadOf_alone h]

/-- A transfer in place to an index of the portable text (R143). -/
theorem Tx.transfer_inPlace (tx : Tx s0) {k : Nat} (hp : tx.sys.InPlace l t k) (prio : Byte) :
    tx.transfer t p l k prio [] t.rotbase = tx.mod (·.setThread (t.landed tx.sys l k prio)) := by
  have hl : t.land (tx.sys.objectOf l) k prio none = t.landed tx.sys l k prio := by
    unfold Thread.land Thread.landed
    cases t.nat <;> cases tx.sys.objectOf l <;> rfl
  unfold Tx.transfer
  simp only [hp, Bool.false_eq_true, if_false, Thread.setVs, List.foldl_nil, hl]
  rfl

theorem exec_ret (s : State) : exec .ret s = control .ret true (fun _ tx t p l =>
    tx.unlessPoisoned .ret t p fun tx => tx.indirect t p l t.link.2.toNat (t.link.1.setWidth 8) id) s := rfl

end Sys2Proof.Machine

namespace Sys2Proof

open Machine

/-- Settles O23: a transfer in place to the index of the link pair, whose priority is the low byte of its other half. -/
theorem returnGoesToTheLinkPair : Obligations.ReturnGoesToTheLinkPair := by
  unfold Obligations.ReturnGoesToTheLinkPair
  refine ⟨rfl, fun s t p l h hok => ⟨fun hk hplace => ?_, fun hk hc => ?_⟩⟩
  · have hprio : t.link.1.setWidth 8 = t.link.1.extractLsb' 0 8 := by
      apply BitVec.eq_of_toNat_eq; simp
    rw [exec_ret]
    refine control_ready h hok (r := (Tx.start s).mod (·.setThread _)) ?_ (Tx.Settled.setThread _ _)
    rw [Tx.unlessPoisoned_alone h, ← hprio]
    exact (if_neg (Nat.not_le.mpr hk)).trans (Tx.transfer_inPlace _ hplace _)
  · rw [Takes, exec_ret]
    refine control_raises h hc hok rfl ?_
    rw [Tx.unlessPoisoned_alone h]
    exact if_pos hk

end Sys2Proof

/-! ## Rejoin masks (R138 to R142) -/

namespace Sys2Proof.Machine

variable {s0 s : State} {t : Thread} {p : Panel} {l : Launch} {i : Instr}

/-! ### A mask in the list of its panel -/

/-- The mask at place k changed. -/
def updMask (k : Nat) (f : Mask → Mask) (ms : List Mask) : List Mask := ms.set k (f (ms.getD k ⟨0, 0⟩))

@[simp] theorem updMask_length (k : Nat) (f : Mask → Mask) (ms : List Mask) : (updMask k f ms).length = ms.length := List.length_set

theorem updMask_getD {k : Nat} {f : Mask → Mask} {ms : List Mask} (h : k < ms.length) :
    (updMask k f ms).getD k ⟨0, 0⟩ = f (ms.getD k ⟨0, 0⟩) := by
  simp [updMask, List.getD_eq_getElem?_getD, h]

theorem updMask_getD_ne {k j : Nat} (h : k ≠ j) (f : Mask → Mask) (ms : List Mask) :
    (updMask k f ms).getD j ⟨0, 0⟩ = ms.getD j ⟨0, 0⟩ := by
  simp [updMask, List.getD_eq_getElem?_getD, List.getElem?_set_ne h]

theorem updMask_self {k : Nat} {f : Mask → Mask} {ms : List Mask} (h : f (ms.getD k ⟨0, 0⟩) = ms.getD k ⟨0, 0⟩) : updMask k f ms = ms := by
  unfold updMask
  rw [h]
  by_cases hk : k < ms.length
  · simp [hk]
  · simp [List.set_eq_of_length_le (Nat.le_of_not_lt hk)]

/-- The masks of a seam, whose places start at `base`, changed one after another. -/
def updMasks (base : Nat) (f : Mask → Mask) (js : List Nat) (ms : List Mask) : List Mask :=
  js.foldl (fun ms j => updMask (base + j) f ms) ms

theorem updMasks_length (base : Nat) (f : Mask → Mask) : ∀ (js : List Nat) (ms : List Mask), (updMasks base f js ms).length = ms.length
  | [], _ => rfl
  | _ :: js, ms => (updMasks_length base f js _).trans (updMask_length _ f ms)

theorem updMasks_getD_of_not_mem {base k : Nat} (f : Mask → Mask) : ∀ (js : List Nat) (ms : List Mask), k ∉ js →
    (updMasks base f js ms).getD (base + k) ⟨0, 0⟩ = ms.getD (base + k) ⟨0, 0⟩
  | [], _, _ => rfl
  | j :: js, ms, h => by
    obtain ⟨hj, hjs⟩ : k ≠ j ∧ k ∉ js := by simpa using h
    exact (updMasks_getD_of_not_mem f js _ hjs).trans (updMask_getD_ne (by omega) f ms)

/-- Each of them changes by itself. -/
theorem updMasks_getD {base k : Nat} (f : Mask → Mask) : ∀ (js : List Nat) (ms : List Mask), js.Nodup → k ∈ js →
    base + k < ms.length → (updMasks base f js ms).getD (base + k) ⟨0, 0⟩ = f (ms.getD (base + k) ⟨0, 0⟩)
  | j :: js, ms, hn, hk, hlt => by
    obtain ⟨hj, hjs⟩ := List.nodup_cons.mp hn
    obtain rfl | hk := List.mem_cons.mp hk
    · exact (updMasks_getD_of_not_mem f js _ hj).trans (updMask_getD hlt)
    · have hne : base + j ≠ base + k := fun e => hj (Nat.add_left_cancel e ▸ hk)
      refine (updMasks_getD f js _ hjs hk (by simpa using hlt)).trans ?_
      rw [updMask_getD_ne hne]

/-- A mask is complete: it releases its threads (R139). -/
abbrev Mask.Complete (m : Mask) : Prop := m.arrived ≠ 0 ∧ m.arrived = m.enrolled

/-- What the test of completion leaves of a mask. -/
def Mask.settled (m : Mask) : Mask := if m.Complete then ⟨0, 0⟩ else m

/-- A lane struck from a mask (R141). -/
def Mask.strike (b : BitVec 128) (m : Mask) : Mask := ⟨m.enrolled &&& ~~~b, m.arrived &&& ~~~b⟩

/-- The panel with other masks. -/
def Panel.withMasks (p : Panel) (ms : List Mask) : Panel := { p with masks := ms }

@[simp] theorem Panel.withMasks_key (p : Panel) (ms : List Mask) : (p.withMasks ms).key = p.key := rfl
@[simp] theorem Panel.withMasks_masks (p : Panel) (ms : List Mask) : (p.withMasks ms).masks = ms := rfl
theorem Panel.withMasks_self (p : Panel) : p.withMasks p.masks = p := rfl

/-! ### Release -/

@[simp] theorem Thread.unpark_panel (t : Thread) : t.unpark.panel = t.panel := by unfold Thread.unpark; split <;> rfl
@[simp] theorem Thread.unpark_tid (t : Thread) : t.unpark.tid = t.tid := by unfold Thread.unpark; split <;> rfl

theorem Thread.not_parkedOn {t : Thread} (h : ∀ j pc prio, t.phase ≠ .parked j pc prio) (p : Panel) (k : Nat) : t.parkedOn p k = false := by
  unfold Thread.parkedOn
  split
  · next hp => exact absurd hp (h _ _ _)
  · rfl

/-- A thread that has been released is parked on no mask. -/
theorem Thread.unpark_not_parkedOn (t : Thread) (p : Panel) (k : Nat) : t.unpark.parkedOn p k = false := by
  refine Thread.not_parkedOn (fun j pc prio hp => ?_) p k
  unfold Thread.unpark at hp
  split at hp
  · cases hp
  · next hne => exact hne _ _ _ hp

/-- A thread is parked on one mask only. -/
theorem Thread.parkedOn_place {t : Thread} {p : Panel} {k j : Nat} (h : t.parkedOn p k = true) (hj : j ≠ k) : t.parkedOn p j = false := by
  unfold Thread.parkedOn at h ⊢
  split at h
  · simp only [Bool.and_eq_true, beq_iff_eq] at h
    simp only [Bool.and_eq_false_iff, beq_eq_false_iff_ne]
    exact .inr fun e => hj (e.symm.trans h.2)
  · cases h

theorem Sys.panel?_setPanel {y : Sys} {p q : Panel} (h : y.panel? q.key = some p) : (y.setPanel q).panel? q.key = some q :=
  findKey_putKey (by rw [show findKey _ _ _ = _ from h]; rfl)

/-! ### The operations -/

/-- `b` comes from `a` by work on the masks of the panel `p`, which leaves it the masks `ms`, and on threads alone. -/
structure Tx.Remasked (p : Panel) (ms : List Mask) (b a : Tx s0) : Prop where
  halt : b.halt = a.halt
  mem : b.st.mem = a.st.mem
  hostMem : b.st.hostMem = a.st.hostMem
  reqs : b.sys.reqs = a.sys.reqs
  walks : b.sys.walks = a.sys.walks
  calm : p.ahead = none → a.sys.Calm → b.sys.Calm
  panel : b.sys.panel? p.key = some (p.withMasks ms)

namespace Tx.Remasked

theorem trans {ms ms' : List Mask} {a b c : Tx s0} (h : Remasked p ms' c b) (k : Remasked p ms b a) : Remasked p ms' c a :=
  ⟨h.halt.trans k.halt, h.mem.trans k.mem, h.hostMem.trans k.hostMem, h.reqs.trans k.reqs, h.walks.trans k.walks,
    fun hp hc => h.calm hp (k.calm hp hc), h.panel⟩

theorem refl {ms : List Mask} {tx : Tx s0} (h : tx.sys.panel? p.key = some (p.withMasks ms)) : Remasked p ms tx tx :=
  ⟨rfl, rfl, rfl, rfl, rfl, fun _ hc => hc, h⟩

/-- Masks set, and threads changed. -/
theorem setMasks {ms : List Mask} {tx : Tx s0} (h : tx.sys.panel? p.key = some (p.withMasks ms)) (ms' : List Mask)
    (f : List Thread → List Thread) :
    Remasked p ms' (tx.mod fun y => { y.setPanel (p.withMasks ms') with threads := f y.threads }) tx := by
  refine ⟨rfl, rfl, rfl, rfl, rfl, fun hp hc q hq => ?_, Sys.panel?_setPanel (q := p.withMasks ms') h⟩
  obtain ⟨x, hx, rfl⟩ := List.mem_map.mp hq
  split
  · simp [Panel.withMasks, hp]
  · exact hc x hx

end Tx.Remasked

open Tx (Remasked)

/-- A mask changed, in the panel as it stands. -/
theorem Tx.setMask_eq {tx : Tx s0} {ms : List Mask} (h : tx.sys.panel? p.key = some (p.withMasks ms)) (k : Nat) (f : Mask → Mask) :
    tx.setMask p.key k f = tx.mod (·.setPanel (p.withMasks (updMask k f ms))) := by
  have hm : (match tx.sys.panel? p.key with
      | some q => tx.sys.setPanel { q with masks := q.masks.set k (f (q.mask k)) }
      | none => tx.sys) = tx.sys.setPanel (p.withMasks (updMask k f ms)) := by rw [h]; rfl
  exact congrArg (fun y : Sys => (⟨⟨tx.st.mem, tx.st.hostMem, y⟩, tx.ok, tx.halt⟩ : Tx s0)) hm

/-- A thread that a complete mask at place k releases. -/
def Thread.releasedBy (p : Panel) (k : Nat) (m : Mask) (v : Thread) : Thread :=
  if m.Complete ∧ v.parkedOn p k = true then v.unpark else v

/-- The test of completion, in the panel as it stands (R139). -/
theorem Tx.completeMask_eq {tx : Tx s0} {ms : List Mask} (h : tx.sys.panel? p.key = some (p.withMasks ms)) (k : Nat) :
    tx.completeMask p.key k = if (ms.getD k ⟨0, 0⟩).Complete then
      tx.mod fun y => { y.setPanel (p.withMasks (updMask k Mask.settled ms)) with
        threads := y.threads.map (Thread.releasedBy p k (ms.getD k ⟨0, 0⟩)) }
    else tx := by
  unfold Tx.completeMask
  simp only [h]
  change (if (ms.getD k ⟨0, 0⟩).arrived = 0 ∨ (ms.getD k ⟨0, 0⟩).arrived ≠ (ms.getD k ⟨0, 0⟩).enrolled then tx else _) = _
  by_cases hc : (ms.getD k ⟨0, 0⟩).Complete
  · rw [if_neg (fun e => e.elim hc.1 fun e => e hc.2), if_pos hc]
    have hr : Thread.releasedBy p k (ms.getD k ⟨0, 0⟩) = fun v => if v.parkedOn p k then v.unpark else v :=
      funext fun v => if_congr ⟨fun e => e.2, fun e => ⟨hc, e⟩⟩ rfl rfl
    have hu : updMask k Mask.settled ms = ms.set k ⟨0, 0⟩ := by rw [updMask, Mask.settled, if_pos hc]
    rw [hr, hu]
    rfl
  · rw [if_neg hc, if_pos]
    by_contra hn
    simp only [not_or, not_not] at hn
    exact hc hn

theorem Tx.completeMask_remasked {tx : Tx s0} {ms : List Mask} (h : tx.sys.panel? p.key = some (p.withMasks ms)) (k : Nat) :
    Remasked p (updMask k Mask.settled ms) (tx.completeMask p.key k) tx := by
  rw [Tx.completeMask_eq h]
  split
  · exact .setMasks h _ _
  · next hc => exact .refl (by rw [updMask_self (by rw [Mask.settled, if_neg hc]), h])

theorem Thread.releasedBy_ids (p : Panel) (k : Nat) (m : Mask) (v : Thread) :
    (v.releasedBy p k m).panel = v.panel ∧ (v.releasedBy p k m).tid = v.tid := by
  unfold Thread.releasedBy
  split
  · exact ⟨v.unpark_panel, v.unpark_tid⟩
  · exact ⟨rfl, rfl⟩

theorem Tx.completeMask_thread {tx : Tx s0} {ms : List Mask} (h : tx.sys.panel? p.key = some (p.withMasks ms)) (k panel tid : Nat) :
    (tx.completeMask p.key k).sys.thread? panel tid
      = (tx.sys.thread? panel tid).map (Thread.releasedBy p k (ms.getD k ⟨0, 0⟩)) := by
  rw [Tx.completeMask_eq h]
  split
  · exact find_thread_map (Thread.releasedBy_ids p k _) panel tid tx.sys.threads
  · next hc =>
    have hr : Thread.releasedBy p k (ms.getD k ⟨0, 0⟩) = id := funext fun v => by rw [Thread.releasedBy, if_neg fun e => hc e.1]; rfl
    rw [hr, Option.map_id]
    rfl

/-! ### The masks of a seam, one after another -/

theorem Tx.each_setMask (base : Nat) (f : Mask → Mask) : ∀ (js : List Nat) (tx : Tx s0) (ms : List Mask),
    tx.sys.panel? p.key = some (p.withMasks ms) →
    Remasked p (updMasks base f js ms) (tx.each js fun tx j => tx.setMask p.key (base + j) f) tx ∧
      (tx.each js fun tx j => tx.setMask p.key (base + j) f).sys.threads = tx.sys.threads
  | [], _, _, h => ⟨.refl h, rfl⟩
  | j :: js, tx, ms, h => by
    have h1 : Remasked p (updMask (base + j) f ms) (tx.setMask p.key (base + j) f) tx :=
      Tx.setMask_eq h _ _ ▸ .setMasks h _ id
    have ht : (tx.setMask p.key (base + j) f).sys.threads = tx.sys.threads := by rw [Tx.setMask_eq h]; rfl
    obtain ⟨h2, ht2⟩ := Tx.each_setMask base f js _ _ h1.panel
    exact ⟨h2.trans h1, ht2.trans ht⟩

theorem Tx.each_completeMask (base : Nat) : ∀ (js : List Nat) (tx : Tx s0) (ms : List Mask),
    tx.sys.panel? p.key = some (p.withMasks ms) →
    Remasked p (updMasks base Mask.settled js ms) (tx.each js fun tx j => tx.completeMask p.key (base + j)) tx
  | [], _, _, h => .refl h
  | j :: js, _, _, h =>
    have h1 := Tx.completeMask_remasked h (base + j)
    (Tx.each_completeMask base js _ _ h1.panel).trans h1

/-- A thread that is parked on none of them stays as it is. -/
theorem Tx.each_completeMask_keeps (base : Nat) {panel tid : Nat} {v : Thread} : ∀ (js : List Nat) (tx : Tx s0) (ms : List Mask),
    tx.sys.panel? p.key = some (p.withMasks ms) → tx.sys.thread? panel tid = some v → (∀ j ∈ js, v.parkedOn p (base + j) = false) →
    (tx.each js fun tx j => tx.completeMask p.key (base + j)).sys.thread? panel tid = some v
  | [], _, _, _, ht, _ => ht
  | j :: js, tx, ms, h, ht, hv => by
    refine Tx.each_completeMask_keeps base js _ _ (Tx.completeMask_remasked h (base + j)).panel ?_
      fun k hk => hv k (List.mem_cons_of_mem _ hk)
    rw [Tx.completeMask_thread h, ht, Option.map_some, Thread.releasedBy, if_neg]
    simp [hv j List.mem_cons_self]

/-- A thread that is parked on a complete one is released. -/
theorem Tx.each_completeMask_releases (base : Nat) {panel tid k : Nat} {v : Thread} (hv : v.parkedOn p (base + k) = true) :
    ∀ (js : List Nat) (tx : Tx s0) (ms : List Mask), tx.sys.panel? p.key = some (p.withMasks ms) →
    tx.sys.thread? panel tid = some v → k ∈ js → (ms.getD (base + k) ⟨0, 0⟩).Complete →
    (tx.each js fun tx j => tx.completeMask p.key (base + j)).sys.thread? panel tid = some v.unpark
  | j :: js, tx, ms, h, ht, hk, hc => by
    have h1 := Tx.completeMask_remasked h (base + j)
    have ht1 := Tx.completeMask_thread h (base + j) panel tid
    rw [ht, Option.map_some] at ht1
    by_cases hj : j = k
    · subst hj
      rw [Thread.releasedBy, if_pos ⟨hc, hv⟩] at ht1
      exact Tx.each_completeMask_keeps base js _ _ h1.panel ht1 fun i _ => v.unpark_not_parkedOn p _
    · have hne : base + j ≠ base + k := fun e => hj (Nat.add_left_cancel e)
      rw [Thread.releasedBy, if_neg (by simp [Thread.parkedOn_place hv hne])] at ht1
      exact Tx.each_completeMask_releases base hv js _ _ h1.panel ht1 ((List.mem_cons.mp hk).resolve_left (Ne.symm hj))
        (by rwa [updMask_getD_ne hne])

/-! ### EXIT (R141, R148) -/

theorem State.Alone.stitch (h : s.Alone t p l) : s.sys.stitch = [(t, p, l)] := by
  obtain ⟨hfocus, hthread, hhome, -, -⟩ := h
  simp [Sys.stitch, hfocus, hthread, hhome]

/-- The stitch of one thread, whose part leaves no panel to run ahead. -/
theorem Tx.eachThread_one (h : s.Alone t p l) {f : Tx s → Thread → Panel → Launch → Tx s × Bool} {r : Tx s} {more : Bool}
    (hf : f (Tx.start s) t p l = (r, more)) (hw : r.sys.walks = s.sys.walks) (hc : r.sys.Calm) : (Tx.start s).eachThread f = r := by
  obtain ⟨hfocus, hthread, hhome, -, -⟩ := h
  rw [Tx.eachThread_eq, Tx.start_sys, hfocus, List.foldl_cons, List.foldl_nil,
    Tx.serve_some (x := (t, p, l)) (by simp [Sys.threadAt, hthread, hhome]), hf, Tx.orWalks_of_walks hw, Tx.beginAhead_of_calm hc]

/-- A panel without held commands or requests, and one whose threads have not all exited, discards nothing but held copies (R52). -/
theorem Tx.discardHeld_unheld (tx : Tx s0) (panel : Nat) (h : ∀ r ∈ tx.sys.reqs, r.panel = panel → r.held = none) :
    (tx.discardHeld panel).halt = tx.halt ∧ (tx.discardHeld panel).st.mem = tx.st.mem ∧
      (tx.discardHeld panel).st.hostMem = tx.st.hostMem ∧ (tx.discardHeld panel).sys.panels = tx.sys.panels ∧
      (tx.discardHeld panel).sys.threads = tx.sys.threads := by
  unfold Tx.discardHeld
  split
  · exact ⟨rfl, rfl, rfl, rfl, rfl⟩
  · have hnone : tx.sys.reqs.filter (fun r => r.panel == panel && r.held.isSome) = [] :=
      List.filter_eq_nil_iff.mpr fun r hr => by
        by_cases hp : r.panel = panel
        · simp [h r hr hp]
        · simp [hp]
    dsimp only
    rw [hnone]
    exact ⟨rfl, rfl, rfl, rfl, by simp [Tx.each, Tx.sys, Tx.mod]⟩

/-- The thread that `EXIT` leaves. -/
def Thread.ended (t : Thread) : Thread := { t with phase := .exited, hints := Hints.empty, pend := none, late := [] }

/-- The part of `EXIT` for one thread: its lane leaves the masks `js` of its seam, and it ends. -/
def Tx.struck (tx : Tx s0) (t : Thread) (p : Panel) (js : List Nat) : Tx s0 :=
  (tx.each js fun tx j => tx.setMask p.key (16 * p.seamOf t.tid + j) (Mask.strike (laneBit p t.tid))).mod
    (·.setThread t.ended)

/-- The tests of completion of the masks `js` of a seam. -/
def Tx.tested (tx : Tx s0) (p : Panel) (seam : Nat) (js : List Nat) : Tx s0 :=
  tx.each js fun tx j => tx.completeMask p.key (16 * seam + j)

/-- The masks of the seam after the lane has been struck. -/
def Panel.struckMasks (p : Panel) (tid : Nat) (js : List Nat) : List Mask :=
  updMasks (16 * p.seamOf tid) (Mask.strike (laneBit p tid)) js p.masks

theorem Tx.struck_remasked {tx : Tx s0} (h : tx.sys.panel? p.key = some p) (t : Thread) (js : List Nat) :
    Remasked p (p.struckMasks t.tid js) (tx.struck t p js) tx := by
  obtain ⟨h1, -⟩ := Tx.each_setMask (16 * p.seamOf t.tid) (Mask.strike (laneBit p t.tid)) js tx p.masks h
  exact ⟨h1.halt, h1.mem, h1.hostMem, h1.reqs, h1.walks, h1.calm, h1.panel⟩

theorem Tx.struck_thread {tx : Tx s0} (h : tx.sys.panel? p.key = some p) (t : Thread) (js : List Nat) (panel tid : Nat) :
    (tx.struck t p js).sys.thread? panel tid = (tx.sys.setThread t.ended).thread? panel tid := by
  obtain ⟨-, h1⟩ := Tx.each_setMask (16 * p.seamOf t.tid) (Mask.strike (laneBit p t.tid)) js tx p.masks h
  unfold Tx.struck Sys.thread? Sys.setThread
  simp only [Tx.mod_sys, h1]

theorem State.Alone.panel (h : s.Alone t p l) : s.sys.panel? p.key = some p := by
  obtain ⟨-, -, hhome, -, -⟩ := h
  obtain ⟨hp, -⟩ := Sys.homeOf_some hhome
  rwa [key_of_findKey hp]

/-- `EXIT` of a thread that issues alone, with no late report. -/
theorem exec_exit (h : s.Alone t p l) (hok : controlOk .exit true t p = true) (hlate : t.late = []) :
    exec .exit s = ((((Tx.start s).struck t p (List.range 16)).tested p (p.seamOf t.tid) (List.range 16)).discardHeld p.key).done := by
  have hm := Tx.struck_remasked (tx := Tx.start s) h.panel t (List.range 16)
  have hahead := aheadOf_alone h
  change execExit s = _
  unfold execExit Tx.eachOf
  generalize List.range 16 = js at hm ⊢
  rw [Tx.eachThread_one h (r := (Tx.start s).struck t p js) (more := true) ?_ hm.walks (hm.calm h.2.2.2.1 h.2.2.2.2), h.stitch]
  · rfl
  · simp only [hok, hahead, hlate]
    rfl

/-- The state that `EXIT` leaves, seen at the thread, at its panel's masks `js`, and at the threads parked on them. -/
theorem exec_exit_spec (h : s.Alone t p l) (js : List Nat) (hn : js.Nodup) (hheld : ∀ r ∈ s.sys.reqs, r.panel = p.key → r.held = none) :
    ∃ u, ((((Tx.start s).struck t p js).tested p (p.seamOf t.tid) js).discardHeld p.key).done = .next u ∧ u.mem = s.mem ∧
      u.hostMem = s.hostMem ∧ u.sys.thread? t.panel t.tid = some t.ended ∧
      u.sys.panel? p.key = some (p.withMasks (updMasks (16 * p.seamOf t.tid) Mask.settled js (p.struckMasks t.tid js))) ∧
      ∀ j ∈ js, 16 * p.seamOf t.tid + j < p.masks.length →
        ((p.mask (16 * p.seamOf t.tid + j)).strike (laneBit p t.tid)).Complete → ∀ v, s.sys.thread? v.panel v.tid = some v →
          (v.panel, v.tid) ≠ (t.panel, t.tid) → v.parkedOn p (16 * p.seamOf t.tid + j) = true →
          u.sys.thread? v.panel v.tid = some v.unpark := by
  have hm1 := Tx.struck_remasked (tx := Tx.start s) h.panel t js
  have hm := (Tx.each_completeMask (16 * p.seamOf t.tid) js _ _ hm1.panel).trans hm1
  obtain ⟨hhalt, hmem, hhost, hpanels, hthreads⟩ :=
    Tx.discardHeld_unheld (((Tx.start s).struck t p js).tested p (p.seamOf t.tid) js) p.key (hm.reqs ▸ hheld)
  refine ⟨_, Tx.done_of_halt (hhalt.trans hm.halt), hmem.trans hm.mem, hhost.trans hm.hostMem, ?_, ?_, fun j hj hlt hc v hv hne hp => ?_⟩
  · refine (congrArg (List.find? _) hthreads).trans (Tx.each_completeMask_keeps _ js _ _ hm1.panel ?_ fun j _ =>
      Thread.not_parkedOn (fun _ _ _ e => by cases e) p _)
    rw [Tx.struck_thread (tx := Tx.start s) h.panel]
    exact Sys.thread?_setThread (t := t.ended) (Option.isSome_of_eq_some h.2.1)
  · exact (congrArg (findKey Panel.key p.key) hpanels).trans hm.panel
  · refine (congrArg (List.find? _) hthreads).trans (Tx.each_completeMask_releases _ hp js _ _ hm1.panel ?_ hj ?_)
    · have hother : ¬(t.ended.panel = v.panel ∧ t.ended.tid = v.tid) := fun e => hne (Prod.ext e.1.symm e.2.symm)
      rw [Tx.struck_thread (tx := Tx.start s) h.panel, Sys.thread?_setThread_ne hother]
      exact hv
    · rw [Panel.struckMasks, updMasks_getD _ js _ hn hj hlt]
      exact hc

theorem exec_yield (pr : Byte) (s : State) : exec (.yield pr) s =
    control (.yield pr) true (fun _ tx t _ l => tx.advance { t with prio := pr } l) s := rfl

theorem exec_waitf (m : BitVec 12) (s : State) : exec (.waitf m) s =
    control (.waitf m) false (fun _ tx t _ l => tx.advance { t with pend := some (.waitf m) } l) s := rfl

end Sys2Proof.Machine

namespace Sys2Proof

open Machine

/-- Settles O26: the masks of an exiting thread's seam are struck and then tested one by one, each by itself. -/
theorem yieldWaitExit : Obligations.YieldWaitExit := by
  unfold Obligations.YieldWaitExit
  intro s t p l h
  refine ⟨fun pr hok => ?_, fun m hok => ?_, fun hok hlate hheld => ?_⟩
  · rw [exec_yield]
    exact control_ready h hok rfl (Tx.Settled.advance _ _ _)
  · rw [exec_waitf]
    exact control_ready h hok rfl (Tx.Settled.advance _ _ _)
  · obtain ⟨u, hu, hmem, hhost, hself, hpanel, hreleased⟩ := exec_exit_spec h (List.range 16) List.nodup_range hheld
    refine ⟨u, _, (exec_exit h hok hlate).trans hu, hmem, hhost, ?_, hpanel, fun j hj hlt => ?_⟩
    · rw [hself, Thread.ended, hlate]
    · have hin := List.mem_range.mpr hj
      have hx : (p.withMasks (updMasks (16 * p.seamOf t.tid) Mask.settled (List.range 16) (p.struckMasks t.tid (List.range 16)))).mask
          (16 * p.seamOf t.tid + j) = ((p.mask (16 * p.seamOf t.tid + j)).strike (laneBit p t.tid)).settled := by
        rw [Panel.mask, Panel.withMasks_masks, updMasks_getD _ _ _ List.nodup_range hin (by rwa [Panel.struckMasks, updMasks_length]),
          Panel.struckMasks, updMasks_getD _ _ _ List.nodup_range hin hlt]
        rfl
      dsimp only
      rw [hx]
      split
      · next hc => exact ⟨if_pos hc, fun v _ hv hne hp => hreleased j hin hlt hc v hv hne hp⟩
      · next hc => exact if_neg hc

end Sys2Proof

/-! ## A mask that is complete before its word (R139, R153) -/

namespace Sys2Proof.Machine

/-- The thread of lane 0 of a panel whose mask 0 holds lane 1 both enrolled and arrived. -/
def fullMaskThread : Thread := Thread.newborn 4 0 0 0 30 0
def fullMaskPanel : Panel :=
  { Panel.fresh 4 2 (some 3) 0 0 0 1 30 0 1 256 with phase := .running, masks := ⟨2, 2⟩ :: List.replicate 15 ⟨0, 0⟩ }

/-- The state in which that thread issues alone. -/
def fullMaskState : State :=
  ⟨[], [], { State.reset.sys.boot [0xBC000000, 0] with focus := [(4, 0)], panels := [fullMaskPanel] }⟩

/-- Mask 0 of each panel that an instruction leaves. -/
def firstMasks : Host.Outcome State Fault Refusal → List Mask
  | .next u => u.sys.panels.map (·.mask 0)
  | _ => []

/-- The thread may park: its decode checks pass, it is not enrolled, and it can take the trap. -/
theorem fullMaskState_alone : fullMaskState.Alone fullMaskThread fullMaskPanel (bootLaunch 2 1) ∧
    (bootLaunch 2 1).travelling = false ∧ controlOk (.park 0 0) true fullMaskThread fullMaskPanel = true ∧
    (fullMaskPanel.mask (16 * fullMaskPanel.seamOf fullMaskThread.tid + (0 : BitVec 4).toNat)).enrolled &&&
      laneBit fullMaskPanel fullMaskThread.tid = 0 ∧ fullMaskThread.CanTrap (bootLaunch 2 1) := by decide +kernel

/-- The other lane's completed mask is cleared all the same. -/
theorem fullMaskState_park : firstMasks (exec (.park 0 0) fullMaskState) = [⟨0, 0⟩] := by decide +kernel

end Sys2Proof.Machine

namespace Sys2Proof

open Machine

/-- Refutes O27: the word tests its mask behind the trap of a thread that parks without being enrolled. Where the mask was
complete before the word (no mask word of a run leaves it so, but the statement is about every state), the test clears it, and
the trap is not all that happens. -/
theorem not_rejoinMasks : ¬ Obligations.RejoinMasks := by
  unfold Obligations.RejoinMasks
  intro h
  obtain ⟨halone, hstays, hok, hnot, hcan⟩ := fullMaskState_alone
  obtain ⟨-, -, -, hpark, -⟩ := (h _ _ _ _ 0 halone).1 hstays
  have htraps := hpark 0 hok hnot hcan
  have hkept : firstMasks (exec (.park 0 0) fullMaskState) = [⟨2, 2⟩] := by rw [htraps]; rfl
  exact absurd (hkept.symm.trans fullMaskState_park) (by decide)

end Sys2Proof

/-! ## Cross-lane words (R230, R231) -/

namespace Sys2Proof.Machine

variable {s0 s : State} {p : Panel} {l : Launch} {i : Instr} {m : BitVec 8} {ok : Hints → Bool}

/-- Each cross-lane word is a collective, and only a floating-point one raises flags (R185). -/
theorem exec_collective (h : i.collective = some (m, ok)) : ∃ f : List Half → (Half → Member → Nat) × BitVec 5,
    (∀ s, exec i s = collective i m ok f s) ∧ (i.foldsFloats = false → ∀ hs, (f hs).2 = 0) := by
  unfold Instr.collective at h
  split at h
  all_goals cases h
  all_goals unfold exec
  all_goals exact ⟨_, fun _ => rfl, by simp [Instr.foldsFloats, one]⟩

/-- The destination of a cross-lane word is the same under all hints. -/
theorem form_collective_dst (h : i.collective = some (m, ok)) : ∃ o, ∀ hs, (form i hs).dst = some o := by
  unfold Instr.collective at h
  split at h
  all_goals cases h
  all_goals exact ⟨_, fun _ => rfl⟩

/-- Threads that go on, each changed by itself. -/
theorem Tx.each_advance (w : Thread → Thread) (l : Launch) : ∀ (ts : List Thread) (tx : Tx s0),
    tx.each ts (fun tx t => tx.advance (w t) l)
      = tx.mod fun y => ts.foldl (fun z t => z.setThread ((w t).advance (y.nmapOf l))) y
  | [], _ => rfl
  | t :: ts, tx => Tx.each_advance w l ts (tx.advance (w t) l)

/-! ### A seam that is not paired -/

theorem State.Seam.stitch {t0 : Thread} (h : s.Seam t0 p l) : ∃ rest, s.sys.stitch = (t0, p, l) :: rest := by
  obtain ⟨-, hhead, -⟩ := h
  cases hs : s.sys.stitch with
  | nil => simp [hs] at hhead
  | cons x rest =>
    rw [hs] at hhead
    exact ⟨rest, by rw [Option.some.inj hhead]⟩

/-- Two threads of a seam's stitch with one number are one thread. -/
theorem State.Seam.tid_inj {t0 t u : Thread} (h : s.Seam t0 p l) (ht : t ∈ s.sys.stitch.map (·.1)) (hu : u ∈ s.sys.stitch.map (·.1))
    (he : t.tid = u.tid) : t = u := by
  have key : ∀ x ∈ s.sys.stitch, s.sys.thread? p.key x.1.tid = some x.1 := by
    intro x hx
    obtain ⟨id, -, hid⟩ := List.mem_filterMap.mp hx
    obtain ⟨hthread, hhome⟩ := Sys.threadAt_some hid
    obtain ⟨-, htid⟩ := Sys.thread?_id hthread
    rw [(h.2.2 x hx).1] at hhome
    have hp := (Sys.homeOf_some hhome).1
    rw [key_of_findKey hp]
    obtain ⟨hpanel, -⟩ := Sys.thread?_id hthread
    rwa [hpanel, htid]
  obtain ⟨x, hx, rfl⟩ := List.mem_map.mp ht
  obtain ⟨y, hy, rfl⟩ := List.mem_map.mp hu
  exact Option.some.inj ((key x hx).symm.trans (he ▸ key y hy))

/-- A member is a running thread whose lane its mask names. -/
theorem mem_membersOf {fm : Form} {live : List Thread} {x : Member} (h : x ∈ membersOf fm p m live) :
    x.t ∈ live ∧ (maskOf p m x.t).testBit (halfLane p x.t) = true := by
  obtain ⟨u, hu, hx⟩ := List.mem_filterMap.mp h
  split at hx
  · next hb => cases hx; exact ⟨hu, hb⟩
  · cases hx

theorem membersOf_mem {fm : Form} {live : List Thread} {t : Thread} (ht : t ∈ live)
    (hb : (maskOf p m t).testBit (halfLane p t) = true) : ∃ x ∈ membersOf fm p m live, x.t = t :=
  ⟨_, List.mem_filterMap.mpr ⟨t, ht, if_pos hb⟩, rfl⟩

/-- The values that the members with a thread's number are given. -/
def valuesFor (g : Member → Nat) (ms : List Member) (t : Thread) : List Nat := (ms.filter fun x => x.t.tid == t.tid).map g

/-- Of the threads of an unpaired seam just those that speak are given a value. -/
theorem valuesFor_eq_nil {t0 t : Thread} (h : s.Seam t0 p l) (hlane : ∀ x ∈ s.sys.stitch, p.laneOf x.1.tid < 64)
    (ht : t ∈ s.sys.stitch.map (·.1)) (g : Member → Nat) (fm : Form) :
    valuesFor g (membersOf fm p m ((s.sys.stitch.map (·.1)).filter (·.runs))) t = [] ↔ t.speaks p m = false := by
  have hlt : halfLane p t = p.laneOf t.tid := by
    obtain ⟨x, hx, rfl⟩ := List.mem_map.mp ht
    exact Nat.mod_eq_of_lt (hlane x hx)
  rw [valuesFor, List.map_eq_nil_iff, List.filter_eq_nil_iff, Thread.speaks, Bool.and_eq_false_iff]
  constructor
  · intro hnone
    by_contra hs
    simp only [not_or, Bool.not_eq_false] at hs
    obtain ⟨x, hx, hxt⟩ := membersOf_mem (fm := fm) (m := m) (p := p) (List.mem_filter.mpr ⟨ht, hs.1⟩) (hlt ▸ hs.2)
    exact hnone x hx (by simp [hxt])
  · intro hs x hx hxt
    obtain ⟨hlive, hb⟩ := mem_membersOf hx
    obtain ⟨hin, hruns⟩ := List.mem_filter.mp hlive
    have he : x.t = t := h.tid_inj hin ht (by simpa using hxt)
    rw [he] at hb hruns
    rw [hlt] at hb
    simp [hb, hruns] at hs

/-- The whole seam as the one half of a seam that is not paired. -/
def wholeHalf (fm : Form) (p : Panel) (m : BitVec 8) (all : List Thread) : Half :=
  ⟨seamLanes p.seam, false, membersOf fm p m (all.filter (·.runs))⟩

/-- A thread of such a seam after a collective: a member has its value, and a running thread its flags. -/
def Thread.given (t : Thread) (p : Panel) (o : Opnd) (vals : List Nat) (fl : BitVec 5) : Thread :=
  let t1 := match vals with
    | v :: _ => t.putNat (o.regs t p) v
    | [] => t
  if t.runs then { t1 with fflags := t1.fflags ||| fl } else t1

theorem Thread.given_eq (t : Thread) (p : Panel) {o : Opnd} {vals : List Nat} (fl : BitVec 5) (hv : vals = [] ↔ t.speaks p m = false) :
    t.given p o vals fl = { if t.speaks p m then t.putNat (o.regs t p) (vals.headD 0) else t with
      fflags := if t.runs then t.fflags ||| fl else t.fflags } := by
  unfold Thread.given
  cases vals with
  | nil =>
    rw [hv.mp rfl]
    cases t.runs <;> rfl
  | cons v vs =>
    have hs : t.speaks p m = true := by
      cases hs : t.speaks p m with
      | true => rfl
      | false => cases hv.mpr hs
    have hr : t.runs = true := (Bool.and_eq_true_iff.mp hs).1
    simp [hs, hr]

/-- A collective whose checks pass, on a seam that is not paired, gives each thread its part by itself. -/
theorem collective_unpaired {t0 : Thread} (h : s.Seam t0 p l) (f : List Half → (Half → Member → Nat) × BitVec 5) {o : Opnd}
    (hdst : (form i t0.hints).dst = some o) (hok : ok t0.hints = true) (hform : formOk p.regs (form i t0.hints) t0.hints = true)
    (hpair : p.paired = false) (hstay : l.travelling = false) (hlane : ∀ x ∈ s.sys.stitch, p.laneOf x.1.tid < 64)
    (hmask : masksOk s.sys p m (s.sys.stitch.map (·.1)) ((s.sys.stitch.map (·.1)).filter (·.runs)) false = true)
    {H : Half} (hH : H = wholeHalf (form i t0.hints) p m (s.sys.stitch.map (·.1))) :
    collective i m ok f s = ((Tx.start s).each (s.sys.stitch.map (·.1)) fun tx t =>
      tx.advance (t.given p o (valuesFor ((f [H]).1 H) H.members t) (f [H]).2) l).done := by
  obtain ⟨rest, hrest⟩ := h.stitch
  have hahead : p.ahead = none := h.1.2.2.2.1 (t0, p, l) (by simp [hrest])
  have hlow : ∀ t ∈ s.sys.stitch.map (·.1), inUpper p t = false := by
    intro t ht
    obtain ⟨x, hx, rfl⟩ := List.mem_map.mp ht
    simpa [inUpper] using hlane x hx
  have hhalf : ∀ ts : List Thread, (∀ t ∈ ts, t ∈ s.sys.stitch.map (·.1)) → ts.filter (fun t => inUpper p t == false) = ts ∧
      ts.filter (fun t => inUpper p t == true) = [] := fun ts hts =>
    ⟨List.filter_eq_self.mpr fun t ht => by simp [hlow t (hts t ht)], List.filter_eq_nil_iff.mpr fun t ht => by simp [hlow t (hts t ht)]⟩
  obtain ⟨ha, hb⟩ := hhalf _ fun t ht => ht
  obtain ⟨hc, hd⟩ := hhalf ((s.sys.stitch.map (·.1)).filter (·.runs)) fun t ht => (List.mem_filter.mp ht).1
  have hnone : masksOk s.sys p m [] [] true = true := rfl
  have hall : t0 :: rest.map (·.1) = s.sys.stitch.map (·.1) := by rw [hrest]; rfl
  have hquiet : ∀ t : Thread, p.aheadOf t.tid = false := fun t => by simp [Panel.aheadOf, hahead]
  unfold collective
  extract_lets tx
  rw [show tx.sys.stitch = (t0, p, l) :: rest from hrest]
  dsimp -zeta only
  rw [hall]
  extract_lets fm all live half mk halves r bad write
  rw [if_neg (by simp [fm, hform, hok]), if_neg (by simp [hstay]), if_neg (by simp [half, live, all, ha, hb, hc, hd, hmask, hnone])]
  have hhalves : halves = [H] := by
    simp only [halves, hpair, Bool.false_eq_true, if_false, mk, half, live, all, hc, hH, wholeHalf, fm]
  have hwrite : write = fun t => t.given p o (valuesFor ((f [H]).1 H) H.members t) (f [H]).2 := by
    funext t
    simp only [write, r, hhalves, List.flatMap_cons, List.flatMap_nil, List.append_nil, hquiet, Bool.not_false, Bool.and_true,
      Bool.false_eq_true, if_false, fm, hdst]
    unfold Thread.given valuesFor
    cases (H.members.filter fun x => x.t.tid == t.tid).map ((f [H]).1 H) <;> rfl
  rw [hwrite]

end Sys2Proof.Machine

namespace Sys2Proof

open Machine

/-- Settles O40: the threads of the seam get their parts one after another, and each part depends on its own thread alone. -/
theorem collectivesComplete : Obligations.CollectivesComplete := by
  unfold Obligations.CollectivesComplete
  intro i m ok s t0 p l hi hseam hok hform hpair hstay hlane hmask
  obtain ⟨f, hf, hflags⟩ := exec_collective hi
  obtain ⟨o, hdst⟩ := form_collective_dst hi
  let H := wholeHalf (form i t0.hints) p m (s.sys.stitch.map (·.1))
  refine ⟨fun t => (valuesFor ((f [H]).1 H) H.members t).headD 0, (f [H]).2, ?_, fun h => hflags h _⟩
  rw [hf, collective_unpaired hseam f (hdst _) hok hform hpair hstay hlane hmask rfl, Tx.each_advance]
  refine congrArg (fun y => Host.Outcome.next (s.withSys y)) ?_
  refine List.foldl_map.trans (List.foldl_ext _ _ _ fun y x hx => ?_)
  have hgiven := Thread.given_eq (m := m) (o := o) x.1 p (f [H]).2
    (valuesFor_eq_nil hseam hlane (List.mem_map_of_mem hx) ((f [H]).1 H) (form i t0.hints))
  have hregs : x.1.dstRegs p i = o.regs x.1 p := by rw [Thread.dstRegs, hdst]
  rw [← hregs] at hgiven
  rw [(hseam.2.2 x hx).1]
  exact congrArg (fun u : Thread => y.setThread (u.advance (s.sys.nmapOf l))) hgiven

end Sys2Proof

/-! ## A stitch goes thread by thread (R125)

What a word does for one thread is the same whatever else is in its stitch: of all that a step reads, only the stitch itself is
told by the stitch in view. So each function of a step under way is shown to commute with a change of the stitch in view, in the
order in which the model defines them. -/

namespace Sys2Proof.Machine

variable {s0 s1 : State}

/-- The tables with another stitch in view. -/
def Sys.aimed (y : Sys) (ids : List (Nat × Nat)) : Sys := { y with focus := ids }

/-- The same step under way, of another state, with another stitch in view. -/
def Tx.refocus (a : Tx s0) (k : s1.memOk → s0.memOk) (ids : List (Nat × Nat)) : Tx s1 :=
  ⟨a.st.focusOn ids, fun h => a.ok (k h), a.halt⟩

section

variable (a : Tx s0) (k : s1.memOk → s0.memOk) (F : List (Nat × Nat))

@[simp] theorem Tx.refocus_sys : (a.refocus k F).sys = a.sys.aimed F := rfl
@[simp] theorem Tx.refocus_st : (a.refocus k F).st = a.st.focusOn F := rfl

/-- A change of the tables that does not look at the stitch. That it does not is seen by unfolding it: `simp` closes the condition
with `disch := with_unfolding_all exact id rfl`. -/
@[simp] theorem Tx.refocus_mod {g : Sys → Sys} (h : g (a.sys.aimed F) = (g a.sys).aimed F) :
    (a.refocus k F).mod g = (a.mod g).refocus k F := by
  unfold Tx.mod Tx.refocus State.focusOn
  dsimp only
  congr 1
  exact congrArg (State.mk _ _) h

@[simp] theorem Tx.refocus_poke (addr : Nat) (bs : List Byte) : (a.refocus k F).poke addr bs = (a.poke addr bs).refocus k F := rfl
@[simp] theorem Tx.refocus_stop (f : Fault) : (a.refocus k F).stop f = (a.stop f).refocus k F := rfl
@[simp] theorem Tx.refocus_notice (n : Notice) : (a.refocus k F).notice n = (a.notice n).refocus k F := rfl

@[simp] theorem Tx.ite_refocus {c : Prop} [Decidable c] (b : Tx s0) :
    (if c then a.refocus k F else b.refocus k F) = (if c then a else b).refocus k F := by
  split <;> rfl

theorem Tx.refocus_each {α : Type} {f : Tx s1 → α → Tx s1} {g : Tx s0 → α → Tx s0}
    (h : ∀ (b : Tx s0) x, f (b.refocus k F) x = (g b x).refocus k F) : ∀ (xs : List α) (a : Tx s0),
    (a.refocus k F).each xs f = (a.each xs g).refocus k F
  | [], _ => rfl
  | x :: xs, a => by
    change Tx.each (f (a.refocus k F) x) xs f = _
    rw [h]
    exact refocus_each h xs (g a x)

/-! ### The memory levels (R257 to R264) -/

@[simp] theorem Sys.aimed_l2Line (y : Sys) (line : Nat) : (y.aimed F).l2Line line = y.l2Line line := rfl
@[simp] theorem Sys.aimed_core (y : Sys) (n : Nat) : (y.aimed F).core n = y.core n := rfl
@[simp] theorem Sys.aimed_ildom (y : Sys) : (y.aimed F).ildom = y.ildom := rfl
@[simp] theorem Sys.aimed_cores (y : Sys) : (y.aimed F).cores = y.cores := rfl
@[simp] theorem Sys.aimed_l2 (y : Sys) : (y.aimed F).l2 = y.l2 := rfl
@[simp] theorem Sys.aimed_nonce (y : Sys) : (y.aimed F).nonce = y.nonce := rfl
@[simp] theorem Sys.aimed_rdcHit (y : Sys) (die line key : Nat) : (y.aimed F).rdcHit die line key = y.rdcHit die line key := rfl
@[simp] theorem State.focusOn_homeLine (s : State) (line key : Nat) : (s.focusOn F).homeLine line key = s.homeLine line key := rfl
@[simp] theorem State.focusOn_homeNat (s : State) (addr n key : Nat) : (s.focusOn F).homeNat addr n key = s.homeNat addr n key :=
  rfl
@[simp] theorem State.focusOn_lining (s : State) (line key : Nat) : (s.focusOn F).lining line key = s.lining line key := rfl

@[simp] theorem Sys.aimed_stack (y : Sys) (n : Nat) : (y.aimed F).stack n = y.stack n := rfl
@[simp] theorem Sys.aimed_setStack (y : Sys) (n : Nat) (x : Stack) : (y.aimed F).setStack n x = (y.setStack n x).aimed F := rfl
@[simp] theorem Sys.aimed_fillLlc (y : Sys) (line : Nat) : (y.aimed F).fillLlc line = (y.fillLlc line).aimed F := by
  simp only [Sys.fillLlc, aimed_stack, aimed_setStack, aimed_nonce]

theorem Tx.refocus_fillLlc (line : Nat) : (a.refocus k F).mod (·.fillLlc line) = (a.mod (·.fillLlc line)).refocus k F :=
  Tx.refocus_mod a k F (Sys.aimed_fillLlc F _ _)

@[simp] theorem Tx.refocus_putLining (line key data : Nat) :
    (a.refocus k F).putLining line key data = (a.putLining line key data).refocus k F := by
  unfold Tx.putLining
  rw [refocus_poke]
  exact Tx.refocus_mod _ k F (by simp only [Sys.aimed_stack, Sys.aimed_setStack, Sys.aimed_fillLlc]; with_unfolding_all rfl)

@[simp] theorem Tx.refocus_pushLine (line : Nat) : (a.refocus k F).pushLine line = (a.pushLine line).refocus k F := by
  unfold Tx.pushLine
  rw [refocus_sys, Sys.aimed_l2Line]
  cases a.sys.l2Line line with
  | none => rfl
  | some l => simp (disch := with_unfolding_all exact id rfl)

@[simp] theorem Tx.refocus_dropL2 (line : Nat) : (a.refocus k F).dropL2 line = (a.dropL2 line).refocus k F := by
  simp (disch := with_unfolding_all exact id rfl) [Tx.dropL2]

@[simp] theorem Tx.refocus_rekey (line key : Nat) : (a.refocus k F).rekey line key = (a.rekey line key).refocus k F := by
  unfold Tx.rekey
  rw [refocus_sys, Sys.aimed_l2Line]
  cases a.sys.l2Line line <;> simp

@[simp] theorem Tx.refocus_roomL2 (die slice : Nat) : (a.refocus k F).roomL2 die slice = (a.roomL2 die slice).refocus k F := by
  unfold Tx.roomL2
  dsimp only [refocus_sys, Sys.aimed_l2, Sys.aimed_nonce]
  generalize a.sys.l2.filter _ = ls
  cases ls[Config.freeAt a.sys.nonce ls.length % ls.length]? <;> simp

@[simp] theorem Tx.refocus_homePut (line key mode num : Nat) (through : Bool) (data mask : Nat) :
    (a.refocus k F).homePut line key mode num through data mask =
      (a.homePut line key mode num through data mask).refocus k F := by
  unfold Tx.homePut
  simp (disch := with_unfolding_all exact id rfl) only [refocus_rekey, refocus_sys, refocus_st, refocus_mod, ite_refocus,
    refocus_putLining, refocus_roomL2, Sys.aimed_l2Line, Sys.aimed_ildom, State.focusOn_homeLine]

@[simp] theorem Tx.refocus_fillL2 (line key mode num : Nat) :
    (a.refocus k F).fillL2 line key mode num = (a.fillL2 line key mode num).refocus k F := by
  unfold Tx.fillL2
  simp (disch := (simp only [Sys.aimed_fillLlc]; with_unfolding_all exact id rfl))

@[simp] theorem Tx.refocus_homeWrite (addr key mode num : Nat) (through : Bool) (bs : List Byte) :
    (a.refocus k F).homeWrite addr key mode num through bs = (a.homeWrite addr key mode num through bs).refocus k F := by
  simp [Tx.homeWrite]

@[simp] theorem Tx.refocus_rdcMerge (die line key data mask : Nat) :
    (a.refocus k F).rdcMerge die line key data mask = (a.rdcMerge die line key data mask).refocus k F := rfl

@[simp] theorem Tx.refocus_fetchLine (die line key mode num : Nat) : (a.refocus k F).fetchLine die line key mode num =
    ((a.fetchLine die line key mode num).1, (a.fetchLine die line key mode num).2.refocus k F) := by
  unfold Tx.fetchLine
  rw [refocus_sys, Sys.aimed_rdcHit]
  split
  · simp
  · cases a.sys.rdcHit die line key <;> simp (disch := with_unfolding_all exact id rfl)

@[simp] theorem Tx.refocus_writeFrom (core line key mode num : Nat) (through : Bool) (data mask : Nat) :
    (a.refocus k F).writeFrom core line key mode num through data mask =
      (a.writeFrom core line key mode num through data mask).refocus k F := by
  simp [Tx.writeFrom]

@[simp] theorem Tx.refocus_raiseLine (core : Nat) (l : L1Line) (mask : BitVec 6) :
    (a.refocus k F).raiseLine core l mask = (a.raiseLine core l mask).refocus k F := by
  unfold Tx.raiseLine
  split
  · rfl
  · simp (disch := with_unfolding_all exact id rfl) only [refocus_writeFrom, refocus_pushLine, ite_refocus, refocus_mod]

@[simp] theorem Tx.refocus_dropL1 (core line : Nat) : (a.refocus k F).dropL1 core line = (a.dropL1 core line).refocus k F := by
  unfold Tx.dropL1
  rw [refocus_sys, Sys.aimed_core]
  cases (a.sys.core core).l1Line line <;> simp (disch := with_unfolding_all exact id rfl)

@[simp] theorem Tx.refocus_dropLine (line : Nat) : (a.refocus k F).dropLine line = (a.dropLine line).refocus k F := by
  unfold Tx.dropLine
  rw [refocus_sys, Sys.aimed_cores, refocus_each k F (g := fun tx c => tx.dropL1 c line) fun b c => by simp]
  simp (disch := with_unfolding_all exact id rfl)

@[simp] theorem Tx.refocus_roomL1 (core : Nat) : (a.refocus k F).roomL1 core = (a.roomL1 core).refocus k F := by
  unfold Tx.roomL1
  dsimp only [refocus_sys, Sys.aimed_core, Sys.aimed_nonce]
  generalize (a.sys.core core).l1 = ls
  cases ls[Config.freeAt a.sys.nonce ls.length % ls.length]? <;> simp

@[simp] theorem Tx.refocus_release (core : Nat) (mask : BitVec 6) :
    (a.refocus k F).release core mask = (a.release core mask).refocus k F := by
  unfold Tx.release
  rw [refocus_sys, Sys.aimed_core, refocus_each k F (g := fun tx l => tx.raiseLine core l mask) fun b c => by simp]
  dsimp only
  rw [refocus_sys, Sys.aimed_l2, refocus_each k F (g := fun tx l => tx.pushLine l) fun b c => by simp]
  simp

@[simp] theorem Tx.refocus_fillL1 (core line key mode num : Nat) (through ro : Bool) :
    (a.refocus k F).fillL1 core line key mode num through ro =
      ((a.fillL1 core line key mode num through ro).1, (a.fillL1 core line key mode num through ro).2.refocus k F) := by
  unfold Tx.fillL1
  dsimp only [refocus_sys, Sys.aimed_core]
  cases h : (a.sys.core core).l1Line line with
  | none => simp (disch := with_unfolding_all exact id rfl) [h]
  | some l =>
    simp only [refocus_dropL1, ite_refocus, refocus_sys, Sys.aimed_core]
    cases ((if l.key = key then a else a.dropL1 core line).sys.core core).l1Line line <;>
      simp (disch := with_unfolding_all exact id rfl)

end

end Sys2Proof.Machine

/-! ### Page tables, records and tacks (R245 to R250, R289 to R291, R427 to R431) -/

namespace Sys2Proof.Machine

variable {s0 s1 : State}

section

variable (a : Tx s0) (k : s1.memOk → s0.memOk) (F : List (Nat × Nat))

@[simp] theorem Sys.aimed_part? (y : Sys) (n : Nat) : (y.aimed F).part? n = y.part? n := rfl
@[simp] theorem Sys.aimed_panel? (y : Sys) (n : Nat) : (y.aimed F).panel? n = y.panel? n := rfl
@[simp] theorem Sys.aimed_launch? (y : Sys) (n : Nat) : (y.aimed F).launch? n = y.launch? n := rfl
@[simp] theorem Sys.aimed_image? (y : Sys) (o : ImageOf) : (y.aimed F).image? o = y.image? o := rfl
@[simp] theorem Sys.aimed_lost (y : Sys) : (y.aimed F).lost = y.lost := rfl
@[simp] theorem Sys.aimed_heldUnder (y : Sys) (line key : Nat) : (y.aimed F).heldUnder line key = y.heldUnder line key := rfl
@[simp] theorem Sys.aimed_nextTicket (y : Sys) (n : Nat) : (y.aimed F).nextTicket n = y.nextTicket n := rfl
@[simp] theorem Sys.aimed_extentPage (y : Sys) (part panel : Nat) (d : List Word) (v : Nat) :
    (y.aimed F).extentPage part panel d v = y.extentPage part panel d v := rfl
@[simp] theorem tlbHit_aimed (y : Sys) (p : Partition) (core v r : Nat) :
    tlbHit (y.aimed F) p core v r = tlbHit y p core v r := rfl
@[simp] theorem walk_focusOn (s : State) (p : Partition) (va : Nat) : walk (s.focusOn F) p va = walk s p va := rfl
@[simp] theorem walkDrop_focusOn (s : State) (p : Partition) (va : Nat) : walkDrop (s.focusOn F) p va = walkDrop s p va := rfl
@[simp] theorem virtPeek_focusOn (s : State) (part va : Nat) : (s.focusOn F).virtPeek part va = s.virtPeek part va := rfl
@[simp] theorem tackDepMet_focusOn (s : State) (part dep : Nat) : (s.focusOn F).tackDepMet part dep = s.tackDepMet part dep := by
  simp only [State.tackDepMet, virtPeek_focusOn, State.focusOn_homeNat]
  rfl
@[simp] theorem walkReads_focusOn (s : State) (p : Partition) (va : Nat) (shs : List Nat) (table : Nat) :
    walkReads (s.focusOn F) p va shs table = walkReads s p va shs table := by
  induction shs generalizing table with
  | nil => rfl
  | cons sh shs ih => simp [walkReads, ih]

@[simp] theorem Sys.aimed_updPart (y : Sys) (n : Nat) (f : Partition → Partition) :
    updPart n f (y.aimed F) = (updPart n f y).aimed F := by
  unfold updPart
  rw [aimed_part?]
  cases y.part? n <;> rfl

@[simp] theorem Tx.refocus_updPart (n : Nat) (f : Partition → Partition) :
    (a.refocus k F).mod (updPart n f) = (a.mod (updPart n f)).refocus k F :=
  Tx.refocus_mod a k F (Sys.aimed_updPart F _ n f)

@[simp] theorem Tx.refocus_imageWrite (p : Partition) (i : Image) (off : Nat) (bs : List Byte) :
    (a.refocus k F).imageWrite p i off bs = (a.imageWrite p i off bs).refocus k F :=
  Tx.refocus_each k F (fun _ _ => Tx.refocus_homeWrite ..) _ a

@[simp] theorem Tx.refocus_imageData (o : ImageOf) (off : Nat) (bs : List Byte) :
    (a.refocus k F).imageData o off bs = (a.imageData o off bs).refocus k F := by
  unfold Tx.imageData
  rw [refocus_sys, Sys.aimed_image?]
  cases a.sys.image? o <;> simp

@[simp] theorem Tx.refocus_rekeyWalk (p : Partition) (va : Nat) :
    (a.refocus k F).rekeyWalk p va = (a.rekeyWalk p va).refocus k F := by
  unfold Tx.rekeyWalk
  rw [refocus_st, walkReads_focusOn]
  exact Tx.refocus_each k F (fun _ _ => Tx.refocus_rekey ..) _ a

@[simp] theorem Tx.refocus_noticeDrop (p : Partition) (va : Nat) :
    (a.refocus k F).noticeDrop p va = (a.noticeDrop p va).refocus k F := by
  unfold Tx.noticeDrop
  rw [refocus_st, walkDrop_focusOn]
  cases walkDrop a.st p va <;> simp

@[simp] theorem Tx.refocus_setAD (p : Partition) (addr : Nat) (write : Bool) :
    (a.refocus k F).setAD p addr write = (a.setAD p addr write).refocus k F := by
  have marked (e e' : Nat) :
      (if e' = e then a.refocus k F else (a.refocus k F).homeWrite addr p.tableKey 1 0 false (leBytes 8 e')) =
        (if e' = e then a else a.homeWrite addr p.tableKey 1 0 false (leBytes 8 e')).refocus k F := by
    rw [refocus_homeWrite, ite_refocus]
  exact marked (a.st.homeNat addr 8 p.tableKey) _

@[simp] theorem Tx.refocus_walkNow (part core va rights : Nat) : (a.refocus k F).walkNow part core va rights =
    ((a.walkNow part core va rights).1, (a.walkNow part core va rights).2.refocus k F) := by
  unfold Tx.walkNow
  rw [refocus_sys, Sys.aimed_part?]
  cases a.sys.part? part with
  | none => rfl
  | some p =>
    dsimp only
    rw [refocus_st, walk_focusOn]
    cases walk a.st p va with
    | hole | bad | spoiled => simp
    | ok ad leaf =>
      dsimp only
      split
      · simp
      · rw [refocus_rekeyWalk, refocus_setAD]
        generalize (a.rekeyWalk p va).setAD p ad (isWrite rights) = b
        exact congrArg (Prod.mk (some leaf)) (refocus_updPart b k F part fun p =>
          { p with tlb := Tlb.mk core (va / 65536) (BitVec.ofNat 64 leaf) (isWrite rights) ::
              (p.tlb.filter fun t => !(t.core == core && t.vpage == va / 65536)) })

@[simp] theorem Tx.refocus_virtAddr (part va rights : Nat) : (a.refocus k F).virtAddr part va rights =
    ((a.virtAddr part va rights).1, (a.virtAddr part va rights).2.refocus k F) := by
  unfold Tx.virtAddr
  simp only [refocus_sys, Sys.aimed_part?, refocus_walkNow]
  cases a.sys.part? part with
  | none => rfl
  | some p =>
    obtain ⟨leaf, b⟩ := a.walkNow part 288 va rights
    cases leaf with
    | none => rfl
    | some l =>
      dsimp only
      split <;> simp

@[simp] theorem Tx.refocus_engineAddr (part panel core : Nat) (d : List Word) (off rights : Nat) :
    (a.refocus k F).engineAddr part panel core d off rights =
    ((a.engineAddr part panel core d off rights).1, (a.engineAddr part panel core d off rights).2.refocus k F) := by
  unfold Tx.engineAddr
  obtain ⟨stack, local_⟩ := Decl.place d off
  dsimp only
  rw [refocus_walkNow, refocus_sys, Sys.aimed_part?, Sys.aimed_extentPage]
  cases a.sys.part? part with
  | none => rfl
  | some p =>
    cases a.sys.extentPage part panel d ((Decl.base d + local_) / 65536) with
    | some m =>
      dsimp only
      split <;> simp
    | none =>
      obtain ⟨leaf, b⟩ := a.walkNow part core (Decl.base d + local_) rights
      dsimp only
      rw [tlbHit_aimed]
      cases tlbHit a.sys p core ((Decl.base d + local_) / 65536) rights with
      | some l =>
        dsimp only
        split <;> simp
      | none =>
        cases leaf with
        | none => rfl
        | some l =>
          dsimp only
          split <;> simp

/-! #### Records -/

@[simp] theorem Tx.refocus_postRecord (part : Nat) (r : RecordInfo) (ticket : Nat) :
    (a.refocus k F).postRecord part r ticket = (a.postRecord part r ticket).refocus k F := by
  simp only [Tx.postRecord, refocus_updPart, refocus_notice]

@[simp] theorem Tx.refocus_postTicket (part : Nat) (r : RecordInfo) (n : TicketFor) (l : Nat) :
    (a.refocus k F).postTicket part r n l = ((a.postTicket part r n l).1, (a.postTicket part r n l).2.refocus k F) := by
  unfold Tx.postTicket Tx.openTicket
  dsimp only [refocus_sys, Sys.aimed_nextTicket]
  rw [refocus_updPart, refocus_postRecord]

/-! #### Tacks -/

@[simp] theorem Tx.refocus_tackMoved (addr : Nat) : (a.refocus k F).tackMoved addr = (a.tackMoved addr).refocus k F := by
  unfold Tx.tackMoved
  dsimp only [refocus_st]
  simp only [virtPeek_focusOn, tackDepMet_focusOn]
  exact Tx.refocus_mod a k F rfl

@[simp] theorem Tx.refocus_idRetired (part : Nat) (id : Word) :
    (a.refocus k F).idRetired part id = (a.idRetired part id).refocus k F := rfl

@[simp] theorem Tx.refocus_locate (t : TackRef) (right : Nat) :
    (a.refocus k F).locate t right = ((a.locate t right).1, (a.locate t right).2.refocus k F) := by
  unfold Tx.locate
  cases t with
  | mem part panel d off =>
    dsimp only
    rw [refocus_engineAddr]
    obtain ⟨_ | ⟨x, key, m, n⟩, b⟩ := a.engineAddr part panel 288 d off right <;> split <;> rfl
  | virt part va =>
    dsimp only
    rw [refocus_virtAddr]
    obtain ⟨_ | ⟨x, key, m, n⟩, b⟩ := a.virtAddr part va 0 <;> rfl
  | scr panel addr =>
    dsimp only
    rw [refocus_sys, Sys.aimed_panel?, Sys.aimed_lost]
    split
    · rfl
    · split <;> rfl

@[simp] theorem Tx.refocus_tackLive (l : Loc) : (a.refocus k F).tackLive l = a.tackLive l := by
  cases l <;> rfl

@[simp] theorem Tx.refocus_tackRead (l : Loc) : (a.refocus k F).tackRead l = a.tackRead l := by
  cases l <;> rfl

@[simp] theorem Tx.refocus_tackWrite (l : Loc) (w : Nat) : (a.refocus k F).tackWrite l w = (a.tackWrite l w).refocus k F := by
  cases l with
  | mem _ _ _ _ => exact Tx.refocus_homeWrite ..
  | scr p addr =>
    dsimp only [Tx.tackWrite]
    rw [refocus_mod, refocus_imageData]
    rw [Sys.aimed_panel?]
    split <;> rfl
  | lost _ _ | away | none => rfl

@[simp] theorem Tx.refocus_orphanEvent (panel addr : Nat) :
    (a.refocus k F).orphanEvent panel addr = (a.orphanEvent panel addr).refocus k F := by
  unfold Tx.orphanEvent
  simp only [refocus_notice, refocus_sys, Sys.aimed_lost, Sys.aimed_launch?]
  cases (a.notice (.tackLost panel addr)).sys.lost.find? fun l => l.panel == panel with
  | none => rfl
  | some l =>
    dsimp only
    split
    · rfl
    · cases (a.notice (.tackLost panel addr)).sys.launch? l.launch with
      | none => rfl
      | some la => simp (disch := with_unfolding_all exact id rfl) only [refocus_mod, refocus_postTicket]

@[simp] theorem Tx.refocus_tackEvent (t : TackRef) (e : TackEvent) :
    (a.refocus k F).tackEvent t e = (a.tackEvent t e).refocus k F := by
  unfold Tx.tackEvent
  rw [refocus_locate]
  generalize a.locate t = r
  obtain ⟨loc, b⟩ := r
  cases loc <;> simp

@[simp] theorem Tx.refocus_tackEvents (ts : List TackRef) (e : TackEvent) :
    (a.refocus k F).tackEvents ts e = (a.tackEvents ts e).refocus k F :=
  Tx.refocus_each k F (fun b t => Tx.refocus_tackEvent b k F t e) ts a

end

end Sys2Proof.Machine

/-! ### The end of a launch (R435, R467, R468) -/

namespace Sys2Proof.Machine

variable {s0 s1 : State}

section

variable (a : Tx s0) (k : s1.memOk → s0.memOk) (F : List (Nat × Nat))

@[simp] theorem Sys.aimed_liveIn (y : Sys) (addr n : Nat) : (y.aimed F).liveIn addr n = y.liveIn addr n := rfl
@[simp] theorem Sys.aimed_liveTack (y : Sys) (x : Access) : x.liveTack (y.aimed F) = x.liveTack y := rfl
@[simp] theorem Sys.aimed_partHasKey (y : Sys) (n key : Nat) : (y.aimed F).partHasKey n key = y.partHasKey n key := rfl
@[simp] theorem Sys.aimed_die (y : Sys) (n : Nat) : (y.aimed F).die n = y.die n := rfl
@[simp] theorem Sys.aimed_idInUse (y : Sys) (part : Nat) (id : Word) : (y.aimed F).idInUse part id = y.idInUse part id := rfl
@[simp] theorem Sys.aimed_unfinished (y : Sys) (n : Nat) : (y.aimed F).unfinished n = y.unfinished n := rfl
@[simp] theorem Sys.aimed_panelsOf (y : Sys) (n : Nat) : (y.aimed F).panelsOf n = y.panelsOf n := rfl
@[simp] theorem Sys.aimed_yokes (y : Sys) : (y.aimed F).yokes = y.yokes := rfl
@[simp] theorem Sys.aimed_cmds (y : Sys) : (y.aimed F).cmds = y.cmds := rfl
@[simp] theorem Sys.aimed_evictObjects (y : Sys) : (y.aimed F).evictObjects = y.evictObjects.aimed F := rfl

@[simp] theorem Sys.aimed_dropLaunch (y : Sys) (l : Launch) : (y.aimed F).dropLaunch l = (y.dropLaunch l).aimed F := by
  unfold Sys.dropLaunch
  dsimp only
  rw [aimed_panelsOf, aimed_yokes, aimed_updPart]
  rfl

@[simp] theorem Sys.aimed_beginEnd (y : Sys) (l : Launch) (status : Nat) :
    (y.aimed F).beginEnd l status = (y.beginEnd l status).aimed F := by
  unfold Sys.beginEnd
  dsimp only
  rw [aimed_panelsOf, show (y.aimed F).discard l.key = (y.discard l.key).aimed F from rfl, aimed_updPart]
  rfl

@[simp] theorem Tx.refocus_storeTo (core : Nat) (travelling : Bool) (x : Access) (bs : List Byte) :
    (a.refocus k F).storeTo core travelling x bs =
      ((a.storeTo core travelling x bs).1, (a.storeTo core travelling x bs).2.refocus k F) := by
  unfold Tx.storeTo
  cases x.target with
  | peer _ => rfl
  | home addr key mode num through =>
    dsimp only
    rw [refocus_sys, Sys.aimed_liveIn]
    cases a.sys.liveIn addr x.size with
    | some w => rfl
    | none =>
      cases travelling with
      | true => simp
      | false =>
        simp only [Bool.false_eq_true, if_false, refocus_fillL1]
        rw [refocus_mod]
        rfl

@[simp] theorem Tx.refocus_atHome (core : Nat) (x : Access) (f : Nat → Nat × Nat) :
    (a.refocus k F).atHome core x f = ((a.atHome core x f).1, (a.atHome core x f).2.refocus k F) := by
  unfold Tx.atHome
  cases x.target with
  | peer _ => rfl
  | home addr key mode num through =>
    simp only [refocus_dropL1, refocus_st, State.focusOn_homeNat, refocus_writeFrom]

@[simp] theorem Tx.refocus_writeCompletion (l : Launch) (status : Nat) :
    (a.refocus k F).writeCompletion l status = (a.writeCompletion l status).refocus k F := by
  unfold Tx.writeCompletion
  dsimp only
  rw [refocus_virtAddr]
  split
  · rfl
  · split
    · exact refocus_postRecord ..
    · obtain ⟨_ | ⟨x, key, m, n⟩, b⟩ := a.virtAddr l.part l.completion rW
      · exact refocus_postRecord ..
      · simp only [refocus_sys, Sys.aimed_partHasKey, refocus_postRecord, refocus_dropLine, Sys.aimed_die, refocus_homeWrite,
          ite_refocus]

@[simp] theorem Tx.refocus_noteSuppressed (launch : Nat) (hit : Bool) :
    (a.refocus k F).noteSuppressed launch hit = (a.noteSuppressed launch hit).refocus k F := by
  cases hit <;> rfl

@[simp] theorem Tx.refocus_unsupervise (part : Nat) : (a.refocus k F).unsupervise part = (a.unsupervise part).refocus k F := by
  simp only [Tx.unsupervise, refocus_updPart, refocus_notice]

@[simp] theorem Tx.refocus_endLaunch (l : Launch) (status : Nat) (release : Bool) :
    (a.refocus k F).endLaunch l status release = (a.endLaunch l status release).refocus k F := by
  unfold Tx.endLaunch
  rw [refocus_sys, Sys.aimed_cores, refocus_each k F (g := fun tx c => tx.release c visAll) fun b c => refocus_release ..]
  rw [ite_refocus]
  generalize (if release = true then a.each (a.sys.cores.map (·.id)) fun tx c => tx.release c visAll else a) = b
  dsimp only
  rw [refocus_writeCompletion, refocus_tackEvent, ite_refocus]
  generalize (if l.retireTack = 0 then b.writeCompletion l status else _) = c
  rw [refocus_mod c k F (by rw [Sys.aimed_dropLaunch, Sys.aimed_evictObjects])]
  generalize c.mod (fun s => (s.dropLaunch l).evictObjects) = d
  rw [refocus_idRetired, refocus_sys, Sys.aimed_idInUse, ite_refocus, refocus_unsupervise, ite_refocus]

@[simp] theorem Tx.refocus_abandonCmd (c : Cmd) : (a.refocus k F).abandonCmd c = (a.abandonCmd c).refocus k F := by
  simp only [Tx.abandonCmd, refocus_noteSuppressed, refocus_tackEvents, ite_refocus]

@[simp] theorem Tx.refocus_drainOp (t : Thread) (l : Launch) (o : Op) :
    (a.refocus k F).drainOp t l o = (a.drainOp t l o).refocus k F := by
  have appends (cs : List (Access × List Byte)) (a : Tx s0) : ((a.refocus k F).each cs fun tx c =>
      if (c.1.liveTack tx.sys).isSome then tx.noteSuppressed l.key true
        else (tx.atHome t.core c.1 fun _ => (0, ofLeBytes c.2)).2) =
      (a.each cs fun tx c => if (c.1.liveTack tx.sys).isSome then tx.noteSuppressed l.key true
        else (tx.atHome t.core c.1 fun _ => (0, ofLeBytes c.2)).2).refocus k F :=
    refocus_each k F (fun b c => by
      simp only [refocus_sys, Sys.aimed_liveTack, refocus_noteSuppressed, refocus_atHome, ite_refocus]) cs a
  unfold Tx.drainOp
  split
  · simp only [refocus_storeTo, refocus_noteSuppressed]
  · simp only [refocus_sys, Sys.aimed_liveTack, refocus_noteSuppressed, refocus_atHome, ite_refocus]
  · simp only [refocus_release, refocus_sys, Sys.aimed_liveTack, refocus_noteSuppressed, refocus_atHome, ite_refocus]
  · exact appends _ a
  · rfl

@[simp] theorem Tx.refocus_drainStores (l : Launch) : (a.refocus k F).drainStores l = (a.drainStores l).refocus k F := by
  unfold Tx.drainStores
  exact refocus_each k F (fun b t => by
    rw [refocus_each k F (g := fun tx o => tx.drainOp t l o) fun b o => refocus_drainOp .., refocus_noteSuppressed]) _ a

@[simp] theorem Tx.refocus_finishEnd (l : Launch) (status : Nat) :
    (a.refocus k F).finishEnd l status = (a.finishEnd l status).refocus k F := by
  unfold Tx.finishEnd
  rw [refocus_mod a k F rfl]
  generalize a.mod (fun s => s.discardAll l.key) = b
  dsimp only
  rw [refocus_sys, Sys.aimed_cmds, refocus_each k F (g := fun tx c => tx.abandonCmd c) fun b c => refocus_abandonCmd ..]
  rw [refocus_sys, Sys.aimed_launch?, refocus_endLaunch]

@[simp] theorem Tx.refocus_terminate (launch status : Nat) :
    (a.refocus k F).terminate launch status = (a.terminate launch status).refocus k F := by
  unfold Tx.terminate
  rw [refocus_sys, Sys.aimed_launch?]
  cases a.sys.launch? launch with
  | none => rfl
  | some l =>
    dsimp only
    cases l.ending with
    | some before => exact refocus_finishEnd ..
    | none =>
      dsimp only
      rw [refocus_drainStores, refocus_sys, Sys.aimed_launch?, Sys.aimed_unfinished,
        refocus_mod _ k F (Sys.aimed_beginEnd ..), refocus_finishEnd, ite_refocus]

end

end Sys2Proof.Machine

/-! ### Threads, traps and shuttles (R97, R297, R426 to R432) -/

namespace Sys2Proof.Machine

variable {s0 s1 : State}

section

variable (a : Tx s0) (k : s1.memOk → s0.memOk) (F : List (Nat × Nat))

@[simp] theorem Sys.aimed_thread? (y : Sys) (n tid : Nat) : (y.aimed F).thread? n tid = y.thread? n tid := rfl
@[simp] theorem Sys.aimed_homeOf (y : Sys) (t : Thread) : (y.aimed F).homeOf t = y.homeOf t := rfl
@[simp] theorem Sys.aimed_threadAt (y : Sys) (id : Nat × Nat) : (y.aimed F).threadAt id = y.threadAt id := rfl
@[simp] theorem Sys.aimed_launchOf (y : Sys) (p : Panel) : (y.aimed F).launchOf p = y.launchOf p := rfl
@[simp] theorem Sys.aimed_threadsOf (y : Sys) (n : Nat) : (y.aimed F).threadsOf n = y.threadsOf n := rfl
@[simp] theorem Sys.aimed_yokeOf (y : Sys) (p : Panel) : (y.aimed F).yokeOf p = y.yokeOf p := rfl
@[simp] theorem Sys.aimed_phaseOf (y : Sys) (p : Panel) : (y.aimed F).phaseOf p = y.phaseOf p := rfl
@[simp] theorem Sys.aimed_logical (y : Sys) (part core : Nat) : (y.aimed F).logical part core = y.logical part core := rfl
@[simp] theorem Sys.aimed_entryOf (y : Sys) (l : Launch) (e : Nat) : (y.aimed F).entryOf l e = y.entryOf l e := rfl
@[simp] theorem Sys.aimed_poisoned (y : Sys) (addr : Nat) : (y.aimed F).poisoned addr = y.poisoned addr := rfl
@[simp] theorem Sys.aimed_homeHeld (y : Sys) (die addr mode num : Nat) :
    (y.aimed F).homeHeld die addr mode num = y.homeHeld die addr mode num := rfl
@[simp] theorem Sys.aimed_scratchPanel (y : Sys) (p : Panel) : (y.aimed F).scratchPanel p = y.scratchPanel p := rfl
@[simp] theorem shuttlesOk_aimed (y : Sys) (p : Panel) (l : Launch) (pops pushes : List Nat) :
    shuttlesOk (y.aimed F) p l pops pushes = shuttlesOk y p l pops pushes := rfl
@[simp] theorem checkAccess_focusOn (s : State) (pt : Port) (slot off size al rights : Nat) (bin : Bool) :
    checkAccess (s.focusOn F) pt slot off size al rights bin = checkAccess s pt slot off size al rights bin := rfl
@[simp] theorem State.focusOn_seenNat (s : State) (core addr key n : Nat) :
    (s.focusOn F).seenNat core addr key n = s.seenNat core addr key n := rfl

@[simp] theorem Tx.refocus_advance (t : Thread) (l : Launch) : (a.refocus k F).advance t l = (a.advance t l).refocus k F := rfl

@[simp] theorem Tx.refocus_trapEntry (t : Thread) (l : Launch) (code : Byte) (value : Word) (pc : Nat) :
    (a.refocus k F).trapEntry t l code value pc = (a.trapEntry t l code value pc).refocus k F := by
  unfold Tx.trapEntry
  rw [refocus_terminate, refocus_sys, Sys.aimed_entryOf]
  obtain ⟨target, prio, n⟩ := a.sys.entryOf l l.trapEntry
  dsimp only
  rw [refocus_mod a k F rfl, ite_refocus]

@[simp] theorem Tx.refocus_suspend (t : Thread) (p : Panel) (l : Launch) (code : Byte) (value : Word) (pc : Nat) (i : Info) :
    (a.refocus k F).suspend t p l code value pc i = (a.suspend t p l code value pc i).refocus k F := by
  unfold Tx.suspend
  dsimp only
  rw [refocus_postTicket, refocus_sys, Sys.aimed_logical]
  exact refocus_mod _ k F rfl

@[simp] theorem Tx.refocus_endAhead (panel : Nat) : (a.refocus k F).endAhead panel = (a.endAhead panel).refocus k F := by
  unfold Tx.endAhead
  refine refocus_mod a k F ?_
  rw [Sys.aimed_panel?]
  cases a.sys.panel? panel <;> rfl

@[simp] theorem Tx.refocus_pageFault (t : Thread) (p : Panel) (l : Launch) (value : Word) (i : Info) :
    (a.refocus k F).pageFault t p l value i = (a.pageFault t p l value i).refocus k F := by
  unfold Tx.pageFault
  dsimp only
  rw [refocus_sys, Sys.aimed_logical]
  exact refocus_mod a k F rfl

@[simp] theorem Tx.refocus_raiseAt (t : Thread) (code : Byte) (value : Word) (i : Info) (back : Nat) :
    (a.refocus k F).raiseAt t code value i back = (a.raiseAt t code value i back).refocus k F := by
  unfold Tx.raiseAt
  rw [refocus_sys, Sys.aimed_homeOf]
  cases a.sys.homeOf t with
  | none => rfl
  | some h => simp only [refocus_pageFault, refocus_endAhead, refocus_suspend, refocus_notice, refocus_trapEntry, ite_refocus]

@[simp] theorem Tx.refocus_raise (t : Thread) (code : Byte) (value : Word) (i : Info) :
    (a.refocus k F).raise t code value i = (a.raise t code value i).refocus k F := refocus_raiseAt ..

theorem Sys.aimed_foldl {α : Type} {g : Sys → α → Sys} (h : ∀ y x, g (y.aimed F) x = (g y x).aimed F) :
    ∀ (xs : List α) (y : Sys), xs.foldl g (y.aimed F) = (xs.foldl g y).aimed F
  | [], _ => rfl
  | x :: xs, y => by rw [List.foldl_cons, h, Sys.aimed_foldl h xs, List.foldl_cons]

@[simp] theorem Tx.refocus_beginAhead : (a.refocus k F).beginAhead = a.beginAhead.refocus k F := by
  unfold Tx.beginAhead
  refine refocus_each k F (fun b p => ?_) _ a
  rw [refocus_sys, Sys.aimed_launchOf, Sys.aimed_threadsOf]
  cases p.ahead with
  | none => rfl
  | some x =>
    cases b.sys.launchOf p with
    | none => rfl
    | some l =>
      dsimp only
      exact refocus_mod b k F (Sys.aimed_foldl F (fun _ _ => rfl) _ (b.sys.setPanel _))

@[simp] theorem Tx.refocus_updYoke (p : Panel) (f : Yoke → Yoke) :
    (a.refocus k F).updYoke p f = (a.updYoke p f).refocus k F := by
  unfold Tx.updYoke
  refine refocus_mod a k F ?_
  rw [Sys.aimed_yokeOf]
  cases a.sys.yokeOf p <;> rfl

@[simp] theorem Tx.refocus_pop (p : Panel) (n : Nat) : (a.refocus k F).pop p n = ((a.pop p n).1, (a.pop p n).2.refocus k F) := by
  unfold Tx.pop
  rw [refocus_updYoke]
  rfl

@[simp] theorem Tx.refocus_push (p : Panel) (n : Nat) (w : Word) : (a.refocus k F).push p n w = (a.push p n w).refocus k F :=
  refocus_updYoke ..

@[simp] theorem Tx.refocus_readSrcs (t : Thread) (p : Panel) : ∀ (os : List Opnd) (a : Tx s0),
    readSrcs (a.refocus k F) t p os = ((readSrcs a t p os).1, (readSrcs a t p os).2.refocus k F)
  | [], _ => rfl
  | o :: os, a => by
    unfold readSrcs
    split
    · rw [refocus_readSrcs t p os a]
    · split
      · rw [refocus_pop]
        dsimp only
        rw [refocus_readSrcs t p os]
      · rw [refocus_readSrcs t p os a]

/-! ### Memory words (R240, R249, R269, R432) -/

@[simp] theorem Tx.refocus_issueOp (t : Thread) (l : Launch) (i : Instr) (kind : OpKind) (acc : Option Access) (dst : List Nat)
    (popped : Option (Nat × Word)) :
    (a.refocus k F).issueOp t l i kind acc dst popped = (a.issueOp t l i kind acc dst popped).refocus k F := rfl

@[simp] theorem Tx.refocus_postWalk (t : Thread) (l : Launch) (va rights : Nat) (mode0 : Bool)
    (pref : Option (Nat × Nat × Nat)) :
    (a.refocus k F).postWalk t l va rights mode0 pref = (a.postWalk t l va rights mode0 pref).refocus k F := rfl


@[simp] theorem Tx.refocus_port (t : Thread) (p : Panel) (l : Launch) (slot off size al rights : Nat) (bin : Bool) :
    (a.refocus k F).port t p l slot off size al rights bin =
      ((a.port t p l slot off size al rights bin).1, (a.port t p l slot off size al rights bin).2.refocus k F) := by
  unfold Tx.port
  rw [refocus_st, checkAccess_focusOn]
  cases checkAccess a.st (portOf p l t) slot off size al rights bin <;> simp

@[simp] theorem Tx.refocus_aheadLoad (t : Thread) (p : Panel) (l : Launch) (fm : Form) (slot off size : Nat) (signed : Bool) :
    (a.refocus k F).aheadLoad t p l fm slot off size signed = (a.aheadLoad t p l fm slot off size signed).refocus k F := by
  unfold Tx.aheadLoad
  dsimp only
  rw [refocus_st, checkAccess_focusOn]
  cases fm.poisoned t p with
  | true => rfl
  | false =>
    simp only [Bool.false_eq_true, if_false]
    cases checkAccess a.st (portOf p l t) slot off size size rRd false with
    | ok x =>
      dsimp only
      cases x.target with
      | peer _ => rfl
      | home addr key mode num thr =>
        dsimp only
        rw [refocus_sys, Sys.aimed_poisoned, State.focusOn_seenNat, refocus_advance, refocus_advance, ite_refocus]
    | trap c v sl o w => simp only [refocus_raise, refocus_advance, ite_refocus]
    | walk va r m => exact refocus_postWalk ..
    | hole => exact refocus_stop ..

@[simp] theorem Tx.refocus_poisonFaulted (t : Thread) (dst : List Nat) :
    (a.refocus k F).poisonFaulted t dst = (a.poisonFaulted t dst).refocus k F := by
  unfold Tx.poisonFaulted
  rw [refocus_sys, Sys.aimed_panel?, Sys.aimed_thread?]
  cases a.sys.panel? t.panel with
  | none => rfl
  | some p =>
    cases a.sys.thread? t.panel t.tid with
    | none => rfl
    | some u =>
      dsimp only
      rw [refocus_mod a k F rfl, ite_refocus]

@[simp] theorem Tx.refocus_prefetch (core level : Nat) (travelling : Bool) (x : Access) :
    (a.refocus k F).prefetch core level travelling x = (a.prefetch core level travelling x).refocus k F := by
  unfold Tx.prefetch
  cases x.target with
  | peer _ => rfl
  | home addr key mode num thr =>
    simp only [refocus_sys, Sys.aimed_homeHeld, refocus_fillLlc, refocus_fillL2, refocus_fillL1, ite_refocus]

theorem Tx.refocus_shuttled (t : Thread) (p : Panel) (l : Launch) (i : Instr) {go : Tx s0 → Tx s0} {go' : Tx s1 → Tx s1}
    (h : ∀ b : Tx s0, go' (b.refocus k F) = (go b).refocus k F) :
    (a.refocus k F).shuttled t p l i go' = ((a.shuttled t p l i go).1.refocus k F, (a.shuttled t p l i go).2) := by
  unfold Tx.shuttled
  dsimp only
  rw [h, refocus_sys, shuttlesOk_aimed, refocus_raise]
  split
  · rfl
  · split
    · rfl
    · cases shuttlesOk a.sys p l ((form i t.hints).pops t.hints) (form i t.hints).pushes <;> simp

theorem Tx.refocus_laneStep (t : Thread) (p : Panel) (l : Launch) (fm : Form) (ok : Bool) (f : LaneIn → LaneOut) :
    laneStep (a.refocus k F) t p l fm ok f = ((laneStep a t p l fm ok f).1.refocus k F, (laneStep a t p l fm ok f).2) := by
  unfold laneStep
  dsimp only
  rw [refocus_sys, shuttlesOk_aimed, refocus_raise]
  simp only [refocus_readSrcs, Sys.aimed_phaseOf]
  split
  · rfl
  · split
    · rfl
    · split
      · rfl
      · split
        · simp
        · cases shuttlesOk a.sys p l (fm.pops t.hints) fm.pushes with
          | trap n => simp
          | stall => rfl
          | ok => cases fm.pushes <;> simp

end

end Sys2Proof.Machine

/-! ### A step that begins no run-ahead (R432)

Of all that one thread's word does, only a page fault marks a panel to begin running ahead. -/

namespace Sys2Proof.Machine

variable {s0 : State}

/-- Where no panel was about to run ahead, none is. -/
def Tx.Lulls (b a : Tx s0) : Prop := a.sys.Calm → b.sys.Calm

open Tx (Quiet Lulls Drained)

namespace Tx.Lulls

theorem refl (a : Tx s0) : Lulls a a := id

theorem trans {a b c : Tx s0} (h : Lulls c b) (k : Lulls b a) : Lulls c a := h ∘ k

theorem of_panels {a b : Tx s0} (h : b.sys.panels = a.sys.panels) : Lulls b a := fun hc q hq => hc q (h ▸ hq)

theorem of_quiet {a b : Tx s0} (h : Quiet b a) : Lulls b a := of_panels h.panels

theorem of_drained {a b : Tx s0} (h : Drained b a) : Lulls b a := of_panels (h.field (·.panels) fun _ => rfl)

theorem updPart (a : Tx s0) (n : Nat) (f : Partition → Partition) : Lulls (a.mod (updPart n f)) a :=
  of_panels (updPart_field (·.panels) (fun _ => rfl) n f a.sys)

theorem mod {f : Sys → Sys} (hf : ∀ y, y.Calm → (f y).Calm) (a : Tx s0) : Lulls (a.mod f) a := hf a.sys

theorem setThread (a : Tx s0) (g : Sys → Thread) : Lulls (a.mod fun y => y.setThread (g y)) a := of_panels rfl

theorem notice (a : Tx s0) (n : Notice) : Lulls (a.notice n) a := of_panels rfl

theorem ite {c : Prop} [Decidable c] {a b d : Tx s0} (ha : Lulls a d) (hb : Lulls b d) : Lulls (if c then a else b) d := by
  split
  · exact ha
  · exact hb

theorem each {α : Type} {f : Tx s0 → α → Tx s0} (hf : ∀ a x, Lulls (f a x) a) :
    ∀ (xs : List α) (a : Tx s0), Lulls (a.each xs f) a
  | [], a => .refl a
  | x :: xs, a => (each hf xs (f a x)).trans (hf a x)

end Tx.Lulls

/-- A panel changed in what its run-ahead does not see. -/
theorem Sys.Calm.setPanel {y : Sys} (h : y.Calm) {q : Panel} (hq : (q.ahead.any fun a => a.saved.isEmpty) = false) :
    (y.setPanel q).Calm := by
  intro p hp
  obtain ⟨x, hx, rfl⟩ := List.mem_map.mp hp
  split
  · exact hq
  · exact h x hx

theorem Sys.Calm.panel? {y : Sys} (h : y.Calm) {n : Nat} {p : Panel} (hp : y.panel? n = some p) :
    (p.ahead.any fun a => a.saved.isEmpty) = false := h p (mem_of_findKey hp)

theorem Tx.noticeDrop_lulls (a : Tx s0) (q : Partition) (va : Nat) : Lulls (a.noticeDrop q va) a := by
  unfold Tx.noticeDrop
  split
  · exact .notice _ _
  · exact .refl _

theorem Tx.walkNow_lulls (a : Tx s0) (part core va rights : Nat) : Lulls (a.walkNow part core va rights).2 a := by
  unfold Tx.walkNow
  split
  · exact .refl a
  · next q _ =>
    have hk := Lulls.of_quiet (a.rekeyWalk_quiet q va)
    generalize walk a.st q va = w
    generalize va / 65536 = page
    cases w with
    | hole => exact .of_panels rfl
    | bad => exact (Tx.noticeDrop_lulls _ _ _).trans hk
    | spoiled => exact .refl a
    | ok ad leaf =>
      dsimp only
      split
      · exact hk
      · have hs := (Lulls.of_quiet (Tx.setAD_quiet _ q ad (isWrite rights))).trans hk
        exact (Lulls.updPart _ part fun p => { p with tlb := Tlb.mk core page (BitVec.ofNat 64 leaf) (isWrite rights) ::
          (p.tlb.filter fun t => !(t.core == core && t.vpage == page)) }).trans hs

theorem Tx.virtAddr_lulls (a : Tx s0) (part va rights : Nat) : Lulls (a.virtAddr part va rights).2 a := by
  have hw := a.walkNow_lulls part 288 va rights
  unfold Tx.virtAddr
  split
  · exact .refl a
  · generalize a.walkNow part 288 va rights = r at hw ⊢
    generalize va % 65536 = off
    obtain ⟨_ | leaf, u⟩ := r
    · exact hw
    · dsimp only
      split
      · exact hw
      · exact (Lulls.of_quiet (Tx.rekey_quiet _ _ _)).trans hw

theorem Tx.engineAddr_lulls (a : Tx s0) (part panel core : Nat) (d : List Word) (off rights : Nat) :
    Lulls (a.engineAddr part panel core d off rights).2 a := by
  unfold Tx.engineAddr
  obtain ⟨stack, local_⟩ := Decl.place d off
  dsimp only
  have hw := a.walkNow_lulls part core (Decl.base d + local_) rights
  have hr (b : Tx s0) (hb : Lulls b a) (line key : Nat) : Lulls (b.rekey line key) a :=
    (Lulls.of_quiet (b.rekey_quiet line key)).trans hb
  generalize a.walkNow part core (Decl.base d + local_) rights = r at hw ⊢
  generalize (Decl.base d + local_) % 65536 = low
  generalize (Decl.base d + local_) / 65536 = page
  cases a.sys.part? part with
  | none => exact .refl a
  | some p =>
    cases a.sys.extentPage part panel d page with
    | some m =>
      dsimp only
      split
      · exact .refl a
      · exact hr a (.refl a) _ _
    | none =>
      dsimp only
      cases tlbHit a.sys p core page rights with
      | some l =>
        dsimp only
        split
        · exact .refl a
        · exact hr a (.refl a) _ _
      | none =>
        obtain ⟨_ | l, b⟩ := r
        · exact hw
        · dsimp only
          split
          · exact hw
          · exact hr b hw _ _

theorem Tx.postRecord_lulls (a : Tx s0) (part : Nat) (r : RecordInfo) (ticket : Nat) : Lulls (a.postRecord part r ticket) a :=
  (Lulls.notice _ _).trans (.updPart a part _)

theorem Tx.postTicket_lulls (a : Tx s0) (part : Nat) (r : RecordInfo) (n : TicketFor) (l : Nat) :
    Lulls (a.postTicket part r n l).2 a :=
  (Tx.postRecord_lulls _ _ _ _).trans (.updPart a part _)

theorem Tx.locate_lulls (a : Tx s0) (t : TackRef) (right : Nat) : Lulls (a.locate t right).2 a := by
  unfold Tx.locate
  cases t with
  | mem part panel d off =>
    have h := a.engineAddr_lulls part panel 288 d off right
    dsimp only
    split
    · exact .refl a
    · generalize a.engineAddr part panel 288 d off right = r at h ⊢
      obtain ⟨_ | ⟨x, key, m, n⟩, b⟩ := r <;> exact h
  | virt part va =>
    have h := a.virtAddr_lulls part va 0
    dsimp only
    generalize a.virtAddr part va 0 = r at h ⊢
    obtain ⟨_ | ⟨x, key, m, n⟩, b⟩ := r <;> exact h
  | scr panel addr =>
    dsimp only
    split
    · exact .refl a
    · split <;> exact .refl a

theorem Tx.tackWrite_lulls (a : Tx s0) (l : Loc) (w : Nat) : Lulls (a.tackWrite l w) a := by
  cases l with
  | mem _ _ _ _ => exact .of_quiet (Tx.homeWrite_quiet ..)
  | scr p addr =>
    refine (Lulls.of_quiet (Tx.imageData_quiet _ _ _ _)).trans fun h => ?_
    unfold Tx.mod
    dsimp only [Tx.sys]
    split
    · next q hq =>
      have hcalm := h.panel? hq
      exact h.setPanel (q := { q with scratch := Mem.putBytes q.scratch addr (leBytes 8 w) }) hcalm
    · exact h
  | lost _ _ | away | none => exact .refl a

theorem Tx.tackMoved_lulls (a : Tx s0) (addr : Nat) : Lulls (a.tackMoved addr) a := .of_panels rfl

theorem Tx.orphanEvent_lulls (a : Tx s0) (panel addr : Nat) : Lulls (a.orphanEvent panel addr) a := by
  have h0 := Lulls.notice a (.tackLost panel addr)
  unfold Tx.orphanEvent
  dsimp only
  split
  · exact h0
  · split
    · exact h0
    · split
      · exact h0
      · exact (Tx.postTicket_lulls _ _ _ _ _).trans (Lulls.trans (.of_panels rfl) h0)

theorem Tx.tackEvent_lulls (a : Tx s0) (t : TackRef) (e : TackEvent) : Lulls (a.tackEvent t e) a := by
  have hl := a.locate_lulls t rA
  unfold Tx.tackEvent
  generalize a.locate t rA = r at hl ⊢
  obtain ⟨loc, b⟩ := r
  refine Lulls.trans ?_ hl
  dsimp only
  split
  · exact b.orphanEvent_lulls _ _
  · exact .refl b
  · refine .ite (.notice _ _) ?_
    generalize e.apply (b.tackRead loc) = v
    generalize b.tackRead loc = w
    have h1 : Lulls (if v.2 = true then b.notice (.tackClamped t) else b) b := .ite (.notice _ _) (.refl b)
    generalize (if v.2 = true then b.notice (.tackClamped t) else b) = c at h1 ⊢
    have h2 : Lulls (if v.1 = w then c else c.tackWrite loc v.1) b := .ite h1 ((c.tackWrite_lulls loc v.1).trans h1)
    generalize (if v.1 = w then c else c.tackWrite loc v.1) = d at h2 ⊢
    refine .ite h2 ?_
    split
    · exact (d.tackMoved_lulls _).trans h2
    · exact h2

theorem Tx.tackEvents_lulls (a : Tx s0) (ts : List TackRef) (e : TackEvent) : Lulls (a.tackEvents ts e) a :=
  .each (fun b t => b.tackEvent_lulls t e) ts a

theorem Tx.writeCompletion_lulls (a : Tx s0) (l : Launch) (status : Nat) : Lulls (a.writeCompletion l status) a := by
  have hv := a.virtAddr_lulls l.part l.completion rW
  unfold Tx.writeCompletion
  dsimp only
  generalize a.virtAddr l.part l.completion rW = r at hv ⊢
  obtain ⟨_ | ⟨x, key, m, n⟩, b⟩ := r
  · exact .ite (.refl a) (.ite (a.postRecord_lulls _ _ _) ((b.postRecord_lulls _ _ _).trans hv))
  · refine .ite (.refl a) (.ite (a.postRecord_lulls _ _ _) (.ite ((b.postRecord_lulls _ _ _).trans hv) ?_))
    exact (Lulls.of_quiet ((Tx.homeWrite_quiet ..).trans (b.dropLine_quiet _))).trans hv

theorem Sys.Calm.dropLaunch {y : Sys} (h : y.Calm) (l : Launch) : ((y.dropLaunch l).evictObjects).Calm := by
  intro p hp
  have hpan : ((y.dropLaunch l).evictObjects).panels = y.panels.filter fun p => !(p.launch == l.key) :=
    congrArg (List.filter _) (updPart_field (·.panels) (fun _ => rfl) _ _ _)
  rw [hpan] at hp
  exact h p (List.mem_filter.mp hp).1

theorem Sys.Calm.beginEnd {y : Sys} (h : y.Calm) (l : Launch) (status : Nat) : (y.beginEnd l status).Calm := by
  intro p hp
  have hpan : (y.beginEnd l status).panels = y.panels.map fun p =>
      if p.launch = l.key then { p with phase := .stopping, ahead := none, batch := none } else p :=
    congrArg (List.map _) (updPart_field (·.panels) (fun _ => rfl) _ _ _)
  rw [hpan] at hp
  obtain ⟨q, hq, rfl⟩ := List.mem_map.mp hp
  split
  · rfl
  · exact h q hq

theorem Tx.idRetired_lulls (a : Tx s0) (part : Nat) (id : Word) : Lulls (a.idRetired part id) a := .of_panels rfl

theorem Tx.endLaunch_lulls (a : Tx s0) (l : Launch) (status : Nat) (release : Bool) : Lulls (a.endLaunch l status release) a := by
  unfold Tx.endLaunch
  have h1 : Lulls (if release then a.each (a.sys.cores.map (·.id)) fun tx c => tx.release c visAll else a) a :=
    .ite (.each (fun b c => .of_quiet (b.release_quiet c visAll)) _ a) (.refl a)
  generalize (if release then a.each (a.sys.cores.map (·.id)) fun tx c => tx.release c visAll else a) = b at h1 ⊢
  have h2 := (b.writeCompletion_lulls l status).trans h1
  have h3 : Lulls (if l.retireTack = 0 then b.writeCompletion l status
      else (b.writeCompletion l status).tackEvent (.virt l.part l.retireTack) .arrive) a :=
    .ite h2 ((Tx.tackEvent_lulls _ _ _).trans h2)
  dsimp only
  generalize (if l.retireTack = 0 then b.writeCompletion l status else _) = c at h3 ⊢
  have h4 : Lulls (c.mod fun s => (s.dropLaunch l).evictObjects) a :=
    (Lulls.mod (fun y h => h.dropLaunch l) c).trans h3
  generalize c.mod (fun s => (s.dropLaunch l).evictObjects) = d at h4 ⊢
  have h5 : Lulls (if d.sys.idInUse l.part l.id then d else d.idRetired l.part l.id) a :=
    .ite h4 ((d.idRetired_lulls _ _).trans h4)
  refine .ite (Lulls.trans ?_ h5) h5
  exact (Lulls.notice _ _).trans (.updPart _ _ _)

theorem Tx.finishEnd_lulls (a : Tx s0) (l : Launch) (status : Nat) : Lulls (a.finishEnd l status) a := by
  have abandon (b : Tx s0) (c : Cmd) : Lulls (b.abandonCmd c) b :=
    (Tx.tackEvents_lulls _ _ _).trans (.ite ((Tx.tackEvents_lulls _ _ _).trans (.of_drained (b.noteSuppressed_drained _ _)))
      (.of_drained (b.noteSuppressed_drained _ _)))
  exact (Tx.endLaunch_lulls _ _ _ _).trans ((Lulls.each abandon _ _).trans (.of_panels rfl))

theorem Tx.terminate_lulls (a : Tx s0) (launch status : Nat) : Lulls (a.terminate launch status) a := by
  unfold Tx.terminate
  split
  · exact .refl a
  · next l _ =>
    split
    · exact a.finishEnd_lulls _ _
    · have hd := Lulls.of_drained (a.drainStores_drained l)
      exact .ite ((Lulls.mod (fun y h => h.beginEnd _ _) _).trans hd) ((Tx.finishEnd_lulls _ _ _).trans hd)

end Sys2Proof.Machine

/-! ### The words that act on each thread alone (R125) -/

namespace Sys2Proof.Machine

variable {s0 s1 : State} {t : Thread} {p : Panel} {l : Launch}

open Tx (Lulls)

theorem Tx.trapEntry_lulls (a : Tx s0) (t : Thread) (l : Launch) (code : Byte) (value : Word) (pc : Nat) :
    Lulls (a.trapEntry t l code value pc) a := .ite (a.terminate_lulls _ _) (.of_panels rfl)

theorem Tx.suspend_lulls (a : Tx s0) (t : Thread) (p : Panel) (l : Launch) (code : Byte) (value : Word) (pc : Nat) (i : Info) :
    Lulls (a.suspend t p l code value pc i) a := by
  unfold Tx.suspend
  exact Lulls.trans (.setThread _ _) (a.postTicket_lulls _ _ _ _)

theorem Tx.endAhead_lulls (a : Tx s0) (panel : Nat) : Lulls (a.endAhead panel) a := by
  refine .mod (fun y h => ?_) a
  split
  · next q hq =>
    have hcalm := h.panel? hq
    refine h.setPanel ?_
    cases hx : q.ahead with
    | none => rfl
    | some x => simpa [hx] using hcalm
  · exact h

/-- One thread's word leaves no panel about to run ahead, but for its own panel after a page fault that it begins with. -/
def Tx.Rested (b a : Tx s0) (p : Panel) : Prop :=
  b.sys.Calm ∨ (p.ahead = none ∧ ∃ x, b.sys.panels = (a.sys.setPanel { p with ahead := some x }).panels)

theorem Tx.Rested.of_lulls {a b : Tx s0} (h : Lulls b a) (ha : a.sys.Calm) : b.Rested a p := .inl (h ha)

theorem Tx.Rested.keep {a b c : Tx s0} (hb : b.Rested a p) (h : c.sys.panels = b.sys.panels) : c.Rested a p :=
  hb.imp (Lulls.of_panels h) fun ⟨hn, x, hx⟩ => ⟨hn, x, h.trans hx⟩

theorem Tx.pageFault_rested (a : Tx s0) (t : Thread) (l : Launch) (value : Word) (i : Info) (ha : a.sys.Calm)
    (hp : a.sys.panel? t.panel = some p) : (a.pageFault t p l value i).Rested a p := by
  cases hx : p.ahead with
  | none => exact .inr ⟨hx, _, rfl⟩
  | some x =>
    refine .inl (Sys.Calm.setPanel (y := a.sys) ha ?_)
    have hcalm := ha.panel? hp
    have hsaved (page : Nat) (r : FaultRec) : (x.addPage page r).saved = x.saved := by
      unfold RunAhead.addPage
      split <;> rfl
    simp only [hx, Option.getD_some, Option.any_some] at hcalm ⊢
    split <;> rwa [hsaved]

theorem Tx.raise_rested (a : Tx s0) (code : Byte) (value : Word) (i : Info) (ha : a.sys.Calm)
    (hh : a.sys.homeOf t = some (p, l)) : (a.raise t code value i).Rested a p := by
  obtain ⟨hp, -⟩ := Sys.homeOf_some hh
  have fault := a.pageFault_rested t l value i ha hp
  unfold Tx.raise Tx.raiseAt
  rw [hh]
  dsimp only
  split
  · split
    · exact fault
    · exact .of_lulls (a.endAhead_lulls _) ha
  · split
    · split
      · exact fault
      · exact .of_lulls (a.suspend_lulls _ _ _ _ _ _ _) ha
    · exact .of_lulls ((Tx.trapEntry_lulls _ _ _ _ _ _).trans (.ite (.notice _ _) (.refl a))) ha

theorem Tx.port_rested (a : Tx s0) (slot off size al rights : Nat) (bin : Bool) (ha : a.sys.Calm)
    (hh : a.sys.homeOf t = some (p, l)) : (a.port t p l slot off size al rights bin).2.Rested a p := by
  unfold Tx.port
  split
  · exact .inl ha
  · exact a.raise_rested _ _ _ ha hh
  · exact .of_lulls (.of_panels rfl) ha
  · exact .of_lulls (.of_panels rfl) ha

theorem Tx.updYoke_panels (a : Tx s0) (p : Panel) (f : Yoke → Yoke) : (a.updYoke p f).sys.panels = a.sys.panels := by
  unfold Tx.updYoke Tx.mod
  dsimp only [Tx.sys]
  split <;> rfl

theorem readSrcs_panels (t : Thread) (p : Panel) :
    ∀ (os : List Opnd) (a : Tx s0), (readSrcs a t p os).2.sys.panels = a.sys.panels
  | [], _ => rfl
  | o :: os, a => by
    unfold readSrcs
    split
    · exact readSrcs_panels t p os a
    · split
      · exact (readSrcs_panels t p os _).trans (a.updYoke_panels p _)
      · exact readSrcs_panels t p os a

theorem Tx.poisonFaulted_panels (a : Tx s0) (t : Thread) (dst : List Nat) :
    (a.poisonFaulted t dst).sys.panels = a.sys.panels := by
  unfold Tx.poisonFaulted
  split
  · split <;> rfl
  · rfl

theorem Tx.prefetch_lulls (a : Tx s0) (core level : Nat) (travelling : Bool) (x : Access) :
    Lulls (a.prefetch core level travelling x) a := by
  unfold Tx.prefetch
  split
  · exact .refl a
  · exact .ite (.refl a) (.ite (.of_panels rfl) (.ite (.of_quiet (Tx.fillL2_quiet ..)) (.of_quiet (Tx.fillL1_quiet ..))))

theorem Tx.aheadLoad_rested (a : Tx s0) (fm : Form) (slot off size : Nat) (signed : Bool) (ha : a.sys.Calm)
    (hh : a.sys.homeOf t = some (p, l)) : (a.aheadLoad t p l fm slot off size signed).Rested a p := by
  unfold Tx.aheadLoad
  dsimp only
  split
  · exact .of_lulls (.of_panels rfl) ha
  · split
    · split
      · exact .of_lulls (.of_panels rfl) ha
      · exact .of_lulls (.ite (.of_panels rfl) (.of_panels rfl)) ha
    · exact .of_lulls (.of_panels rfl) ha
    · split
      · exact (a.raise_rested _ _ _ ha hh).keep rfl
      · exact a.raise_rested _ _ _ ha hh
    · exact .of_lulls (.of_panels rfl) ha

theorem Tx.shuttled_rested (a : Tx s0) (i : Instr) {go : Tx s0 → Tx s0} (ha : a.sys.Calm) (hh : a.sys.homeOf t = some (p, l))
    (hgo : (go a).Rested a p) : (a.shuttled t p l i go).1.Rested a p := by
  unfold Tx.shuttled
  dsimp only
  split
  · exact hgo
  · split
    · exact a.raise_rested _ _ _ ha hh
    · split
      · exact a.raise_rested _ _ _ ha hh
      · exact .inl ha
      · exact hgo

/-- Without a shuttle among its operands a thread never stalls. -/
theorem Tx.shuttled_goes (a : Tx s0) {i : Instr} {go : Tx s0 → Tx s0} (hpop : (form i t.hints).pops t.hints = [])
    (hpush : (form i t.hints).pushes = []) : (a.shuttled t p l i go).2 = true := by
  simp [Tx.shuttled, hpop, hpush]

theorem laneStep_goes (a : Tx s0) {fm : Form} {ok : Bool} {f : LaneIn → LaneOut} (hpop : fm.pops t.hints = [])
    (hpush : fm.pushes = []) : (laneStep a t p l fm ok f).2 = true := by
  unfold laneStep
  dsimp only
  rw [hpop, hpush]
  split
  · rfl
  · split
    · rfl
    · split <;> rfl

theorem laneStep_rested (a : Tx s0) (fm : Form) (ok : Bool) (f : LaneIn → LaneOut) (ha : a.sys.Calm)
    (hh : a.sys.homeOf t = some (p, l)) : (laneStep a t p l fm ok f).1.Rested a p := by
  unfold laneStep
  dsimp only
  split
  · exact a.raise_rested _ _ _ ha hh
  · split
    · exact .of_lulls (.of_panels rfl) ha
    · split
      · exact .of_lulls (.of_panels rfl) ha
      · split
        · exact a.raise_rested _ _ _ ha hh
        · split
          · exact a.raise_rested _ _ _ ha hh
          · exact .inl ha
          · split
            · exact ((Tx.Rested.of_lulls (.of_panels (readSrcs_panels t p _ a)) ha).keep (Tx.updYoke_panels _ _ _)).keep rfl
            · exact (Tx.Rested.of_lulls (.of_panels (readSrcs_panels t p _ a)) ha).keep rfl

end Sys2Proof.Machine

/-! ### Each such word as a turn of one thread -/

namespace Sys2Proof.Machine

variable {s0 s1 : State} {t : Thread} {p : Panel} {l : Launch}

open Tx (Lulls)

/-- What a word does for one thread, and whether the threads after it may still be served. -/
abbrev Turn := ∀ {s0 : State}, Tx s0 → Thread → Panel → Launch → Tx s0 × Bool

/-- A turn does not see the rest of the stitch, stalls at shuttles alone, and begins a run-ahead at most in its own panel. -/
structure Turn.Lone (f : Turn) (i : Instr) : Prop where
  blind : ∀ {s0 s1 : State} (a : Tx s0) (k : s1.memOk → s0.memOk) (F : List (Nat × Nat)) (t : Thread) (p : Panel)
    (l : Launch), f (a.refocus k F) t p l = ((f a t p l).1.refocus k F, (f a t p l).2)
  goes : ∀ {s0 : State} (a : Tx s0) (t : Thread) (p : Panel) (l : Launch), (form i t.hints).pops t.hints = [] →
    (form i t.hints).pushes = [] → (f a t p l).2 = true
  rested : ∀ {s0 : State} (a : Tx s0) (t : Thread) (p : Panel) (l : Launch), a.sys.Calm → a.sys.homeOf t = some (p, l) →
    (f a t p l).1.Rested a p

/-- A word that runs such a turn for every thread of its stitch. -/
def TakesTurns (i : Instr) (x : State → Host.Outcome State Fault Refusal) : Prop :=
  ∃ f : Turn, f.Lone i ∧ ∀ s, x s = ((Tx.start s).eachThread f).done

theorem lane_takesTurns (i : Instr) (ok : Thread → Bool) (f : Launch → LaneIn → LaneOut) : TakesTurns i (aluOf i ok f) :=
  ⟨fun tx t p l => laneStep tx t p l (form i t.hints) (ok t) (f l), {
    blind a k F t p l := a.refocus_laneStep k F t p l _ _ _
    goes a _ _ _ := laneStep_goes a
    rested a _ _ _ := laneStep_rested a _ _ _ }, fun _ => rfl⟩

theorem load_takesTurns (i : Instr) (h o : BitVec 8) (size : Nat) (signed : Bool) :
    TakesTurns i (loadWord i h o size signed) := by
  refine ⟨_, ⟨fun a k F t p l => ?_, fun _ _ _ _ _ _ => rfl, fun a t p l ha hh => ?_⟩, fun _ => rfl⟩
  · dsimp only
    rw [Tx.refocus_raise, Tx.refocus_advance, Tx.refocus_aheadLoad, Tx.refocus_port]
    generalize a.port t p l _ _ _ _ _ _ = r
    obtain ⟨_ | x, b⟩ := r
    all_goals simp only [Tx.refocus_poisonFaulted, Tx.refocus_issueOp, Tx.ite_refocus]
  · dsimp only
    split
    · exact a.raise_rested _ _ _ ha hh
    · split
      · exact .of_lulls (.of_panels rfl) ha
      · split
        · exact a.aheadLoad_rested _ _ _ _ _ ha hh
        · have hport := a.port_rested (handleSlot (handleOf t p h)) (handleOff (handleOf t p h) + unitOffset t o * size) size
            size rRd false ha hh
          generalize a.port t p l _ _ _ _ _ _ = r at hport ⊢
          obtain ⟨_ | x, b⟩ := r
          · exact hport.keep (b.poisonFaulted_panels _ _)
          · exact hport.keep rfl

theorem Tx.issueOp_panels (a : Tx s0) (t : Thread) (l : Launch) (i : Instr) (kind : OpKind) (acc : Option Access) (dst : List Nat)
    (popped : Option (Nat × Word)) : (a.issueOp t l i kind acc dst popped).sys.panels = a.sys.panels := rfl

/-- The decode check and the predicate test that a memory word begins with. -/
theorem Tx.refocus_checked (a : Tx s0) (k : s1.memOk → s0.memOk) (F : List (Nat × Nat)) {c d : Prop} [Decidable c]
    [Decidable d] {r : Tx s0 × Bool} {r' : Tx s1 × Bool} (h : r' = (r.1.refocus k F, r.2)) :
    (if c then ((a.refocus k F).raise t tILLOP 0, true) else if d then ((a.refocus k F).advance t l, true) else r') =
      ((if c then (a.raise t tILLOP 0, true) else if d then (a.advance t l, true) else r).1.refocus k F,
        (if c then (a.raise t tILLOP 0, true) else if d then (a.advance t l, true) else r).2) := by
  rw [refocus_raise, h]
  split
  · rfl
  · split <;> rfl

theorem Tx.checked_goes (a : Tx s0) {c d : Prop} [Decidable c] [Decidable d] {r : Tx s0 × Bool} (h : r.2 = true) :
    (if c then (a.raise t tILLOP 0, true) else if d then (a.advance t l, true) else r).2 = true := by
  split
  · rfl
  · split
    · rfl
    · exact h

theorem Tx.checked_rested (a : Tx s0) (ha : a.sys.Calm) (hh : a.sys.homeOf t = some (p, l)) {c d : Prop} [Decidable c]
    [Decidable d] {r : Tx s0 × Bool} (h : r.1.Rested a p) :
    (if c then (a.raise t tILLOP 0, true) else if d then (a.advance t l, true) else r).1.Rested a p := by
  split
  · exact a.raise_rested _ _ _ ha hh
  · split
    · exact .of_lulls (.of_panels rfl) ha
    · exact h

theorem store_takesTurns (i : Instr) (h o : BitVec 8) (size : Nat) : TakesTurns i (storeWord i h o size) := by
  refine ⟨_, ⟨fun a k F t p l => a.refocus_checked k F ?_, fun a t p l hpop hpush => a.checked_goes ?_,
    fun a t p l ha hh => a.checked_rested ha hh ?_⟩, fun _ => rfl⟩
  · split
    · rfl
    · refine a.refocus_shuttled k F t p l i fun b => ?_
      dsimp only
      rw [Tx.refocus_port]
      generalize b.port t p l _ _ _ _ _ _ = r
      obtain ⟨_ | x, c⟩ := r
      · rfl
      · simp only [Tx.refocus_readSrcs, Tx.refocus_issueOp]
  · split
    · rfl
    · exact a.shuttled_goes hpop hpush
  · split
    · exact .of_lulls (.of_panels rfl) ha
    · refine a.shuttled_rested i ha hh ?_
      have hport := a.port_rested (handleSlot (handleOf t p h)) (handleOff (handleOf t p h) + unitOffset t o * size) size size rW
        false ha hh
      dsimp only
      generalize a.port t p l _ _ _ _ _ _ = r at hport ⊢
      obtain ⟨_ | x, b⟩ := r
      · exact hport
      · exact (hport.keep (readSrcs_panels t p ((form i t.hints).srcs t.hints) b)).keep (Tx.issueOp_panels ..)

theorem atom_takesTurns (i : Instr) (op : AtomOp) (d h o : BitVec 8) (size : Nat) : TakesTurns i (atomWord i op d h o size) := by
  refine ⟨_, ⟨fun a k F t p l => a.refocus_checked k F ?_, fun a t p l hpop hpush => a.checked_goes ?_,
    fun a t p l ha hh => a.checked_rested ha hh ?_⟩, fun _ => rfl⟩
  · split
    · rfl
    · refine a.refocus_shuttled k F t p l i fun b => ?_
      dsimp only
      rw [Tx.refocus_port]
      generalize b.port t p l _ _ _ _ _ _ = r
      obtain ⟨_ | x, c⟩ := r
      · rfl
      · simp only [Tx.refocus_readSrcs, Tx.refocus_issueOp]
  · split
    · rfl
    · exact a.shuttled_goes hpop hpush
  · split
    · exact .of_lulls (.of_panels rfl) ha
    · refine a.shuttled_rested i ha hh ?_
      have hport := fun x => a.port_rested (handleSlot (handleOf t p h)) (handleOff (handleOf t p h) + unitOffset t o * size)
        size size rA x ha hh
      dsimp only
      generalize isAppend i l _ _ = x
      specialize hport x
      generalize a.port t p l _ _ _ _ _ _ = r at hport ⊢
      obtain ⟨_ | x, b⟩ := r
      · exact hport
      · exact (hport.keep (readSrcs_panels t p ((form i t.hints).srcs t.hints) b)).keep (Tx.issueOp_panels ..)

theorem Tx.refocus_setPanel (a : Tx s0) (k : s1.memOk → s0.memOk) (F : List (Nat × Nat)) (q : Panel) :
    ((a.refocus k F).mod fun s => s.setPanel q) = (a.mod fun s => s.setPanel q).refocus k F := rfl

/-- A scratchpad's panel is one of the tables. -/
theorem Sys.Calm.scratchPanel {y : Sys} (hc : y.Calm) (hh : y.homeOf t = some (p, l)) {q : Panel}
    (hq : y.scratchPanel p = some q) : (q.ahead.any fun a => a.saved.isEmpty) = false := by
  unfold Sys.scratchPanel at hq
  split at hq
  · exact hc.panel? hq
  · cases hq
    exact hc.panel? (Sys.homeOf_some hh).1

theorem Tx.setScratch_rested (a : Tx s0) (ha : a.sys.Calm) {q : Panel} (hq : (q.ahead.any fun a => a.saved.isEmpty) = false)
    (os : List Opnd) (m : List Host.Cell) : ((readSrcs a t p os).2.mod fun s => s.setPanel { q with scratch := m }).Rested a p :=
  .inl (Sys.Calm.setPanel (Lulls.of_panels (readSrcs_panels t p os a) ha) hq)

theorem scratch_takesTurns (i : Instr) (h o : BitVec 8) (size : Nat) (store : Bool) :
    TakesTurns i (scratchWord i h o size store) := by
  refine ⟨_, ⟨fun a k F t p l => a.refocus_checked k F ?_, fun a t p l hpop hpush => a.checked_goes ?_,
    fun a t p l ha hh => a.checked_rested ha hh ?_⟩, fun _ => rfl⟩
  · split
    · rw [Tx.refocus_raise]
    · split
      · rfl
      · refine a.refocus_shuttled k F t p l i fun b => ?_
        dsimp only
        rw [Tx.refocus_sys, Sys.aimed_scratchPanel]
        cases b.sys.scratchPanel p with
        | none => exact Tx.refocus_raise ..
        | some q =>
          dsimp only
          generalize handleOf t p h + unitOffset t o * size = addr
          split
          · rfl
          · cases scratchTrap q.scratchLen addr size with
            | some c => exact Tx.refocus_raise ..
            | none =>
              cases store with
              | false => exact Tx.ite_refocus (b.advance _ l) k F (b.issueOp t l i _ none _)
              | true =>
                cases (touched addr size).find? q.stags.contains with
                | some w => exact Tx.refocus_raise ..
                | none => simp only [Tx.refocus_readSrcs, Tx.refocus_setPanel, Tx.refocus_issueOp, if_true]
  · split
    · rfl
    · split
      · rfl
      · exact a.shuttled_goes hpop hpush
  · split
    · exact a.raise_rested _ _ _ ha hh
    · split
      · exact .of_lulls (.of_panels rfl) ha
      · refine a.shuttled_rested i ha hh ?_
        dsimp only
        cases hq : a.sys.scratchPanel p with
        | none => exact a.raise_rested _ _ _ ha hh
        | some q =>
          have hcalm := ha.scratchPanel hh hq
          dsimp only
          generalize handleOf t p h + unitOffset t o * size = addr
          split
          · exact .of_lulls (.of_panels rfl) ha
          · split
            · exact a.raise_rested _ _ _ ha hh
            · split
              · split
                · exact a.raise_rested _ _ _ ha hh
                · exact (Tx.setScratch_rested a ha hcalm _ _).keep (Tx.issueOp_panels ..)
              · split
                · exact .of_lulls (.of_panels rfl) ha
                · exact .of_lulls (.of_panels (a.issueOp_panels ..)) ha

theorem pref_takesTurns (v h o : BitVec 8) : TakesTurns (.pref v h o) (execPref v h o) := by
  refine ⟨_, ⟨fun a k F t p l => ?_, fun _ _ _ _ _ _ => rfl, fun a t p l ha hh => ?_⟩, fun _ => rfl⟩
  · dsimp only
    rw [Tx.refocus_raise, Tx.refocus_advance, Tx.refocus_st, checkAccess_focusOn]
    cases checkAccess a.st (portOf p l t) (handleSlot (handleOf t p h)) (handleOff (handleOf t p h) + unitOffset t o * 128) 1 1
      rRd false
    all_goals simp only [Tx.refocus_prefetch, Tx.refocus_postWalk, Tx.refocus_advance, Tx.ite_refocus]
  · dsimp only
    split
    · exact a.raise_rested _ _ _ ha hh
    · split
      · exact .of_lulls (.of_panels rfl) ha
      · split
        · exact (Tx.Rested.of_lulls (a.prefetch_lulls _ _ _ _) ha).keep rfl
        · exact .of_lulls (.of_panels rfl) ha
        · exact .of_lulls (.of_panels rfl) ha
        · exact .of_lulls (.of_panels rfl) ha

end Sys2Proof.Machine

/-! ### A stitch is its first thread and then the rest (R125) -/

namespace Sys2Proof.Machine

variable {s0 s1 s : State} {i : Instr}

theorem TakesTurns.of_eq {x y : State → Host.Outcome State Fault Refusal} (h : ∀ s, x s = y s) (hy : TakesTurns i y) :
    TakesTurns i x := (funext h : x = y) ▸ hy

/-- Each arithmetic word is one shared operation (R115). -/
theorem exec_lane (h : (laneCheck i).isSome = true) : ∃ ok f, ∀ s, exec i s = aluOf i ok f s := by
  unfold laneCheck at h
  split at h
  all_goals cases h
  all_goals unfold exec
  all_goals exact ⟨_, _, fun _ => rfl⟩

/-- Each global access is a load or a store (R269, R270). -/
theorem exec_global (h : i.globalShape.isSome = true) :
    (∃ h o size signed, ∀ s, exec i s = loadWord i h o size signed s) ∨
      ∃ h o size, ∀ s, exec i s = storeWord i h o size s := by
  unfold Instr.globalShape at h
  split at h
  all_goals cases h
  all_goals unfold exec
  case h_1 | h_2 | h_3 | h_4 | h_5 | h_6 | h_7 => exact .inl ⟨_, _, _, _, fun _ => rfl⟩
  all_goals exact .inr ⟨_, _, _, fun _ => rfl⟩

theorem exec_scratch (h : i.scratchShape.isSome = true) :
    ∃ h o size store, ∀ s, exec i s = scratchWord i h o size store s := by
  unfold Instr.scratchShape at h
  split at h
  all_goals cases h
  all_goals unfold exec
  all_goals exact ⟨_, _, _, _, fun _ => rfl⟩

theorem exec_atom (h : i.atomShape.isSome = true) : ∃ op d h o size, ∀ s, exec i s = atomWord i op d h o size s := by
  unfold Instr.atomShape at h
  split at h
  all_goals cases h
  all_goals unfold exec
  all_goals exact ⟨_, _, _, _, _, fun _ => rfl⟩

theorem exec_pref (v h o : BitVec 8) (s : State) : exec (.pref v h o) s = execPref v h o s := by
  unfold exec
  rfl

/-- The words that act on each thread alone. -/
theorem exec_takesTurns (h : (laneCheck i).isSome = true ∨ i.globalShape.isSome = true ∨ i.scratchShape.isSome = true ∨
    i.atomShape.isSome = true ∨ ∃ v h o, i = .pref v h o) : TakesTurns i (exec i) := by
  rcases h with h | h | h | h | ⟨v, hd, o, rfl⟩
  · obtain ⟨ok, f, he⟩ := exec_lane h
    exact .of_eq he (lane_takesTurns i ok f)
  · rcases exec_global h with ⟨hd, o, size, signed, he⟩ | ⟨hd, o, size, he⟩
    · exact .of_eq he (load_takesTurns i hd o size signed)
    · exact .of_eq he (store_takesTurns i hd o size)
  · obtain ⟨hd, o, size, store, he⟩ := exec_scratch h
    exact .of_eq he (scratch_takesTurns i hd o size store)
  · obtain ⟨op, d, hd, o, size, he⟩ := exec_atom h
    exact .of_eq he (atom_takesTurns i op d hd o size)
  · exact .of_eq (exec_pref v hd o) (pref_takesTurns v hd o)

/-! #### Walks that hold a stitch back -/

/-- Walks that a stitch has asked for and waits for. -/
def Tx.newWalks (before after : Tx s0) : List Walk :=
  after.sys.walks.filter fun w => w.pref.isNone && !before.sys.walks.contains w

/-- The threads keep what they did where none waits, or where the step has stopped. -/
theorem Tx.orWalks_after {a b : Tx s0} (h : a.newWalks b = [] ∨ b.halt.isSome = true) : a.orWalks b = b := by
  refine if_pos ?_
  rcases h with h | h
  · change ((a.newWalks b).isEmpty || b.halt.isSome) = true
    rw [h]
    rfl
  · rw [h, Bool.or_true]

theorem Tx.orWalks_before {a b : Tx s0} (h : ¬ (a.newWalks b = [] ∨ b.halt.isSome = true)) :
    (a.orWalks b).halt = a.halt ∧ (a.orWalks b).sys.walks = a.sys.walks ++ a.newWalks b := by
  have hc : ¬ ((a.newWalks b).isEmpty || b.halt.isSome) = true := by
    simpa only [Bool.or_eq_true, List.isEmpty_iff] using h
  have he : a.orWalks b = _ := if_neg hc
  rw [he]
  exact ⟨rfl, rfl⟩

/-- If the walks are what they were, nobody waits. -/
theorem Tx.newWalks_of_walks {a b : Tx s0} (h : (a.orWalks b).sys.walks = a.sys.walks) :
    a.newWalks b = [] ∨ b.halt.isSome = true := by
  by_contra hn
  rw [(Tx.orWalks_before hn).2] at h
  exact hn (.inl (List.append_right_eq_self.mp h))

/-! #### Panels that begin to run ahead -/

/-- A panel of this key runs ahead, or has just faulted. -/
def Sys.AheadAt (y : Sys) (n : Nat) : Prop := ∀ q ∈ y.panels, q.key = n → q.ahead.isSome = true

theorem Sys.AheadAt.setPanel {y : Sys} {n : Nat} (h : y.AheadAt n) {p : Panel} (hp : p.ahead.isSome = true) :
    (y.setPanel p).AheadAt n := by
  intro q hq hn
  obtain ⟨x, hx, rfl⟩ := List.mem_map.mp hq
  split at hn
  · rwa [if_pos ‹_›]
  · rw [if_neg ‹_›]
    exact h x hx hn

theorem Sys.aheadAt_setPanel (y : Sys) {p : Panel} (hp : p.ahead.isSome = true) : (y.setPanel p).AheadAt p.key := by
  intro q hq hn
  rw [mem_putKey_self hq hn]
  exact hp

/-- `b` comes from `a` in that some panels have begun to run ahead. -/
structure Tx.Began (b a : Tx s0) : Prop where
  halt : b.halt = a.halt
  walks : b.sys.walks = a.sys.walks
  keys : b.sys.panels.map (·.key) = a.sys.panels.map (·.key)
  ahead : ∀ n, a.sys.AheadAt n → b.sys.AheadAt n

namespace Tx.Began

theorem refl (a : Tx s0) : Began a a := ⟨rfl, rfl, rfl, fun _ => id⟩

theorem trans {a b c : Tx s0} (h : Began c b) (k : Began b a) : Began c a :=
  ⟨h.halt.trans k.halt, h.walks.trans k.walks, h.keys.trans k.keys, fun n => h.ahead n ∘ k.ahead n⟩

theorem each {α : Type} {f : Tx s0 → α → Tx s0} (hf : ∀ a x, Began (f a x) a) :
    ∀ (xs : List α) (a : Tx s0), Began (a.each xs f) a
  | [], a => .refl a
  | x :: xs, a => (each hf xs (f a x)).trans (hf a x)

end Tx.Began

theorem Sys.foldl_sameBut {α : Type} {g : Sys → α → Sys} (h : ∀ y x, (g y x).SameBut y) : ∀ (xs : List α) (y : Sys),
    (xs.foldl g y).SameBut y
  | [], y => .refl y
  | x :: xs, y => (Sys.foldl_sameBut h xs (g y x)).trans (h y x)

theorem Tx.beginAhead_began (a : Tx s0) : a.beginAhead.Began a := by
  refine .each (fun b p => ?_) _ a
  split
  · next x l _ _ =>
    dsimp only
    have hsame (ts : List Thread) (q : Panel) :=
      Sys.foldl_sameBut (g := fun y t => y.setThread { t.past (y.nmapOf l) with repidx := 0, hints := Hints.empty })
        (fun y t => .setThread y _) ts (b.sys.setPanel q)
    refine ⟨rfl, (hsame _ _).field (·.walks) fun _ => rfl, ?_, fun n hn => ?_⟩
    · refine ((hsame _ _).field (fun y => y.panels.map (·.key)) fun _ => rfl).trans ?_
      exact putKey_keys Panel.key _ _
    · have hset := hn.setPanel (p := { p with ahead := some { x with
        saved := (b.sys.threadsOf p.key).map fun t => { t with poisonV := [], poisonP := 0 }, savedMasks := p.masks } }) rfl
      intro q hq
      exact hset q (((hsame _ _).field (·.panels) fun _ => rfl) ▸ hq)
  · exact .refl b

/-- If no panel's run-ahead is other than it was, the first thread has begun none. -/
theorem Tx.Rested.calm {a b : Tx s0} {p : Panel} {n : Nat} (hb : b.Rested a p) (hp : a.sys.panel? n = some p)
    (h : b.beginAhead.sys.panels.map (·.ahead) = a.sys.panels.map (·.ahead)) : b.sys.Calm := by
  rcases hb with hc | ⟨hnone, x, hx⟩
  · exact hc
  · have hbegan := b.beginAhead_began
    have hkeys : b.beginAhead.sys.panels.map (·.key) = a.sys.panels.map (·.key) := by
      rw [hbegan.keys, hx]
      exact putKey_keys Panel.key _ _
    have hat : b.beginAhead.sys.AheadAt p.key := hbegan.ahead p.key fun q hq =>
      Sys.aheadAt_setPanel a.sys (p := { p with ahead := some x }) rfl q (hx ▸ hq)
    obtain ⟨j, hj, hpj⟩ := List.getElem_of_mem (mem_of_findKey hp)
    have hlen : b.beginAhead.sys.panels.length = a.sys.panels.length := by
      simpa only [List.length_map] using congrArg List.length hkeys
    have hj' : j < b.beginAhead.sys.panels.length := hlen ▸ hj
    have hk : (b.beginAhead.sys.panels[j]'hj').key = p.key := by
      have := congrArg (·[j]?) hkeys
      simpa [hj, hj', hpj] using this
    have ha : (b.beginAhead.sys.panels[j]'hj').ahead = none := by
      have := congrArg (·[j]?) h
      simpa [hj, hj', hpj, hnone] using this
    have := hat _ (List.getElem_mem hj') hk
    rw [ha] at this
    cases this

/-! #### Turns -/

variable {f : Turn}

theorem Turn.Lone.serve (hf : f.Lone i) (a : Tx s0) (k : s1.memOk → s0.memOk) (F : List (Nat × Nat)) (more : Bool)
    (id : Nat × Nat) :
    Tx.serve f (a.refocus k F, more) id = ((Tx.serve f (a, more) id).1.refocus k F, (Tx.serve f (a, more) id).2) := by
  unfold Tx.serve
  dsimp only
  rw [Tx.refocus_sys, Sys.aimed_threadAt]
  cases more with
  | false => rfl
  | true =>
    cases a.sys.threadAt id with
    | none => rfl
    | some x => exact hf.blind a k F x.1 x.2.1 x.2.2

theorem Turn.Lone.foldl (hf : f.Lone i) (k : s1.memOk → s0.memOk) (F : List (Nat × Nat)) :
    ∀ (ids : List (Nat × Nat)) (acc : Tx s0 × Bool), ids.foldl (Tx.serve f) (acc.1.refocus k F, acc.2)
      = ((ids.foldl (Tx.serve f) acc).1.refocus k F, (ids.foldl (Tx.serve f) acc).2)
  | [], _ => rfl
  | id :: ids, acc => by
    rw [List.foldl_cons, hf.serve]
    exact hf.foldl k F ids (Tx.serve f acc id)

theorem Tx.done_fault {a : Tx s0} {x : Fault} (h : a.done = .fault x) : a.halt = some x := by
  unfold Tx.done at h
  split at h
  · next h' => cases h; exact h'
  · cases h

theorem Tx.serve_none {g : Tx s0 → Thread → Panel → Launch → Tx s0 × Bool} {a : Tx s0} {id : Nat × Nat}
    (h : a.sys.threadAt id = none) : Tx.serve g (a, true) id = (a, true) := by
  simp [Tx.serve, h]

/-- A turn runs for the first thread: what it leaves, if nobody waits for a walk or has begun to run ahead. -/
theorem Turn.Lone.first (hf : f.Lone i) {id : Nat × Nat} {u : State} (hcalm : s.sys.Calm)
    (hahead : u.sys.panels.map (·.ahead) = s.sys.panels.map (·.ahead))
    (hform : ∀ t, s.sys.thread? id.1 id.2 = some t → (form i t.hints).pops t.hints = [] ∧ (form i t.hints).pushes = [])
    (hu : ((Tx.start (s.focusOn [id])).eachThread f).done = .next u) (hw : u.sys.walks = s.sys.walks) :
    ∃ r, Tx.serve f (Tx.start (s.focusOn [id]), true) id = (r, true) ∧ r.halt = none ∧ r.st = u := by
  let a := Tx.start (s.focusOn [id])
  obtain ⟨hhalt, hst⟩ := Tx.done_next hu
  have hrun : (Tx.start (s.focusOn [id])).eachThread f = (a.orWalks (Tx.serve f (a, true) id).1).beginAhead := Tx.eachThread_eq _ _
  rw [hrun] at hhalt hst
  generalize hr : Tx.serve f (a, true) id = r at hhalt hst
  have hwalks : (a.orWalks r.1).sys.walks = a.sys.walks := by
    rw [← (a.orWalks r.1).beginAhead_began.walks, Tx.sys, hst, hw]
    rfl
  rw [Tx.orWalks_after (Tx.newWalks_of_walks hwalks)] at hhalt hst
  rw [← hst] at hahead
  have hturn : r.2 = true ∧ r.1.sys.Calm := by
    cases hx : a.sys.threadAt id with
    | none =>
      rw [Tx.serve_none hx] at hr
      subst hr
      exact ⟨rfl, hcalm⟩
    | some x =>
      rw [Tx.serve_some hx] at hr
      subst hr
      obtain ⟨hthread, hhome⟩ := Sys.threadAt_some hx
      obtain ⟨hpop, hpush⟩ := hform x.1 hthread
      exact ⟨hf.goes a x.1 x.2.1 x.2.2 hpop hpush,
        (hf.rested a x.1 x.2.1 x.2.2 hcalm hhome).calm (Sys.homeOf_some hhome).1 hahead⟩
  obtain ⟨hmore, hrest⟩ := hturn
  rw [Tx.beginAhead_of_calm hrest] at hhalt hst
  exact ⟨r.1, Prod.ext rfl hmore, hhalt, hst⟩

/-- The turns of a stitch are those of its first thread and then those of the rest, from the state that gave. -/
theorem Turn.Lone.foldl_cons (hf : f.Lone i) {id : Nat × Nat} {rest : List (Nat × Nat)} {r : Tx (s.focusOn [id])}
    (hr : Tx.serve f (Tx.start (s.focusOn [id]), true) id = (r, true)) (hhalt : r.halt = none)
    (k : (s.focusOn (id :: rest)).memOk → (r.st.focusOn rest).memOk) :
    ((id :: rest).foldl (Tx.serve f) (Tx.start (s.focusOn (id :: rest)), true)).1
      = (rest.foldl (Tx.serve f) (Tx.start (r.st.focusOn rest), true)).1.refocus k (id :: rest) := by
  let same : (s.focusOn (id :: rest)).memOk → (s.focusOn [id]).memOk := fun h => h
  have hstart : Tx.start (s.focusOn (id :: rest)) = (Tx.start (s.focusOn [id])).refocus same (id :: rest) := rfl
  have hnext : r.refocus same (id :: rest) = (Tx.start (r.st.focusOn rest)).refocus k (id :: rest) := by
    obtain ⟨st, ok, halt⟩ := r
    cases hhalt
    rfl
  rw [List.foldl_cons, hstart, hf.serve, hr]
  dsimp only
  rw [hnext]
  exact congrArg Prod.fst (hf.foldl k (id :: rest) rest (Tx.start (r.st.focusOn rest), true))

/-- Nobody in the whole stitch waits if nobody in its rest does. -/
theorem Tx.orWalks_refocus {a b : Tx s0} {c : Tx s1} (k : s1.memOk → s0.memOk) (F : List (Nat × Nat))
    (hw : c.sys.walks = a.sys.walks) (h : a.newWalks b = [] ∨ b.halt.isSome = true) :
    c.orWalks (b.refocus k F) = b.refocus k F := by
  refine Tx.orWalks_after (h.imp_left fun hn => ?_)
  rw [← hn]
  unfold Tx.newWalks
  rw [hw]
  rfl

end Sys2Proof.Machine

namespace Sys2Proof

open Machine

/-- Settles O38: what a turn does is blind to the rest of the stitch, so the turns of the rest follow those of the first thread. -/
theorem stitchGoesThreadByThread : Obligations.StitchGoesThreadByThread := by
  unfold Obligations.StitchGoesThreadByThread
  intro i s u id rest hshape hcalm hahead hform hu hw
  obtain ⟨f, hf, he⟩ := exec_takesTurns hshape
  rw [he] at hu
  obtain ⟨r, hr, hhalt, rfl⟩ := hf.first hcalm hahead hform hu hw
  let k : (s.focusOn (id :: rest)).memOk → (r.st.focusOn rest).memOk := r.ok
  let c := Tx.start (r.st.focusOn rest)
  let d := (rest.foldl (Tx.serve f) (c, true)).1
  have hrest : exec i (r.st.focusOn rest) = (c.orWalks d).beginAhead.done := by
    rw [he, Tx.eachThread_eq]
    rfl
  have hfull (h : c.newWalks d = [] ∨ d.halt.isSome = true) :
      exec i (s.focusOn (id :: rest)) = (d.beginAhead.refocus k (id :: rest)).done := by
    rw [he, Tx.eachThread_eq, ← Tx.refocus_beginAhead,
      ← Tx.orWalks_refocus (a := c) (c := Tx.start (s.focusOn (id :: rest))) k _ hw.symm h, ← hf.foldl_cons hr hhalt k]
    rfl
  rw [hrest]
  refine ⟨fun v hv hwv => ?_, fun x hx => ?_⟩
  · obtain ⟨hnone, hst⟩ := Tx.done_next hv
    have hgo : c.newWalks d = [] ∨ d.halt.isSome = true := Tx.newWalks_of_walks (by
      rw [← (c.orWalks d).beginAhead_began.walks, Tx.sys, hst, hwv]
      rfl)
    rw [Tx.orWalks_after hgo] at hnone hst
    rw [hfull hgo, ← hst]
    exact Tx.done_of_halt (tx := d.beginAhead.refocus k (id :: rest)) hnone
  · have hstop := Tx.done_fault hx
    have hgo : c.newWalks d = [] ∨ d.halt.isSome = true := by
      by_contra hn
      rw [(c.orWalks d).beginAhead_began.halt, (Tx.orWalks_before hn).1] at hstop
      cases hstop
    rw [Tx.orWalks_after hgo] at hstop
    rw [hfull hgo]
    exact Tx.done_of_stopped (tx := d.beginAhead.refocus k (id :: rest)) hstop

end Sys2Proof

/-! ## Codes of a floating-point format (R159, R160, R218, R221) -/

namespace Sys2Proof.Machine

/-- A number by its sign and its magnitude. -/
def signed (neg : Bool) (n : Nat) : Int := if neg then -(n : Int) else n

/-- How two integers stand. -/
def Rel.ofInts (a b : Int) : Rel := if a < b then .lt else if a = b then .eq else .gt

namespace Rel

@[simp] theorem ofInts_self (a : Int) : ofInts a a = .eq := by simp [ofInts]

theorem ofInts_of_lt {a b : Int} (h : a < b) : ofInts a b = .lt := if_pos h

theorem ofInts_of_gt {a b : Int} (h : b < a) : ofInts a b = .gt := by
  rw [ofInts, if_neg (by omega), if_neg (by omega)]

theorem ofInts_eq_iff {a b : Int} : ofInts a b = .eq ↔ a = b := by
  unfold ofInts
  split_ifs <;> simp <;> omega

end Rel

namespace FVal

theorem rel_inf_inf (a b : Bool) {k : Nat} (hk : 0 < k) : (inf a).rel (inf b) = Rel.ofInts (signed a k) (signed b k) := by
  have hgt : Rel.ofInts k (-k) = .gt := Rel.ofInts_of_gt (by omega)
  have hlt : Rel.ofInts (-k) k = .lt := Rel.ofInts_of_lt (by omega)
  cases a <;> cases b <;> simp [rel, signed, hgt, hlt]

theorem lt_signed (b : Bool) {k n : Nat} (hn : n < k) : -(k : Int) < signed b n ∧ signed b n < k := by
  unfold signed
  split <;> omega

theorem rel_inf_fin (a b : Bool) {k n : Nat} (d : Nat) (hn : n < k) :
    (inf a).rel (fin b n d) = Rel.ofInts (signed a k) (signed b n) := by
  obtain ⟨hlo, hhi⟩ := lt_signed b hn
  cases a
  · exact (Rel.ofInts_of_gt hhi).symm
  · exact (Rel.ofInts_of_lt hlo).symm

theorem rel_fin_inf (a b : Bool) {k n : Nat} (d : Nat) (hn : n < k) :
    (fin a n d).rel (inf b) = Rel.ofInts (signed a n) (signed b k) := by
  obtain ⟨hlo, hhi⟩ := lt_signed a hn
  cases b
  · exact (Rel.ofInts_of_lt hhi).symm
  · exact (Rel.ofInts_of_gt hlo).symm

/-- Fractions of one denominator stand as their numerators. -/
theorem rel_fin_fin (a b : Bool) (n n' : Nat) {d : Nat} (hd : 0 < d) :
    (fin a n d).rel (fin b n' d) = Rel.ofInts (signed a n) (signed b n') := by
  have hscale : ∀ (c : Bool) (k : Nat), (if c then -((k * d : Nat) : Int) else ((k * d : Nat) : Int)) = signed c k * d := by
    intro c k
    cases c <;> simp [signed]
  have hpos : (0 : Int) < d := by exact_mod_cast hd
  simp only [rel, hscale, Rel.ofInts, Int.mul_lt_mul_right hpos, Int.mul_eq_mul_right_iff hpos.ne']

/-- A NaN stands nowhere (R218). -/
theorem rel_nan {a b : FVal} (h : (a.isNan || b.isNan) = true) : a.rel b = .un := by
  cases a <;> cases b <;> simp_all [isNan, rel]

theorem before_of_rel {x y : FVal} {a b : Int} (h : x.rel y = Rel.ofInts a b) :
    x.before y = decide (a < b ∨ a = b ∧ (x.isZero && y.isZero && x.sign && !y.sign) = true) := by
  rw [before, h]
  rcases Int.lt_trichotomy a b with hab | rfl | hab
  · simp [Rel.ofInts_of_lt hab, hab]
  · simp
  · simp [Rel.ofInts_of_gt hab]
    omega

end FVal

namespace FFmt

variable (f : FFmt)

/-- A code without its sign. -/
def mag (x : Nat) : Nat := x % 2 ^ (f.e + f.m)

/-- The magnitude of a code in steps of the smallest subnormal; infinity counts as the next normal would. -/
def steps (x : Nat) : Nat := if f.expOf x = 0 then f.manOf x else (2 ^ f.m + f.manOf x) * 2 ^ (f.expOf x - 1)

/-- A code is a NaN (R160). -/
def nanCode (x : Nat) : Bool := f.expOf x == 2 ^ f.e - 1 && f.manOf x != 0

theorem mag_lt (x : Nat) : f.mag x < 2 ^ (f.e + f.m) := Nat.mod_lt _ (Nat.two_pow_pos _)

theorem mag_eq (x : Nat) : f.mag x = f.expOf x * 2 ^ f.m + f.manOf x := by
  rw [mag, expOf, manOf, bits, Nat.add_comm f.e, Nat.pow_add, Nat.mod_mul, Nat.add_comm, Nat.mul_comm]

theorem manOf_lt (x : Nat) : f.manOf x < 2 ^ f.m := Nat.mod_lt _ (Nat.two_pow_pos _)

theorem expOf_lt (x : Nat) : f.expOf x < 2 ^ f.e := Nat.mod_lt _ (Nat.two_pow_pos _)

/-- A greater exponent is a greater magnitude, whatever the fractions are. -/
theorem steps_lt_of_expOf_lt {x y : Nat} (h : f.expOf x < f.expOf y) : f.steps x < f.steps y := by
  have hx := f.manOf_lt x
  have hpos := Nat.two_pow_pos f.m
  obtain ⟨k, hk⟩ : ∃ k, f.expOf y = k + 1 := ⟨f.expOf y - 1, by omega⟩
  have hy : 2 ^ f.m * 2 ^ k ≤ f.steps y := by
    rw [steps, if_neg (by omega), hk, Nat.add_sub_cancel]
    exact Nat.mul_le_mul_right _ (Nat.le_add_right _ _)
  refine Nat.lt_of_lt_of_le ?_ hy
  unfold steps
  split
  · exact Nat.lt_of_lt_of_le hx (Nat.le_mul_of_pos_right _ (Nat.two_pow_pos k))
  · next h0 =>
    obtain ⟨j, hj⟩ : ∃ j, f.expOf x = j + 1 := ⟨f.expOf x - 1, by omega⟩
    have hjk : 2 ^ (j + 1) ≤ 2 ^ k := Nat.pow_le_pow_right (by omega) (by omega)
    rw [hj, Nat.add_sub_cancel]
    calc (2 ^ f.m + f.manOf x) * 2 ^ j
      _ < (2 ^ f.m + 2 ^ f.m) * 2 ^ j := Nat.mul_lt_mul_of_pos_right (by omega) (Nat.two_pow_pos j)
      _ = 2 ^ f.m * 2 ^ (j + 1) := by ring
      _ ≤ 2 ^ f.m * 2 ^ k := Nat.mul_le_mul_left _ hjk

theorem mag_lt_of_expOf_lt {x y : Nat} (h : f.expOf x < f.expOf y) : f.mag x < f.mag y := by
  have hx := f.manOf_lt x
  have hm : (f.expOf x + 1) * 2 ^ f.m ≤ f.expOf y * 2 ^ f.m := Nat.mul_le_mul_right _ h
  rw [mag_eq, mag_eq]
  rw [Nat.add_mul] at hm
  omega

/-- Codes stand in the order of their magnitudes. -/
theorem steps_lt_iff {x y : Nat} : f.steps x < f.steps y ↔ f.mag x < f.mag y := by
  rcases Nat.lt_trichotomy (f.expOf x) (f.expOf y) with h | h | h
  · exact iff_of_true (f.steps_lt_of_expOf_lt h) (f.mag_lt_of_expOf_lt h)
  · rw [mag_eq, mag_eq, steps, steps, h]
    split
    · omega
    · rw [Nat.mul_lt_mul_right (Nat.two_pow_pos _)]
      omega
  · exact iff_of_false (Nat.not_lt.mpr (f.steps_lt_of_expOf_lt h).le) (Nat.not_lt.mpr (f.mag_lt_of_expOf_lt h).le)

theorem steps_eq_zero_iff {x : Nat} : f.steps x = 0 ↔ f.mag x = 0 := by
  have hz : f.steps 0 = 0 := by simp [steps, expOf, manOf, bits]
  have hm : f.mag 0 = 0 := Nat.zero_mod _
  have := f.steps_lt_iff (x := 0) (y := x)
  omega

/-! ### What a code stands for -/

theorem val_nan {x : Nat} (h : f.nanCode x = true) : f.val x = .nan (!(f.manOf x).testBit (f.m - 1)) := by
  simp only [nanCode, Bool.and_eq_true, beq_iff_eq, bne_iff_ne] at h
  rw [val, if_pos h.1, if_neg h.2]

theorem val_inf {x : Nat} (h : f.nanCode x = false) (he : f.expOf x = 2 ^ f.e - 1) : f.val x = .inf (f.negOf x) := by
  rw [val, if_pos he, if_pos (by simpa [nanCode, he] using h)]

theorem val_fin {x : Nat} (he : f.expOf x ≠ 2 ^ f.e - 1) : f.val x = .fin (f.negOf x) (f.steps x) (2 ^ (f.bias - 1 + f.m)) := by
  rw [val, if_neg he, steps]
  split <;> rfl

theorem val_isNan (x : Nat) : (f.val x).isNan = f.nanCode x := by
  cases h : f.nanCode x with
  | true => rw [f.val_nan h, FVal.isNan]
  | false =>
    by_cases he : f.expOf x = 2 ^ f.e - 1
    · simp [f.val_inf h he, FVal.isNan]
    · simp [f.val_fin he, FVal.isNan]

theorem val_isSig (x : Nat) : (f.val x).isSig = (f.nanCode x && !(f.manOf x).testBit (f.m - 1)) := by
  cases h : f.nanCode x with
  | true => rw [f.val_nan h, FVal.isSig, Bool.true_and]
  | false =>
    by_cases he : f.expOf x = 2 ^ f.e - 1
    · simp [f.val_inf h he, FVal.isSig]
    · simp [f.val_fin he, FVal.isSig]

/-- Flushing makes no NaN and takes none away. -/
theorem valFtz_nan {f : FFmt} (he : 0 < f.e) (ftz : Bool) (x : Nat) :
    (f.valFtz ftz x).isNan = f.nanCode x ∧ (f.valFtz ftz x).isSig = (f.val x).isSig := by
  unfold valFtz
  split
  · next hsub =>
    have hpow : 2 ≤ 2 ^ f.e := Nat.le_self_pow he.ne' 2
    have hn : f.nanCode x = false := by
      simp only [subnormal, Bool.and_eq_true, beq_iff_eq] at hsub
      simp [nanCode, hsub.2.1]
      omega
    rw [val_isSig, hn]
    exact ⟨rfl, rfl⟩
  · exact ⟨f.val_isNan x, rfl⟩

/-! ### How two codes stand -/

/-- The number of a code that is no NaN, in steps. -/
def signedSteps (x : Nat) : Int := signed (f.negOf x) (f.steps x)

/-- The place of a code in the order that puts -0 below +0 (R217). -/
def order (x : Nat) : Int := if f.negOf x then -(f.mag x : Int) - 1 else f.mag x

/-- Two numbers stand as their steps do (R218). -/
theorem rel_val {f : FFmt} (he : 0 < f.e) {x y : Nat} (hx : f.nanCode x = false) (hy : f.nanCode y = false) :
    (f.val x).rel (f.val y) = Rel.ofInts (f.signedSteps x) (f.signedSteps y) := by
  have hlt : ∀ {z w : Nat}, f.expOf z ≠ 2 ^ f.e - 1 → f.expOf w = 2 ^ f.e - 1 → f.steps z < f.steps w := by
    intro z w hz hw
    have := f.expOf_lt z
    exact f.steps_lt_of_expOf_lt (by omega)
  by_cases hex : f.expOf x = 2 ^ f.e - 1
  · by_cases hey : f.expOf y = 2 ^ f.e - 1
    · have hman : ∀ {z : Nat}, f.nanCode z = false → f.expOf z = 2 ^ f.e - 1 → f.manOf z = 0 := by
        intro z hz hez
        simpa [nanCode, hez] using hz
      have hpow : 2 ≤ 2 ^ f.e := Nat.le_self_pow he.ne' 2
      have hsame : f.steps y = f.steps x := by rw [steps, steps, hex, hey, hman hx hex, hman hy hey]
      have hpos : 0 < f.steps x := Nat.pos_of_ne_zero fun h0 => by
        have := f.mag_eq x ▸ f.steps_eq_zero_iff.mp h0
        have := Nat.two_pow_pos f.m
        simp_all
        omega
      rw [f.val_inf hx hex, f.val_inf hy hey, FVal.rel_inf_inf _ _ hpos, signedSteps, signedSteps, hsame]
    · rw [f.val_inf hx hex, f.val_fin hey, FVal.rel_inf_fin _ _ _ (hlt hey hex)]
      rfl
  · by_cases hey : f.expOf y = 2 ^ f.e - 1
    · rw [f.val_fin hex, f.val_inf hy hey, FVal.rel_fin_inf _ _ _ (hlt hex hey)]
      rfl
    · rw [f.val_fin hex, f.val_fin hey, FVal.rel_fin_fin _ _ _ _ (Nat.two_pow_pos _)]
      rfl

theorem val_isZero {x : Nat} (h : f.nanCode x = false) (he : 0 < f.e) : (f.val x).isZero = (f.mag x == 0) := by
  by_cases hex : f.expOf x = 2 ^ f.e - 1
  · have hpow : 2 ≤ 2 ^ f.e := Nat.le_self_pow he.ne' 2
    have hp := Nat.two_pow_pos f.m
    rw [f.val_inf h hex, FVal.isZero, mag_eq]
    · simp
      intro h0
      omega
    · simp
  · rw [f.val_fin hex, FVal.isZero, Bool.eq_iff_iff, beq_iff_eq, beq_iff_eq, steps_eq_zero_iff]

theorem val_sign {x : Nat} (h : f.nanCode x = false) : (f.val x).sign = f.negOf x := by
  by_cases hex : f.expOf x = 2 ^ f.e - 1
  · rw [f.val_inf h hex, FVal.sign]
  · rw [f.val_fin hex, FVal.sign]

/-- minimumNumber's order of two numbers is the order of their codes (R217). -/
theorem before_val {f : FFmt} (he : 0 < f.e) {x y : Nat} (hx : f.nanCode x = false) (hy : f.nanCode y = false) :
    (f.val x).before (f.val y) = decide (f.order x < f.order y) := by
  have hlt := f.steps_lt_iff (x := x) (y := y)
  have hgt := f.steps_lt_iff (x := y) (y := x)
  have hzx := f.steps_eq_zero_iff (x := x)
  have hzy := f.steps_eq_zero_iff (x := y)
  rw [FVal.before_of_rel (rel_val he hx hy), f.val_isZero hx he, f.val_isZero hy he, f.val_sign hx, f.val_sign hy,
    decide_eq_decide]
  unfold signedSteps signed order
  cases f.negOf x <;> cases f.negOf y <;> simp <;> omega

/-- A code is its magnitude and its sign. -/
theorem code_eq {x : Nat} (hx : x < 2 ^ f.width) : x = f.mag x + if f.negOf x then 2 ^ (f.e + f.m) else 0 := by
  have hd : x / 2 ^ (f.e + f.m) < 2 := by
    rw [Nat.div_lt_iff_lt_mul (Nat.two_pow_pos _), ← Nat.pow_succ']
    exact lt_of_lt_of_eq hx (by rw [width]; congr 1; omega)
  have hx := Nat.mod_add_div x (2 ^ (f.e + f.m))
  unfold negOf mag
  rw [Nat.testBit_eq_decide_div_mod_eq]
  rcases Nat.le_one_iff_eq_zero_or_eq_one.mp (Nat.lt_succ_iff.mp hd) with h | h
  · rw [h] at hx ⊢
    simpa using hx.symm
  · rw [h] at hx ⊢
    simpa using hx.symm

/-- Codes of one width with one place in the order are one code. -/
theorem order_inj {x y : Nat} (hx : x < 2 ^ f.width) (hy : y < 2 ^ f.width) (h : f.order x = f.order y) : x = y := by
  have ex := f.code_eq hx
  have ey := f.code_eq hy
  unfold order at h
  cases hnx : f.negOf x <;> cases hny : f.negOf y <;> simp [hnx, hny] at h ex ey <;> omega

theorem floatClass_lt_iff (x : Nat) : floatClass f.e f.m x < 8 ↔ f.nanCode x = false := by
  unfold floatClass nanCode expOf manOf bits
  simp
  split_ifs <;> simp_all

/-- Numbers are equal where their codes are, or where both are zeros (R193). -/
theorem rel_eq_iff (he : 0 < f.e) {x y : Nat} (hx : x < 2 ^ f.width) (hy : y < 2 ^ f.width) :
    ((f.val x).rel (f.val y) == .eq) = numEq f.e f.m x y := by
  have hcx := f.floatClass_lt_iff x
  have hcy := f.floatClass_lt_iff y
  rw [Bool.eq_iff_iff, numEq, beq_iff_eq, Bool.and_eq_true, Bool.and_eq_true, decide_eq_true_iff, decide_eq_true_iff, hcx, hcy]
  by_cases hn : f.nanCode x = true ∨ f.nanCode y = true
  · rw [FVal.rel_nan (by simpa [f.val_isNan] using hn)]
    rcases hn with h | h <;> simp [h]
  · simp only [not_or, Bool.not_eq_true] at hn
    have ex := f.code_eq hx
    have ey := f.code_eq hy
    have hlt := f.steps_lt_iff (x := x) (y := y)
    have hgt := f.steps_lt_iff (x := y) (y := x)
    have hzx := f.steps_eq_zero_iff (x := x)
    have hzy := f.steps_eq_zero_iff (x := y)
    rw [rel_val he hn.1 hn.2, Rel.ofInts_eq_iff, signedSteps, signedSteps]
    change _ ↔ _ ∧ (x == y || (f.mag x == 0 && f.mag y == 0)) = true
    have hmx := f.mag_lt x
    have hmy := f.mag_lt y
    cases hnx : f.negOf x <;> cases hny : f.negOf y <;> simp [hnx, hny, hn.1, hn.2, signed] at ex ey ⊢ <;> omega

/-- The class of R221. -/
theorem fclassOf_eq (x : Nat) : fclassOf f x = floatClass f.e f.m x := by
  have hpos := Nat.two_pow_pos f.m
  change _ = if f.expOf x = 2 ^ f.e - 1 then
      (if f.manOf x = 0 then (if f.negOf x then 0 else 7) else if (f.manOf x).testBit (f.m - 1) then 9 else 8)
    else if f.expOf x = 0 then (if f.manOf x = 0 then (if f.negOf x then 3 else 4) else if f.negOf x then 2 else 5)
    else if f.negOf x then 1 else 6
  unfold fclassOf
  by_cases hex : f.expOf x = 2 ^ f.e - 1
  · rw [if_pos hex]
    cases hn : f.nanCode x with
    | true =>
      have hman : f.manOf x ≠ 0 := by simpa [nanCode, hex] using hn
      rw [f.val_nan hn, if_neg hman]
      cases (f.manOf x).testBit (f.m - 1) <;> rfl
    | false =>
      have hman : f.manOf x = 0 := by simpa [nanCode, hex] using hn
      rw [f.val_inf hn hex, if_pos hman]
  · rw [f.val_fin hex, if_neg hex]
    by_cases he0 : f.expOf x = 0
    · by_cases hm0 : f.manOf x = 0 <;> simp [subnormal, steps, he0, hm0]
    · have hst : f.steps x ≠ 0 := by
        rw [steps, if_neg he0]
        exact (Nat.mul_pos (by omega) (Nat.two_pow_pos _)).ne'
      simp [subnormal, he0, hst]

end FFmt

/-! ### FP32 words (R159, R160) -/

theorem expOf_fp32 (x : Word) : fp32.expOf x.toNat = exp32 x := by
  simp [FFmt.expOf, bits, exp32, fp32, Nat.shiftRight_eq_div_pow]

theorem manOf_fp32 (x : Word) : fp32.manOf x.toNat = frac32 x := by
  simp [FFmt.manOf, frac32, fp32]

theorem nanCode_fp32 (x : Word) : fp32.nanCode x.toNat = nan32 x := by
  rw [FFmt.nanCode, expOf_fp32, manOf_fp32]
  rfl

theorem sig32_eq (x : Word) : (fp32.val x.toNat).isSig = sig32 x := by
  rw [FFmt.val_isSig, nanCode_fp32, sig32]
  have hbit : (x.toNat % 2 ^ 23).testBit 22 = x.getLsbD 22 := by rw [Nat.testBit_mod_two_pow]; rfl
  exact congrArg (fun b => nan32 x && !b) hbit

theorem isNan32_eq (x : Word) : (fp32.val x.toNat).isNan = nan32 x := by rw [FFmt.val_isNan, nanCode_fp32]

theorem negOf_fp32 (x : Word) : fp32.negOf x.toNat = x.msb := by
  rw [BitVec.msb_eq_getLsbD_last]
  rfl

theorem order_fp32 (x : Word) : fp32.order x.toNat = order32 x := by
  unfold FFmt.order order32
  rw [negOf_fp32]
  split
  · rfl
  · next h =>
    have hlt : x.toNat < 2 ^ 31 := by
      simpa [BitVec.msb_eq_decide] using h
    exact congrArg Nat.cast (Nat.mod_eq_of_lt hlt)

theorem order32_inj {x y : Word} (h : order32 x = order32 y) : x = y :=
  BitVec.eq_of_toNat_eq (fp32.order_inj x.isLt y.isLt (by rwa [order_fp32, order_fp32]))

/-- The sign bit of a word. -/
theorem signBit_fp32 (x : Word) : (x &&& 0x80000000).toNat = fp32.signBit x.msb := by
  rw [show (0x80000000 : Word) = BitVec.twoPow 32 31 from rfl, BitVec.and_twoPow, ← negOf_fp32]
  unfold FFmt.negOf FFmt.signBit
  change BitVec.toNat (if x.toNat.testBit 31 then _ else _) = if x.toNat.testBit 31 then _ else _
  split <;> rfl

/-- A subnormal operand under ftz (R161). -/
theorem flushed_toNat (h : Hints) (x : Word) :
    (flushed h x).toNat = if ftzOf h && fp32.subnormal x.toNat then fp32.signBit (fp32.negOf x.toNat) else x.toNat := by
  have hcode := fp32.code_eq x.isLt
  rw [FFmt.mag_eq, negOf_fp32, expOf_fp32, manOf_fp32] at hcode
  unfold flushed FFmt.subnormal
  rw [expOf_fp32, manOf_fp32, negOf_fp32, ← signBit_fp32]
  have hsign := signBit_fp32 x
  generalize x &&& 0x80000000 = z at hsign ⊢
  cases ftzOf h with
  | false => rfl
  | true =>
    by_cases he : exp32 x = 0
    · by_cases hf : frac32 x = 0
      · simpa [he, hf, hsign, FFmt.signBit] using hcode.symm
      · simp [he, hf]
    · simp [he]

/-- Under ftz the operands are flushed first (R217). -/
theorem minmax_ftz (maxi : Bool) (h : Hints) (x y : Word) :
    fp32.minmax maxi (ftzOf h) x.toNat y.toNat = fp32.minmax maxi false (flushed h x).toNat (flushed h y).toNat := by
  simp only [FFmt.minmax, ← flushed_toNat, Bool.false_and, Bool.false_eq_true, if_false]

/-- minimumNumber and maximumNumber of two words that are not flushed (R217). -/
theorem minmax_fp32 (maxi : Bool) (x y : Word) :
    fp32.minmax maxi false x.toNat y.toNat =
      ((pick32 x y (if maxi then order32 y ≤ order32 x else order32 x ≤ order32 y)).toNat,
        if sig32 x || sig32 y then 0x10 else 0) := by
  unfold FFmt.minmax pick32
  simp only [Bool.false_and, Bool.false_eq_true, if_false, isNan32_eq, sig32_eq]
  cases hx : nan32 x with
  | true => cases hy : nan32 y <;> rfl
  | false =>
    cases hy : nan32 y with
    | true => rfl
    | false => 
      have hbefore : ∀ {z w : Word}, nan32 z = false → nan32 w = false →
          (fp32.val z.toNat).before (fp32.val w.toNat) = decide (order32 z < order32 w) := by
        intro z w hz hw
        rw [FFmt.before_val (by decide) (by rwa [nanCode_fp32]) (by rwa [nanCode_fp32]), order_fp32, order_fp32]
      rw [hbefore hx hy, hbefore hy hx]
      by_cases he : x = y
      · simp [he, flagIf, fNV]
      · have hne : order32 x ≠ order32 y := fun h => he (order32_inj h)
        have hle : ∀ {a b : Int}, a ≠ b → decide (a < b) = decide (a ≤ b) := fun h => by
          rw [decide_eq_decide]
          omega
        rw [hle hne, hle hne.symm]
        cases maxi <;> simp [flagIf, fNV] <;> split <;> rfl

end Sys2Proof.Machine

/-! ## Arithmetic words of one thread (R97, R109, R115, R185) -/

namespace Sys2Proof.Machine

variable {s0 s : State} {t : Thread} {p : Panel} {l : Launch} {i : Instr}

/-! ### Operands -/

/-- An operand that names a register or z. -/
def Opnd.Plain (o : Opnd) : Prop := o.f < 240 ∨ o.f = 248

/-- Sources that name no shuttle are the numbers in their registers. -/
theorem readSrcs_plain (tx : Tx s0) (t : Thread) (p : Panel) : ∀ {os : List Opnd}, (∀ o ∈ os, o.Plain) →
    readSrcs tx t p os = (os.map fun o => t.getNat (o.regs t p), tx)
  | [], _ => rfl
  | o :: os, h => by
    have ih := readSrcs_plain tx t p fun x hx => h x (List.mem_cons_of_mem _ hx)
    unfold readSrcs
    rcases h o List.mem_cons_self with hlt | hz
    · rw [if_pos hlt, ih]
      rfl
    · rw [if_neg (by omega), if_neg (by omega), ih, List.map_cons, Opnd.regs, if_neg (by omega)]
      rfl

/-- A number in one register or in none. -/
theorem getNat_regs_one (t : Thread) (p : Panel) {o : Opnd} {f : BitVec 8} (hf : o.f = f.toNat) (hn : o.n = 1) (hp : o.pairs = 0)
    (ho : o.Plain) : t.getNat (o.regs t p) = (t.src32 p f o.st).toNat := by
  unfold Thread.src32
  rcases ho with hlt | hz
  · have hd : f ≠ 248 := fun e => by rw [e] at hf; simp at hf; omega
    rw [if_neg hd, Opnd.regs_one t p o hn hp hlt, Opnd.at, hf]
    simp [Thread.getNat]
  · have hd : f = 248 := BitVec.eq_of_toNat_eq (by rw [← hf]; simp; omega)
    rw [if_pos hd, Opnd.regs, if_neg (by omega)]
    rfl

/-- The registers of an operand of two registers. -/
theorem Opnd.regs_two (t : Thread) (p : Panel) (o : Opnd) (hn : o.n = 2) (hp : o.pairs = 0) (hf : o.f < 240) :
    o.regs t p = [physReg p.regs p.band t.rotbase (o.at t), physReg p.regs p.band t.rotbase (o.at t + 1)] := by
  simp [Opnd.regs, hf, Opnd.width, hp, hn, Thread.group, List.range_succ]

theorem getNat_regs_two (t : Thread) (p : Panel) {o : Opnd} {f : BitVec 8} (hf : o.f = f.toNat) (hn : o.n = 2) (hp : o.pairs = 0)
    (ho : o.f < 240) : t.getNat (o.regs t p) = (t.src64 p f o.st).toNat := by
  rw [Opnd.regs_two t p o hn hp ho, Opnd.at, hf, Thread.src64]
  simp only [Thread.getNat, List.foldr_cons, List.foldr_nil, BitVec.toNat_append]
  rw [Nat.mul_zero, Nat.add_zero, Nat.shiftLeft_eq, Nat.mul_comm _ (2 ^ 32), ← Nat.two_pow_add_eq_or_of_lt (BitVec.isLt _),
    Nat.add_comm]

/-- A result of one register. -/
theorem putNat_regs_one (t : Thread) (p : Panel) {o : Opnd} {f : BitVec 8} (hf : o.f = f.toNat) (hn : o.n = 1) (hp : o.pairs = 0)
    (hst : o.st = 1) (ho : o.Plain) (v : Nat) : t.putNat (o.regs t p) v = t.put32 p f (BitVec.ofNat 32 v) := by
  unfold Thread.put32
  rcases ho with hlt | hz
  · have hd : f ≠ 248 := fun e => by rw [e] at hf; simp at hf; omega
    rw [if_neg hd, Opnd.regs_one t p o hn hp hlt, Opnd.at, hf, hst]
    rfl
  · have hd : f = 248 := BitVec.eq_of_toNat_eq (by rw [← hf]; simp; omega)
    rw [if_pos hd, Opnd.regs, if_neg (by omega)]
    rfl

/-! ### A word whose checks pass -/

/-- What an arithmetic word is given where no operand names a shuttle. -/
def Thread.laneIn (t : Thread) (p : Panel) (i : Instr) (phi : Nat) : LaneIn :=
  ⟨((form i t.hints).srcs t.hints).map fun o => t.getNat (o.regs t p), t.getNat (t.dstRegs p i), t, p, phi⟩

/-- The thread with the result, the predicates and the flags of an arithmetic word. -/
def Thread.laneDone (t : Thread) (p : Panel) (i : Instr) (out : LaneOut) : Thread :=
  { t.putNat (t.dstRegs p i) out.d with
    p := (t.p &&& ~~~out.predMask) ||| (out.preds &&& out.predMask), fflags := t.fflags ||| out.flags }

theorem fieldOk_cases {regs f n : Nat} {sh z : Bool} (h : fieldOk regs f n sh z = true) :
    f < 240 ∨ (f < 248 ∧ sh = true) ∨ (f = 248 ∧ z = true) := by
  unfold fieldOk at h
  split at h
  · next hlt => exact .inl hlt
  · split at h
    · next hlt => exact .inr (.inl ⟨hlt, (Bool.and_eq_true_iff.mp h).1⟩)
    · simp only [Bool.and_eq_true, beq_iff_eq] at h
      exact .inr (.inr h)

/-- A source names a register, a shuttle where it may, or z where it may (R93, R97). -/
theorem formOk_srcs {regs : Nat} {fm : Form} {h : Hints} (hok : formOk regs fm h = true) :
    ∀ o ∈ fm.srcs h, o.f < 240 ∨ (o.f < 248 ∧ o.sh = true) ∨ (o.f = 248 ∧ o.z = true) := by
  unfold formOk at hok
  simp only [Bool.and_eq_true, List.all_eq_true] at hok
  obtain ⟨⟨⟨⟨⟨hops, -⟩, -⟩, -⟩, -⟩, hopd⟩ := hok
  intro o ho
  rcases List.mem_append.mp ho with ho | ho
  · exact fieldOk_cases (Bool.and_eq_true_iff.mp (hops o (List.mem_filter.mp ho).1)).1
  · split at ho
    · next c hc =>
      split at ho
      · cases ho
      · next hn =>
        rw [List.mem_singleton.mp ho]
        rw [hc] at hopd
        simp only [hopdOk, if_neg hn, Bool.and_eq_true] at hopd
        exact fieldOk_cases hopd.2
    · cases ho

/-- The operands of a word that may issue and that touches no shuttle. -/
theorem Thread.Ready.plain (hr : t.Ready p i) :
    (∀ o ∈ (form i t.hints).srcs t.hints, o.Plain) ∧ (∀ o, (form i t.hints).dst = some o → o.Plain) := by
  obtain ⟨hword, -, hpops, hpushes⟩ := hr
  constructor
  · intro o ho
    have hcases := formOk_srcs (Bool.and_eq_true_iff.mp hword).1 o ho
    have hnone := List.filterMap_eq_nil_iff.mp hpops o ho
    unfold Opnd.Plain
    split at hnone
    · cases hnone
    · omega
  · intro o ho
    have hle := wordOk_field_le hword (List.mem_of_find?_eq_some ho)
    have hsh : ¬(240 ≤ o.f ∧ o.f < 248) := fun hc => by simp [Form.pushes, ho, hc] at hpushes
    unfold Opnd.Plain
    omega

/-- An arithmetic word of one thread whose checks pass and that touches no shuttle. -/
theorem alu_ready (h : s.Alone t p l) (hr : t.Ready p i) {ok : Hints → Bool} {f : LaneIn → LaneOut} (hok : ok t.hints = true) :
    alu i ok f s = .next (s.going (t.laneDone p i (f (t.laneIn p i (s.sys.phaseOf p)))) l) := by
  have hsrcs := readSrcs_plain (Tx.start s) t p hr.plain.1
  obtain ⟨hword, hruns, hpops, hpushes⟩ := hr
  obtain ⟨hform, -⟩ := Bool.and_eq_true_iff.mp hword
  have hshuttle : shuttlesOk s.sys p l [] [] = .ok := rfl
  have hstep : laneStep (Tx.start s) t p l (form i t.hints) (ok t.hints) f =
      ((Tx.start s).advance (t.laneDone p i (f (t.laneIn p i (s.sys.phaseOf p)))) l, true) := by
    unfold laneStep
    simp only [hform, hok, hruns, aheadOf_alone h, hpops, hpushes, hsrcs, Tx.start_sys, hshuttle, List.isEmpty_nil, Bool.and_self,
      Bool.not_true, Bool.or_self, Bool.false_and, Bool.false_eq_true, if_false]
    rfl
  unfold alu
  rw [Tx.eachThread_alone h hstep (Tx.Settled.advance _ _ _)]
  rfl

/-! ### Its operands and its result -/

section

variable {k : Nat} {o : Opnd} {f : BitVec 8} {phi : Nat}

theorem Thread.Ready.laneIn_src32 (hr : t.Ready p i) (hk : ((form i t.hints).srcs t.hints)[k]? = some o) (hf : o.f = f.toNat)
    (hn : o.n = 1) (hp : o.pairs = 0) : (t.laneIn p i phi).x.getD k 0 = (t.src32 p f o.st).toNat := by
  have hplain := hr.plain.1 o (List.mem_of_getElem? hk)
  rw [Thread.laneIn, List.getD_eq_getElem?_getD, List.getElem?_map, hk]
  exact getNat_regs_one t p hf hn hp hplain

theorem Thread.Ready.laneIn_src64 (hr : t.Ready p i) (hk : ((form i t.hints).srcs t.hints)[k]? = some o) (hf : o.f = f.toNat)
    (hn : o.n = 2) (hp : o.pairs = 0) (hsh : o.sh = false) (hz : o.z = false) :
    (t.laneIn p i phi).x.getD k 0 = (t.src64 p f o.st).toNat := by
  obtain ⟨hword, -, -, -⟩ := hr
  have hcases := formOk_srcs (Bool.and_eq_true_iff.mp hword).1 o (List.mem_of_getElem? hk)
  rw [Thread.laneIn, List.getD_eq_getElem?_getD, List.getElem?_map, hk]
  exact getNat_regs_two t p hf hn hp (by simpa [hsh, hz] using hcases)

theorem Thread.Ready.putNat_dst (hr : t.Ready p i) (hdst : (form i t.hints).dst = some o) (hf : o.f = f.toNat)
    (hn : o.n = 1) (hp : o.pairs = 0) (hst : o.st = 1) (v : Nat) :
    t.putNat (t.dstRegs p i) v = t.put32 p f (BitVec.ofNat 32 v) := by
  rw [Thread.dstRegs, hdst]
  exact putNat_regs_one t p hf hn hp hst (hr.plain.2 o hdst) v

end

/-- A word that gives a number for d and flags (R185). -/
theorem Thread.laneDone_flagged (t : Thread) (p : Panel) (i : Instr) (x : Nat × BitVec 5) :
    t.laneDone p i (.flagged x) = { t.putNat (t.dstRegs p i) x.1 with fflags := t.fflags ||| x.2 } := by
  have hp : (t.p &&& ~~~0) ||| (0 &&& 0) = (t.putNat (t.dstRegs p i) x.1).p := by
    rw [Thread.putNat_p, show ~~~(0 : BitVec 8) = BitVec.allOnes 8 from rfl, BitVec.and_allOnes]
    exact BitVec.or_zero
  exact congrArg (fun q => { t.putNat (t.dstRegs p i) x.1 with p := q, fflags := t.fflags ||| x.2 }) hp

/-- One that raises none. -/
theorem Thread.laneDone_val (t : Thread) (p : Panel) (i : Instr) (v : Nat) :
    t.laneDone p i (.val v) = t.putNat (t.dstRegs p i) v := by
  have hf : t.fflags ||| 0 = (t.putNat (t.dstRegs p i) v).fflags := by
    rw [Thread.putNat_fflags]
    exact BitVec.or_zero
  exact (t.laneDone_flagged p i (v, 0)).trans (congrArg (fun q => { t.putNat (t.dstRegs p i) v with fflags := q }) hf)

/-- A compare writes one predicate (R210). -/
theorem Thread.laneDone_predOut (t : Thread) (p : Panel) {i : Instr} (hdst : (form i t.hints).dst = none) (n : BitVec 3) (v : Bool)
    (fl : BitVec 5) : t.laneDone p i (predOut n v fl) = { t.putP n v with fflags := t.fflags ||| fl } := by
  have hp : (t.p &&& ~~~predBit n.toNat) ||| ((if v then predBit n.toNat else 0) &&& predBit n.toNat) =
      if v then t.p ||| predBit n.toNat else t.p &&& ~~~predBit n.toNat := by
    generalize predBit n.toNat = b
    cases v with
    | false => simp
    | true =>
      apply BitVec.eq_of_getLsbD_eq
      intro j hj
      simp only [BitVec.getLsbD_or, BitVec.getLsbD_and, BitVec.getLsbD_not, hj, decide_true, Bool.true_and, if_true]
      cases b.getLsbD j <;> simp
  unfold Thread.laneDone predOut Thread.putP Thread.dstRegs
  rw [hdst]
  exact congrArg (fun q => { t with p := q, fflags := t.fflags ||| fl }) hp

/-- A word of two 32-bit sources. -/
theorem Thread.Ready.rrr {d a b : BitVec 8} {hs : HintSet} (hr : t.Ready p i) (hform : form i t.hints = rrr d a b 1 hs) (phi : Nat) :
    (t.laneIn p i phi).a = (t.src32 p a 2).toNat ∧ (t.laneIn p i phi).b = (t.src32 p b 3).toNat ∧
      ∀ v, t.putNat (t.dstRegs p i) v = t.put32 p d (BitVec.ofNat 32 v) :=
  ⟨hr.laneIn_src32 (o := aR a 1) (by rw [hform]; rfl) rfl rfl rfl, hr.laneIn_src32 (o := bR b 1) (by rw [hform]; rfl) rfl rfl rfl,
    hr.putNat_dst (o := dW d 1) (by rw [hform]; rfl) rfl rfl rfl rfl⟩

end Sys2Proof.Machine

/-! ## Floating-point words on special values (R160, R185, R216 to R218, R221) -/

namespace Sys2Proof.Machine

variable {s : State} {t : Thread} {p : Panel} {l : Launch} {i : Instr}

/-- FCLASS sets the bit of its operand's class (R221). -/
theorem exec_fclass {d a k : BitVec 8} {fmt : FFmt}
    (hfmt : (if k = 0 then fp32 else if k = 1 then fp64 else if k = 2 then fp16 else bf16) = fmt) (h : s.Alone t p l)
    (hr : t.Ready p (.fclass d a k)) (hok : laneOk (.fclass d a k) t p = true) {x y : Nat}
    (ha : (t.laneIn p (.fclass d a k) (s.sys.phaseOf p)).a = y) (hx : srcBits fmt y = x) :
    exec (.fclass d a k) s = .next (s.going (t.put32 p d (1#32 <<< floatClass fmt.e fmt.m x)) l) := by
  have hexec : exec (.fclass d a k) s =
      alu (.fclass d a k) (fun _ => k.toNat < 4) (fun r => .val (2 ^ fclassOf fmt (srcBits fmt r.a))) s := hfmt ▸ rfl
  have hk : decide (k.toNat < 4) = true := (Bool.and_eq_true_iff.mp hok).2
  have hbit : ∀ n, BitVec.ofNat 32 (2 ^ n) = 1#32 <<< n := fun n => by
    rw [← BitVec.twoPow_eq]
    exact BitVec.eq_of_toNat_eq (by simp)
  rw [hexec, alu_ready h hr hk, Thread.laneDone_val, ha, hx, FFmt.fclassOf_eq,
    hr.putNat_dst (o := dW d 1) rfl rfl rfl rfl rfl, hbit]

/-- FMIN and FMAX of two words (R217). -/
theorem exec_minmax {d a b : BitVec 8} {hs : HintSet} (maxi : Bool) (hform : form i t.hints = rrr d a b 1 hs)
    (hexec : exec i s = alu i always (fun r => .flagged (fp32.minmax maxi r.ftz r.a r.b)) s) (h : s.Alone t p l) (hr : t.Ready p i)
    {x y : Word} (hx : flushed t.hints (t.src32 p a 2) = x) (hy : flushed t.hints (t.src32 p b 3) = y) :
    exec i s = .next (s.going { t.put32 p d (pick32 x y (if maxi then order32 y ≤ order32 x else order32 x ≤ order32 y)) with
      fflags := t.fflags ||| (if sig32 x || sig32 y then 0x10 else 0) } l) := by
  obtain ⟨ha, hb, hd⟩ := hr.rrr hform (s.sys.phaseOf p)
  have hftz : (t.laneIn p i (s.sys.phaseOf p)).ftz = ftzOf t.hints := rfl
  rw [hexec, alu_ready h hr rfl, Thread.laneDone_flagged, ha, hb, hftz, minmax_ftz, hx, hy, minmax_fp32, hd, BitVec.ofNat_toNat,
    BitVec.setWidth_eq]

/-- An operation of R216 on a NaN. -/
theorem arith_nan {r : LaneIn} {x y : Word} (c : Nat) (op : RMode → FVal → FVal → FVal → FVal × Bool)
    (hn : (nan32 x || nan32 y) = true) :
    arith r fp32 x.toNat y.toNat c 2 op = (0x7FC00000, if sig32 x || sig32 y then 0x10 else 0) := by
  obtain ⟨hnx, hsx⟩ := FFmt.valFtz_nan (f := fp32) (by decide) r.ftz x.toNat
  obtain ⟨hny, hsy⟩ := FFmt.valFtz_nan (f := fp32) (by decide) r.ftz y.toNat
  rw [nanCode_fp32] at hnx hny
  rw [sig32_eq] at hsx hsy
  unfold arith FFmt.result
  simp only [List.take_succ_cons, List.take_zero, List.any_cons, List.any_nil, Bool.or_false, hnx, hny, hsx, hsy, hn, if_true]
  rfl

theorem exec_arith_nan {d a b : BitVec 8} {hs : HintSet} {op : RMode → FVal → FVal → FVal → FVal × Bool}
    (hform : form i t.hints = rrr d a b 1 hs) (hexec : exec i s = alu i always (fun r => .flagged (arith r fp32 r.a r.b 0 2 op)) s)
    (h : s.Alone t p l) (hr : t.Ready p i) (hn : (nan32 (t.src32 p a 2) || nan32 (t.src32 p b 3)) = true) :
    exec i s = .next (s.going { t.put32 p d 0x7FC00000 with
      fflags := t.fflags ||| (if sig32 (t.src32 p a 2) || sig32 (t.src32 p b 3) then 0x10 else 0) } l) := by
  obtain ⟨ha, hb, hd⟩ := hr.rrr hform (s.sys.phaseOf p)
  rw [hexec, alu_ready h hr rfl, Thread.laneDone_flagged, ha, hb, arith_nan 0 op hn, hd]
  rfl

/-- A compare of a NaN: unordered conditions hold, and the ordered ones raise NV (R218). -/
theorem fcmp_nan {r : LaneIn} {x y : Word} (hx : r.a = x.toNat) (hy : r.b = y.toNat) (c : BitVec 3) (n : BitVec 3)
    (hn : (nan32 x || nan32 y) = true) :
    fcmp r fp32 c 0 n = predOut n (c == 1 || c == 6)
      (if (2 ≤ c.toNat ∧ c.toNat ≤ 5) ∨ sig32 x ∨ sig32 y then 0x10 else 0) := by
  obtain ⟨hnx, hsx⟩ := FFmt.valFtz_nan (f := fp32) (by decide) r.ftz x.toNat
  obtain ⟨hny, hsy⟩ := FFmt.valFtz_nan (f := fp32) (by decide) r.ftz y.toNat
  rw [nanCode_fp32] at hnx hny
  rw [sig32_eq] at hsx hsy
  have hcond : ∀ c : BitVec 3, condF c.toNat .un = (c == 1 || c == 6) := by decide
  have hnv : flagIf (cmpNV c.toNat (fp32.valFtz r.ftz x.toNat) (fp32.valFtz r.ftz y.toNat)) fNV =
      if (2 ≤ c.toNat ∧ c.toNat ≤ 5) ∨ sig32 x ∨ sig32 y then 0x10 else 0 := by
    unfold cmpNV flagIf
    rw [hnx, hny, hsx, hsy]
    by_cases hc : 2 ≤ c.toNat ∧ c.toNat ≤ 5
    · simp [hc, hn, fNV]
    · simp [hc, fNV]
  have hrel := FVal.rel_nan (a := fp32.valFtz r.ftz x.toNat) (b := fp32.valFtz r.ftz y.toNat) (by rwa [hnx, hny])
  simp only [fcmp, LaneIn.pred, comb, hx, hy, hrel, hcond, hnv, if_true]

theorem exec_fcmp_nan {c n : BitVec 3} {a b : BitVec 8} (h : s.Alone t p l) (hr : t.Ready p (.fcmpF32 c 0 n a b))
    (hn : (nan32 (t.src32 p a 2) || nan32 (t.src32 p b 3)) = true) :
    exec (.fcmpF32 c 0 n a b) s = .next (s.going { t.putP n (c == 1 || c == 6) with
      fflags := t.fflags |||
        (if (2 ≤ c.toNat ∧ c.toNat ≤ 5) ∨ sig32 (t.src32 p a 2) ∨ sig32 (t.src32 p b 3) then 0x10 else 0) } l) := by
  have hexec : exec (.fcmpF32 c 0 n a b) s =
      alu (.fcmpF32 c 0 n a b) (fun _ => (0 : BitVec 2) != 3) (fun r => fcmp r fp32 c 0 n) s := rfl
  have ha := hr.laneIn_src32 (k := 0) (o := aR a 1) (phi := s.sys.phaseOf p) rfl rfl rfl rfl
  have hb := hr.laneIn_src32 (k := 1) (o := bR b 1) (phi := s.sys.phaseOf p) rfl rfl rfl rfl
  rw [hexec, alu_ready h hr rfl, fcmp_nan ha hb c n hn, Thread.laneDone_predOut t p rfl]
  rfl

end Sys2Proof.Machine

namespace Sys2Proof

open Machine

/-- Settles O20: each word is one shared operation on the values of its operands' codes, and a code's value, class and place in
the order are read off its sign, exponent and fraction. -/
theorem floatWordsOnSpecialValues : Obligations.FloatWordsOnSpecialValues := by
  unfold Obligations.FloatWordsOnSpecialValues
  refine ⟨fun d a s t p l h hr hok => ?_, fun d a s t p l h hr hok => ?_, fun d a s t p l h hr hok => ?_,
    fun d a s t p l h hr hok => ?_, fun d a b s t p l h hr _ => exec_minmax false rfl rfl h hr rfl rfl,
    fun d a b s t p l h hr _ => exec_minmax true rfl rfl h hr rfl rfl, fun i d a b s t p l hi h hr _ hn => ?_,
    fun c n a b s t p l h hr _ hn => exec_fcmp_nan h hr hn⟩
  · exact exec_fclass rfl h hr hok (hr.laneIn_src32 (o := aR a 1) rfl rfl rfl rfl) (Nat.mod_eq_of_lt (BitVec.isLt _))
  · exact exec_fclass rfl h hr hok (hr.laneIn_src64 (o := aR a 2) rfl rfl rfl rfl rfl rfl) (Nat.mod_eq_of_lt (BitVec.isLt _))
  · exact exec_fclass rfl h hr hok (hr.laneIn_src32 (o := aR a 1) rfl rfl rfl rfl) rfl
  · exact exec_fclass rfl h hr hok (hr.laneIn_src32 (o := aR a 1) rfl rfl rfl rfl) rfl
  · rcases hi with rfl | rfl | rfl
    · exact exec_arith_nan rfl rfl h hr hn
    · exact exec_arith_nan rfl rfl h hr hn
    · exact exec_arith_nan rfl rfl h hr hn

end Sys2Proof

/-! ## Values of cross-lane words (R230 to R238) -/

namespace Sys2Proof.Machine

variable {s : State} {t0 t : Thread} {p : Panel} {l : Launch} {i : Instr} {m : BitVec 8} {ok : Hints → Bool} {ms : List Thread}

/-! ### The members of a seam that is not paired -/

/-- The number that source `k` of a word gives. -/
def Thread.srcNat (t : Thread) (p : Panel) (i : Instr) (k : Nat) : Nat :=
  match ((form i t.hints).srcs t.hints)[k]? with
  | some o => t.getNat (o.regs t p)
  | none => 0

/-- A thread as a member of its seam. -/
def Thread.member (t : Thread) (p : Panel) (i : Instr) : Member := ⟨p.laneOf t.tid, t, t.srcNat p i 0, t.srcNat p i 2⟩

/-- A seam that is not paired, with these members. -/
def choirHalf (i : Instr) (p : Panel) (ms : List Thread) : Half := ⟨seamLanes p.seam, false, ms.map (·.member p i)⟩

/-- What holds of the members of a seam that is not paired, whatever the word (R16, R115, R230). -/
structure Choir (i : Instr) (p : Panel) (ms : List Thread) : Prop where
  form : ∀ u ∈ ms, formOk p.regs (form i u.hints) u.hints = true
  hints : ∀ u ∈ ms, ∀ w ∈ ms, u.hints = w.hints
  low : ∀ u ∈ ms, p.laneOf u.tid < 64
  nodup : (ms.map fun u => p.laneOf u.tid).Nodup

/-- Threads that agree on their hints, in the lower half, are members just where they speak. -/
theorem membersOf_eq {hs : Hints} : ∀ {ts : List Thread}, (∀ u ∈ ts, p.laneOf u.tid < 64) → (∀ u ∈ ts, u.hints = hs) →
    membersOf (form i hs) p m (ts.filter (·.runs)) = (ts.filter (·.speaks p m)).map (·.member p i)
  | [], _, _ => rfl
  | u :: ts, hlow, hhints => by
    have ih := membersOf_eq (ts := ts) (fun x hx => hlow x (List.mem_cons_of_mem _ hx))
      fun x hx => hhints x (List.mem_cons_of_mem _ hx)
    have hlane : halfLane p u = p.laneOf u.tid := Nat.mod_eq_of_lt (hlow u List.mem_cons_self)
    have hu := hhints u List.mem_cons_self
    unfold membersOf at ih ⊢
    rw [List.filter_cons, List.filter_cons, Thread.speaks]
    cases hr : u.runs with
    | false => simpa using ih
    | true =>
      rw [if_pos rfl, List.filterMap_cons, hlane, Bool.true_and]
      cases hb : (maskOf p m u).testBit (p.laneOf u.tid) with
      | false => simpa using ih
      | true =>
        simp only [if_true, List.map_cons, ih]
        subst hu
        rfl

theorem State.Seam.stitch_nodup (h : s.Seam t0 p l) : (s.sys.stitch.map (·.1)).Nodup := by
  obtain ⟨⟨-, hfocus, -⟩, -, hsame⟩ := h
  have hstitch : s.sys.stitch.Nodup := by
    rw [Sys.stitch_eq]
    refine List.Nodup.filterMap (fun id id' x hx hx' => ?_) hfocus
    obtain ⟨hp, ht⟩ := Sys.threadAt_id hx
    obtain ⟨hp', ht'⟩ := Sys.threadAt_id hx'
    exact Prod.ext (hp.symm.trans hp') (ht.symm.trans ht')
  exact hstitch.map_on fun x hx y hy he => Prod.ext he ((hsame x hx).1.trans (hsame y hy).1.symm)

/-- The speaking threads of such a seam's stitch. -/
theorem State.Seam.choir (h : s.Seam t0 p l) (hform : formOk p.regs (form i t0.hints) t0.hints = true)
    (hhints : ∀ x ∈ s.sys.stitch, x.1.hints = t0.hints) (hlow : ∀ x ∈ s.sys.stitch, p.laneOf x.1.tid < 64) :
    Choir i p ((s.sys.stitch.map (·.1)).filter (·.speaks p m)) := by
  have hmem : ∀ u ∈ (s.sys.stitch.map (·.1)).filter (·.speaks p m), ∃ x ∈ s.sys.stitch, x.1 = u := fun u hu =>
    List.mem_map.mp (List.mem_filter.mp hu).1
  refine ⟨fun u hu => ?_, fun u hu w hw => ?_, fun u hu => ?_, (h.stitch_nodup.filter _).map_on fun u hu w hw he => ?_⟩
  · obtain ⟨x, hx, rfl⟩ := hmem u hu
    rw [hhints x hx]
    exact hform
  · obtain ⟨x, hx, rfl⟩ := hmem u hu
    obtain ⟨y, hy, rfl⟩ := hmem w hw
    exact (hhints x hx).trans (hhints y hy).symm
  · obtain ⟨x, hx, rfl⟩ := hmem u hu
    exact hlow x hx
  · refine h.tid_inj (List.mem_filter.mp hu).1 (List.mem_filter.mp hw).1 ?_
    obtain ⟨x, hx, rfl⟩ := hmem u hu
    obtain ⟨y, hy, rfl⟩ := hmem w hw
    have hseam : x.1.tid / p.width = y.1.tid / p.width := (h.2.2 x hx).2.trans (h.2.2 y hy).2.symm
    rw [← Nat.div_add_mod x.1.tid p.width, ← Nat.div_add_mod y.1.tid p.width, hseam]
    exact congrArg _ he

/-- A member is given what is its own. -/
theorem Choir.valuesFor_headD (h : Choir i p ms) (ht : t ∈ ms) (g : Member → Nat) :
    (valuesFor g (choirHalf i p ms).members t).headD 0 = g (t.member p i) := by
  have hmem : t.member p i ∈ (choirHalf i p ms).members.filter fun x => x.t.tid == t.tid :=
    List.mem_filter.mpr ⟨List.mem_map_of_mem ht, by simp [Thread.member]⟩
  have hall : ∀ x ∈ (choirHalf i p ms).members.filter (fun x => x.t.tid == t.tid), x = t.member p i := by
    intro x hx
    obtain ⟨hx, htid⟩ := List.mem_filter.mp hx
    obtain ⟨u, hu, rfl⟩ := List.mem_map.mp hx
    rw [List.inj_on_of_nodup_map h.nodup hu ht (congrArg p.laneOf (by simpa [Thread.member] using htid))]
  unfold valuesFor
  cases hl : (choirHalf i p ms).members.filter fun x => x.t.tid == t.tid with
  | nil => simp [hl] at hmem
  | cons x xs =>
    rw [List.map_cons, List.headD_cons, hall x (by rw [hl]; exact List.mem_cons_self)]

/-! ### A cross-lane word whose checks pass -/

theorem State.withStitch_congr {g g' : Thread → Panel → Launch → Thread}
    (h : ∀ x ∈ s.sys.stitch, g x.1 x.2.1 x.2.2 = g' x.1 x.2.1 x.2.2) : s.withStitch g = s.withStitch g' :=
  congrArg s.withSys (List.foldl_ext _ _ _ fun y x hx => congrArg y.setThread (h x hx))

/-- A word that raises no flag leaves the flags, whether or not a thread is a member. -/
theorem Thread.raise_no_flags (t : Thread) (ks : List Nat) (v : Nat) (member : Bool) :
    { if member then t.putNat ks v else t with fflags := if t.runs then t.fflags ||| 0 else t.fflags } =
      if member then t.putNat ks v else t := by
  have hf : (if t.runs then t.fflags ||| 0 else t.fflags) = (if member then t.putNat ks v else t).fflags := by
    rw [show t.fflags ||| 0 = t.fflags from BitVec.or_zero, ite_self, apply_ite Thread.fflags, Thread.putNat_fflags, ite_self]
  rw [hf]

/-- Each member has the value that the word gives it, and each running thread the flags. -/
theorem folds_of {f : List Half → (Half → Member → Nat) × BitVec 5} {v : Panel → List Thread → Thread → Nat}
    {fl : Panel → List Thread → BitVec 5} (hi : i.collective = some (m, ok)) (hexec : ∀ s, exec i s = collective i m ok f s)
    (hv : ∀ p ms, Choir i p ms → ∀ t ∈ ms, (f [choirHalf i p ms]).1 (choirHalf i p ms) (t.member p i) = v p ms t)
    (hfl : ∀ p ms, Choir i p ms → (f [choirHalf i p ms]).2 = fl p ms) (h : s.Seam t0 p l) (hok : ok t0.hints = true)
    (hform : formOk p.regs (form i t0.hints) t0.hints = true) (hhints : ∀ x ∈ s.sys.stitch, x.1.hints = t0.hints)
    (hpair : p.paired = false) (hstay : l.travelling = false) (hlow : ∀ x ∈ s.sys.stitch, p.laneOf x.1.tid < 64)
    (hmask : masksOk s.sys p m (s.sys.stitch.map (·.1)) ((s.sys.stitch.map (·.1)).filter (·.runs)) false = true)
    (hms : (s.sys.stitch.map (·.1)).filter (·.speaks p m) = ms) :
    exec i s = .next (s.withStitch fun t p l =>
      { if t.speaks p m then t.putNat (t.dstRegs p i) (v p ms t) else t with
        fflags := if t.runs then t.fflags ||| fl p ms else t.fflags }.advance (s.sys.nmapOf l)) := by
  obtain ⟨o, hdst⟩ := form_collective_dst hi
  have hchoir : Choir i p ms := hms ▸ h.choir hform hhints hlow
  have hhalf : choirHalf i p ms = wholeHalf (form i t0.hints) p m (s.sys.stitch.map (·.1)) := by
    rw [choirHalf, wholeHalf, membersOf_eq (fun u hu => ?_) fun u hu => ?_, hms]
    · obtain ⟨x, hx, rfl⟩ := List.mem_map.mp hu
      exact hlow x hx
    · obtain ⟨x, hx, rfl⟩ := List.mem_map.mp hu
      exact hhints x hx
  rw [hexec, collective_unpaired h f (hdst _) hok hform hpair hstay hlow hmask hhalf, Tx.each_advance]
  refine congrArg (fun y => Host.Outcome.next (s.withSys y)) ?_
  refine List.foldl_map.trans (List.foldl_ext _ _ _ fun y x hx => ?_)
  have hin : x.1 ∈ s.sys.stitch.map (·.1) := List.mem_map_of_mem hx
  have hnil : valuesFor ((f [choirHalf i p ms]).1 (choirHalf i p ms)) (choirHalf i p ms).members x.1 = [] ↔ x.1.speaks p m = false := by
    rw [hhalf]
    exact valuesFor_eq_nil h hlow hin _ _
  have hgiven := Thread.given_eq (o := o) x.1 p (f [choirHalf i p ms]).2 hnil
  have hregs : x.1.dstRegs p i = o.regs x.1 p := by rw [Thread.dstRegs, hdst]
  have hval : (if x.1.speaks p m then
        x.1.putNat (o.regs x.1 p) ((valuesFor ((f [choirHalf i p ms]).1 (choirHalf i p ms)) (choirHalf i p ms).members x.1).headD 0)
      else x.1) = if x.1.speaks p m then x.1.putNat (x.1.dstRegs p i) (v p ms x.1) else x.1 := by
    cases hs : x.1.speaks p m with
    | false => rfl
    | true =>
      have hmem : x.1 ∈ ms := hms ▸ List.mem_filter.mpr ⟨hin, hs⟩
      rw [hchoir.valuesFor_headD hmem, hv p ms hchoir x.1 hmem, hregs]
  rw [hval, hfl p ms hchoir] at hgiven
  rw [(h.2.2 x hx).1, hfl p ms hchoir]
  exact congrArg (fun u : Thread => y.setThread (u.advance (s.sys.nmapOf l))) hgiven

/-- A word that raises no flag. -/
theorem voices_of {f : List Half → (Half → Member → Nat) × BitVec 5} {v : Panel → List Thread → Thread → Nat}
    (hi : i.collective = some (m, ok)) (hexec : ∀ s, exec i s = collective i m ok f s) (hquiet : ∀ hs, (f hs).2 = 0)
    (hv : ∀ p ms, Choir i p ms → ∀ t ∈ ms, (f [choirHalf i p ms]).1 (choirHalf i p ms) (t.member p i) = v p ms t) : Voices i m v := by
  intro s t0 p l ok' hi' h hok hform hhints hpair hstay hlow hmask
  obtain rfl : ok = ok' := by
    rw [hi] at hi'
    exact (Prod.mk.inj (Option.some.inj hi')).2
  rw [folds_of hi hexec hv (fl := fun _ _ => 0) (fun _ _ _ => hquiet _) h hok hform hhints hpair hstay hlow hmask rfl]
  refine congrArg Host.Outcome.next (State.withStitch_congr fun x hx => ?_)
  rw [(h.2.2 x hx).1]
  exact congrArg (·.advance (s.sys.nmapOf l)) (Thread.raise_no_flags x.1 _ _ _)

end Sys2Proof.Machine

/-! ### Sums, trees and leasts over the members -/

namespace Sys2Proof.Machine

/-- The one element that a test accepts is the one that is found. -/
theorem find?_eq_of_unique {α : Type} {q : α → Bool} {x : α} {xs : List α} (hx : x ∈ xs) (hq : q x = true)
    (huniq : ∀ y ∈ xs, q y = true → y = x) : xs.find? q = some x := by
  cases hf : xs.find? q with
  | none => exact absurd hq (List.find?_eq_none.mp hf x hx)
  | some y => rw [huniq y (List.mem_of_find?_eq_some hf) (List.find?_some hf)]

theorem bitsOf_eq_sum (f : Nat → Bool) : ∀ w, bitsOf w f = ∑ k ∈ Finset.range w, if f k then 2 ^ k else 0
  | 0 => rfl
  | w + 1 => by
    rw [Finset.sum_range_succ, ← bitsOf_eq_sum f w, bitsOf, List.range_succ, List.foldl_append]
    rfl

/-- The powers of distinct places add up to the bits at these places. -/
theorem foldl_two_pow {α : Type} (place : α → Nat) (q : α → Bool) (w : Nat) : ∀ {ms : List α} (n : Nat),
    (∀ u ∈ ms, place u < w) → (ms.map place).Nodup →
      ms.foldl (fun n u => n + if q u then 2 ^ place u else 0) n = n + bitsOf w fun k => ms.any fun u => place u == k && q u
  | [], n, _, _ => by simp [bitsOf_eq_sum]
  | u :: ms, n, hlow, hnodup => by
    obtain ⟨hu, hrest⟩ := List.nodup_cons.mp hnodup
    rw [List.foldl_cons, foldl_two_pow place q w _ (fun x hx => hlow x (List.mem_cons_of_mem _ hx)) hrest, Nat.add_assoc]
    congr 1
    have hone : (if q u then 2 ^ place u else 0) = ∑ k ∈ Finset.range w, if place u = k then (if q u then 2 ^ k else 0) else 0 := by
      rw [Finset.sum_ite_eq, if_pos (Finset.mem_range.mpr (hlow u List.mem_cons_self))]
    rw [bitsOf_eq_sum, bitsOf_eq_sum, hone, ← Finset.sum_add_distrib]
    refine Finset.sum_congr rfl fun k _ => ?_
    rw [List.any_cons]
    by_cases hk : place u = k
    · have hnone : ms.any (fun x => place x == k && q x) = false := by
        rw [List.any_eq_false]
        intro x hx hc
        obtain ⟨hxk, -⟩ := Bool.and_eq_true_iff.mp hc
        exact hu (List.mem_map.mpr ⟨x, hx, (beq_iff_eq.mp hxk).trans hk.symm⟩)
      simp [hk, hnone]
    · simp [hk]

/-! #### The pairwise tree (R190) -/

/-- The sum of two partial sums, with the flags of both and of the addition. -/
def treeJoin (x y : Nat × BitVec 5) : Nat × BitVec 5 := ((treeAdd x.1 y.1).1, x.2 ||| y.2 ||| (treeAdd x.1 y.1).2)

/-- Neighbouring terms joined. -/
def neighbours (g : Nat → Nat × BitVec 5) (j : Nat) : Nat × BitVec 5 := treeJoin (g (2 * j)) (g (2 * j + 1))

/-- The tree from its root: the two halves of the terms. -/
def rootTree : Nat → (Nat → Nat × BitVec 5) → Nat × BitVec 5
  | 0, g => g 0
  | k + 1, g => treeJoin (rootTree k g) (rootTree k fun j => g (2 ^ k + j))

theorem pairTree_eq : ∀ (k : Nat) (f : Nat → Nat), pairTree k f = rootTree k fun j => (f j, 0)
  | 0, _ => rfl
  | k + 1, f => by
    rw [pairTree, rootTree, pairTree_eq k, pairTree_eq k]
    rfl

/-- Joining neighbours first leaves one level less. -/
theorem rootTree_neighbours : ∀ (k : Nat) (g : Nat → Nat × BitVec 5), rootTree (k + 1) g = rootTree k (neighbours g)
  | 0, _ => rfl
  | k + 1, g => by
    rw [rootTree, rootTree_neighbours k g, rootTree_neighbours k, rootTree]
    have hshift : (neighbours fun j => g (2 ^ (k + 1) + j)) = fun j => neighbours g (2 ^ k + j) := by
      funext j
      simp only [neighbours, Nat.pow_succ, Nat.mul_add, Nat.mul_comm 2 (2 ^ k), Nat.add_assoc]
    rw [hshift]

theorem treeLevel_range : ∀ (n : Nat) (g : Nat → Nat × BitVec 5),
    treeLevel ((List.range (2 * n)).map g) = (List.range n).map (neighbours g)
  | 0, _ => rfl
  | n + 1, g => by
    have ih := treeLevel_range n fun j => g (j + 2)
    have hstep : (List.range (2 * (n + 1))).map g = g 0 :: g 1 :: (List.range (2 * n)).map fun j => g (j + 2) := by
      rw [Nat.mul_add, Nat.mul_one, List.range_succ_eq_map, List.range_succ_eq_map]
      simp [Function.comp_def]
    rw [hstep, treeLevel, ih, List.range_succ_eq_map, List.map_cons, List.map_map]
    rfl

theorem tree_range : ∀ (k : Nat) (g : Nat → Nat × BitVec 5), tree k ((List.range (2 ^ k)).map g) = rootTree k g
  | 0, _ => rfl
  | k + 1, g => by
    rw [tree, Nat.pow_succ', treeLevel_range, tree_range k, rootTree_neighbours]

/-- A seam's lanes are a power of two (R17, R126). -/
theorem seamLanes_eq_pow (code : Nat) : 2 ^ Nat.log2 (seamLanes code) = seamLanes code := by
  unfold seamLanes seamW
  split
  · rfl
  · split
    · rfl
    · rcases Nat.lt_or_ge code 7 with h | h
      · interval_cases code <;> rfl
      · rw [Nat.min_eq_left]
        · rfl
        · exact Nat.pow_le_pow_right (n := 2) (i := 6) (by omega) (by omega)

end Sys2Proof.Machine

/-! ### What the members' operands are -/

namespace Sys2Proof.Machine

variable {p : Panel} {i : Instr} {ms : List Thread} {t u : Thread} {a : BitVec 8}

/-- The first source of a word is the 32-bit A (R230). -/
def ReadsWord (i : Instr) (a : BitVec 8) : Prop := ∀ h : Hints, ((form i h).srcs h)[0]? = some (noShuttle (aR a 1))

/-- A source that may be z but no shuttle. -/
theorem srcNat_one {k : Nat} {o : Opnd} {f : BitVec 8} (hok : formOk p.regs (form i t.hints) t.hints = true)
    (hk : ((form i t.hints).srcs t.hints)[k]? = some o) (hf : o.f = f.toNat) (hn : o.n = 1) (hp : o.pairs = 0) (hsh : o.sh = false) :
    t.srcNat p i k = (t.src32 p f o.st).toNat := by
  have hplain : o.Plain := by
    rcases formOk_srcs hok o (List.mem_of_getElem? hk) with h | h | h
    · exact .inl h
    · simp [hsh] at h
    · exact .inr h.1
  rw [Thread.srcNat, hk]
  exact getNat_regs_one t p hf hn hp hplain

/-- A source of two registers. -/
theorem srcNat_two {k : Nat} {o : Opnd} {f : BitVec 8} (hok : formOk p.regs (form i t.hints) t.hints = true)
    (hk : ((form i t.hints).srcs t.hints)[k]? = some o) (hf : o.f = f.toNat) (hn : o.n = 2) (hp : o.pairs = 0) (hsh : o.sh = false)
    (hz : o.z = false) : t.srcNat p i k = (t.src64 p f o.st).toNat := by
  have hcases := formOk_srcs hok o (List.mem_of_getElem? hk)
  rw [Thread.srcNat, hk]
  exact getNat_regs_two t p hf hn hp (by simpa [hsh, hz] using hcases)

theorem Choir.a_eq (h : Choir i p ms) (hsrc : ReadsWord i a) (hu : u ∈ ms) : (u.member p i).a = (u.src32 p a 2).toNat :=
  srcNat_one (h.form u hu) (hsrc _) rfl rfl rfl rfl

theorem everyone_choir : everyone [choirHalf i p ms] = ms.map (·.member p i) := List.append_nil _

theorem Choir.map_a (h : Choir i p ms) (hsrc : ReadsWord i a) :
    (everyone [choirHalf i p ms]).map (·.a) = ms.map fun u => (u.src32 p a 2).toNat := by
  rw [everyone_choir, List.map_map]
  exact List.map_congr_left fun u hu => h.a_eq hsrc hu

/-! ### Lanes -/

theorem choir_member? (k : Nat) :
    (choirHalf i p ms).member? k = (ms.find? fun u => p.laneOf u.tid == k).map (·.member p i) := List.find?_map

theorem Choir.from_eq (h : Choir i p ms) (hsrc : ReadsWord i a) (ht : t ∈ ms) (k : Int) :
    (choirHalf i p ms).from (t.member p i) k =
      (((ms.find? fun u => (p.laneOf u.tid : Int) == k).getD t).src32 p a 2).toNat := by
  unfold Half.from
  split
  · next hk =>
    have hnone : (ms.find? fun u => (p.laneOf u.tid : Int) == k) = none :=
      List.find?_eq_none.mpr fun u _ hu => by
        rw [beq_iff_eq] at hu
        omega
    rw [hnone]
    exact h.a_eq hsrc ht
  · next hk =>
    have hnat : (fun u : Thread => (p.laneOf u.tid : Int) == k) = fun u => p.laneOf u.tid == k.toNat := by
      funext u
      rw [Bool.eq_iff_iff, beq_iff_eq, beq_iff_eq]
      omega
    rw [hnat, choir_member?]
    cases hf : ms.find? fun u => p.laneOf u.tid == k.toNat with
    | none => exact h.a_eq hsrc ht
    | some u => exact h.a_eq hsrc (List.mem_of_find?_eq_some hf)

/-- Two members of one lane are one thread (R16). -/
theorem Choir.lane_inj (h : Choir i p ms) {u w : Thread} (hu : u ∈ ms) (hw : w ∈ ms) (he : p.laneOf u.tid = p.laneOf w.tid) : u = w :=
  List.inj_on_of_nodup_map h.nodup hu hw he

/-- The member of the lowest lane. -/
theorem Choir.lowest (h : Choir i p ms) (ht : t ∈ ms) :
    ∃ u ∈ ms, leastBy (·.lane) (choirHalf i p ms).members = some (u.member p i) ∧
      (ms.find? fun u => ms.all fun x => p.laneOf u.tid ≤ p.laneOf x.tid) = some u := by
  cases hl : leastBy (·.lane) (choirHalf i p ms).members with
  | none =>
    have hin : t.member p i ∈ (choirHalf i p ms).members := List.mem_map_of_mem ht
    simp [leastBy_eq_none hl] at hin
  | some x =>
    obtain ⟨u, hu, rfl⟩ := List.mem_map.mp (leastBy_mem hl)
    have hle : ∀ w ∈ ms, p.laneOf u.tid ≤ p.laneOf w.tid := fun w hw => leastBy_le hl _ (List.mem_map_of_mem hw)
    refine ⟨u, hu, rfl, find?_eq_of_unique hu (by simpa using hle) fun y hy hq => h.lane_inj hy hu ?_⟩
    have hyu := List.all_eq_true.mp hq u hu
    exact Nat.le_antisymm (by simpa using hyu) (hle y hy)

/-! ### The words -/

variable {d m : BitVec 8}

/-! Each word is its own arm of `exec`. -/

theorem exec_shfl (s : State) : exec (.shfl d a m) s = execShfl d a m s := rfl
theorem exec_shflx (s : State) : exec (.shflx d a m) s = execShflx d a m s := rfl
theorem exec_bcst (s : State) : exec (.bcst d a m) s = execBcst d a m s := rfl
theorem exec_vote (s : State) : exec (.vote d a m) s = execVote d a m s := rfl
theorem exec_ballot (s : State) : exec (.ballot d a m) s = execBallot d a m s := rfl
theorem exec_raddS32 (s : State) : exec (.raddS32 d a m) s = execRaddS32 d a m s := rfl
theorem exec_raddF32 (s : State) : exec (.raddF32 d a m) s = execRaddF32 d a m s := rfl
theorem exec_rminN32 (s : State) : exec (.rminN32 d a m) s = execRminN32 d a m s := rfl
theorem exec_rmaxN32 (s : State) : exec (.rmaxN32 d a m) s = execRmaxN32 d a m s := rfl
theorem exec_rminF32 (s : State) : exec (.rminF32 d a m) s = execRminF32 d a m s := rfl
theorem exec_rmaxF32 (s : State) : exec (.rmaxF32 d a m) s = execRmaxF32 d a m s := rfl
theorem exec_rminxN32 (s : State) : exec (.rminxN32 d a m) s = execRminxN32 d a m s := rfl
theorem exec_scanS32 (s : State) : exec (.scanS32 d a m) s = execScanS32 d a m s := rfl
theorem exec_matchLanes (s : State) : exec (.matchLanes d a m) s = execMatchLanes d a m s := rfl
theorem exec_laneid (s : State) : exec (.laneid d m) s = execLaneid d m s := rfl

/-- Of each pair of words just equal ones give equal numbers. -/
theorem toNat_beq (x y : Word) : (x.toNat == y.toNat) = (x == y) := by
  rw [Bool.eq_iff_iff, beq_iff_eq, beq_iff_eq, BitVec.toNat_inj]

theorem toNat_bne_zero (x : Word) : (x.toNat != 0) = (x != 0) := congrArg (!·) (toNat_beq x 0)

theorem vote_voices : Voices (.vote d a m) m fun p ms t =>
    let x (u : Thread) : Word := u.src32 p a 2
    (if modeOf t.hints = 0 then (if ∀ u ∈ ms, x u ≠ 0 then 1 else 0)
     else if modeOf t.hints = 1 then (if ∃ u ∈ ms, x u ≠ 0 then 1 else 0)
     else if ∀ u ∈ ms, x u = x t then 1 else 0) := by
  refine voices_of rfl exec_vote (fun _ => rfl) fun p ms h t ht => ?_
  have hsrc : ReadsWord (.vote d a m) a := fun _ => rfl
  simp only [h.map_a hsrc, h.a_eq hsrc ht, List.all_map, List.any_map, Function.comp_def, toNat_beq, toNat_bne_zero]
  rw [show (t.member p (.vote d a m)).t = t from rfl]
  match modeOf t.hints with
  | 0 => simp
  | 1 => simp
  | k + 2 => simp

/-- The lanes of the members that a test accepts. -/
theorem Choir.foldl_lanes (h : Choir i p ms) {q : Member → Bool} {q' : Thread → Bool} (hq : ∀ u ∈ ms, q (u.member p i) = q' u) :
    (choirHalf i p ms).members.foldl (fun n x => n + if q x then 2 ^ x.lane else 0) 0 =
      bitsOf 64 fun k => ms.any fun u => p.laneOf u.tid == k && q' u := by
  have hsame : ms.foldl (fun n u => n + if q (u.member p i) then 2 ^ (u.member p i).lane else 0) 0 =
      ms.foldl (fun n u => n + if q' u then 2 ^ p.laneOf u.tid else 0) 0 :=
    List.foldl_ext _ _ _ fun n u hu => by rw [hq u hu]; rfl
  rw [choirHalf, List.foldl_map, hsame, foldl_two_pow (fun u => p.laneOf u.tid) q' 64 0 h.low h.nodup, Nat.zero_add]

theorem ballot_voices : Voices (.ballot d a m) m fun p ms _ =>
    bitsOf 64 fun k => ms.any fun u => p.laneOf u.tid == k && u.src32 p a 2 != 0 := by
  refine voices_of rfl exec_ballot (fun _ => rfl) fun p ms h t _ => ?_
  have hsrc : ReadsWord (.ballot d a m) a := fun _ => rfl
  exact h.foldl_lanes fun u hu => by rw [h.a_eq hsrc hu, toNat_bne_zero]

theorem scan_voices : Voices (.scanS32 d a m) m fun p ms t =>
    ((ms.filter fun u => p.laneOf u.tid < p.laneOf t.tid || (modeOf t.hints != 1 && p.laneOf u.tid == p.laneOf t.tid)).map
      fun u => (u.src32 p a 2).toNat).sum % 2 ^ 32 := by
  refine voices_of rfl exec_scanS32 (fun _ => rfl) fun p ms h t _ => ?_
  have hsrc : ReadsWord (.scanS32 d a m) a := fun _ => rfl
  have hlanes : ((choirHalf (.scanS32 d a m) p ms).members.filter fun x =>
        if modeOf t.hints = 1 then x.lane < p.laneOf t.tid else x.lane ≤ p.laneOf t.tid).map (·.a) =
      (ms.filter fun u => p.laneOf u.tid < p.laneOf t.tid || (modeOf t.hints != 1 && p.laneOf u.tid == p.laneOf t.tid)).map
        fun u => (u.src32 p a 2).toNat := by
    rw [choirHalf, List.filter_map, List.map_map]
    have htest : ∀ u ∈ ms, ((fun x : Member => if modeOf t.hints = 1 then decide (x.lane < p.laneOf t.tid)
        else decide (x.lane ≤ p.laneOf t.tid)) ∘ fun u : Thread => u.member p (.scanS32 d a m)) u =
        (p.laneOf u.tid < p.laneOf t.tid || (modeOf t.hints != 1 && p.laneOf u.tid == p.laneOf t.tid)) := by
      intro u _
      change (if modeOf t.hints = 1 then decide (p.laneOf u.tid < p.laneOf t.tid) else decide (p.laneOf u.tid ≤ p.laneOf t.tid)) = _
      by_cases hm : modeOf t.hints = 1
      · simp [hm]
      · rw [if_neg hm, bne, beq_eq_false_iff_ne.mpr hm, Bool.eq_iff_iff]
        simp [Nat.le_iff_lt_or_eq]
    rw [List.filter_congr htest]
    exact List.map_congr_left fun u hu => h.a_eq hsrc (List.mem_filter.mp hu).1
  exact congrArg (fun xs : List Nat => (xs.sum + 0) % 2 ^ 32) hlanes

theorem laneid_voices : Voices (.laneid d m) m fun p ms t =>
    (ms.filter fun u => p.laneOf u.tid < p.laneOf t.tid).length + 2 ^ 16 * ms.length := by
  refine voices_of rfl exec_laneid (fun _ => rfl) fun p ms h t _ => ?_
  change (((ms.map (·.member p (.laneid d m))).filter fun x => x.lane < p.laneOf t.tid).length +
    (ms.map (·.member p (.laneid d m))).length * 2 ^ 16) = _
  rw [List.filter_map, List.length_map, List.length_map, Nat.mul_comm]
  rfl

/-- The A of a lane that has been looked for, or a thread's own. -/
theorem toNat_getD (o : Option Thread) (t : Thread) (p : Panel) (a : BitVec 8) :
    ((o.getD t).src32 p a 2).toNat = match o with
      | some u => (u.src32 p a 2).toNat
      | none => (t.src32 p a 2).toNat := by
  cases o <;> rfl

/-- The c operand is SHFL's third source (R232). -/
theorem shfl_srcs (h : Hints) : ((form (.shfl d a m) h).srcs h)[2]? =
    h.hopd.map fun o => ⟨o.c.toNat, 1, .r, false, false, 0, 0⟩ := by
  unfold Form.srcs
  cases h.hopd <;> rfl

theorem shfl_voices : Voices (.shfl d a m) m fun p ms t =>
    let c := match t.hints.hopd with
      | some o => t.src32 p o.c 0
      | none => 0
    match ms.find? fun u => p.laneOf u.tid == c.toNat with
    | some u => (u.src32 p a 2).toNat
    | none => (t.src32 p a 2).toNat := by
  refine voices_of rfl exec_shfl (fun _ => rfl) fun p ms h t ht => ?_
  have hsrc : ReadsWord (.shfl d a m) a := fun _ => rfl
  have hc : (t.member p (.shfl d a m)).c = (match t.hints.hopd with
      | some o => t.src32 p o.c 0
      | none => 0 : Word).toNat := by
    have hsrcs := shfl_srcs (d := d) (a := a) (m := m) t.hints
    cases ho : t.hints.hopd with
    | none =>
      rw [ho] at hsrcs
      simp only [Thread.member, Thread.srcNat, hsrcs]
      rfl
    | some o =>
      rw [ho] at hsrcs
      exact srcNat_one (h.form t ht) hsrcs rfl rfl rfl rfl
  have hlane : (fun u : Thread => (p.laneOf u.tid : Int) == (t.member p (.shfl d a m)).c) =
      fun u => p.laneOf u.tid == (t.member p (.shfl d a m)).c := by
    funext u
    rw [Bool.eq_iff_iff, beq_iff_eq, beq_iff_eq, Nat.cast_inj]
  have hfrom := h.from_eq hsrc ht (t.member p (.shfl d a m)).c
  rw [hlane, hc] at hfrom
  refine (congrArg ((choirHalf _ p ms).from (t.member p _)) (congrArg Nat.cast hc)).trans (hfrom.trans ?_)
  exact toNat_getD _ t p a

theorem shflx_voices : Voices (.shflx d a m) m fun p ms t =>
    let mode := modeOf t.hints
    let j := p.laneOf t.tid
    let x := mode % 128
    let k : Int := match mode / 2 ^ 14 % 4 with
      | 0 => ((j ^^^ x : Nat) : Int)
      | 1 => (j : Int) - x
      | _ => (j : Int) + x
    match ms.find? fun u => (p.laneOf u.tid : Int) == k with
    | some u => (u.src32 p a 2).toNat
    | none => (t.src32 p a 2).toNat := by
  refine voices_of rfl exec_shflx (fun _ => rfl) fun p ms h t ht => ?_
  have hsrc : ReadsWord (.shflx d a m) a := fun _ => rfl
  exact (h.from_eq hsrc ht _).trans (toNat_getD _ t p a)

theorem bcst_voices : Voices (.bcst d a m) m fun p ms t =>
    let mode := modeOf t.hints
    let low := ms.find? fun u => ms.all fun x => p.laneOf u.tid ≤ p.laneOf x.tid
    let named := if mode.testBit 15 then ms.find? fun u => p.laneOf u.tid == mode % 128 else none
    (((named <|> low).map fun u => (u.src32 p a 2).toNat).getD 0) := by
  refine voices_of rfl exec_bcst (fun _ => rfl) fun p ms h t ht => ?_
  have hsrc : ReadsWord (.bcst d a m) a := fun _ => rfl
  obtain ⟨lo, hlo, hleast, hfind⟩ := h.lowest ht
  change (if (modeOf t.hints).testBit 15 then ((choirHalf _ p ms).member? (modeOf t.hints % 2 ^ 7)).getD
    ((leastBy (·.lane) (choirHalf _ p ms).members).getD (t.member p _)) else
      (leastBy (·.lane) (choirHalf _ p ms).members).getD (t.member p _)).a = _
  rw [hleast, choir_member?, Option.getD_some]
  have ha {u : Thread} (hu : u ∈ ms) : (u.member p (.bcst d a m)).a = (u.src32 p a 2).toNat := h.a_eq hsrc hu
  dsimp only
  rw [hfind]
  cases (modeOf t.hints).testBit 15 with
  | false => exact ha hlo
  | true =>
    rw [if_pos rfl, if_pos rfl]
    cases hf : ms.find? fun u => p.laneOf u.tid == modeOf t.hints % 2 ^ 7 with
    | none => exact ha hlo
    | some u => exact ha (List.mem_of_find?_eq_some hf)

/-- The least number of the members with the lowest lane that holds it (R192). -/
theorem Choir.least_pair (h : Choir i p ms) (ht : t ∈ ms) (x : Thread → Nat) :
    ∃ u ∈ ms, leastBy (fun e => e.1 * 2 ^ 8 + e.2) (ms.map fun u => (x u, p.laneOf u.tid)) = some (x u, p.laneOf u.tid) ∧
      (ms.find? fun u => ms.all fun w => x u < x w || (x u == x w && p.laneOf u.tid ≤ p.laneOf w.tid)) = some u := by
  cases hl : leastBy (fun e => e.1 * 2 ^ 8 + e.2) (ms.map fun u => (x u, p.laneOf u.tid)) with
  | none =>
    rw [List.map_eq_nil_iff.mp (leastBy_eq_none hl)] at ht
    cases ht
  | some e =>
    obtain ⟨u, hu, rfl⟩ := List.mem_map.mp (leastBy_mem hl)
    have hle : ∀ w ∈ ms, x u < x w ∨ x u = x w ∧ p.laneOf u.tid ≤ p.laneOf w.tid := by
      intro w hw
      have hkey := leastBy_le hl (x w, p.laneOf w.tid) (List.mem_map.mpr ⟨w, hw, rfl⟩)
      have hu64 := h.low u hu
      have hw64 := h.low w hw
      dsimp only at hkey
      omega
    refine ⟨u, hu, rfl, find?_eq_of_unique hu (by simpa using hle) fun y hy hq => h.lane_inj hy hu ?_⟩
    have hyu : x y < x u ∨ x y = x u ∧ p.laneOf y.tid ≤ p.laneOf u.tid := by simpa using List.all_eq_true.mp hq u hu
    have huy := hle y hy
    omega

theorem rminx_voices : Voices (.rminxN32 d a m) m fun p ms _ =>
    let x (u : Thread) : Nat := (u.src32 p a 2).toNat
    match ms.find? fun u => ms.all fun w => x u < x w || (x u == x w && p.laneOf u.tid ≤ p.laneOf w.tid) with
    | some u => x u + 2 ^ 32 * p.laneOf u.tid
    | none => 2 ^ 64 - 1 := by
  refine voices_of rfl exec_rminxN32 (fun _ => rfl) fun p ms h t ht => ?_
  have hsrc : ReadsWord (.rminxN32 d a m) a := fun _ => rfl
  obtain ⟨u, hu, hleast, hfind⟩ := h.least_pair ht fun u => (u.src32 p a 2).toNat
  have hlanes : ([choirHalf (.rminxN32 d a m) p ms].flatMap fun h => h.members.map fun x => (x.a, x.lane + if h.upper then 64 else 0)) =
      ms.map fun u => ((u.src32 p a 2).toNat, p.laneOf u.tid) := by
    rw [List.flatMap_cons, List.flatMap_nil, List.append_nil, choirHalf, List.map_map]
    exact List.map_congr_left fun u hu => Prod.ext (h.a_eq hsrc hu) rfl
  dsimp only
  rw [hlanes, hleast, hfind]
  exact congrArg ((u.src32 p a 2).toNat + ·) (Nat.mul_comm _ _)

/-- MATCH compares A in one register or in a pair (R237). -/
theorem match_srcs (h : Hints) : ((form (.matchLanes d a m) h).srcs h)[0]? = some (noShuttle (aR a (otypeRegs h))) := rfl

theorem Choir.match_a (h : Choir (.matchLanes d a m) p ms) (hu : u ∈ ms) : (u.member p (.matchLanes d a m)).a =
    if otypeOf u.hints = 1 ∨ otypeOf u.hints = 3 then (u.src64 p a 2).toNat else (u.src32 p a 2).toNat := by
  have hsrcs := match_srcs (d := d) (a := a) (m := m) u.hints
  unfold otypeRegs at hsrcs
  split at hsrcs
  · next ho =>
    rw [if_pos ho]
    exact srcNat_two (h.form u hu) hsrcs rfl rfl rfl rfl rfl
  · next ho =>
    rw [if_neg ho]
    exact srcNat_one (h.form u hu) hsrcs rfl rfl rfl rfl

/-- Equal as bits or as numbers (R193). -/
theorem matches_eq (otype : Nat) (x64 y64 : DWord) (x32 y32 : Word) :
    let x := if otype = 1 ∨ otype = 3 then x64.toNat else x32.toNat
    let y := if otype = 1 ∨ otype = 3 then y64.toNat else y32.toNat
    matches_ otype x y = if otype = 2 then numEq 8 23 x y else if otype = 3 then numEq 11 52 x y else x == y := by
  intro x y
  unfold matches_
  by_cases h2 : otype = 2
  · rw [if_pos h2, if_pos h2]
    have hx : x = x32.toNat := if_neg (by omega)
    have hy : y = y32.toNat := if_neg (by omega)
    rw [hx, hy]
    exact fp32.rel_eq_iff (by decide) x32.isLt y32.isLt
  · rw [if_neg h2, if_neg h2]
    by_cases h3 : otype = 3
    · rw [if_pos h3, if_pos h3]
      have hx : x = x64.toNat := if_pos (.inr h3)
      have hy : y = y64.toNat := if_pos (.inr h3)
      rw [hx, hy]
      exact fp64.rel_eq_iff (by decide) x64.isLt y64.isLt
    · rw [if_neg h3, if_neg h3]

theorem match_voices : Voices (.matchLanes d a m) m fun p ms t =>
    let otype := otypeOf t.hints
    let x (u : Thread) : Nat := if otype = 1 ∨ otype = 3 then (u.src64 p a 2).toNat else (u.src32 p a 2).toNat
    bitsOf 64 fun k => ms.any fun u => p.laneOf u.tid == k &&
      (if otype = 2 then numEq 8 23 (x t) (x u) else if otype = 3 then numEq 11 52 (x t) (x u) else x t == x u) := by
  refine voices_of rfl exec_matchLanes (fun _ => rfl) fun p ms h t ht => ?_
  refine h.foldl_lanes fun u hu => ?_
  rw [h.match_a ht, h.match_a hu, h.hints u hu t ht]
  exact matches_eq (otypeOf t.hints) (t.src64 p a 2) (u.src64 p a 2) (t.src32 p a 2) (u.src32 p a 2)

/-! ### Float reductions -/

theorem folds_of_value {f : List Half → (Half → Member → Nat) × BitVec 5} {v : Panel → List Thread → Nat} {ok : Hints → Bool}
    {fl : Panel → List Thread → BitVec 5} (hi : i.collective = some (m, ok)) (hexec : ∀ s, exec i s = collective i m ok f s)
    (hv : ∀ p ms, Choir i p ms → ∀ t ∈ ms, (f [choirHalf i p ms]).1 (choirHalf i p ms) (t.member p i) = v p ms)
    (hfl : ∀ p ms, Choir i p ms → (f [choirHalf i p ms]).2 = fl p ms) : Folds i m v fl := by
  intro s t0 p l ok' hi' h hok hform hhints hpair hstay hlow hmask
  obtain rfl : ok = ok' := by
    rw [hi] at hi'
    exact (Prod.mk.inj (Option.some.inj hi')).2
  exact folds_of hi hexec (v := fun p ms _ => v p ms) hv hfl h hok hform hhints hpair hstay hlow hmask rfl

theorem radd_eq {p : Panel} {ms : List Thread} (h : Choir (.raddF32 d a m) p ms) :
    (choirHalf (.raddF32 d a m) p ms).radd = pairTree (Nat.log2 (seamLanes p.seam)) (laneTerm p a ms) := by
  have hsrc : ReadsWord (.raddF32 d a m) a := fun _ => rfl
  have hterm : ∀ j, (((choirHalf (.raddF32 d a m) p ms).member? j).map (·.a)).getD 0x80000000 = laneTerm p a ms j := by
    intro j
    rw [choir_member?, laneTerm]
    cases hf : ms.find? fun u => p.laneOf u.tid == j with
    | none => rfl
    | some u => exact h.a_eq hsrc (List.mem_of_find?_eq_some hf)
  have hw : (choirHalf (.raddF32 d a m) p ms).w = seamLanes p.seam := rfl
  rw [pairTree_eq, ← tree_range, seamLanes_eq_pow, Half.radd, hw]
  simp only [hterm]

theorem radd_folds : let sum (p : Panel) (ms : List Thread) := pairTree (Nat.log2 (seamLanes p.seam)) (laneTerm p a ms)
    Folds (.raddF32 d a m) m (fun p ms => (sum p ms).1) fun p ms => (sum p ms).2 :=
  folds_of_value rfl exec_raddF32 (fun _ _ h _ _ => congrArg Prod.fst (radd_eq h)) fun _ _ h => congrArg Prod.snd (radd_eq h)

end Sys2Proof.Machine

/-! ### The least and the greatest number (R191) -/

namespace Sys2Proof.Machine

variable {p : Panel} {ms : List Thread} {a d m : BitVec 8}

/-- The place of a word among numbers: the lowest is the one that is taken. -/
def rank32 (maxi : Bool) (x : Word) : Int := if maxi then -order32 x else order32 x

/-- Of two numbers the one that is taken. -/
def nearer (maxi : Bool) (x y : Word) : Word := if rank32 maxi x ≤ rank32 maxi y then x else y

/-- The infinity that the reduction starts from. -/
def farthest (maxi : Bool) : Word := if maxi then 0xFF800000 else 0x7F800000

theorem rank32_inj {maxi : Bool} {x y : Word} (h : rank32 maxi x = rank32 maxi y) : x = y := by
  refine order32_inj ?_
  cases maxi
  · exact h
  · exact neg_inj.mp h

/-- No number lies beyond the infinities. -/
theorem rank32_le_farthest (maxi : Bool) {x : Word} (hx : nan32 x = false) : rank32 maxi x ≤ rank32 maxi (farthest maxi) := by
  have hmag : fp32.mag x.toNat ≤ 0x7F800000 := by
    have he := fp32.expOf_lt x.toNat
    have hf := fp32.manOf_lt x.toNat
    rw [FFmt.mag_eq]
    rw [← nanCode_fp32, FFmt.nanCode, Bool.and_eq_false_iff, beq_eq_false_iff_ne, bne_eq_false_iff_eq] at hx
    simp only [fp32] at he hf hx ⊢
    omega
  have horder : -(0x7F800000 : Int) - 1 ≤ order32 x ∧ order32 x ≤ 0x7F800000 := by
    rw [← order_fp32, FFmt.order]
    split <;> omega
  have hlo : order32 0xFF800000 = -0x7F800000 - 1 := by decide
  have hhi : order32 0x7F800000 = 0x7F800000 := by decide
  cases maxi
  · exact horder.2.trans hhi.ge
  · exact neg_le_neg (hlo.le.trans horder.1)

theorem nearer_cases (maxi : Bool) (x y : Word) :
    (nearer maxi x y = x ∧ rank32 maxi x ≤ rank32 maxi y) ∨ (nearer maxi x y = y ∧ rank32 maxi y ≤ rank32 maxi x) := by
  unfold nearer
  split
  · next h => exact .inl ⟨rfl, h⟩
  · next h => exact .inr ⟨rfl, by omega⟩

theorem minmax_numbers (maxi : Bool) {x y : Word} (hx : nan32 x = false) (hy : nan32 y = false) :
    (fp32.minmax maxi false x.toNat y.toNat).1 = (nearer maxi x y).toNat := by
  rw [minmax_fp32, pick32, hx, hy, nearer]
  cases maxi <;> simp [rank32]

/-- The reduction takes one of its words, and none stands before it. -/
theorem foldl_nearer (maxi : Bool) : ∀ (xs : List Word) (x : Word), xs.foldl (nearer maxi) x ∈ x :: xs ∧
    ∀ y ∈ x :: xs, rank32 maxi (xs.foldl (nearer maxi) x) ≤ rank32 maxi y
  | [], x => by simp
  | z :: xs, x => by
    obtain ⟨hmem, hle⟩ := foldl_nearer maxi xs (nearer maxi x z)
    have hstart := hle _ List.mem_cons_self
    rw [List.foldl_cons]
    generalize xs.foldl (nearer maxi) (nearer maxi x z) = r at hmem hle hstart ⊢
    have hrest : ∀ y ∈ xs, rank32 maxi r ≤ rank32 maxi y := fun y hy => hle y (List.mem_cons_of_mem _ hy)
    simp only [List.mem_cons, forall_eq_or_imp] at hmem ⊢
    rcases nearer_cases maxi x z with ⟨he, hxz⟩ | ⟨he, hzx⟩
    · rw [he] at hmem hstart
      exact ⟨hmem.imp_right .inr, hstart, hstart.trans hxz, hrest⟩
    · rw [he] at hmem hstart
      exact ⟨.inr hmem, hstart.trans hzx, hstart, hrest⟩

theorem foldl_minmax (maxi : Bool) : ∀ {xs : List Word} {x : Word}, nan32 x = false → (∀ y ∈ xs, nan32 y = false) →
    (xs.map BitVec.toNat).foldl (fun acc x => (fp32.minmax maxi false acc x).1) x.toNat = (xs.foldl (nearer maxi) x).toNat
  | [], _, _, _ => rfl
  | z :: xs, x, hx, hxs => by
    obtain ⟨hz, hrest⟩ := List.forall_mem_cons.mp hxs
    rw [List.map_cons, List.foldl_cons, List.foldl_cons, minmax_numbers maxi hx hz]
    refine foldl_minmax maxi ?_ hrest
    rcases nearer_cases maxi x z with ⟨he, -⟩ | ⟨he, -⟩ <;> rwa [he]

/-- From the infinity on, the reduction finds the number that none stands before. -/
theorem firstNumber_eq (maxi : Bool) {before : Int → Int → Bool}
    (hbefore : ∀ x y : Word, before (order32 x) (order32 y) = decide (rank32 maxi x < rank32 maxi y)) {xs : List Word}
    (hne : xs.filter (fun x => !nan32 x) ≠ []) :
    firstNumber before xs = (xs.filter fun x => !nan32 x).foldl (nearer maxi) (farthest maxi) := by
  have hnum : ∀ y ∈ xs.filter (fun x => !nan32 x), nan32 y = false := fun y hy => by simpa using (List.mem_filter.mp hy).2
  unfold firstNumber
  dsimp only
  generalize xs.filter (fun x => !nan32 x) = nums at hne hnum ⊢
  obtain ⟨hmem, hle⟩ := foldl_nearer maxi nums (farthest maxi)
  generalize nums.foldl (nearer maxi) (farthest maxi) = r at hmem hle ⊢
  have hr : r ∈ nums := by
    rcases List.mem_cons.mp hmem with rfl | h
    · obtain ⟨y, hy⟩ := List.exists_mem_of_ne_nil nums hne
      have hyr : y = farthest maxi :=
        rank32_inj (Int.le_antisymm (rank32_le_farthest maxi (hnum y hy)) (hle y (List.mem_cons_of_mem _ hy)))
      exact hyr ▸ hy
    · exact h
  have hfind : (nums.find? fun x => nums.all fun y => !before (order32 y) (order32 x)) = some r := by
    refine find?_eq_of_unique hr ?_ fun y hy hq => rank32_inj (Int.le_antisymm ?_ (hle y (List.mem_cons_of_mem _ hy)))
    · simp only [List.all_eq_true, hbefore, Bool.not_eq_true', decide_eq_false_iff_not, not_lt]
      exact fun y hy => hle y (List.mem_cons_of_mem _ hy)
    · simp only [List.all_eq_true, hbefore, Bool.not_eq_true', decide_eq_false_iff_not, not_lt] at hq
      exact hq r hr
  rw [hfind]
  rfl

/-- RMIN.f32 and RMAX.f32 over words (R191). -/
theorem rminmaxF_words (maxi : Bool) {before : Int → Int → Bool}
    (hbefore : ∀ x y : Word, before (order32 x) (order32 y) = decide (rank32 maxi x < rank32 maxi y)) {hs : List Half} {xs : List Word}
    (ha : (everyone hs).map (·.a) = xs.map BitVec.toNat) :
    (rminmaxF maxi hs).2 = signalled xs ∧ (xs ≠ [] → ∀ h j, (rminmaxF maxi hs).1 h j = (firstNumber before xs).toNat) := by
  have hnums : (xs.map BitVec.toNat).filter (fun x => !(fp32.val x).isNan) = (xs.filter fun x => !nan32 x).map BitVec.toNat := by
    rw [List.filter_map]
    exact congrArg _ (List.filter_congr fun x _ => congrArg (!·) (isNan32_eq x))
  unfold rminmaxF
  rw [ha]
  dsimp only
  rw [hnums]
  constructor
  · rw [List.any_map, signalled, flagIf]
    simp only [Function.comp_def, sig32_eq]
  · intro hne h j
    by_cases hnil : xs.filter (fun x => !nan32 x) = []
    · have hxs : (xs.map BitVec.toNat).isEmpty = false := by simpa using hne
      simp only [hnil, hxs, firstNumber, List.map_nil, List.isEmpty_nil, Bool.not_false, Bool.and_self, if_true]
      rfl
    · have hempty : ((xs.filter fun x => !nan32 x).map BitVec.toNat).isEmpty = false := by
        rw [List.isEmpty_map]
        simpa using hnil
      have hstart : fp32.signBit maxi + fp32.infBits = (farthest maxi).toNat := by cases maxi <;> rfl
      have hfar : nan32 (farthest maxi) = false := by cases maxi <;> decide
      rw [if_neg (by simp [hempty]), hstart, firstNumber_eq maxi hbefore hnil]
      exact foldl_minmax maxi hfar fun y hy => by simpa using (List.mem_filter.mp hy).2

/-- A float minimum or maximum over the members. -/
theorem rminmax_folds {i : Instr} (maxi : Bool) {before : Int → Int → Bool} (hi : i.collective = some (m, fun _ => true))
    (hexec : ∀ s, exec i s = collective i m (fun _ => true) (rminmaxF maxi) s) (hsrc : ReadsWord i a)
    (hbefore : ∀ x y : Word, before (order32 x) (order32 y) = decide (rank32 maxi x < rank32 maxi y)) :
    Folds i m (fun p ms => (firstNumber before (ms.map fun u => u.src32 p a 2)).toNat)
      fun p ms => signalled (ms.map fun u => u.src32 p a 2) := by
  have hwords {p : Panel} {ms : List Thread} (h : Choir i p ms) :
      (everyone [choirHalf i p ms]).map (·.a) = (ms.map fun u => u.src32 p a 2).map BitVec.toNat := by
    rw [h.map_a hsrc, List.map_map]
    rfl
  refine folds_of_value hi hexec (fun p ms h t ht => ?_) fun p ms h => (rminmaxF_words maxi hbefore (hwords h)).1
  exact (rminmaxF_words maxi hbefore (hwords h)).2 (fun hn => by simp [List.map_eq_nil_iff.mp hn] at ht) _ _

end Sys2Proof.Machine

namespace Sys2Proof

open Machine

/-- Settles O41: the members of a seam that is not paired are its speaking threads, each with its lane and its A, and each word's
value is a function of these. -/
theorem collectiveResults : Obligations.CollectiveResults := by
  unfold Obligations.CollectiveResults
  refine ⟨fun d a m => vote_voices, fun d a m => ballot_voices, fun d a m => ?_, fun d a m => ?_, fun d a m => ?_,
    fun d a m => scan_voices, fun d m => laneid_voices, fun d a m => shfl_voices, fun d a m => shflx_voices,
    fun d a m => bcst_voices, fun d a m => rminx_voices, fun d a m => match_voices, fun d a m => radd_folds, fun d a m => ?_,
    fun d a m => ?_⟩
  · exact voices_of rfl exec_raddS32 (fun _ => rfl) fun p ms h t _ =>
      congrArg (fun xs : List Nat => xs.sum % 2 ^ 32) (h.map_a fun _ => rfl)
  · refine voices_of rfl exec_rminN32 (fun _ => rfl) fun p ms h t _ => ?_
    rw [show (2 ^ 32 - 1 : Nat) = 0xFFFFFFFF from rfl]
    exact congrArg (fun xs : List Nat => xs.foldl min 0xFFFFFFFF) (h.map_a fun _ => rfl)
  · exact voices_of rfl exec_rmaxN32 (fun _ => rfl) fun p ms h t _ =>
      congrArg (fun xs : List Nat => xs.foldl max 0) (h.map_a fun _ => rfl)
  · exact rminmax_folds false rfl exec_rminF32 (fun _ => rfl) fun x y => rfl
  · exact rminmax_folds true rfl exec_rmaxF32 (fun _ => rfl) fun x y => by simp [rank32]

end Sys2Proof
